-- ==== Sys2Proof/Word.lean ====
section
/-! DEFINITION. Words, bytes and their plainest arithmetic (R5, R10, R62). -/

namespace Sys2Proof

/-- A general register, an address or a doubleword. -/
abbrev Word := BitVec 64
/-- One lane of an accumulator, or one FP32 encoding. -/
abbrev Lane := BitVec 32
/-- One byte of memory. -/
abbrev Byte := BitVec 8

/-- General register number g0 to g31 (R37). -/
abbrev GReg := BitVec 5
/-- Pointer register number p0 to p7 (R37). -/
abbrev PReg := BitVec 3
/-- Accumulator number a0 to a7 (R37). -/
abbrev AReg := BitVec 3
/-- Mask register number m0 to m7 (R37). -/
abbrev MReg := BitVec 3
/-- Predicate number q0 to q7 (R37). -/
abbrev QReg := BitVec 3
/-- Token number t0 to t7 (R38). -/
abbrev Tok := BitVec 3
/-- Tile accumulator number x0 to x3 (R38). -/
abbrev TileNo := BitVec 2

end Sys2Proof
end

