-- ==== Sys2Proof/Syntax.lean ====
section
/-! DEFINITION. The syntax: operand forms, the data that device events carry, and the ONE inductive `Instr`, with one
constructor for each row of spec/opcode_table.json (R70, R94 and 95_what_each_step_holds.md). -/

namespace Sys2Proof

/-! ## Fields common to all instructions -/

/-- R63: the fields of the base word that every instruction has besides LEN and OP: SW, the guard, WT. -/
structure Mods where
  sw : Bool
  gq : QReg
  gn : Bool
  wt : BitVec 2
  deriving DecidableEq, Repr, Inhabited

/-- R73: the second source of a scalar instruction: SB, or IMM32 in the 96-bit form. -/
inductive Src where
  | reg (r : GReg)
  | imm (v : BitVec 32)
  deriving DecidableEq, Repr, Inhabited

/-- R131: a vector source slot *a or p*. -/
inductive VSrc where
  | a (r : AReg)
  | p (r : PReg)
  deriving DecidableEq, Repr, Inhabited

/-- R117: the offset of a memory operand. -/
inductive MemOff where
  | off (o : BitVec 10)
  | idx (gb : GReg) (sh : BitVec 2)
  | imm (v : BitVec 32)
  deriving DecidableEq, Repr, Inhabited

/-- R99: the two forms of LEA. -/
inductive LeaOff where
  | idx (gb : GReg) (sh : BitVec 2)
  | imm (v : BitVec 32)
  deriving DecidableEq, Repr, Inhabited

/-- R107: OFFW in FN (64-bit form) or in IMM32 (96-bit form). -/
inductive BrOff where
  | short (o : BitVec 23)
  | long (o : BitVec 32)
  deriving DecidableEq, Repr, Inhabited

/-- R73: the immediate of MOVI, and of the 128-bit PSET (R134). -/
inductive MoviImm where
  | w32 (v : BitVec 32)
  | w64 (v : BitVec 64)
  deriving DecidableEq, Repr, Inhabited

/-- R74: the ignored extension of NOP. -/
inductive NopExt where
  | none
  | imm (v : BitVec 32)
  | ext (v : BitVec 64)
  deriving DecidableEq, Repr, Inhabited

/-- R134: the source of PSET. -/
inductive PsetSrc where
  | reg (r : GReg)
  | imm (v : BitVec 64)
  deriving DecidableEq, Repr, Inhabited

/-- R153: the destination of GVOTE, which fixes fn: ANY 0, ALL 1, BALLOT 2. -/
inductive VoteDst where
  | any (q : QReg)
  | all (q : QReg)
  | ballot (g : GReg)
  deriving DecidableEq, Repr, Inhabited

/-- R162: the shape in EXT64 of the 128-bit MXLDX and MXDRN. -/
structure Shape where
  stride : BitVec 32
  rowsM1 : BitVec 6
  colsM1 : BitVec 6
  deriving DecidableEq, Repr, Inhabited

/-- R174: the length of CPY: IMM32, or EXT64[39:0]. -/
inductive CpyLen where
  | imm (v : BitVec 32)
  | ext (v : BitVec 40)
  deriving DecidableEq, Repr, Inhabited

/-- R174: the strides of CPY2D. -/
inductive CpyStride where
  | both (v : BitVec 32)
  | two (dst src : BitVec 32)
  deriving DecidableEq, Repr, Inhabited

/-- R167: FN fields of CPY and CPY2D. -/
structure CpyMode where
  tok : Option Tok
  rd  : Bool
  rop : BitVec 4
  fmt : BitVec 4
  det : Bool
  deriving DecidableEq, Repr, Inhabited

/-- R182: the token id of DISP. -/
inductive DispTok where
  | reg (g : GReg)
  | imm (v : BitVec 16)
  deriving DecidableEq, Repr, Inhabited

/-- R219: the timeout of CTWAIT. -/
inductive CtTime where
  | reg (g : GReg)
  | imm (v : BitVec 64)
  deriving DecidableEq, Repr, Inhabited

/-! ## Data carried by device events -/

/-- A task context of this package: die, core within the die, slot T0 to T3 (R1, R42). -/
structure CtxId where
  die  : BitVec 2
  core : BitVec 8
  slot : BitVec 2
  deriving DecidableEq, Repr, Inhabited

/-- A core of this package. -/
structure CoreId where
  die  : BitVec 2
  core : BitVec 8
  deriving DecidableEq, Repr, Inhabited

def CtxId.coreId (c : CtxId) : CoreId := ⟨c.die, c.core⟩

/-- R192: one entry of a residency list: a tile descriptor and the tile's base. -/
structure ResEntry where
  desc : BitVec 128
  base : Word
  deriving DecidableEq, Repr, Inhabited

/-- R232: the sender of an invocation. -/
inductive Sender where
  | inv (pkg : BitVec 12) (id : Nat)
  | rennet (pkg : BitVec 12) (die : BitVec 2)
  | queue (pkg : BitVec 12) (q : Nat)
  deriving DecidableEq, Repr, Inhabited

/-- R353, R356: the launch that an invocation belongs to: package, queue and SEQ. -/
structure LaunchId where
  pkg : BitVec 12
  q   : BitVec 13
  seq : BitVec 32
  deriving DecidableEq, Repr, Inhabited

/-- R196, R249, R359: a release whose accesses are not acknowledged: an invocation of a package, the number before which its accesses
were issued, whether loads count, and the packages that home memory it has accessed. Data of messages (log entry 29). -/
structure FlushTok where
  pkg   : BitVec 12
  inv   : Nat
  wm    : Nat
  loads : Bool
  owed  : List (BitVec 12)
  deriving DecidableEq, Repr, Inhabited

/-- R226, R227: an invocation with its stamps (R193). `sentTo` is the name written in the target operand (R232); `target` is
the name it is being forwarded to; `order` numbers the invocations of its sender. -/
structure Inv where
  id        : Nat
  ph        : Word
  target    : Word
  sentTo    : Word
  method    : BitVec 8
  args      : List Word
  resolve   : Bool
  gang      : BitVec 2
  region    : Word
  prio      : BitVec 4
  ceil      : BitVec 4
  deadline  : BitVec 48
  seed      : Word
  lnum      : Word
  pctx      : BitVec 12
  launch    : LaunchId
  sender    : Sender
  order     : Nat
  residency : List ResEntry
  arrival   : Nat
  /-- R249: the releases that its start acquires. -/
  toks      : List FlushTok
  deriving DecidableEq, Repr, Inhabited

/-- R198: the state of a promise. -/
inductive PState where
  | pending
  | value (bytes : List Byte)
  | name (n : Word)
  | broken (cause : BitVec 8) (origin : Word)
  deriving DecidableEq, Repr, Inhabited

/-- R210: a context as a member of phasers: its package, its invocation, and its place in the gang it was started in. It
keeps them through pre-emption. -/
structure Party where
  pkg  : BitVec 12
  inv  : Nat
  lane : BitVec 3
  deriving DecidableEq, Repr, Inhabited

/-- A question that an instruction puts to an agent of another package, whose answer is a value (R198, R218, R221, R223,
R210 to R214, R191): HTEST, CTRD, TRPOST, TRCAN, the phaser operations, the test of a wait condition, a grant of a promise
slot. The manual gives these requests no packet layout; they are carried as data (log entry 13). -/
inductive Query where
  | htest (ph : Word) (fn : BitVec 2)
  | ctrd (c : Word)
  | trpost (desc : List Word) (region : Word) (pctx : BitVec 12) (prio ceil : BitVec 4) (seed : Word) (launch : LaunchId)
  | trcan (id : Word) (launch : LaunchId)
  | phreg (id : Word) (who : Party) (mode : BitVec 2) (region : Word)
  | phdrop (id : Word) (who : Party)
  | pharr (id : Word) (who : Party)
  /-- R113, R214: a member has gone into debug halt, or has left it. -/
  | phhalt (id : Word) (who : Party) (on : Bool)
  /-- R219, R310: a wait registers; a wait that is over is withdrawn. -/
  | ctwait (c : Word) (thr : BitVec 48)
  | unwait (req : Nat)
  /-- the phase to wait for (none) and its state, or the state of a phase. -/
  | phase (id : Word) (who : Party) (k : Option Nat)
  | grant (die : BitVec 2)
  /-- R231: whether an object takes the place of an argument: 0, or the cause of a break. -/
  | oref (n : Word)
  /-- R361: leave to start an invocation of a region whose block lies elsewhere; `first` is what the dispatcher asked for. -/
  | start (pctx : BitVec 12) (region : Word) (first : BitVec 12 × Word)
  /-- R361: the effective PRIO of a region whose block lies elsewhere. -/
  | prio (pctx : BitVec 12) (region : Word)
  /-- R359: whether the accesses of a release to the asking package are acknowledged. -/
  | flush (inv wm : Nat) (loads : Bool)
  deriving DecidableEq, Repr, Inhabited

/-- R230, R245: promise traffic. The manual gives PRM no field layout; the message is carried as data (log entry 13). -/
inductive PrmMsg where
  | ask (src : CtxId) (pkg : BitVec 12) (req : Nat) (q : Query)
  | answer (src : CtxId) (req : Nat) (val aux : Word)
  | resolve (ph : Word) (st : PState) (core : CoreId) (pkg : BitVec 12) (toks : List FlushTok)
  | hbrk (ph : Word) (cause : BitVec 8)
  | hfree (ph : Word)
  /-- R191: unused slots of a grant are given back. -/
  | giveBack (names : List Word)
  | register (ph : Word) (die : BitVec 2)
  | report (ph : Word) (st : PState) (confirmed : Bool) (toks : List FlushTok)
  | confirm (ph : Word)
  /-- R200: the chain that a promise is to resolve to is followed on from a name; whether it comes back to the promise. -/
  | chase (ph at_ : Word)
  | chased (ph : Word) (cycle : Bool)
  /-- R358: the root promise of a launch, which its queue's die holds. -/
  | root (l : LaunchId) (st : PState)
  /-- R361: a region whose block lies elsewhere: a change of RUN, time charged, the end of an invocation. -/
  | account (pctx : BitVec 12) (region run ns : Word) (ended : Bool)
  /-- R361: leave to start an invocation. -/
  | leave (inv : Nat) (pctx : BitVec 12) (first : BitVec 12 × Word)
  /-- R361, R364, R422: a record for the error log or the status queue that a block supplies. -/
  | record (pctx : BitVec 12) (region : Word) (elog : Bool) (b : List Byte)
  /-- R208: the inherited region of an invocation that has unwound: CLASS, FVA and FINFO. -/
  | unwound (pctx : BitVec 12) (region : Word) (cls : BitVec 8) (va info : Word)
  /-- R429, R420: a region fails with FCODE 17. -/
  | fail (pctx : BitVec 12) (region : Word) (scan : Bool)
  /-- R207: regions that have failed with region b. -/
  | failed (pctx : BitVec 12) (regions : List Word) (b : Word) (code : BitVec 8) (scan : Bool)
  /-- R319: regions whose entries are removed. -/
  | dropped (pctx : BitVec 12) (regions : List Word)
  /-- R304: a decode fault of a block that a die of the package has sent for the collective of a slot. -/
  | decf (die : BitVec 2) (cslot : BitVec 16)
  /-- R346: a row of an invocation whose landing proved unrecoverable. -/
  | rowLost (inv : Nat) (va : Word)
  /-- R358: step 1, 2 or 3 of the retirement of a launch; the answer tells how many invocations it discarded or ended. -/
  | retire (l : LaunchId) (step : Nat)
  | retired (l : LaunchId) (n : Nat)
  | odel (name : Word)
  | omove (name near : Word)
  deriving DecidableEq, Repr, Inhabited

/-- R261: a remote load, store, atomic or reduction: the operands that its packet carries. -/
structure MemReq where
  va     : Word
  sz     : BitVec 2
  opc    : BitVec 4
  opnd   : Word
  swp    : Word
  pctx   : BitVec 12
  user   : Bool
  poison : Bool
  src    : CtxId
  inv    : Nat
  region : Word
  ph     : Word
  deriving DecidableEq, Repr, Inhabited

/-- R323 to R329: what a data packet of a collective carries: the collective (group and number, R321), the block and the chunk
within it, the source rank, and whether the data are a final value. -/
structure CollTag where
  group : BitVec 16
  k     : Nat
  b     : Nat
  i     : Nat
  rank  : Nat
  final : Bool
  deriving DecidableEq, Repr, Inhabited

/-- R177, R329: one ordered contribution at the die of its landing counter; also any data of a collective. `copy` is the local
copy operation it belongs to. -/
structure Contrib where
  die   : BitVec 2
  idx   : BitVec 16
  exp   : BitVec 32
  det   : Bool
  dst   : Word
  pctx  : BitVec 12
  rop   : BitVec 4
  fmt   : BitVec 4
  bytes : List Byte
  /-- bytes of a destination row and the distance between rows (R174). -/
  rowb  : Nat
  dstr  : Int
  copy  : Option Nat
  coll  : Option CollTag
  launch : LaunchId
  deriving DecidableEq, Repr, Inhabited

/-- R337 to R341: a dispatch row. -/
structure Row where
  header : Word
  lb     : Word
  rowb   : BitVec 16
  dlseq  : BitVec 32
  didx   : BitVec 4
  dlast  : Bool
  redir  : Bool
  bytes  : List Byte
  pctx   : BitVec 12
  sender : Nat
  region : Word
  ph     : Word
  /-- the dispatching invocation. -/
  inv    : Nat
  deriving DecidableEq, Repr, Inhabited

/-- R301: one component descriptor of a coded packet. -/
structure Component where
  bid    : BitVec 48
  dpkg   : BitVec 12
  ddie   : BitVec 2
  daddr  : Word
  cidx   : BitVec 16
  hg     : List (BitVec 16)
  spkg   : BitVec 12
  sdie   : BitVec 2
  cslot  : BitVec 16
  strict : Bool
  /-- MODEL: the protection context of the destination address, and the bytes of the block that are its chunk's (log entry 111). -/
  pctx   : BitVec 12
  len    : Nat
  deriving DecidableEq, Repr, Inhabited

/-- The type-specific part of a packet (TSPEC and the data flits), decoded (R281 to R286, R293, R301, R339, R342). -/
inductive Payload where
  | none
  | bytes (b : List Byte)
  | inv (i : Inv)
  | prm (m : PrmMsg)
  | mem (r : MemReq)
  /-- R286: with ASEQ, PSEQ, FSEQ and the reason, as in an acknowledgement. -/
  | reply (src : CtxId) (inv : Nat) (reqSeq : BitVec 32) (val : Word) (poison ok : Bool) (aseq pseq : BitVec 32) (fseq : Option (BitVec 32)) (info : Word)
  /-- R286; `info` says why the access of FSEQ failed: FLTINFO of the home walk, or 0 (an uncorrectable error found by the read)
  or 1 (that error, with poison written back). The manual carries no such field (log entry 13). -/
  | ack (aseq pseq : BitVec 32) (fseq : Option (BitVec 32)) (info : Word)
  /-- R323: the ready message of a rank, with the address of its DST, its first landing counter index and its protection context, from
  which the sender of a block packet has ADDR and CIDX (R293; log entry 110). -/
  | ready (group : BitVec 16) (k rank nrank : Nat) (dst : Word) (land : BitVec 16) (pctx : BitVec 12)
  | abort (group : BitVec 16) (k : Nat) (err : BitVec 8)
  | contrib (c : Contrib)
  | copyData (copy : Nat) (off : Nat) (pctx : BitVec 12) (rd : Bool) (rop fmt : BitVec 4) (b : List Byte)
  | readReq (copy : Nat) (off len : Nat) (pctx : BitVec 12)
  | row (r : Row)
  | answer (res : BitVec 2) (dlseq : BitVec 32) (didx : BitVec 4) (redir : Bool) (slot : BitVec 13)
  | collBack (defer resume : Bool) (chunk : Nat) (cslot : BitVec 16) (group : BitVec 16) (k : Nat) (seq : BitVec 32)
  /-- R293. MODEL: the protection context of ADDR, and the coded packet and component from which the block was decoded (R303). -/
  | block (bid : BitVec 48) (rgen : BitVec 16) (ret strict : Bool) (cidx cslot : BitVec 16) (pctx : BitVec 12) (coded : Option (BitVec 32 × Nat))
      (b : List Byte)
  /-- R301. MODEL: the components whose receivers this copy of the packet is on its way to (R285). -/
  | coded (cseq : BitVec 32) (comps : List Component) (goes : List Nat) (b : List Byte)
  | dack (cseq : BitVec 32) (comp : Nat)
  /-- R307: the release of a block that has reached a die. -/
  | bid (b : BitVec 48) (rpkg : BitVec 12) (rdie : BitVec 2)
  | notice (rpkg : BitVec 12) (rdie : BitVec 2) (first : BitVec 48) (n : Nat) (gen : BitVec 16)
  deriving DecidableEq, Repr, Inhabited

/-- R281: the header flit fields and the payload of a packet. -/
structure Packet where
  type    : BitVec 8
  vch     : BitVec 2
  fh      : BitVec 2
  ndf     : BitVec 7
  dpkg    : BitVec 12
  ddie    : BitVec 2
  dep     : BitVec 8
  spkg    : BitVec 12
  sdie    : BitVec 2
  score   : BitVec 8
  sag     : BitVec 4
  seq     : BitVec 32
  addr    : Word
  aux     : Word
  plen    : BitVec 13
  payload : Payload
  /-- R281: CODED, and XC, which only a packet on a link bears. -/
  coded   : Bool
  xc      : Bool
  /-- R283: the hop level at which it travels, or arrived. -/
  hlv     : BitVec 2
  /-- MODEL: the port at which it entered this package. -/
  via     : BitVec 6
  deriving DecidableEq, Repr, Inhabited

/-- R278: one flit with its sideband. -/
structure Flit where
  data : BitVec 512
  lseq : BitVec 12
  lack : BitVec 12
  vch  : BitVec 2
  hlv  : BitVec 2
  sop  : Bool
  nak  : Bool
  rsv  : BitVec 2
  crc  : BitVec 32
  deriving DecidableEq, Repr, Inhabited

/-- R410: one sample-row-data segment of an ST 2110-20 packet. -/
structure Srd where
  row   : BitVec 16
  off   : BitVec 16
  field : Bool
  bytes : List Byte
  deriving DecidableEq, Repr, Inhabited

/-- R408, R411: an RTP packet as the port's engine sees it. `path` is 0 for A, 1 for B. -/
structure MediaPkt where
  port   : BitVec 2
  dst    : BitVec 32
  udp    : BitVec 16
  srcIp  : BitVec 32
  extSeq : BitVec 32
  rtpTs  : BitVec 32
  marker : Bool
  srds   : List Srd
  bytes  : List Byte
  whole  : List Byte
  first  : Word
  deriving DecidableEq, Repr, Inhabited

/-- R406: the way a received frame is handled, in order. -/
inductive FrameKind where
  | ptp (offset : Int)
  | media (p : MediaPkt)
  | other
  deriving DecidableEq, Repr

/-- R406, R407: a received Ethernet frame without FCS. -/
structure Frame where
  bytes : List Byte
  fcsOk : Bool
  first : Word
  kind  : FrameKind
  deriving DecidableEq, Repr

/-- R434: one repair-log entry (TAG apart). -/
structure Repair where
  kind   : BitVec 8
  die    : BitVec 2
  unit   : BitVec 8
  detail : Word
  time   : Word
  deriving DecidableEq, Repr, Inhabited

/-- R443: the configuration record. -/
structure ConfigRecord where
  magic   : BitVec 32
  version : BitVec 16
  minfw   : BitVec 16
  serial  : BitVec 128
  policy  : BitVec 8
  rsv     : BitVec 280
  repairs : List Repair
  bytes   : List Byte
  deriving DecidableEq, Repr, Inhabited

/-- R443: a firmware image: its header fields and its bytes, signature included. -/
structure FwImage where
  svn   : BitVec 16
  rsvOk : Bool
  bytes : List Byte
  deriving DecidableEq, Repr, Inhabited

/-- R439: what the steps of a start find in the hardware. -/
structure StartTests where
  selfTest : Bool
  /-- R435: the first repair-log entry whose tag fails. -/
  badTag   : Option Nat
  pufOk    : Bool
  hbmOk    : Bool
  badWays  : List (BitVec 2 × BitVec 8 × Nat)
  badCores : List CoreId
  deadLinks : List (BitVec 6)
  /-- R448: an alarm that fires at a step: the step, the trigger and the reading. -/
  alarm     : Option (BitVec 4 × BitVec 2 × BitVec 64)
  deriving DecidableEq, Repr, Inhabited

/-- R441: what began a warm start. -/
inductive WarmCause where
  | rstreq | watchdog | fabricManager
  deriving DecidableEq, Repr

/-- R415, R437: where an error is found. -/
inductive ErrSite where
  | coreState (c : CtxId) (item : BitVec 16) (index : BitVec 16)
  | l1 (c : CoreId) (pa : Nat)
  | stash (c : CoreId) (addr : Nat)
  | l2 (slice : CoreId) (way : Nat) (pa : Nat)
  | hbm (pa : Nat)
  | counter (die : BitVec 2) (idx : BitVec 16)
  | rennet (die : BitVec 2) (idx : BitVec 14)
  | promise (ph : Word)
  | objectEntry (name : Word)
  | sideInfo (die : BitVec 2) (bid : BitVec 48)
  /-- an entry of an invocation store, or an invocation frame. -/
  | invocation (id : Nat)
  deriving DecidableEq, Repr

/-- R432: what fails in a link. -/
inductive LinkFailure where
  | portDown (l : BitVec 6)
  | lane (l : BitVec 6) (mask : BitVec 4)
  | dieLink (l : BitVec 6)
  | ethernet (e : BitVec 2)
  deriving DecidableEq, Repr

/-- R444: a key-slot request, unwrapped. -/
structure KeyRequest where
  wrapped : List Byte
  slot    : BitVec 8
  install : Bool
  deriving DecidableEq, Repr, Inhabited

/-- R442: what the host writes to flash in recovery. -/
inductive FlashWrite where
  | controller (i : FwImage)
  | device (i : FwImage)
  | record (r : ConfigRecord)
  deriving DecidableEq, Repr

end Sys2Proof

namespace Sys2Proof

/-- One constructor for each row of the opcode table, the instructions in the table's order, whose first argument holds
the common fields, and then the device events. -/
inductive Instr where
  /-- R74. -/
  | nop (m : Mods) (ext : NopExt)
  /-- R96. -/
  | add (m : Mods) (gd ga : GReg) (y : Src) (w : Bool)
  /-- R96. -/
  | sub (m : Mods) (gd ga : GReg) (y : Src) (w : Bool)
  /-- R96. -/
  | and (m : Mods) (gd ga : GReg) (y : Src) (w : Bool)
  /-- R96. -/
  | or (m : Mods) (gd ga : GReg) (y : Src) (w : Bool)
  /-- R96. -/
  | xor (m : Mods) (gd ga : GReg) (y : Src) (w : Bool)
  /-- R96. -/
  | andn (m : Mods) (gd ga : GReg) (y : Src) (w : Bool)
  /-- R96. -/
  | shl (m : Mods) (gd ga : GReg) (y : Src) (w : Bool)
  /-- R96. -/
  | shr (m : Mods) (gd ga : GReg) (y : Src) (w : Bool)
  /-- R96. -/
  | sar (m : Mods) (gd ga : GReg) (y : Src) (w : Bool)
  /-- R96. -/
  | rot (m : Mods) (gd ga : GReg) (y : Src) (w : Bool)
  /-- R96. -/
  | min (m : Mods) (gd ga : GReg) (y : Src) (w : Bool)
  /-- R96. -/
  | max (m : Mods) (gd ga : GReg) (y : Src) (w : Bool)
  /-- R96. -/
  | minu (m : Mods) (gd ga : GReg) (y : Src) (w : Bool)
  /-- R96. -/
  | maxu (m : Mods) (gd ga : GReg) (y : Src) (w : Bool)
  /-- R24. -/
  | adds (m : Mods) (gd ga : GReg) (y : Src) (w : Bool)
  /-- R24. -/
  | subs (m : Mods) (gd ga : GReg) (y : Src) (w : Bool)
  /-- R96. -/
  | mul (m : Mods) (gd ga : GReg) (y : Src) (w : Bool)
  /-- R96. -/
  | mulh (m : Mods) (gd ga : GReg) (y : Src)
  /-- R96. -/
  | mulhu (m : Mods) (gd ga : GReg) (y : Src)
  /-- R23. -/
  | div (m : Mods) (gd ga : GReg) (y : Src) (w : Bool)
  /-- R23. -/
  | divu (m : Mods) (gd ga : GReg) (y : Src) (w : Bool)
  /-- R23. -/
  | rem (m : Mods) (gd ga : GReg) (y : Src) (w : Bool)
  /-- R23. -/
  | remu (m : Mods) (gd ga : GReg) (y : Src) (w : Bool)
  /-- R97. -/
  | clz (m : Mods) (gd ga : GReg) (w : Bool)
  /-- R97. -/
  | ctz (m : Mods) (gd ga : GReg) (w : Bool)
  /-- R97. -/
  | popc (m : Mods) (gd ga : GReg) (w : Bool)
  /-- R97. -/
  | brev (m : Mods) (gd ga : GReg) (w : Bool)
  /-- R98. -/
  | extr (m : Mods) (gd ga : GReg) (pos wm : BitVec 6)
  /-- R98. -/
  | insr (m : Mods) (gd ga gb : GReg) (pos wm : BitVec 6)
  /-- R98. -/
  | sext (m : Mods) (gd ga : GReg) (wm : BitVec 6)
  /-- R98. -/
  | zext (m : Mods) (gd ga : GReg) (wm : BitVec 6)
  /-- R99. -/
  | lea (m : Mods) (gd ga : GReg) (off : LeaOff)
  /-- R73. -/
  | movi (m : Mods) (gd : GReg) (v : MoviImm)
  /-- R100. -/
  | cmp (m : Mods) (qd : QReg) (ga : GReg) (y : Src) (w : Bool) (cond : BitVec 4)
  /-- R101. -/
  | csel (m : Mods) (gd : GReg) (qc : QReg) (ga gb : GReg)
  /-- R102. -/
  | qop (m : Mods) (qd qa qb : QReg) (tt : BitVec 4)
  /-- R103. -/
  | fadd (m : Mods) (gd ga gb : GReg) (rm : BitVec 3)
  /-- R103. -/
  | fsub (m : Mods) (gd ga gb : GReg) (rm : BitVec 3)
  /-- R103. -/
  | fmul (m : Mods) (gd ga gb : GReg) (rm : BitVec 3)
  /-- R103. -/
  | ffma (m : Mods) (gd ga gb gc : GReg) (rm : BitVec 3)
  /-- R15. -/
  | fmin (m : Mods) (gd ga gb : GReg) (rm : BitVec 3)
  /-- R15. -/
  | fmax (m : Mods) (gd ga gb : GReg) (rm : BitVec 3)
  /-- R103. -/
  | fdiv (m : Mods) (gd ga gb : GReg) (rm : BitVec 3)
  /-- R103. -/
  | fsqrt (m : Mods) (gd ga : GReg) (rm : BitVec 3)
  /-- R104. -/
  | fcmp (m : Mods) (qd : QReg) (ga gb : GReg) (cond : BitVec 4)
  /-- R105. -/
  | fcvt (m : Mods) (gd ga : GReg) (rm : BitVec 3) (df sf : BitVec 4) (ov : BitVec 2)
  /-- R107. -/
  | br (m : Mods) (off : BrOff)
  /-- R107. -/
  | call (m : Mods) (gd : GReg) (off : BrOff)
  /-- R108. -/
  | jmp (m : Mods) (gd ga : GReg)
  /-- R108. -/
  | ret (m : Mods) (ga : GReg)
  /-- R55. -/
  | rep (m : Mods) (gn : GReg) (len : BitVec 4) (stride : BitVec 3)
  /-- R111. -/
  | yield (m : Mods)
  /-- R112. -/
  | halt (m : Mods)
  /-- R113. -/
  | trap (m : Mods) (code : BitVec 16)
  /-- R113. -/
  | brk (m : Mods) (code : BitVec 16)
  /-- R114. -/
  | eret (m : Mods)
  /-- R372. -/
  | sysc (m : Mods) (n : BitVec 16)
  /-- R115. -/
  | mfs (m : Mods) (gd : GReg) (spr : BitVec 12)
  /-- R115. -/
  | mts (m : Mods) (ga : GReg) (spr : BitVec 12)
  /-- R116. -/
  | atinv (m : Mods) (ga : GReg) (mode : BitVec 2)
  /-- R153. -/
  | gvote (m : Mods) (d : VoteDst) (qa : QReg)
  /-- R154. -/
  | gsplit (m : Mods)
  /-- R119. -/
  | ld (m : Mods) (gd ga : GReg) (mo : MemOff) (sz : BitVec 2) (sx : Bool)
  /-- R120. -/
  | st (m : Mods) (ga : GReg) (mo : MemOff) (gc : GReg) (sz : BitVec 2) (ctr : GReg)
  /-- R121. -/
  | ldro (m : Mods) (gd ga : GReg) (mo : MemOff) (sz : BitVec 2) (sx : Bool)
  /-- R121. -/
  | roinv (m : Mods)
  /-- R122. -/
  | pref (m : Mods) (ga : GReg) (mo : MemOff)
  /-- R126. -/
  | amo (m : Mods) (gd ga gb gc : GReg) (opc : BitVec 4) (sz : BitVec 2) (qs : QReg) (ctr : GReg) (scope : BitVec 2)
  /-- R127. -/
  | red (m : Mods) (ga gb : GReg) (opc : BitVec 4) (sz : BitVec 2) (ctr : GReg) (scope : BitVec 2)
  /-- R129. -/
  | fence (m : Mods) (scope : BitVec 2)
  /-- R134. -/
  | pset (m : Mods) (pd : PReg) (v : PsetSrc)
  /-- R135. -/
  | padv (m : Mods) (pd : PReg) (y : Src)
  /-- R137. -/
  | smap (m : Mods) (gs gv gl : GReg)
  /-- R138. -/
  | sunmap (m : Mods) (gs : GReg)
  /-- R138. -/
  | sflush (m : Mods) (gs : GReg)
  /-- R138. -/
  | sinv (m : Mods) (gs : GReg)
  /-- R141. -/
  | vlda (m : Mods) (ad : AReg) (p : PReg) (mc : MReg) (fmt : BitVec 4) (rm : BitVec 3)
  /-- R141. -/
  | vsta (m : Mods) (p : PReg) (ab : AReg) (mc : MReg) (fmt : BitVec 4) (rm : BitVec 3)
  /-- R141. -/
  | vmova (m : Mods) (ad : AReg) (sa : VSrc) (mc : MReg) (fmt : BitVec 4) (rm : BitVec 3)
  /-- R142. -/
  | vadd (m : Mods) (ad : AReg) (sa sb : VSrc) (mc : MReg) (fmt : BitVec 4) (rm : BitVec 3)
  /-- R142. -/
  | vsub (m : Mods) (ad : AReg) (sa sb : VSrc) (mc : MReg) (fmt : BitVec 4) (rm : BitVec 3)
  /-- R142. -/
  | vmul (m : Mods) (ad : AReg) (sa sb : VSrc) (mc : MReg) (fmt : BitVec 4) (rm : BitVec 3)
  /-- R142. -/
  | vfma (m : Mods) (ad : AReg) (sa sb : VSrc) (mc : MReg) (fmt : BitVec 4) (rm : BitVec 3)
  /-- R142. -/
  | vmin (m : Mods) (ad : AReg) (sa sb : VSrc) (mc : MReg) (fmt : BitVec 4) (rm : BitVec 3)
  /-- R142. -/
  | vmax (m : Mods) (ad : AReg) (sa sb : VSrc) (mc : MReg) (fmt : BitVec 4) (rm : BitVec 3)
  /-- R142. -/
  | vabs (m : Mods) (ad : AReg) (sa : VSrc) (mc : MReg) (fmt : BitVec 4) (rm : BitVec 3)
  /-- R144. -/
  | vcvt (m : Mods) (ad : AReg) (sa : VSrc) (mc : MReg) (rm : BitVec 3) (df sf : BitVec 4) (ov : BitVec 2)
  /-- R145. -/
  | vcmp (m : Mods) (md : MReg) (sa sb : VSrc) (mc : MReg) (fmt : BitVec 4) (rm : BitVec 3) (cond : BitVec 4)
  /-- R146. -/
  | vsel (m : Mods) (ad : AReg) (sa sb : VSrc) (mc : MReg) (fmt : BitVec 4) (rm : BitVec 3)
  /-- R147. -/
  | vred (m : Mods) (gd : GReg) (sa : VSrc) (mc : MReg) (fmt : BitVec 4) (rm : BitVec 3) (op : BitVec 4)
  /-- R148. -/
  | vperm (m : Mods) (ad : AReg) (sa sb : VSrc) (mc : MReg) (fmt : BitVec 4) (rm : BitVec 3)
  /-- R148. -/
  | vbcast (m : Mods) (ad : AReg) (ga : GReg) (mc : MReg) (rm : BitVec 3)
  /-- R151. -/
  | vspec (m : Mods) (ad : AReg) (sa : VSrc) (mc : MReg) (fmt : BitVec 4) (rm : BitVec 3) (fn : BitVec 4)
  /-- R143. -/
  | vand (m : Mods) (ad : AReg) (sa sb : VSrc) (mc : MReg) (fmt : BitVec 4) (rm : BitVec 3)
  /-- R143. -/
  | vor (m : Mods) (ad : AReg) (sa sb : VSrc) (mc : MReg) (fmt : BitVec 4) (rm : BitVec 3)
  /-- R143. -/
  | vxor (m : Mods) (ad : AReg) (sa sb : VSrc) (mc : MReg) (fmt : BitVec 4) (rm : BitVec 3)
  /-- R143. -/
  | vshl (m : Mods) (ad : AReg) (sa sb : VSrc) (mc : MReg) (fmt : BitVec 4) (rm : BitVec 3)
  /-- R143. -/
  | vshr (m : Mods) (ad : AReg) (sa sb : VSrc) (mc : MReg) (fmt : BitVec 4) (rm : BitVec 3)
  /-- R150. -/
  | vgath (m : Mods) (ad : AReg) (ga : GReg) (ab : AReg) (mc : MReg) (fmt : BitVec 4) (rm : BitVec 3)
  /-- R150. -/
  | vscat (m : Mods) (ga : GReg) (ab ac : AReg) (mc : MReg) (fmt : BitVec 4) (rm : BitVec 3)
  /-- R148. -/
  | viota (m : Mods) (ad : AReg) (ga : GReg) (mc : MReg) (rm : BitVec 3)
  /-- R149. -/
  | vextr (m : Mods) (gd : GReg) (aa : AReg) (lane : BitVec 5) (fmt : BitVec 4) (rm : BitVec 3)
  /-- R149. -/
  | vins (m : Mods) (ad : AReg) (ga : GReg) (lane : BitVec 5) (fmt : BitVec 4) (rm : BitVec 3)
  /-- R152. -/
  | mkopTt (m : Mods) (md ma mb : MReg) (tt : BitVec 4)
  /-- R152. -/
  | mkopReg (m : Mods) (md : MReg) (ga : GReg)
  /-- R152. -/
  | mkpop (m : Mods) (gd : GReg) (ma : MReg) (fn : BitVec 2)
  /-- R159. -/
  | mxz (m : Mods) (x : TileNo)
  /-- R160. -/
  | mxmul (m : Mods) (x : TileNo) (tok : Option Tok) (ga gb gc : GReg) (da db : BitVec 32)
  /-- R161. -/
  | mxq (m : Mods) (x : TileNo) (tok : Option Tok) (ga gb gc gq : GReg) (gs : BitVec 2) (da db : BitVec 32)
  /-- R163. -/
  | mxdrn (m : Mods) (x : TileNo) (tok : Option Tok) (ga gm : GReg) (fmt : BitVec 4) (rm : BitVec 3) (ov : BitVec 2) (shape : Option Shape)
  /-- R162. -/
  | mxldx (m : Mods) (x : TileNo) (tok : Option Tok) (ga : GReg) (fmt : BitVec 4) (shape : Option Shape)
  /-- R174. -/
  | cpy (m : Mods) (gd gs gn gk : GReg) (mode : CpyMode) (len : CpyLen)
  /-- R174. -/
  | cpy2d (m : Mods) (gd gs gsh gk : GReg) (mode : CpyMode) (strides : CpyStride)
  /-- R178. -/
  | twait (m : Mods) (qd : QReg) (mask : BitVec 8) (ge : GReg)
  /-- R178. -/
  | ttest (m : Mods) (qd : QReg) (mask : BitVec 8) (ge : GReg)
  /-- R182. -/
  | disp (m : Mods) (gd gs gt : GReg) (tok : DispTok)
  /-- R183. -/
  | dflush (m : Mods) (tok : Tok)
  /-- R180. -/
  | mbpost (m : Mods) (ge : GReg) (k : BitVec 4) (fresh : Bool)
  /-- R180. -/
  | mbtake (m : Mods) (gd : GReg) (rank : BitVec 3)
  /-- R185. -/
  | lbset (m : Mods) (gb gbase gk : GReg) (cap : BitVec 13) (rsz : BitVec 3)
  /-- R188. -/
  | onew (m : Mods) (gd gbody glen gclass : GReg) (float : Bool) (hint : BitVec 2)
  /-- R189. -/
  | odel (m : Mods) (gn : GReg)
  /-- R190. -/
  | omove (m : Mods) (gn gm : GReg)
  /-- R191. -/
  | invk (m : Mods) (gd gt ga gdl : GReg) (narg : BitVec 3) (resolve : Bool) (gang : BitVec 2) (dl : Bool) (rlr : GReg) (method : BitVec 8)
  /-- R197. -/
  | await (m : Mods) (gd gh gbuf : GReg) (qd : QReg) (conf : Bool)
  /-- R198. -/
  | htest (m : Mods) (gd gh : GReg) (fn : BitVec 2)
  /-- R199. -/
  | rslv (m : Mods) (ga : GReg) (mode : BitVec 2) (len : BitVec 7)
  /-- R201. -/
  | hbrk (m : Mods) (gh : GReg) (code : BitVec 8)
  /-- R202. -/
  | hfree (m : Mods) (gh : GReg)
  /-- R204. -/
  | rgopen (m : Mods) (gb gh : GReg)
  /-- R205. -/
  | rgclose (m : Mods) (gb : GReg)
  /-- R206. -/
  | rgqry (m : Mods) (gd gb : GReg) (fn : BitVec 2)
  /-- R207. -/
  | rgfail (m : Mods) (gb : GReg) (code : BitVec 8)
  /-- R210. -/
  | phreg (m : Mods) (gph : GReg) (mode : BitVec 2)
  /-- R211. -/
  | phdrop (m : Mods) (gph : GReg)
  /-- R212. -/
  | pharr (m : Mods) (gph : GReg)
  /-- R214. -/
  | phwait (m : Mods) (qd : QReg) (gph gto gs : GReg)
  /-- R214. -/
  | phaw (m : Mods) (qd : QReg) (gph gto gs : GReg)
  /-- R209. -/
  | phnew (m : Mods) (gd : GReg)
  /-- R217. -/
  | ctadd (m : Mods) (gc : GReg) (v : Src) (scope : BitVec 2)
  /-- R218. -/
  | ctrd (m : Mods) (gd gc : GReg)
  /-- R219. -/
  | ctwait (m : Mods) (qd : QReg) (gc gt : GReg) (tmo : CtTime)
  /-- R221. -/
  | trpost (m : Mods) (gd gdesc : GReg)
  /-- R223. -/
  | trcan (m : Mods) (qd : QReg) (ge : GReg)
  /-- R224. -/
  | coll (m : Mods) (gd gblk : GReg) (det strict : Bool)
  /-- R225. -/
  | siadv (m : Mods) (gd grec : GReg)
  /-- R225. -/
  | siret (m : Mods) (gd grec : GReg)
  /-- R48. -/
  | vClassResultWrite (c : CtxId) (i : Nat)
  /-- R50. -/
  | switchPoint
  /-- R51. -/
  | forcedSwitchPoint
  /-- R67. -/
  | postedCountWaitEnd (c : CtxId)
  /-- R171. -/
  | waitConditionMet (c : CtxId)
  /-- R171. -/
  | waitTimeout (c : CtxId)
  /-- R378. -/
  | tlbWalkComplete (c : CtxId) (va : Word) (acc : BitVec 2)
  /-- R156. -/
  | matrixOpComplete (core : CoreId)
  /-- R175. -/
  | copyComplete (copy : Nat)
  /-- R175. -/
  | copyPageFault (copy : Nat)
  /-- R177. -/
  | detContributionArrival (con : Contrib)
  /-- R345. -/
  | dispatchRowLanded (row : Nat)
  /-- R183. -/
  | dflushTokenDone (c : CtxId) (tok : Tok)
  /-- R235. -/
  | invocationReady (inv : Nat)
  /-- R238. -/
  | dispatchChoice (die : BitVec 2)
  /-- R241. -/
  | floatingPlacement (inv : Nat)
  /-- R237. -/
  | tileResidencyLoaded (inv : Nat)
  /-- R242. -/
  | loadLevelling (die : BitVec 2)
  /-- R244. -/
  | objectMigration (name : Word) (core : CoreId)
  /-- R369. -/
  | invocationResume (inv : Nat)
  /-- R363. -/
  | quotaCharge (c : CtxId)
  /-- R356. -/
  | launchStart (q : BitVec 13)
  /-- R358. -/
  | launchRetirement (l : LaunchId)
  /-- R360. -/
  | completionRecordPost (l : LaunchId)
  /-- R310. -/
  | counterRaise (die : BitVec 2) (idx : BitVec 16) (amount : BitVec 48)
  /-- R314. -/
  | triggerFiring (die : BitVec 2)
  /-- R315. -/
  | triggeredOpComplete (op : Nat)
  /-- R323. -/
  | collectiveDone (die : BitVec 2) (slot : BitVec 8)
  /-- R332. -/
  | collectiveAbort (die : BitVec 2) (slot : BitVec 8) (err : BitVec 8)
  /-- R329. -/
  | detResendTimeout (die : BitVec 2) (slot : BitVec 8)
  /-- R227. -/
  | inv (p : Packet)
  /-- R261. -/
  | rld (p : Packet)
  /-- R262. -/
  | rst (p : Packet)
  /-- R126. -/
  | ramo (p : Packet)
  /-- R127. -/
  | rred (p : Packet)
  /-- R309. -/
  | ctr (p : Packet)
  /-- R230. -/
  | prm (p : Packet)
  /-- R315. -/
  | send (p : Packet)
  /-- R286. -/
  | rpl (p : Packet)
  /-- R286. -/
  | ack (p : Packet)
  /-- R270. -/
  | bwr (p : Packet)
  /-- R282. -/
  | brd (p : Packet)
  /-- R282. -/
  | brdd (p : Packet)
  /-- R293. -/
  | blk (p : Packet)
  /-- R303. -/
  | cblk (p : Packet)
  /-- R307. -/
  | back (p : Packet)
  /-- R302. -/
  | dack (p : Packet)
  /-- R304. -/
  | dnak (p : Packet)
  /-- R307. -/
  | rel (p : Packet)
  /-- R299. -/
  | hnot (p : Packet)
  /-- R299. -/
  | hwd (p : Packet)
  /-- R304. -/
  | cerr (p : Packet)
  /-- R290. -/
  | hold (p : Packet)
  /-- R282. -/
  | malformedPacket (die : BitVec 2) (p : Packet)
  /-- R300. -/
  | codedPacketForm (die : BitVec 2) (port : BitVec 6)
  /-- R302. -/
  | codedFallbackTimeout (die : BitVec 2) (cseq : BitVec 32) (comp : Nat)
  /-- R296. -/
  | retentionExpiry (die : BitVec 2) (bid : BitVec 48)
  /-- R299. -/
  | holdingsExpiry (die : BitVec 2)
  /-- R279. -/
  | linkReplay (link : BitVec 6) (lack : BitVec 12)
  /-- R290. -/
  | resendTimeout (src : CoreId) (sag : BitVec 4) (dpkg : BitVec 12) (ddie : BitVec 2)
  /-- R290. -/
  | deliveryFailure (p : Packet)
  /-- R290. -/
  | holdTimer (p : Packet)
  /-- R287. -/
  | duplicateWindowDrop (die : BitVec 2) (spkg : BitVec 12) (sdie : BitVec 2) (score : BitVec 8) (sag : BitVec 4)
  /-- R390. -/
  | landingFault (p : Packet)
  /-- R386. -/
  | faultEntryPost (c : CtxId)
  /-- R252. -/
  | leaseRecall (pa : Nat)
  /-- R136. -/
  | deviceWriteback (pa : Nat)
  /-- R396. -/
  | shootdownGo (die : BitVec 2)
  /-- R397. -/
  | shootdownUrgent (die : BitVec 2)
  /-- R396. -/
  | shootdownComplete (die : BitVec 2)
  /-- R399. -/
  | pageMigration (die : BitVec 2) (pctx : BitVec 12) (va : Word)
  /-- R399. -/
  | migrationAbandon (die : BitVec 2)
  /-- R373. -/
  | debugRead (die : BitVec 2)
  /-- R373. -/
  | debugWrite (die : BitVec 2)
  /-- R373. -/
  | debugResume (die : BitVec 2)
  /-- R373. -/
  | debugEnd (die : BitVec 2)
  /-- R373. -/
  | debugHaltRequest (die : BitVec 2)
  /-- R40. -/
  | registerWrite (pa : Nat) (v : Word)
  /-- R404. -/
  | timeWrite (v : Word)
  /-- R405. -/
  | ptpEventMessage (port : BitVec 2) (offset : Int)
  /-- R407. -/
  | ethernetTransmit (port : BitVec 2)
  /-- R409. -/
  | streamEnable (idx : BitVec 10)
  /-- R409. -/
  | streamDisable (idx : BitVec 10)
  /-- R411. -/
  | streamPacket (p : MediaPkt)
  /-- R414. -/
  | rawStreamPacket (p : MediaPkt)
  /-- R412. -/
  | frameTimeout (idx : BitVec 10)
  /-- R411. -/
  | mergeWindowClose (idx : BitVec 10)
  /-- R427. -/
  | scanSlot (die : BitVec 2)
  /-- R427. -/
  | scanDrainTimeout (die : BitVec 2)
  /-- R428. -/
  | scanPass (core : CoreId)
  /-- R429. -/
  | scanFail (core : CoreId) (unit : BitVec 8)
  /-- R427. -/
  | scanlate (core : CoreId)
  /-- R439. -/
  | coldStart (tests : StartTests)
  /-- R441. -/
  | warmStart (cause : WarmCause) (tests : StartTests)
  /-- R306. -/
  | landedPairExpiry (die : BitVec 2)
  /-- R426. -/
  | correctableError (site : ErrSite)
  /-- R415. -/
  | uncorrectableError (site : ErrSite)
  /-- R425. -/
  | patrolScrub (pa : Nat) (errors : Nat)
  /-- R444. -/
  | keySlotRequest (r : KeyRequest)
  /-- R448. -/
  | alarm (trig : BitVec 2) (reading : Word)
  /-- R450. -/
  | powerThrottle (watts : Nat) (over105 : Bool)
  /-- R274. -/
  | hardwarePrefetch (c : CtxId) (va : Word)
  /-- R406. -/
  | ethernetLinkUp (port : BitVec 2)
  /-- R442. -/
  | flashImageWrite (w : FlashWrite)
  /-- R448. -/
  | wrappedKeyRecordProvision (slots : List (BitVec 8))
  /-- R279. -/
  | flitReceive (link : BitVec 6) (f : Flit)
  /-- R280. -/
  | linkRetrain (link : BitVec 6) (ok : Bool)
  /-- R406. -/
  | ethernetFrameReceive (port : BitVec 2) (f : Frame)
  /-- R432. -/
  | linkDown (what : LinkFailure)
  /-- R447. -/
  | attestationGo
  /-- R447. -/
  | quoteComplete
  deriving DecidableEq, Repr

end Sys2Proof
end

