-- ==== Sys2Proof/WellFormed.lean ====
section
/-! DEFINITION. Which instructions an encoding admits (R72 to R75 and the entries): the field values that decode steps 7, 8
and 10 of R75 accept. -/

namespace Sys2Proof

/-- R130: element formats of vector instructions. -/
def vecFmtOk (f : BitVec 4) : Bool := f ≤ 4 || (8 ≤ f && f ≤ 12)
/-- R130: the float formats. -/
def fmtFloat (f : BitVec 4) : Bool := f ≤ 4
/-- R18: rounding codes of arithmetic. -/
def rmArith (r : BitVec 3) : Bool := r ≤ 3 || r = 7
/-- R18: rounding codes of narrowing conversions. -/
def rmNarrow (r : BitVec 3) : Bool := r ≤ 4 || r = 7
/-- RM fields that have no effect hold 0 or 7. -/
def rmNone (r : BitVec 3) : Bool := r = 0 || r = 7
/-- R132: RM of lane arithmetic. -/
def rmLane (f : BitVec 4) (r : BitVec 3) : Bool := if fmtFloat f then rmArith r else rmNone r
/-- R22: the overflow variant allowed for a destination format. -/
def ovOk (df : BitVec 4) (ov : BitVec 2) : Bool :=
  ov = 0 || (ov = 1 && (df = 1 || df = 2 || df = 4)) || (ov = 2 && df = 3)
/-- R105: integer conversion formats. -/
def fmtInt (f : BitVec 4) : Bool := 8 ≤ f
/-- R105, R106: the combinations that FCVT defines. -/
def cvtOk (rm : BitVec 3) (df sf : BitVec 4) (ov : BitVec 2) : Bool :=
  (fmtFloat sf || fmtInt sf) && (fmtFloat df || fmtInt df) && sf ≠ df && !(fmtInt sf && fmtInt df)
  && (!fmtInt sf || df = 0) && (!fmtInt df || sf = 0) && ovOk df ov
  && (if fmtInt sf || fmtInt df then rmArith rm else rmNarrow rm)
/-- R144: VCVT accepts neither 64-bit integer. -/
def vcvtOk (rm : BitVec 3) (df sf : BitVec 4) (ov : BitVec 2) : Bool :=
  cvtOk rm df sf ov && sf < 14 && df < 14
/-- R104: conditions of FCMP. -/
def fcondOk (c : BitVec 4) : Bool := c ≤ 5 || c = 10
/-- R117: S = 1 is undefined with SZ = 3. -/
def ldOk (sz : BitVec 2) (sx : Bool) : Bool := !(sx && sz = 3)
/-- R125: operations and sizes of AMO and RED. -/
def amoOk (opc : BitVec 4) (sz : BitVec 2) (ctr : GReg) (scope : BitVec 2) : Bool :=
  opc ≤ 11 && !((opc = 8 || opc = 9) && sz ≠ 2) && scope ≠ 3 && !(scope ≠ 0 && ctr = 0)
/-- R176: the pairs of ROP and FMT of a reduction. -/
def redOk (rop fmt : BitVec 4) : Bool :=
  (fmt ≤ 2 && (rop = 8 || rop = 9)) || (fmt = 8 && rop ≤ 7)
/-- R176: the FN fields of CPY and CPY2D. -/
def cpyModeOk (m : CpyMode) : Bool :=
  if m.rd then redOk m.rop m.fmt else m.rop = 0 && m.fmt = 0 && !m.det
/-- R177: DET needs a landing counter. -/
def cpyDetOk (m : CpyMode) (gk : GReg) : Bool := !(m.det && gk = 0)
/-- R174: with gn named, the immediate length is 0. -/
def cpyLenOk (gn : GReg) : CpyLen → Bool
  | .imm v => gn = 0 || v = 0
  | .ext v => gn = 0 || v = 0
/-- R199: the forms of RSLV. -/
def rslvOk (mode : BitVec 2) (len : BitVec 7) : Bool :=
  (mode = 0 && len ≤ 8) || (mode = 1 && 1 ≤ len && len ≤ 64) || (mode = 2 && len = 0)
/-- R191: the structural rules of INVK. -/
def invkOk (ga gdl : GReg) (narg : BitVec 3) (dl : Bool) : Bool :=
  !(narg ≠ 0 && ga = 0) && decide (ga.toNat + narg.toNat ≤ 32 ∨ narg = 0) && (dl == decide (gdl ≠ 0))
/-- R98. -/
def fieldOk (pos wm : BitVec 6) : Bool := decide (pos.toNat + wm.toNat + 1 ≤ 64)

/-- The instructions that have an encoding. A device event is well-formed: it has none. -/
def Instr.wf : Instr → Bool
  | .extr _ _ _ pos wm => fieldOk pos wm
  | .insr _ _ _ _ pos wm => fieldOk pos wm
  | .cmp _ _ _ _ _ cond => cond ≤ 9
  | .fadd _ _ _ _ rm | .fsub _ _ _ _ rm | .fmul _ _ _ _ rm | .ffma _ _ _ _ _ rm
  | .fdiv _ _ _ _ rm | .fsqrt _ _ _ rm => rmArith rm
  | .fmin _ _ _ _ rm | .fmax _ _ _ _ rm => rmNone rm
  | .fcmp _ _ _ _ cond => fcondOk cond
  | .fcvt _ _ _ rm df sf ov => cvtOk rm df sf ov
  | .rep _ _ len _ => 1 ≤ len && len ≤ 8
  | .atinv _ ga mode => mode ≠ 3 && (mode = 0 || ga = 0)
  | .ld _ _ _ _ sz sx | .ldro _ _ _ _ sz sx => ldOk sz sx
  | .amo _ _ _ _ gc opc sz _ gk scope => amoOk opc sz gk scope && (opc = 11 || gc = 0)
  | .red _ _ _ opc sz gk scope => amoOk opc sz gk scope && opc ≤ 9
  | .fence _ scope => scope ≠ 3
  | .vlda _ _ _ _ fmt rm | .vsta _ _ _ _ fmt rm | .vmova _ _ _ _ fmt rm
  | .vabs _ _ _ _ fmt rm => vecFmtOk fmt && rmNone rm
  | .vadd _ _ _ _ _ fmt rm | .vsub _ _ _ _ _ fmt rm | .vmul _ _ _ _ _ fmt rm
  | .vfma _ _ _ _ _ fmt rm => vecFmtOk fmt && rmLane fmt rm
  | .vmin _ _ _ _ _ fmt rm | .vmax _ _ _ _ _ fmt rm | .vsel _ _ _ _ _ fmt rm
  | .vperm _ _ _ _ _ fmt rm | .vand _ _ _ _ _ fmt rm | .vor _ _ _ _ _ fmt rm
  | .vxor _ _ _ _ _ fmt rm | .vshl _ _ _ _ _ fmt rm | .vshr _ _ _ _ _ fmt rm
  | .vgath _ _ _ _ _ fmt rm | .vscat _ _ _ _ _ fmt rm => vecFmtOk fmt && rmNone rm
  | .vcvt _ _ _ _ rm df sf ov => vcvtOk rm df sf ov
  | .vcmp _ _ _ _ _ fmt rm cond =>
    vecFmtOk fmt && rmNone rm && (if fmtFloat fmt then fcondOk cond else cond ≤ 9)
  | .vred _ _ _ _ fmt rm op => vecFmtOk fmt && rmNone rm && op ≤ 10
  | .vbcast _ _ _ _ rm | .viota _ _ _ _ rm => rmNone rm
  | .vspec _ _ _ _ fmt rm fn => fmtFloat fmt && rmArith rm && fn ≤ 4
  | .vextr _ _ _ _ fmt rm | .vins _ _ _ _ fmt rm => (fmt = 0 || fmt = 8) && rmNone rm
  | .mkpop _ _ _ fn => fn ≠ 3
  | .mxq _ _ _ _ _ _ _ gs _ _ => gs ≠ 3
  | .mxdrn _ _ _ _ _ fmt rm ov _ => fmt ≤ 4 && rmNarrow rm && ovOk fmt ov
  | .mxldx _ _ _ _ fmt _ => fmt ≤ 4
  | .cpy _ _ _ gn gk mode len => cpyModeOk mode && cpyDetOk mode gk && cpyLenOk gn len
  | .cpy2d _ _ _ _ gk mode _ => cpyModeOk mode && cpyDetOk mode gk
  | .mbpost _ _ k _ => 1 ≤ k && k ≤ 8
  | .lbset _ _ _ _ cap rsz => cap ≠ 0 && rsz ≠ 7
  | .onew _ _ _ _ _ _ hint => hint ≠ 3
  | .invk _ _ _ ga gdl narg _ _ dl _ _ => narg ≠ 7 && invkOk ga gdl narg dl
  | .htest _ _ _ fn => fn ≠ 3
  | .rslv _ _ mode len => rslvOk mode len
  | .hbrk _ _ code => 128 ≤ code
  | .phreg _ _ mode => mode ≠ 3
  | .ctadd _ _ _ scope => scope ≠ 3
  | .nop .. | .add .. | .sub .. | .and .. | .or .. | .xor .. | .andn .. | .shl .. | .shr .. | .sar ..
  | .rot .. | .min .. | .max .. | .minu .. | .maxu .. | .adds .. | .subs .. | .mul .. | .mulh .. | .mulhu ..
  | .div .. | .divu .. | .rem .. | .remu .. | .clz .. | .ctz .. | .popc .. | .brev .. | .sext .. | .zext ..
  | .lea .. | .movi .. | .csel .. | .qop .. | .br .. | .call .. | .jmp .. | .ret .. | .yield .. | .halt ..
  | .trap .. | .brk .. | .eret .. | .sysc .. | .mfs .. | .mts .. | .gvote .. | .gsplit .. | .st ..
  | .roinv .. | .pref .. | .pset .. | .padv .. | .smap .. | .sunmap .. | .sflush .. | .sinv .. | .mkopTt ..
  | .mkopReg .. | .mxz .. | .mxmul .. | .twait .. | .ttest .. | .disp .. | .dflush .. | .mbtake .. | .odel ..
  | .omove .. | .await .. | .hfree .. | .rgopen .. | .rgclose .. | .rgqry .. | .rgfail .. | .phdrop ..
  | .pharr .. | .phwait .. | .phaw .. | .phnew .. | .ctrd .. | .ctwait .. | .trpost .. | .trcan .. | .coll ..
  | .siadv .. | .siret .. | .vClassResultWrite .. | .switchPoint .. | .forcedSwitchPoint ..
  | .postedCountWaitEnd .. | .waitConditionMet .. | .waitTimeout .. | .tlbWalkComplete ..
  | .matrixOpComplete .. | .copyComplete .. | .copyPageFault .. | .detContributionArrival ..
  | .dispatchRowLanded .. | .dflushTokenDone .. | .invocationReady .. | .dispatchChoice ..
  | .floatingPlacement .. | .tileResidencyLoaded .. | .loadLevelling .. | .objectMigration ..
  | .invocationResume .. | .quotaCharge .. | .launchStart .. | .launchRetirement ..
  | .completionRecordPost .. | .counterRaise .. | .triggerFiring .. | .triggeredOpComplete ..
  | .collectiveDone .. | .collectiveAbort .. | .detResendTimeout .. | .inv .. | .rld .. | .rst .. | .ramo ..
  | .rred .. | .ctr .. | .prm .. | .send .. | .rpl .. | .ack .. | .bwr .. | .brd .. | .brdd .. | .blk ..
  | .cblk .. | .back .. | .dack .. | .dnak .. | .rel .. | .hnot .. | .hwd .. | .cerr .. | .hold ..
  | .malformedPacket .. | .codedPacketForm .. | .codedFallbackTimeout .. | .retentionExpiry ..
  | .holdingsExpiry .. | .flitReceive .. | .linkReplay .. | .linkRetrain .. | .linkDown ..
  | .resendTimeout .. | .deliveryFailure .. | .holdTimer .. | .duplicateWindowDrop .. | .landingFault ..
  | .faultEntryPost .. | .leaseRecall .. | .deviceWriteback .. | .shootdownGo .. | .shootdownUrgent ..
  | .shootdownComplete .. | .pageMigration .. | .migrationAbandon .. | .debugRead .. | .debugWrite ..
  | .debugResume .. | .debugEnd .. | .debugHaltRequest .. | .registerWrite .. | .timeWrite ..
  | .ptpEventMessage .. | .ethernetFrameReceive .. | .ethernetTransmit .. | .streamEnable ..
  | .streamDisable .. | .streamPacket .. | .rawStreamPacket .. | .frameTimeout .. | .mergeWindowClose ..
  | .scanSlot .. | .scanDrainTimeout .. | .scanPass .. | .scanFail .. | .scanlate .. | .correctableError ..
  | .uncorrectableError .. | .patrolScrub .. | .coldStart .. | .warmStart .. | .keySlotRequest ..
  | .attestationGo .. | .quoteComplete .. | .alarm .. | .powerThrottle .. | .hardwarePrefetch ..
  | .ethernetLinkUp .. | .landedPairExpiry .. | .flashImageWrite .. | .wrappedKeyRecordProvision .. => true

end Sys2Proof
end

