-- ==== Sys2Proof/Decode.lean ====
section
/-! DEFINITION. The encoding of instructions (R62 to R76, the entries of each opcode): the decoder, total on any bytes, and
the encoder. Decode refuses by name; the names are the causes 1 and 3 to 8 of R75. Step 2 (marker), step 3 (block) and the
checks that need the machine (steps 1, 6, 10 for REP, 11) belong to fetch and to the meanings. -/

namespace Sys2Proof

/-- Why a word is no instruction (R75). -/
inductive Reject where
  /-- LEN = 11 without a well-formed marker: cause 1. -/
  | badMarker
  /-- OP unassigned: cause 3. -/
  | unassigned
  /-- LEN not allowed for OP (R72): cause 4. -/
  | badLength
  /-- an FN value the opcode does not define: cause 5. -/
  | undefinedFn
  /-- a reserved field, unused slot or undefined extension bit that is not zero (R74): cause 6. -/
  | reservedBits
  /-- a specifier of a kind its slot does not accept (R37): cause 7. -/
  | wrongKind
  /-- an opcode-specific structural rule: cause 8. -/
  | structural
  /-- fewer bytes than the length needs: the fetch unit reads whole blocks, so fetch never meets this. -/
  | short
  deriving DecidableEq, Repr

/-- R75: the cause code of a rejected word. -/
def Reject.cause : Reject → BitVec 16
  | .badMarker => 1
  | .unassigned => 3
  | .badLength => 4
  | .undefinedFn => 5
  | .reservedBits => 6
  | .wrongKind => 7
  | .structural => 8
  | .short => 2

/-- R63: the fields of the base word but for LEN, which the extension fixes. -/
structure Base where
  m   : Mods
  op  : BitVec 8
  dst : BitVec 6
  sa  : BitVec 6
  sb  : BitVec 6
  sc  : BitVec 6
  fn  : BitVec 23
  deriving DecidableEq, Repr, Inhabited

/-- R64: the extension that follows the base word. -/
inductive Ext where
  | none
  | imm (v : BitVec 32)
  | ext (v : BitVec 64)
  deriving DecidableEq, Repr, Inhabited

/-- R63: LEN. -/
def Ext.len : Ext → BitVec 2
  | .none => 0
  | .imm _ => 1
  | .ext _ => 2

/-- R62: the bytes of an instruction. -/
def Ext.bytes : Ext → Nat
  | .none => 8
  | .imm _ => 12
  | .ext _ => 16

def boolBit (b : Bool) : BitVec 1 := if b then 1 else 0

/-- R63: the base word of its fields. -/
def Base.word (b : Base) (len : BitVec 2) : BitVec 64 :=
  b.fn ++ b.sc ++ b.sb ++ b.sa ++ b.dst ++ b.op ++ b.m.wt ++ boolBit b.m.gn ++ b.m.gq ++ boolBit b.m.sw ++ len

/-- R63: the fields of a base word. -/
def Base.ofWord (w : BitVec 64) : Base where
  m := { sw := w.getLsbD 2, gq := w.extractLsb' 3 3, gn := w.getLsbD 6, wt := w.extractLsb' 7 2 }
  op := w.extractLsb' 9 8
  dst := w.extractLsb' 17 6
  sa := w.extractLsb' 23 6
  sb := w.extractLsb' 29 6
  sc := w.extractLsb' 35 6
  fn := w.extractLsb' 41 23

/-! ## Register specifiers (R37) -/

def specG (r : GReg) : BitVec 6 := 0#1 ++ r
def specP (r : PReg) : BitVec 6 := 4#3 ++ r
def specA (r : AReg) : BitVec 6 := 5#3 ++ r
def specM (r : MReg) : BitVec 6 := 6#3 ++ r
def specQ (r : QReg) : BitVec 6 := 7#3 ++ r
def specV : VSrc → BitVec 6
  | .a r => specA r
  | .p r => specP r

def isG (v : BitVec 6) : Bool := !v.getLsbD 5
def isP (v : BitVec 6) : Bool := v.extractLsb' 3 3 = 4
def isA (v : BitVec 6) : Bool := v.extractLsb' 3 3 = 5
def isM (v : BitVec 6) : Bool := v.extractLsb' 3 3 = 6
def isQ (v : BitVec 6) : Bool := v.extractLsb' 3 3 = 7
def isV (v : BitVec 6) : Bool := isA v || isP v

/-- The number of a g register. -/
def gOf (v : BitVec 6) : GReg := v.extractLsb' 0 5
/-- The number within the kinds p, a, m, q. -/
def rOf (v : BitVec 6) : BitVec 3 := v.extractLsb' 0 3
def vOf (v : BitVec 6) : VSrc := if isA v then .a (rOf v) else .p (rOf v)

/-! ## The checks, in the order of R75 -/

/-- Steps 7 to 10 of R75: FN defined, reserved bits zero, kinds, structure; then the instruction. -/
def checked (fnOk resOk kindOk strOk : Bool) (i : Instr) : Except Reject Instr :=
  if !fnOk then .error .undefinedFn
  else if !resOk then .error .reservedBits
  else if !kindOk then .error .wrongKind
  else if !strOk then .error .structural
  else .ok i

def z6 (v : BitVec 6) : Bool := v = 0

/-- R73: SB or IMM32. -/
def srcOf (b : Base) : Ext → Src
  | .imm v => .imm v
  | _ => .reg (gOf b.sb)
/-- SB must be 0 beside IMM32, and of kind g otherwise. -/
def srcRes (b : Base) : Ext → Bool
  | .imm _ => z6 b.sb
  | _ => true
def srcKind (b : Base) : Ext → Bool
  | .imm _ => true
  | _ => isG b.sb

/-- R156: the token sub-field at FN[2] and FN[5:3]. -/
def tokOf (fn : BitVec 23) : Option Tok := if fn.getLsbD 2 then some (fn.extractLsb' 3 3) else none
def tokRes (fn : BitVec 23) : Bool := fn.getLsbD 2 || fn.extractLsb' 3 3 = 0
def tokBits : Option Tok → BitVec 4
  | some t => t ++ 1#1
  | none => 0

/-- OP 0x01 to 0x11 and 0x14 to 0x17: two sources and W (R96). -/
def dec2 (b : Base) (e : Ext) (mk : Mods → GReg → GReg → Src → Bool → Instr) : Except Reject Instr :=
  checked true (b.fn.extractLsb' 1 22 = 0 && z6 b.sc && srcRes b e) (isG b.dst && isG b.sa && srcKind b e) true
    (mk b.m (gOf b.dst) (gOf b.sa) (srcOf b e) (b.fn.getLsbD 0))
/-- MULH and MULHU: W = 1 is undefined (R96). -/
def decMulh (b : Base) (e : Ext) (mk : Mods → GReg → GReg → Src → Instr) : Except Reject Instr :=
  checked (!b.fn.getLsbD 0) (b.fn.extractLsb' 1 22 = 0 && z6 b.sc && srcRes b e)
    (isG b.dst && isG b.sa && srcKind b e) true (mk b.m (gOf b.dst) (gOf b.sa) (srcOf b e))
/-- CLZ to BREV (R97). -/
def dec1 (b : Base) (mk : Mods → GReg → GReg → Bool → Instr) : Except Reject Instr :=
  checked true (b.fn.extractLsb' 1 22 = 0 && z6 b.sc && z6 b.sb) (isG b.dst && isG b.sa) true
    (mk b.m (gOf b.dst) (gOf b.sa) (b.fn.getLsbD 0))
/-- FADD to FDIV (R103). -/
def decF2 (b : Base) (rmOk : BitVec 3 → Bool) (mk : Mods → GReg → GReg → GReg → BitVec 3 → Instr) : Except Reject Instr :=
  let rm := b.fn.extractLsb' 0 3
  checked (rmOk rm) (b.fn.extractLsb' 3 20 = 0 && z6 b.sc) (isG b.dst && isG b.sa && isG b.sb) true
    (mk b.m (gOf b.dst) (gOf b.sa) (gOf b.sb) rm)
/-- R117: the undefined combinations of the address form. -/
def memFnOk (fn : BitVec 23) (e : Ext) : Bool :=
  let ix := fn.getLsbD 3
  let sh := fn.extractLsb' 4 2
  let off := fn.extractLsb' 13 10
  (ix || sh = 0) && (!ix || off = 0) && (match e with | .imm _ => !ix && off = 0 | _ => true)
def memOf (b : Base) (e : Ext) : MemOff :=
  match e with
  | .imm v => .imm v
  | _ => if b.fn.getLsbD 3 then .idx (gOf b.sb) (b.fn.extractLsb' 4 2) else .off (b.fn.extractLsb' 13 10)
def memRes (b : Base) : Bool := b.fn.extractLsb' 11 2 = 0 && (b.fn.getLsbD 3 || z6 b.sb)
def memKind (b : Base) : Bool := isG b.sa && (!b.fn.getLsbD 3 || isG b.sb)
/-- LD and LDRO (R119, R121). -/
def decLd (b : Base) (e : Ext) (mk : Mods → GReg → GReg → MemOff → BitVec 2 → Bool → Instr) : Except Reject Instr :=
  let sz := b.fn.extractLsb' 0 2
  let sx := b.fn.getLsbD 2
  checked (ldOk sz sx && b.fn.extractLsb' 6 5 = 0 && memFnOk b.fn e) (memRes b && z6 b.sc) (isG b.dst && memKind b) true
    (mk b.m (gOf b.dst) (gOf b.sa) (memOf b e) sz sx)

def vFmt (b : Base) : BitVec 4 := b.fn.extractLsb' 0 4
def vRm (b : Base) : BitVec 3 := b.fn.extractLsb' 4 3
def vFunc (b : Base) : BitVec 4 := b.fn.extractLsb' 7 4
def vRes (b : Base) : Bool := b.fn.extractLsb' 11 12 = 0
def vRes0 (b : Base) : Bool := vRes b && vFunc b = 0

/-- R142, R143 and the other vector entries with two sources (R130). -/
def decV2 (b : Base) (ok : BitVec 4 → BitVec 3 → Bool)
    (mk : Mods → AReg → VSrc → VSrc → MReg → BitVec 4 → BitVec 3 → Instr) : Except Reject Instr :=
  checked (vecFmtOk (vFmt b) && ok (vFmt b) (vRm b)) (vRes0 b)
    (isA b.dst && isV b.sa && isV b.sb && isM b.sc) true
    (mk b.m (rOf b.dst) (vOf b.sa) (vOf b.sb) (rOf b.sc) (vFmt b) (vRm b))
/-- VABS, VMOVA: one a or p source. -/
def decV1 (b : Base) (mk : Mods → AReg → VSrc → MReg → BitVec 4 → BitVec 3 → Instr) : Except Reject Instr :=
  checked (vecFmtOk (vFmt b) && rmNone (vRm b)) (vRes0 b && z6 b.sb) (isA b.dst && isV b.sa && isM b.sc) true
    (mk b.m (rOf b.dst) (vOf b.sa) (rOf b.sc) (vFmt b) (vRm b))
/-- VBCAST, VIOTA (R148): FMT must be 0. -/
def decVg (b : Base) (mk : Mods → AReg → GReg → MReg → BitVec 3 → Instr) : Except Reject Instr :=
  checked (vFmt b = 0 && rmNone (vRm b)) (vRes0 b && z6 b.sb) (isA b.dst && isG b.sa && isM b.sc) true
    (mk b.m (rOf b.dst) (gOf b.sa) (rOf b.sc) (vRm b))

/-- R162: the shape extension of MXLDX and MXDRN. -/
def shapeOf : Ext → Option Shape
  | .ext v => some ⟨v.extractLsb' 0 32, v.extractLsb' 32 6, v.extractLsb' 38 6⟩
  | _ => none
def shapeRes : Ext → Bool
  | .ext v => v.extractLsb' 44 20 = 0
  | _ => true
def shapeExt : Option Shape → Ext
  | some s => .ext (0#20 ++ s.colsM1 ++ s.rowsM1 ++ s.stride)
  | none => .none
def extLo : Ext → BitVec 32
  | .ext v => v.extractLsb' 0 32
  | .imm v => v
  | .none => 0
def extHi : Ext → BitVec 32
  | .ext v => v.extractLsb' 32 32
  | _ => 0

/-- R167: FN fields of CPY and CPY2D. -/
def cpyModeOf (fn : BitVec 23) : CpyMode :=
  ⟨tokOf fn, fn.getLsbD 6, fn.extractLsb' 7 4, fn.extractLsb' 11 4, fn.getLsbD 15⟩
def cpyRes (fn : BitVec 23) : Bool := fn.extractLsb' 0 2 = 0 && tokRes fn && fn.extractLsb' 16 7 = 0
def cpyFn (m : CpyMode) : BitVec 23 := 0#7 ++ boolBit m.det ++ m.fmt ++ m.rop ++ boolBit m.rd ++ tokBits m.tok ++ 0#2
def cpyLenOf : Ext → CpyLen
  | .ext v => .ext (v.extractLsb' 0 40)
  | .imm v => .imm v
  | .none => .imm 0
def cpyLenRes : Ext → Bool
  | .ext v => v.extractLsb' 40 24 = 0
  | _ => true
def strideOf : Ext → CpyStride
  | .ext v => .two (v.extractLsb' 0 32) (v.extractLsb' 32 32)
  | .imm v => .both v
  | .none => .both 0

/-- All of SB, SC, DST or fewer are unused: written as a conjunction of zero tests. FN is reserved from bit k up. -/
def fnRes (b : Base) (k : Nat) : Bool := b.fn >>> k = 0
/-- g operands in DST and SA only, FN reserved from bit k. -/
def resDA (b : Base) (k : Nat) : Bool := fnRes b k && z6 b.sb && z6 b.sc
def resA (b : Base) (k : Nat) : Bool := resDA b k && z6 b.dst
def resNone (b : Base) (k : Nat) : Bool := resA b k && z6 b.sa
/-- One g operand in SA and nothing else: ODEL, HFREE, RGCLOSE, PHDROP, PHARR, SUNMAP, SFLUSH, SINV. -/
def decA (b : Base) (mk : Mods → GReg → Instr) : Except Reject Instr :=
  checked true (resA b 0) (isG b.sa) true (mk b.m (gOf b.sa))
/-- g operands in DST and SA: CTRD, TRPOST, SIADV, SIRET. -/
def decDA (b : Base) (mk : Mods → GReg → GReg → Instr) : Except Reject Instr :=
  checked true (resDA b 0) (isG b.dst && isG b.sa) true (mk b.m (gOf b.dst) (gOf b.sa))
/-- No operands: YIELD, HALT, ERET, ROINV, GSPLIT. -/
def decNone (b : Base) (i : Instr) : Except Reject Instr := checked true (resNone b 0) true true i
/-- A 16-bit code in FN[15:0]: TRAP, BRK, SYSC. -/
def decCode (b : Base) (mk : Mods → BitVec 16 → Instr) : Except Reject Instr :=
  checked true (resNone b 16) true true (mk b.m (b.fn.extractLsb' 0 16))

/-! ## One function for each row of the opcode map (R70) -/

/-- R70, R72: whether OP is assigned, and the lengths (64, 96, 128) it allows. -/
def opLens : Nat → Option (Bool × Bool × Bool)
  | 0 => some (true, true, true)
  | 1 => some (true, true, false)
  | 2 => some (true, true, false)
  | 3 => some (true, true, false)
  | 4 => some (true, true, false)
  | 5 => some (true, true, false)
  | 6 => some (true, true, false)
  | 7 => some (true, true, false)
  | 8 => some (true, true, false)
  | 9 => some (true, true, false)
  | 10 => some (true, true, false)
  | 11 => some (true, true, false)
  | 12 => some (true, true, false)
  | 13 => some (true, true, false)
  | 14 => some (true, true, false)
  | 15 => some (true, true, false)
  | 16 => some (true, true, false)
  | 17 => some (true, true, false)
  | 18 => some (true, true, false)
  | 19 => some (true, true, false)
  | 20 => some (true, true, false)
  | 21 => some (true, true, false)
  | 22 => some (true, true, false)
  | 23 => some (true, true, false)
  | 24 => some (true, false, false)
  | 25 => some (true, false, false)
  | 26 => some (true, false, false)
  | 27 => some (true, false, false)
  | 28 => some (true, false, false)
  | 29 => some (true, false, false)
  | 30 => some (true, false, false)
  | 31 => some (true, false, false)
  | 32 => some (true, true, false)
  | 33 => some (false, true, true)
  | 34 => some (true, true, false)
  | 35 => some (true, false, false)
  | 36 => some (true, false, false)
  | 40 => some (true, false, false)
  | 41 => some (true, false, false)
  | 42 => some (true, false, false)
  | 43 => some (true, false, false)
  | 44 => some (true, false, false)
  | 45 => some (true, false, false)
  | 46 => some (true, false, false)
  | 47 => some (true, false, false)
  | 48 => some (true, false, false)
  | 49 => some (true, false, false)
  | 64 => some (true, true, false)
  | 65 => some (true, true, false)
  | 66 => some (true, false, false)
  | 67 => some (true, false, false)
  | 68 => some (true, false, false)
  | 69 => some (true, false, false)
  | 70 => some (true, false, false)
  | 71 => some (true, false, false)
  | 72 => some (true, false, false)
  | 73 => some (true, false, false)
  | 74 => some (true, false, false)
  | 75 => some (true, false, false)
  | 76 => some (true, false, false)
  | 77 => some (true, false, false)
  | 78 => some (true, false, false)
  | 79 => some (true, false, false)
  | 96 => some (true, true, false)
  | 97 => some (true, true, false)
  | 98 => some (true, true, false)
  | 99 => some (true, false, false)
  | 100 => some (true, true, false)
  | 101 => some (true, false, false)
  | 102 => some (true, false, false)
  | 103 => some (true, false, false)
  | 128 => some (true, false, true)
  | 129 => some (true, true, false)
  | 130 => some (true, false, false)
  | 131 => some (true, false, false)
  | 132 => some (true, false, false)
  | 133 => some (true, false, false)
  | 136 => some (true, false, false)
  | 137 => some (true, false, false)
  | 138 => some (true, false, false)
  | 139 => some (true, false, false)
  | 140 => some (true, false, false)
  | 141 => some (true, false, false)
  | 142 => some (true, false, false)
  | 143 => some (true, false, false)
  | 144 => some (true, false, false)
  | 145 => some (true, false, false)
  | 146 => some (true, false, false)
  | 147 => some (true, false, false)
  | 148 => some (true, false, false)
  | 149 => some (true, false, false)
  | 150 => some (true, false, false)
  | 151 => some (true, false, false)
  | 152 => some (true, false, false)
  | 153 => some (true, false, false)
  | 154 => some (true, false, false)
  | 155 => some (true, false, false)
  | 156 => some (true, false, false)
  | 157 => some (true, false, false)
  | 158 => some (true, false, false)
  | 159 => some (true, false, false)
  | 160 => some (true, false, false)
  | 161 => some (true, false, false)
  | 162 => some (true, false, false)
  | 163 => some (true, false, false)
  | 164 => some (true, false, false)
  | 176 => some (true, false, false)
  | 177 => some (false, false, true)
  | 178 => some (false, false, true)
  | 179 => some (true, false, true)
  | 180 => some (true, false, true)
  | 192 => some (false, true, true)
  | 193 => some (false, true, true)
  | 194 => some (true, false, false)
  | 195 => some (true, false, false)
  | 196 => some (true, true, false)
  | 197 => some (true, false, false)
  | 198 => some (true, false, false)
  | 199 => some (true, false, false)
  | 200 => some (true, false, false)
  | 208 => some (true, false, false)
  | 209 => some (true, false, false)
  | 210 => some (true, false, false)
  | 211 => some (false, false, true)
  | 212 => some (true, false, false)
  | 213 => some (true, false, false)
  | 214 => some (true, false, false)
  | 215 => some (true, false, false)
  | 216 => some (true, false, false)
  | 217 => some (true, false, false)
  | 218 => some (true, false, false)
  | 219 => some (true, false, false)
  | 220 => some (true, false, false)
  | 224 => some (true, false, false)
  | 225 => some (true, false, false)
  | 226 => some (true, false, false)
  | 227 => some (true, false, false)
  | 228 => some (true, false, false)
  | 229 => some (true, true, false)
  | 230 => some (true, false, false)
  | 231 => some (true, false, true)
  | 232 => some (true, false, false)
  | 233 => some (true, false, false)
  | 234 => some (true, false, false)
  | 235 => some (true, false, false)
  | 236 => some (true, false, false)
  | 237 => some (true, false, false)
  | _ => none

/-- OP 0x00 to 0x0F. -/
def decRow0 (b : Base) (e : Ext) : Nat → Except Reject Instr
  | 0 => checked true (resNone b 0) true true
    (.nop b.m (match e with | .none => .none | .imm v => .imm v | .ext v => .ext v))
  | 1 => dec2 b e .add
  | 2 => dec2 b e .sub
  | 3 => dec2 b e .and
  | 4 => dec2 b e .or
  | 5 => dec2 b e .xor
  | 6 => dec2 b e .andn
  | 7 => dec2 b e .shl
  | 8 => dec2 b e .shr
  | 9 => dec2 b e .sar
  | 10 => dec2 b e .rot
  | 11 => dec2 b e .min
  | 12 => dec2 b e .max
  | 13 => dec2 b e .minu
  | 14 => dec2 b e .maxu
  | 15 => dec2 b e .adds
  | _ => .error .unassigned

/-- OP 0x10 to 0x1F. -/
def decRow1 (b : Base) (e : Ext) : Nat → Except Reject Instr
  | 0 => dec2 b e .subs
  | 1 => dec2 b e .mul
  | 2 => decMulh b e .mulh
  | 3 => decMulh b e .mulhu
  | 4 => dec2 b e .div
  | 5 => dec2 b e .divu
  | 6 => dec2 b e .rem
  | 7 => dec2 b e .remu
  | 8 => dec1 b .clz
  | 9 => dec1 b .ctz
  | 10 => dec1 b .popc
  | 11 => dec1 b .brev
  | 12 => checked (fieldOk (b.fn.extractLsb' 0 6) (b.fn.extractLsb' 6 6)) (resDA b 12) (isG b.dst && isG b.sa) true
    (.extr b.m (gOf b.dst) (gOf b.sa) (b.fn.extractLsb' 0 6) (b.fn.extractLsb' 6 6))
  | 13 => checked (fieldOk (b.fn.extractLsb' 0 6) (b.fn.extractLsb' 6 6)) (fnRes b 12 && z6 b.sc)
    (isG b.dst && isG b.sa && isG b.sb) true
    (.insr b.m (gOf b.dst) (gOf b.sa) (gOf b.sb) (b.fn.extractLsb' 0 6) (b.fn.extractLsb' 6 6))
  | 14 => checked true (resDA b 12 && b.fn.extractLsb' 0 6 = 0) (isG b.dst && isG b.sa) true
    (.sext b.m (gOf b.dst) (gOf b.sa) (b.fn.extractLsb' 6 6))
  | 15 => checked true (resDA b 12 && b.fn.extractLsb' 0 6 = 0) (isG b.dst && isG b.sa) true
    (.zext b.m (gOf b.dst) (gOf b.sa) (b.fn.extractLsb' 6 6))
  | _ => .error .unassigned

/-- OP 0x20 to 0x2F. -/
def decRow2 (b : Base) (e : Ext) : Nat → Except Reject Instr
  | 0 => match e with
    | .imm v => checked true (resDA b 0) (isG b.dst && isG b.sa) true (.lea b.m (gOf b.dst) (gOf b.sa) (.imm v))
    | _ => checked true (fnRes b 2 && z6 b.sc) (isG b.dst && isG b.sa && isG b.sb) true
        (.lea b.m (gOf b.dst) (gOf b.sa) (.idx (gOf b.sb) (b.fn.extractLsb' 0 2)))
  | 1 => checked true (resDA b 0 && z6 b.sa) (isG b.dst) true
    (.movi b.m (gOf b.dst) (match e with | .ext v => .w64 v | .imm v => .w32 v | .none => .w32 0))
  | 2 => checked (b.fn.extractLsb' 1 4 ≤ 9) (fnRes b 5 && z6 b.sc && srcRes b e) (isQ b.dst && isG b.sa && srcKind b e) true
    (.cmp b.m (rOf b.dst) (gOf b.sa) (srcOf b e) (b.fn.getLsbD 0) (b.fn.extractLsb' 1 4))
  | 3 => checked true (fnRes b 0) (isG b.dst && isG b.sa && isG b.sb && isQ b.sc) true
    (.csel b.m (gOf b.dst) (rOf b.sc) (gOf b.sa) (gOf b.sb))
  | 4 => checked true (fnRes b 4 && z6 b.sc) (isQ b.dst && isQ b.sa && isQ b.sb) true
    (.qop b.m (rOf b.dst) (rOf b.sa) (rOf b.sb) (b.fn.extractLsb' 0 4))
  | 8 => decF2 b rmArith .fadd
  | 9 => decF2 b rmArith .fsub
  | 10 => decF2 b rmArith .fmul
  | 11 => checked (rmArith (b.fn.extractLsb' 0 3)) (fnRes b 3) (isG b.dst && isG b.sa && isG b.sb && isG b.sc) true
    (.ffma b.m (gOf b.dst) (gOf b.sa) (gOf b.sb) (gOf b.sc) (b.fn.extractLsb' 0 3))
  | 12 => decF2 b rmNone .fmin
  | 13 => decF2 b rmNone .fmax
  | 14 => decF2 b rmArith .fdiv
  | 15 => checked (rmArith (b.fn.extractLsb' 0 3)) (resDA b 3) (isG b.dst && isG b.sa) true
    (.fsqrt b.m (gOf b.dst) (gOf b.sa) (b.fn.extractLsb' 0 3))
  | _ => .error .unassigned

/-- OP 0x30 to 0x3F. -/
def decRow3 (b : Base) (_ : Ext) : Nat → Except Reject Instr
  | 0 => checked (fcondOk (b.fn.extractLsb' 1 4)) (fnRes b 5 && !b.fn.getLsbD 0 && z6 b.sc) (isQ b.dst && isG b.sa && isG b.sb) true
    (.fcmp b.m (rOf b.dst) (gOf b.sa) (gOf b.sb) (b.fn.extractLsb' 1 4))
  | 1 => checked (cvtOk (b.fn.extractLsb' 0 3) (b.fn.extractLsb' 3 4) (b.fn.extractLsb' 7 4) (b.fn.extractLsb' 11 2)) (resDA b 13)
    (isG b.dst && isG b.sa) true
    (.fcvt b.m (gOf b.dst) (gOf b.sa) (b.fn.extractLsb' 0 3) (b.fn.extractLsb' 3 4) (b.fn.extractLsb' 7 4) (b.fn.extractLsb' 11 2))
  | _ => .error .unassigned

/-- OP 0x40 to 0x4F. -/
def decRow4 (b : Base) (e : Ext) : Nat → Except Reject Instr
  | 0 => match e with
    | .imm v => checked true (resNone b 0) true true (.br b.m (.long v))
    | _ => checked true (z6 b.dst && z6 b.sa && z6 b.sb && z6 b.sc) true true (.br b.m (.short b.fn))
  | 1 => match e with
    | .imm v => checked true (fnRes b 0 && z6 b.sa && z6 b.sb && z6 b.sc) (isG b.dst) true (.call b.m (gOf b.dst) (.long v))
    | _ => checked true (z6 b.sa && z6 b.sb && z6 b.sc) (isG b.dst) true (.call b.m (gOf b.dst) (.short b.fn))
  | 2 => checked true (resDA b 0) (isG b.dst && isG b.sa) true (.jmp b.m (gOf b.dst) (gOf b.sa))
  | 3 => decA b .ret
  | 4 => checked (1 ≤ b.fn.extractLsb' 0 4 && b.fn.extractLsb' 0 4 ≤ 8) (resA b 7) (isG b.sa) true
    (.rep b.m (gOf b.sa) (b.fn.extractLsb' 0 4) (b.fn.extractLsb' 4 3))
  | 5 => decNone b (.yield b.m)
  | 6 => decNone b (.halt b.m)
  | 7 => decCode b .trap
  | 8 => decCode b .brk
  | 9 => decNone b (.eret b.m)
  | 10 => decCode b .sysc
  | 11 => checked true (fnRes b 12 && z6 b.sa && z6 b.sb && z6 b.sc) (isG b.dst) true (.mfs b.m (gOf b.dst) (b.fn.extractLsb' 0 12))
  | 12 => checked true (resA b 12) (isG b.sa) true (.mts b.m (gOf b.sa) (b.fn.extractLsb' 0 12))
  | 13 => checked (b.fn.extractLsb' 0 2 ≠ 3) (resA b 2 && (b.fn.extractLsb' 0 2 = 0 || z6 b.sa)) (isG b.sa) true
    (.atinv b.m (gOf b.sa) (b.fn.extractLsb' 0 2))
  | 14 => let fn := b.fn.extractLsb' 0 2
    checked (fn ≠ 3) (fnRes b 2 && z6 b.sb && z6 b.sc) (isQ b.sa && (if fn = 2 then isG b.dst else isQ b.dst)) true
      (.gvote b.m (if fn = 2 then .ballot (gOf b.dst) else if fn = 1 then .all (rOf b.dst) else .any (rOf b.dst)) (rOf b.sa))
  | 15 => decNone b (.gsplit b.m)
  | _ => .error .unassigned

/-- OP 0x60 to 0x6F. -/
def decRow6 (b : Base) (e : Ext) : Nat → Except Reject Instr
  | 0 => decLd b e .ld
  | 1 => checked (!b.fn.getLsbD 2 && memFnOk b.fn e) (memRes b && z6 b.dst) (memKind b && isG b.sc) true
    (.st b.m (gOf b.sa) (memOf b e) (gOf b.sc) (b.fn.extractLsb' 0 2) (b.fn.extractLsb' 6 5))
  | 2 => decLd b e .ldro
  | 3 => decNone b (.roinv b.m)
  | 4 => checked (b.fn.extractLsb' 0 3 = 0 && b.fn.extractLsb' 6 5 = 0 && memFnOk b.fn e) (memRes b && z6 b.dst && z6 b.sc)
    (memKind b) true (.pref b.m (gOf b.sa) (memOf b e))
  | 5 => checked (amoOk (b.fn.extractLsb' 0 4) (b.fn.extractLsb' 4 2) (b.fn.extractLsb' 9 5) (b.fn.extractLsb' 14 2))
    (fnRes b 16 && (b.fn.extractLsb' 0 4 = 11 || z6 b.sc)) (isG b.dst && isG b.sa && isG b.sb && isG b.sc) true
    (.amo b.m (gOf b.dst) (gOf b.sa) (gOf b.sb) (gOf b.sc) (b.fn.extractLsb' 0 4) (b.fn.extractLsb' 4 2) (b.fn.extractLsb' 6 3)
      (b.fn.extractLsb' 9 5) (b.fn.extractLsb' 14 2))
  | 6 => checked (amoOk (b.fn.extractLsb' 0 4) (b.fn.extractLsb' 4 2) (b.fn.extractLsb' 9 5) (b.fn.extractLsb' 14 2)
      && b.fn.extractLsb' 0 4 ≤ 9 && b.fn.extractLsb' 6 3 = 0)
    (fnRes b 16 && z6 b.dst && z6 b.sc) (isG b.sa && isG b.sb) true
    (.red b.m (gOf b.sa) (gOf b.sb) (b.fn.extractLsb' 0 4) (b.fn.extractLsb' 4 2) (b.fn.extractLsb' 9 5) (b.fn.extractLsb' 14 2))
  | 7 => checked (b.fn.extractLsb' 0 2 ≠ 3) (resNone b 2) true true (.fence b.m (b.fn.extractLsb' 0 2))
  | _ => .error .unassigned

/-- OP 0x80 to 0x8F. -/
def decRow8 (b : Base) (e : Ext) : Nat → Except Reject Instr
  | 0 => match e with
    | .ext v => checked true (resDA b 0 && z6 b.sa) (isP b.dst) true (.pset b.m (rOf b.dst) (.imm v))
    | _ => checked true (resDA b 0) (isP b.dst && isG b.sa) true (.pset b.m (rOf b.dst) (.reg (gOf b.sa)))
  | 1 => match e with
    | .imm v => checked true (resDA b 0 && z6 b.sa) (isP b.dst) true (.padv b.m (rOf b.dst) (.imm v))
    | _ => checked true (resDA b 0) (isP b.dst && isG b.sa) true (.padv b.m (rOf b.dst) (.reg (gOf b.sa)))
  | 2 => checked true (fnRes b 0 && z6 b.dst) (isG b.sa && isG b.sb && isG b.sc) true
    (.smap b.m (gOf b.sa) (gOf b.sb) (gOf b.sc))
  | 3 => decA b .sunmap
  | 4 => decA b .sflush
  | 5 => decA b .sinv
  | 8 => checked (vecFmtOk (vFmt b) && rmNone (vRm b)) (vRes0 b && z6 b.sb) (isA b.dst && isP b.sa && isM b.sc) true
    (.vlda b.m (rOf b.dst) (rOf b.sa) (rOf b.sc) (vFmt b) (vRm b))
  | 9 => checked (vecFmtOk (vFmt b) && rmNone (vRm b)) (vRes0 b && z6 b.dst) (isP b.sa && isA b.sb && isM b.sc) true
    (.vsta b.m (rOf b.sa) (rOf b.sb) (rOf b.sc) (vFmt b) (vRm b))
  | 10 => decV2 b rmLane .vadd
  | 11 => decV2 b rmLane .vsub
  | 12 => decV2 b rmLane .vmul
  | 13 => decV2 b rmLane .vfma
  | 14 => decV2 b (fun _ r => rmNone r) .vmin
  | 15 => decV2 b (fun _ r => rmNone r) .vmax
  | _ => .error .unassigned

/-- OP 0x90 to 0x9F. -/
def decRow9 (b : Base) (_ : Ext) : Nat → Except Reject Instr
  | 0 => decV1 b .vabs
  | 1 => checked (vcvtOk (b.fn.extractLsb' 0 3) (b.fn.extractLsb' 3 4) (b.fn.extractLsb' 7 4) (b.fn.extractLsb' 11 2))
    (fnRes b 13 && z6 b.sb) (isA b.dst && isV b.sa && isM b.sc) true
    (.vcvt b.m (rOf b.dst) (vOf b.sa) (rOf b.sc) (b.fn.extractLsb' 0 3) (b.fn.extractLsb' 3 4) (b.fn.extractLsb' 7 4) (b.fn.extractLsb' 11 2))
  | 2 => checked (vecFmtOk (vFmt b) && rmNone (vRm b) && (if fmtFloat (vFmt b) then fcondOk (vFunc b) else vFunc b ≤ 9)) (vRes b)
    (isM b.dst && isV b.sa && isV b.sb && isM b.sc) true
    (.vcmp b.m (rOf b.dst) (vOf b.sa) (vOf b.sb) (rOf b.sc) (vFmt b) (vRm b) (vFunc b))
  | 3 => decV2 b (fun _ r => rmNone r) .vsel
  | 4 => checked (vecFmtOk (vFmt b) && rmNone (vRm b) && vFunc b ≤ 10) (vRes b && z6 b.sb) (isG b.dst && isV b.sa && isM b.sc) true
    (.vred b.m (gOf b.dst) (vOf b.sa) (rOf b.sc) (vFmt b) (vRm b) (vFunc b))
  | 5 => decV2 b (fun _ r => rmNone r) .vperm
  | 6 => decVg b .vbcast
  | 7 => checked (fmtFloat (vFmt b) && rmArith (vRm b) && vFunc b ≤ 4) (vRes b && z6 b.sb) (isA b.dst && isV b.sa && isM b.sc) true
    (.vspec b.m (rOf b.dst) (vOf b.sa) (rOf b.sc) (vFmt b) (vRm b) (vFunc b))
  | 8 => decV2 b (fun _ r => rmNone r) .vand
  | 9 => decV2 b (fun _ r => rmNone r) .vor
  | 10 => decV2 b (fun _ r => rmNone r) .vxor
  | 11 => decV2 b (fun _ r => rmNone r) .vshl
  | 12 => decV2 b (fun _ r => rmNone r) .vshr
  | 13 => checked (vecFmtOk (vFmt b) && rmNone (vRm b)) (vRes0 b) (isA b.dst && isG b.sa && isA b.sb && isM b.sc) true
    (.vgath b.m (rOf b.dst) (gOf b.sa) (rOf b.sb) (rOf b.sc) (vFmt b) (vRm b))
  | 14 => checked (vecFmtOk (vFmt b) && rmNone (vRm b)) (vRes0 b) (isA b.dst && isG b.sa && isA b.sb && isM b.sc) true
    (.vscat b.m (gOf b.sa) (rOf b.sb) (rOf b.dst) (rOf b.sc) (vFmt b) (vRm b))
  | 15 => decV1 b .vmova
  | _ => .error .unassigned

/-- OP 0xA0 to 0xAF. -/
def decRowA (b : Base) (_ : Ext) : Nat → Except Reject Instr
  | 0 => decVg b .viota
  | 1 => checked ((vFmt b = 0 || vFmt b = 8) && rmNone (vRm b)) (vFunc b = 0 && fnRes b 16 && z6 b.sb && z6 b.sc)
    (isG b.dst && isA b.sa) true (.vextr b.m (gOf b.dst) (rOf b.sa) (b.fn.extractLsb' 11 5) (vFmt b) (vRm b))
  | 2 => checked ((vFmt b = 0 || vFmt b = 8) && rmNone (vRm b)) (vFunc b = 0 && fnRes b 16 && z6 b.sb && z6 b.sc)
    (isA b.dst && isG b.sa) true (.vins b.m (rOf b.dst) (gOf b.sa) (b.fn.extractLsb' 11 5) (vFmt b) (vRm b))
  | 3 => if b.fn.getLsbD 4 then
      checked true (b.fn.extractLsb' 0 4 = 0 && fnRes b 5 && z6 b.sb && z6 b.sc) (isM b.dst && isG b.sa) true
        (.mkopReg b.m (rOf b.dst) (gOf b.sa))
    else checked true (fnRes b 5 && z6 b.sc) (isM b.dst && isM b.sa && isM b.sb) true
        (.mkopTt b.m (rOf b.dst) (rOf b.sa) (rOf b.sb) (b.fn.extractLsb' 0 4))
  | 4 => checked (b.fn.extractLsb' 0 2 ≠ 3) (resDA b 2) (isG b.dst && isM b.sa) true
    (.mkpop b.m (gOf b.dst) (rOf b.sa) (b.fn.extractLsb' 0 2))
  | _ => .error .unassigned

/-- OP 0xB0 to 0xBF. -/
def decRowB (b : Base) (e : Ext) : Nat → Except Reject Instr
  | 0 => checked true (resNone b 2) true true (.mxz b.m (b.fn.extractLsb' 0 2))
  | 1 => checked true (fnRes b 6 && tokRes b.fn && z6 b.dst) (isG b.sa && isG b.sb && isG b.sc) true
    (.mxmul b.m (b.fn.extractLsb' 0 2) (tokOf b.fn) (gOf b.sa) (gOf b.sb) (gOf b.sc) (extLo e) (extHi e))
  | 2 => checked (b.fn.extractLsb' 6 2 ≠ 3) (fnRes b 8 && tokRes b.fn) (isG b.sa && isG b.sb && isG b.sc && isG b.dst) true
    (.mxq b.m (b.fn.extractLsb' 0 2) (tokOf b.fn) (gOf b.sa) (gOf b.sb) (gOf b.sc) (gOf b.dst) (b.fn.extractLsb' 6 2) (extLo e) (extHi e))
  | 3 => checked (b.fn.extractLsb' 6 4 ≤ 4 && rmNarrow (b.fn.extractLsb' 10 3) && ovOk (b.fn.extractLsb' 6 4) (b.fn.extractLsb' 13 2))
    (fnRes b 15 && tokRes b.fn && z6 b.sb && z6 b.sc && shapeRes e) (isG b.sa && isG b.dst) true
    (.mxdrn b.m (b.fn.extractLsb' 0 2) (tokOf b.fn) (gOf b.sa) (gOf b.dst) (b.fn.extractLsb' 6 4) (b.fn.extractLsb' 10 3)
      (b.fn.extractLsb' 13 2) (shapeOf e))
  | 4 => checked (b.fn.extractLsb' 6 4 ≤ 4) (resA b 10 && tokRes b.fn && shapeRes e) (isG b.sa) true
    (.mxldx b.m (b.fn.extractLsb' 0 2) (tokOf b.fn) (gOf b.sa) (b.fn.extractLsb' 6 4) (shapeOf e))
  | _ => .error .unassigned

/-- OP 0xC0 to 0xCF. -/
def decRowC (b : Base) (e : Ext) : Nat → Except Reject Instr
  | 0 => checked (cpyModeOk (cpyModeOf b.fn)) (cpyRes b.fn && cpyLenRes e && cpyLenOk (gOf b.sb) (cpyLenOf e))
    (isG b.dst && isG b.sa && isG b.sb && isG b.sc) (cpyDetOk (cpyModeOf b.fn) (gOf b.sc))
    (.cpy b.m (gOf b.dst) (gOf b.sa) (gOf b.sb) (gOf b.sc) (cpyModeOf b.fn) (cpyLenOf e))
  | 1 => checked (cpyModeOk (cpyModeOf b.fn)) (cpyRes b.fn)
    (isG b.dst && isG b.sa && isG b.sb && isG b.sc) (cpyDetOk (cpyModeOf b.fn) (gOf b.sc))
    (.cpy2d b.m (gOf b.dst) (gOf b.sa) (gOf b.sb) (gOf b.sc) (cpyModeOf b.fn) (strideOf e))
  | 2 => checked true (fnRes b 8 && z6 b.sa && z6 b.sb) (isQ b.dst && isG b.sc) true
    (.twait b.m (rOf b.dst) (b.fn.extractLsb' 0 8) (gOf b.sc))
  | 3 => checked true (fnRes b 8 && z6 b.sa && z6 b.sb) (isQ b.dst && isG b.sc) true
    (.ttest b.m (rOf b.dst) (b.fn.extractLsb' 0 8) (gOf b.sc))
  | 4 => match e with
    | .imm v => checked true (fnRes b 0 && z6 b.sc && v.extractLsb' 16 16 = 0) (isG b.dst && isG b.sa && isG b.sb) true
        (.disp b.m (gOf b.dst) (gOf b.sa) (gOf b.sb) (.imm (v.extractLsb' 0 16)))
    | _ => checked true (fnRes b 0) (isG b.dst && isG b.sa && isG b.sb && isG b.sc) true
        (.disp b.m (gOf b.dst) (gOf b.sa) (gOf b.sb) (.reg (gOf b.sc)))
  | 5 => checked (b.fn.getLsbD 2) (resNone b 6 && b.fn.extractLsb' 0 2 = 0) true true (.dflush b.m (b.fn.extractLsb' 3 3))
  | 6 => checked (1 ≤ b.fn.extractLsb' 0 4 && b.fn.extractLsb' 0 4 ≤ 8) (resA b 5) (isG b.sa) true
    (.mbpost b.m (gOf b.sa) (b.fn.extractLsb' 0 4) (b.fn.getLsbD 4))
  | 7 => checked true (resDA b 3 && z6 b.sa) (isG b.dst) true (.mbtake b.m (gOf b.dst) (b.fn.extractLsb' 0 3))
  | 8 => checked (b.fn.extractLsb' 0 13 ≠ 0 && b.fn.extractLsb' 13 3 ≠ 7) (fnRes b 16 && z6 b.dst) (isG b.sa && isG b.sb && isG b.sc) true
    (.lbset b.m (gOf b.sa) (gOf b.sb) (gOf b.sc) (b.fn.extractLsb' 0 13) (b.fn.extractLsb' 13 3))
  | _ => .error .unassigned

/-- OP 0xD0 to 0xDF. -/
def decRowD (b : Base) (e : Ext) : Nat → Except Reject Instr
  | 0 => checked (b.fn.extractLsb' 1 2 ≠ 3) (fnRes b 3) (isG b.dst && isG b.sa && isG b.sb && isG b.sc) true
    (.onew b.m (gOf b.dst) (gOf b.sa) (gOf b.sb) (gOf b.sc) (b.fn.getLsbD 0) (b.fn.extractLsb' 1 2))
  | 1 => decA b .odel
  | 2 => checked true (fnRes b 0 && z6 b.dst && z6 b.sc) (isG b.sa && isG b.sb) true (.omove b.m (gOf b.sa) (gOf b.sb))
  | 3 => let narg := b.fn.extractLsb' 0 3
    checked (narg ≠ 7) (fnRes b 12 && (extHi e = 0 && (extLo e).extractLsb' 8 24 = 0))
      (isG b.dst && isG b.sa && isG b.sb && isG b.sc) (invkOk (gOf b.sb) (gOf b.sc) narg (b.fn.getLsbD 6))
      (.invk b.m (gOf b.dst) (gOf b.sa) (gOf b.sb) (gOf b.sc) narg (b.fn.getLsbD 3) (b.fn.extractLsb' 4 2) (b.fn.getLsbD 6)
        (b.fn.extractLsb' 7 5) ((extLo e).extractLsb' 0 8))
  | 4 => checked true (fnRes b 1) (isG b.dst && isG b.sa && isG b.sb && isQ b.sc) true
    (.await b.m (gOf b.dst) (gOf b.sa) (gOf b.sb) (rOf b.sc) (b.fn.getLsbD 0))
  | 5 => checked (b.fn.extractLsb' 0 2 ≠ 3) (resDA b 2) (isG b.dst && isG b.sa) true
    (.htest b.m (gOf b.dst) (gOf b.sa) (b.fn.extractLsb' 0 2))
  | 6 => checked (rslvOk (b.fn.extractLsb' 0 2) (b.fn.extractLsb' 2 7)) (resA b 9) (isG b.sa) true
    (.rslv b.m (gOf b.sa) (b.fn.extractLsb' 0 2) (b.fn.extractLsb' 2 7))
  | 7 => checked (128 ≤ b.fn.extractLsb' 0 8) (resA b 8) (isG b.sa) true (.hbrk b.m (gOf b.sa) (b.fn.extractLsb' 0 8))
  | 8 => decA b .hfree
  | 9 => checked true (fnRes b 0 && z6 b.dst && z6 b.sc) (isG b.sa && isG b.sb) true (.rgopen b.m (gOf b.sa) (gOf b.sb))
  | 10 => decA b .rgclose
  | 11 => checked true (resDA b 2) (isG b.dst && isG b.sa) true (.rgqry b.m (gOf b.dst) (gOf b.sa) (b.fn.extractLsb' 0 2))
  | 12 => checked true (resA b 8) (isG b.sa) true (.rgfail b.m (gOf b.sa) (b.fn.extractLsb' 0 8))
  | _ => .error .unassigned

/-- OP 0xE0 to 0xEF. -/
def decRowE (b : Base) (e : Ext) : Nat → Except Reject Instr
  | 0 => checked (b.fn.extractLsb' 0 2 ≠ 3) (resA b 2) (isG b.sa) true (.phreg b.m (gOf b.sa) (b.fn.extractLsb' 0 2))
  | 1 => decA b .phdrop
  | 2 => decA b .pharr
  | 3 => checked true (fnRes b 0) (isQ b.dst && isG b.sa && isG b.sb && isG b.sc) true
    (.phwait b.m (rOf b.dst) (gOf b.sa) (gOf b.sb) (gOf b.sc))
  | 4 => checked true (fnRes b 0) (isQ b.dst && isG b.sa && isG b.sb && isG b.sc) true
    (.phaw b.m (rOf b.dst) (gOf b.sa) (gOf b.sb) (gOf b.sc))
  | 5 => checked (b.fn.extractLsb' 0 2 ≠ 3) (fnRes b 2 && z6 b.dst && z6 b.sc && srcRes b e) (isG b.sa && srcKind b e) true
    (.ctadd b.m (gOf b.sa) (srcOf b e) (b.fn.extractLsb' 0 2))
  | 6 => decDA b .ctrd
  | 7 => match e with
    | .ext v => checked true (fnRes b 0 && z6 b.sc) (isQ b.dst && isG b.sa && isG b.sb) true
        (.ctwait b.m (rOf b.dst) (gOf b.sa) (gOf b.sb) (.imm v))
    | _ => checked true (fnRes b 0) (isQ b.dst && isG b.sa && isG b.sb && isG b.sc) true
        (.ctwait b.m (rOf b.dst) (gOf b.sa) (gOf b.sb) (.reg (gOf b.sc)))
  | 8 => decDA b .trpost
  | 9 => checked true (resDA b 0) (isQ b.dst && isG b.sa) true (.trcan b.m (rOf b.dst) (gOf b.sa))
  | 10 => checked true (resDA b 2) (isG b.dst && isG b.sa) true (.coll b.m (gOf b.dst) (gOf b.sa) (b.fn.getLsbD 0) (b.fn.getLsbD 1))
  | 11 => decDA b .siadv
  | 12 => decDA b .siret
  | 13 => checked true (resDA b 0 && z6 b.sa) (isG b.dst) true (.phnew b.m (gOf b.dst))
  | _ => .error .unassigned

/-- The rows of the opcode map. -/
def decRows (b : Base) (e : Ext) : Nat → Nat → Except Reject Instr
  | 0, lo => decRow0 b e lo
  | 1, lo => decRow1 b e lo
  | 2, lo => decRow2 b e lo
  | 3, lo => decRow3 b e lo
  | 4, lo => decRow4 b e lo
  | 6, lo => decRow6 b e lo
  | 8, lo => decRow8 b e lo
  | 9, lo => decRow9 b e lo
  | 10, lo => decRowA b e lo
  | 11, lo => decRowB b e lo
  | 12, lo => decRowC b e lo
  | 13, lo => decRowD b e lo
  | 14, lo => decRowE b e lo
  | _, _ => .error .unassigned

/-- R75 steps 4, 5 and 7 to 10 on the fields. -/
def decodeFields (b : Base) (e : Ext) : Except Reject Instr :=
  match opLens b.op.toNat with
  | none => .error .unassigned
  | some (l64, l96, l128) =>
    if (match e with | .none => l64 | .imm _ => l96 | .ext _ => l128)
    then decRows b e (b.op.toNat / 16) (b.op.toNat % 16)
    else .error .badLength

/-! ## Bytes (R62) -/

/-- A little-endian number. -/
def leNat : List Byte → Nat
  | [] => 0
  | x :: xs => x.toNat + 256 * leNat xs
/-- The n low bytes of a number, little-endian. -/
def leBytes : Nat → Nat → List Byte
  | 0, _ => []
  | n + 1, v => BitVec.ofNat 8 v :: leBytes n (v / 256)

/-- R62, R68: the length in bytes that the first byte gives; none for LEN = 11. -/
def lenOfFirst (x : Byte) : Option Nat :=
  match x.toNat % 4 with
  | 0 => some 8
  | 1 => some 12
  | 2 => some 16
  | _ => none

/-- The decoder on the words of one instruction: the base word and what follows it. -/
def decodeWords (w : BitVec 64) (rest : Nat) : Except Reject Instr :=
  match w.toNat % 4 with
  | 0 => decodeFields (Base.ofWord w) .none
  | 1 => decodeFields (Base.ofWord w) (.imm (BitVec.ofNat 32 rest))
  | 2 => decodeFields (Base.ofWord w) (.ext (BitVec.ofNat 64 rest))
  | _ => .error .badMarker

/-- The decoder, total on any bytes: the instruction and its length. -/
def decodeBytes (bs : List Byte) : Except Reject (Instr × Nat) :=
  match bs with
  | [] => .error .short
  | x :: _ =>
    match lenOfFirst x with
    | none => .error .badMarker
    | some n =>
      if bs.length < n then .error .short
      else (decodeWords (BitVec.ofNat 64 (leNat (bs.take 8))) (leNat ((bs.take n).drop 8))).map (fun i => (i, n))

/-- The instruction that the decoder reads from an instruction whose bits are `w`, bit 0 the least significant bit of its first
byte (R62); the bits above `nbits` are 0. -/
def decodeTableWord (nbits w : Nat) : Option Instr :=
  match decodeBytes (leBytes 16 (w % 2 ^ nbits)) with
  | .ok (i, _) => some i
  | .error _ => none

/-! ## The encoder -/

def srcSpec : Src → BitVec 6
  | .reg r => specG r
  | .imm _ => 0
def srcExt : Src → Ext
  | .reg _ => .none
  | .imm v => .imm v
def memFn : MemOff → BitVec 10 × BitVec 2 × BitVec 1
  | .off o => (o, 0, 0)
  | .idx _ sh => (0, sh, 1)
  | .imm _ => (0, 0, 0)
def memSpec : MemOff → BitVec 6
  | .idx gb _ => specG gb
  | _ => 0
def memExt : MemOff → Ext
  | .imm v => .imm v
  | _ => .none
/-- R117. -/
def memFnBits (mo : MemOff) (ctr : GReg) (s : Bool) (sz : BitVec 2) : BitVec 23 :=
  (memFn mo).1 ++ 0#2 ++ ctr ++ (memFn mo).2.1 ++ (memFn mo).2.2 ++ boolBit s ++ sz
/-- R130. -/
def vFn (func : BitVec 4) (rm : BitVec 3) (fmt : BitVec 4) : BitVec 23 := 0#12 ++ func ++ rm ++ fmt
/-- R105. -/
def cvtFn (ov : BitVec 2) (sf df : BitVec 4) (rm : BitVec 3) : BitVec 23 := 0#10 ++ ov ++ sf ++ df ++ rm
/-- W alone in FN[0]. -/
def wFn (w : Bool) : BitVec 23 := 0#22 ++ boolBit w
def low23 {n : Nat} (v : BitVec n) : BitVec 23 := v.setWidth 23

/-- The fields of an instruction, from the encoding tables. A device event has no encoding: none. -/
def encodeFields : Instr → Option (Base × Ext)
  | .nop m x => some (⟨m, 0, 0, 0, 0, 0, 0⟩, (match x with | .none => .none | .imm v => .imm v | .ext v => .ext v))
  | .add m gd ga y w => some (⟨m, 1, specG gd, specG ga, srcSpec y, 0, wFn w⟩, srcExt y)
  | .sub m gd ga y w => some (⟨m, 2, specG gd, specG ga, srcSpec y, 0, wFn w⟩, srcExt y)
  | .and m gd ga y w => some (⟨m, 3, specG gd, specG ga, srcSpec y, 0, wFn w⟩, srcExt y)
  | .or m gd ga y w => some (⟨m, 4, specG gd, specG ga, srcSpec y, 0, wFn w⟩, srcExt y)
  | .xor m gd ga y w => some (⟨m, 5, specG gd, specG ga, srcSpec y, 0, wFn w⟩, srcExt y)
  | .andn m gd ga y w => some (⟨m, 6, specG gd, specG ga, srcSpec y, 0, wFn w⟩, srcExt y)
  | .shl m gd ga y w => some (⟨m, 7, specG gd, specG ga, srcSpec y, 0, wFn w⟩, srcExt y)
  | .shr m gd ga y w => some (⟨m, 8, specG gd, specG ga, srcSpec y, 0, wFn w⟩, srcExt y)
  | .sar m gd ga y w => some (⟨m, 9, specG gd, specG ga, srcSpec y, 0, wFn w⟩, srcExt y)
  | .rot m gd ga y w => some (⟨m, 10, specG gd, specG ga, srcSpec y, 0, wFn w⟩, srcExt y)
  | .min m gd ga y w => some (⟨m, 11, specG gd, specG ga, srcSpec y, 0, wFn w⟩, srcExt y)
  | .max m gd ga y w => some (⟨m, 12, specG gd, specG ga, srcSpec y, 0, wFn w⟩, srcExt y)
  | .minu m gd ga y w => some (⟨m, 13, specG gd, specG ga, srcSpec y, 0, wFn w⟩, srcExt y)
  | .maxu m gd ga y w => some (⟨m, 14, specG gd, specG ga, srcSpec y, 0, wFn w⟩, srcExt y)
  | .adds m gd ga y w => some (⟨m, 15, specG gd, specG ga, srcSpec y, 0, wFn w⟩, srcExt y)
  | .subs m gd ga y w => some (⟨m, 16, specG gd, specG ga, srcSpec y, 0, wFn w⟩, srcExt y)
  | .mul m gd ga y w => some (⟨m, 17, specG gd, specG ga, srcSpec y, 0, wFn w⟩, srcExt y)
  | .div m gd ga y w => some (⟨m, 20, specG gd, specG ga, srcSpec y, 0, wFn w⟩, srcExt y)
  | .divu m gd ga y w => some (⟨m, 21, specG gd, specG ga, srcSpec y, 0, wFn w⟩, srcExt y)
  | .rem m gd ga y w => some (⟨m, 22, specG gd, specG ga, srcSpec y, 0, wFn w⟩, srcExt y)
  | .remu m gd ga y w => some (⟨m, 23, specG gd, specG ga, srcSpec y, 0, wFn w⟩, srcExt y)
  | .mulh m gd ga y => some (⟨m, 18, specG gd, specG ga, srcSpec y, 0, 0⟩, srcExt y)
  | .mulhu m gd ga y => some (⟨m, 19, specG gd, specG ga, srcSpec y, 0, 0⟩, srcExt y)
  | .clz m gd ga w => some (⟨m, 24, specG gd, specG ga, 0, 0, wFn w⟩, .none)
  | .ctz m gd ga w => some (⟨m, 25, specG gd, specG ga, 0, 0, wFn w⟩, .none)
  | .popc m gd ga w => some (⟨m, 26, specG gd, specG ga, 0, 0, wFn w⟩, .none)
  | .brev m gd ga w => some (⟨m, 27, specG gd, specG ga, 0, 0, wFn w⟩, .none)
  | .extr m gd ga pos wm => some (⟨m, 28, specG gd, specG ga, 0, 0, low23 (wm ++ pos)⟩, .none)
  | .insr m gd ga gb pos wm => some (⟨m, 29, specG gd, specG ga, specG gb, 0, low23 (wm ++ pos)⟩, .none)
  | .sext m gd ga wm => some (⟨m, 30, specG gd, specG ga, 0, 0, low23 (wm ++ 0#6)⟩, .none)
  | .zext m gd ga wm => some (⟨m, 31, specG gd, specG ga, 0, 0, low23 (wm ++ 0#6)⟩, .none)
  | .lea m gd ga (.idx gb sh) => some (⟨m, 32, specG gd, specG ga, specG gb, 0, low23 sh⟩, .none)
  | .lea m gd ga (.imm v) => some (⟨m, 32, specG gd, specG ga, 0, 0, 0⟩, .imm v)
  | .movi m gd (.w32 v) => some (⟨m, 33, specG gd, 0, 0, 0, 0⟩, .imm v)
  | .movi m gd (.w64 v) => some (⟨m, 33, specG gd, 0, 0, 0, 0⟩, .ext v)
  | .cmp m qd ga y w cond => some (⟨m, 34, specQ qd, specG ga, srcSpec y, 0, low23 (cond ++ boolBit w)⟩, srcExt y)
  | .csel m gd qc ga gb => some (⟨m, 35, specG gd, specG ga, specG gb, specQ qc, 0⟩, .none)
  | .qop m qd qa qb tt => some (⟨m, 36, specQ qd, specQ qa, specQ qb, 0, low23 tt⟩, .none)
  | .fadd m gd ga gb rm => some (⟨m, 40, specG gd, specG ga, specG gb, 0, low23 rm⟩, .none)
  | .fsub m gd ga gb rm => some (⟨m, 41, specG gd, specG ga, specG gb, 0, low23 rm⟩, .none)
  | .fmul m gd ga gb rm => some (⟨m, 42, specG gd, specG ga, specG gb, 0, low23 rm⟩, .none)
  | .fmin m gd ga gb rm => some (⟨m, 44, specG gd, specG ga, specG gb, 0, low23 rm⟩, .none)
  | .fmax m gd ga gb rm => some (⟨m, 45, specG gd, specG ga, specG gb, 0, low23 rm⟩, .none)
  | .fdiv m gd ga gb rm => some (⟨m, 46, specG gd, specG ga, specG gb, 0, low23 rm⟩, .none)
  | .ffma m gd ga gb gc rm => some (⟨m, 43, specG gd, specG ga, specG gb, specG gc, low23 rm⟩, .none)
  | .fsqrt m gd ga rm => some (⟨m, 47, specG gd, specG ga, 0, 0, low23 rm⟩, .none)
  | .fcmp m qd ga gb cond => some (⟨m, 48, specQ qd, specG ga, specG gb, 0, low23 (cond ++ 0#1)⟩, .none)
  | .fcvt m gd ga rm df sf ov => some (⟨m, 49, specG gd, specG ga, 0, 0, cvtFn ov sf df rm⟩, .none)
  | .br m (.short o) => some (⟨m, 64, 0, 0, 0, 0, o⟩, .none)
  | .br m (.long o) => some (⟨m, 64, 0, 0, 0, 0, 0⟩, .imm o)
  | .call m gd (.short o) => some (⟨m, 65, specG gd, 0, 0, 0, o⟩, .none)
  | .call m gd (.long o) => some (⟨m, 65, specG gd, 0, 0, 0, 0⟩, .imm o)
  | .jmp m gd ga => some (⟨m, 66, specG gd, specG ga, 0, 0, 0⟩, .none)
  | .ret m ga => some (⟨m, 67, 0, specG ga, 0, 0, 0⟩, .none)
  | .rep m gn len stride => some (⟨m, 68, 0, specG gn, 0, 0, low23 (stride ++ len)⟩, .none)
  | .yield m => some (⟨m, 69, 0, 0, 0, 0, 0⟩, .none)
  | .halt m => some (⟨m, 70, 0, 0, 0, 0, 0⟩, .none)
  | .trap m code => some (⟨m, 71, 0, 0, 0, 0, low23 code⟩, .none)
  | .brk m code => some (⟨m, 72, 0, 0, 0, 0, low23 code⟩, .none)
  | .sysc m code => some (⟨m, 74, 0, 0, 0, 0, low23 code⟩, .none)
  | .eret m => some (⟨m, 73, 0, 0, 0, 0, 0⟩, .none)
  | .mfs m gd spr => some (⟨m, 75, specG gd, 0, 0, 0, low23 spr⟩, .none)
  | .mts m ga spr => some (⟨m, 76, 0, specG ga, 0, 0, low23 spr⟩, .none)
  | .atinv m ga mode => some (⟨m, 77, 0, specG ga, 0, 0, low23 mode⟩, .none)
  | .gvote m (.any q) qa => some (⟨m, 78, specQ q, specQ qa, 0, 0, 0⟩, .none)
  | .gvote m (.all q) qa => some (⟨m, 78, specQ q, specQ qa, 0, 0, 1⟩, .none)
  | .gvote m (.ballot g) qa => some (⟨m, 78, specG g, specQ qa, 0, 0, 2⟩, .none)
  | .gsplit m => some (⟨m, 79, 0, 0, 0, 0, 0⟩, .none)
  | .ld m gd ga mo sz sx => some (⟨m, 96, specG gd, specG ga, memSpec mo, 0, memFnBits mo 0 sx sz⟩, memExt mo)
  | .st m ga mo gc sz ctr => some (⟨m, 97, 0, specG ga, memSpec mo, specG gc, memFnBits mo ctr false sz⟩, memExt mo)
  | .ldro m gd ga mo sz sx => some (⟨m, 98, specG gd, specG ga, memSpec mo, 0, memFnBits mo 0 sx sz⟩, memExt mo)
  | .roinv m => some (⟨m, 99, 0, 0, 0, 0, 0⟩, .none)
  | .pref m ga mo => some (⟨m, 100, 0, specG ga, memSpec mo, 0, memFnBits mo 0 false 0⟩, memExt mo)
  | .amo m gd ga gb gc opc sz qs ctr scope => some (⟨m, 101, specG gd, specG ga, specG gb, specG gc, low23 (scope ++ ctr ++ qs ++ sz ++ opc)⟩, .none)
  | .red m ga gb opc sz ctr scope => some (⟨m, 102, 0, specG ga, specG gb, 0, low23 (scope ++ ctr ++ 0#3 ++ sz ++ opc)⟩, .none)
  | .fence m scope => some (⟨m, 103, 0, 0, 0, 0, low23 scope⟩, .none)
  | .pset m pd (.reg ga) => some (⟨m, 128, specP pd, specG ga, 0, 0, 0⟩, .none)
  | .pset m pd (.imm v) => some (⟨m, 128, specP pd, 0, 0, 0, 0⟩, .ext v)
  | .padv m pd (.reg ga) => some (⟨m, 129, specP pd, specG ga, 0, 0, 0⟩, .none)
  | .padv m pd (.imm v) => some (⟨m, 129, specP pd, 0, 0, 0, 0⟩, .imm v)
  | .smap m gs gv gl => some (⟨m, 130, 0, specG gs, specG gv, specG gl, 0⟩, .none)
  | .sunmap m gs => some (⟨m, 131, 0, specG gs, 0, 0, 0⟩, .none)
  | .sflush m gs => some (⟨m, 132, 0, specG gs, 0, 0, 0⟩, .none)
  | .sinv m gs => some (⟨m, 133, 0, specG gs, 0, 0, 0⟩, .none)
  | .vlda m ad p mc fmt rm => some (⟨m, 136, specA ad, specP p, 0, specM mc, vFn 0 rm fmt⟩, .none)
  | .vsta m p ab mc fmt rm => some (⟨m, 137, 0, specP p, specA ab, specM mc, vFn 0 rm fmt⟩, .none)
  | .vmova m ad sa mc fmt rm => some (⟨m, 159, specA ad, specV sa, 0, specM mc, vFn 0 rm fmt⟩, .none)
  | .vadd m ad sa sb mc fmt rm => some (⟨m, 138, specA ad, specV sa, specV sb, specM mc, vFn 0 rm fmt⟩, .none)
  | .vsub m ad sa sb mc fmt rm => some (⟨m, 139, specA ad, specV sa, specV sb, specM mc, vFn 0 rm fmt⟩, .none)
  | .vmul m ad sa sb mc fmt rm => some (⟨m, 140, specA ad, specV sa, specV sb, specM mc, vFn 0 rm fmt⟩, .none)
  | .vfma m ad sa sb mc fmt rm => some (⟨m, 141, specA ad, specV sa, specV sb, specM mc, vFn 0 rm fmt⟩, .none)
  | .vmin m ad sa sb mc fmt rm => some (⟨m, 142, specA ad, specV sa, specV sb, specM mc, vFn 0 rm fmt⟩, .none)
  | .vmax m ad sa sb mc fmt rm => some (⟨m, 143, specA ad, specV sa, specV sb, specM mc, vFn 0 rm fmt⟩, .none)
  | .vsel m ad sa sb mc fmt rm => some (⟨m, 147, specA ad, specV sa, specV sb, specM mc, vFn 0 rm fmt⟩, .none)
  | .vperm m ad sa sb mc fmt rm => some (⟨m, 149, specA ad, specV sa, specV sb, specM mc, vFn 0 rm fmt⟩, .none)
  | .vand m ad sa sb mc fmt rm => some (⟨m, 152, specA ad, specV sa, specV sb, specM mc, vFn 0 rm fmt⟩, .none)
  | .vor m ad sa sb mc fmt rm => some (⟨m, 153, specA ad, specV sa, specV sb, specM mc, vFn 0 rm fmt⟩, .none)
  | .vxor m ad sa sb mc fmt rm => some (⟨m, 154, specA ad, specV sa, specV sb, specM mc, vFn 0 rm fmt⟩, .none)
  | .vshl m ad sa sb mc fmt rm => some (⟨m, 155, specA ad, specV sa, specV sb, specM mc, vFn 0 rm fmt⟩, .none)
  | .vshr m ad sa sb mc fmt rm => some (⟨m, 156, specA ad, specV sa, specV sb, specM mc, vFn 0 rm fmt⟩, .none)
  | .vabs m ad sa mc fmt rm => some (⟨m, 144, specA ad, specV sa, 0, specM mc, vFn 0 rm fmt⟩, .none)
  | .vcvt m ad sa mc rm df sf ov => some (⟨m, 145, specA ad, specV sa, 0, specM mc, cvtFn ov sf df rm⟩, .none)
  | .vcmp m md sa sb mc fmt rm cond => some (⟨m, 146, specM md, specV sa, specV sb, specM mc, vFn cond rm fmt⟩, .none)
  | .vred m gd sa mc fmt rm op => some (⟨m, 148, specG gd, specV sa, 0, specM mc, vFn op rm fmt⟩, .none)
  | .vbcast m ad ga mc rm => some (⟨m, 150, specA ad, specG ga, 0, specM mc, vFn 0 rm 0⟩, .none)
  | .vspec m ad sa mc fmt rm fn => some (⟨m, 151, specA ad, specV sa, 0, specM mc, vFn fn rm fmt⟩, .none)
  | .vgath m ad ga ab mc fmt rm => some (⟨m, 157, specA ad, specG ga, specA ab, specM mc, vFn 0 rm fmt⟩, .none)
  | .vscat m ga ab ac mc fmt rm => some (⟨m, 158, specA ac, specG ga, specA ab, specM mc, vFn 0 rm fmt⟩, .none)
  | .viota m ad ga mc rm => some (⟨m, 160, specA ad, specG ga, 0, specM mc, vFn 0 rm 0⟩, .none)
  | .vextr m gd aa lane fmt rm => some (⟨m, 161, specG gd, specA aa, 0, 0, low23 (lane ++ 0#4 ++ rm ++ fmt)⟩, .none)
  | .vins m ad ga lane fmt rm => some (⟨m, 162, specA ad, specG ga, 0, 0, low23 (lane ++ 0#4 ++ rm ++ fmt)⟩, .none)
  | .mkopTt m md ma mb tt => some (⟨m, 163, specM md, specM ma, specM mb, 0, low23 tt⟩, .none)
  | .mkopReg m md ga => some (⟨m, 163, specM md, specG ga, 0, 0, 16⟩, .none)
  | .mkpop m gd ma fn => some (⟨m, 164, specG gd, specM ma, 0, 0, low23 fn⟩, .none)
  | .mxz m x => some (⟨m, 176, 0, 0, 0, 0, low23 x⟩, .none)
  | .mxmul m x tok ga gb gc da db => some (⟨m, 177, 0, specG ga, specG gb, specG gc, low23 (tokBits tok ++ x)⟩, .ext (db ++ da))
  | .mxq m x tok ga gb gc gq gs da db => some (⟨m, 178, specG gq, specG ga, specG gb, specG gc, low23 (gs ++ tokBits tok ++ x)⟩, .ext (db ++ da))
  | .mxdrn m x tok ga gm fmt rm ov shape => some (⟨m, 179, specG gm, specG ga, 0, 0, low23 (ov ++ rm ++ fmt ++ tokBits tok ++ x)⟩, shapeExt shape)
  | .mxldx m x tok ga fmt shape => some (⟨m, 180, 0, specG ga, 0, 0, low23 (fmt ++ tokBits tok ++ x)⟩, shapeExt shape)
  | .cpy m gd gs gn gk mode (.imm v) => some (⟨m, 192, specG gd, specG gs, specG gn, specG gk, cpyFn mode⟩, .imm v)
  | .cpy m gd gs gn gk mode (.ext v) => some (⟨m, 192, specG gd, specG gs, specG gn, specG gk, cpyFn mode⟩, .ext (0#24 ++ v))
  | .cpy2d m gd gs gsh gk mode (.both v) => some (⟨m, 193, specG gd, specG gs, specG gsh, specG gk, cpyFn mode⟩, .imm v)
  | .cpy2d m gd gs gsh gk mode (.two d s) => some (⟨m, 193, specG gd, specG gs, specG gsh, specG gk, cpyFn mode⟩, .ext (s ++ d))
  | .twait m qd mask ge => some (⟨m, 194, specQ qd, 0, 0, specG ge, low23 mask⟩, .none)
  | .ttest m qd mask ge => some (⟨m, 195, specQ qd, 0, 0, specG ge, low23 mask⟩, .none)
  | .disp m gd gs gt (.reg g) => some (⟨m, 196, specG gd, specG gs, specG gt, specG g, 0⟩, .none)
  | .disp m gd gs gt (.imm v) => some (⟨m, 196, specG gd, specG gs, specG gt, 0, 0⟩, .imm (0#16 ++ v))
  | .dflush m tok => some (⟨m, 197, 0, 0, 0, 0, low23 (tok ++ 4#3)⟩, .none)
  | .mbpost m ge k fresh => some (⟨m, 198, 0, specG ge, 0, 0, low23 (boolBit fresh ++ k)⟩, .none)
  | .mbtake m gd rank => some (⟨m, 199, specG gd, 0, 0, 0, low23 rank⟩, .none)
  | .lbset m gb gbase gk cap rsz => some (⟨m, 200, 0, specG gb, specG gbase, specG gk, low23 (rsz ++ cap)⟩, .none)
  | .onew m gd gbody glen gclass float hint => some (⟨m, 208, specG gd, specG gbody, specG glen, specG gclass, low23 (hint ++ boolBit float)⟩, .none)
  | .odel m gn => some (⟨m, 209, 0, specG gn, 0, 0, 0⟩, .none)
  | .omove m gn gm => some (⟨m, 210, 0, specG gn, specG gm, 0, 0⟩, .none)
  | .invk m gd gt ga gdl narg resolve gang dl rlr method => some (⟨m, 211, specG gd, specG gt, specG ga, specG gdl, low23 (rlr ++ boolBit dl ++ gang ++ boolBit resolve ++ narg)⟩, .ext (0#56 ++ method))
  | .await m gd gh gbuf qd conf => some (⟨m, 212, specG gd, specG gh, specG gbuf, specQ qd, wFn conf⟩, .none)
  | .htest m gd gh fn => some (⟨m, 213, specG gd, specG gh, 0, 0, low23 fn⟩, .none)
  | .rslv m ga mode len => some (⟨m, 214, 0, specG ga, 0, 0, low23 (len ++ mode)⟩, .none)
  | .hbrk m gh code => some (⟨m, 215, 0, specG gh, 0, 0, low23 code⟩, .none)
  | .hfree m gh => some (⟨m, 216, 0, specG gh, 0, 0, 0⟩, .none)
  | .rgopen m gb gh => some (⟨m, 217, 0, specG gb, specG gh, 0, 0⟩, .none)
  | .rgclose m gb => some (⟨m, 218, 0, specG gb, 0, 0, 0⟩, .none)
  | .rgqry m gd gb fn => some (⟨m, 219, specG gd, specG gb, 0, 0, low23 fn⟩, .none)
  | .rgfail m gb code => some (⟨m, 220, 0, specG gb, 0, 0, low23 code⟩, .none)
  | .phreg m gph mode => some (⟨m, 224, 0, specG gph, 0, 0, low23 mode⟩, .none)
  | .phdrop m gph => some (⟨m, 225, 0, specG gph, 0, 0, 0⟩, .none)
  | .pharr m gph => some (⟨m, 226, 0, specG gph, 0, 0, 0⟩, .none)
  | .phwait m qd gph gto gs => some (⟨m, 227, specQ qd, specG gph, specG gto, specG gs, 0⟩, .none)
  | .phaw m qd gph gto gs => some (⟨m, 228, specQ qd, specG gph, specG gto, specG gs, 0⟩, .none)
  | .ctadd m gc v scope => some (⟨m, 229, 0, specG gc, srcSpec v, 0, low23 scope⟩, srcExt v)
  | .ctrd m gd gc => some (⟨m, 230, specG gd, specG gc, 0, 0, 0⟩, .none)
  | .ctwait m qd gc gt (.reg g) => some (⟨m, 231, specQ qd, specG gc, specG gt, specG g, 0⟩, .none)
  | .ctwait m qd gc gt (.imm v) => some (⟨m, 231, specQ qd, specG gc, specG gt, 0, 0⟩, .ext v)
  | .trpost m gd gdesc => some (⟨m, 232, specG gd, specG gdesc, 0, 0, 0⟩, .none)
  | .trcan m qd ge => some (⟨m, 233, specQ qd, specG ge, 0, 0, 0⟩, .none)
  | .coll m gd gblk det strict => some (⟨m, 234, specG gd, specG gblk, 0, 0, low23 (boolBit strict ++ boolBit det)⟩, .none)
  | .siadv m gd grec => some (⟨m, 235, specG gd, specG grec, 0, 0, 0⟩, .none)
  | .siret m gd grec => some (⟨m, 236, specG gd, specG grec, 0, 0, 0⟩, .none)
  | .phnew m gd => some (⟨m, 237, specG gd, 0, 0, 0, 0⟩, .none)
  | .vClassResultWrite .. | .switchPoint .. | .forcedSwitchPoint .. | .postedCountWaitEnd ..
  | .waitConditionMet .. | .waitTimeout .. | .tlbWalkComplete .. | .matrixOpComplete .. | .copyComplete ..
  | .copyPageFault .. | .detContributionArrival .. | .dispatchRowLanded .. | .dflushTokenDone ..
  | .invocationReady .. | .dispatchChoice .. | .floatingPlacement .. | .tileResidencyLoaded ..
  | .loadLevelling .. | .objectMigration .. | .invocationResume .. | .quotaCharge .. | .launchStart ..
  | .launchRetirement .. | .completionRecordPost .. | .counterRaise .. | .triggerFiring ..
  | .triggeredOpComplete .. | .collectiveDone .. | .collectiveAbort .. | .detResendTimeout .. | .inv ..
  | .rld .. | .rst .. | .ramo .. | .rred .. | .ctr .. | .prm .. | .send .. | .rpl .. | .ack .. | .bwr ..
  | .brd .. | .brdd .. | .blk .. | .cblk .. | .back .. | .dack .. | .dnak .. | .rel .. | .hnot .. | .hwd ..
  | .cerr .. | .hold .. | .malformedPacket .. | .codedPacketForm .. | .codedFallbackTimeout ..
  | .retentionExpiry .. | .holdingsExpiry .. | .flitReceive .. | .linkReplay .. | .linkRetrain ..
  | .linkDown .. | .resendTimeout .. | .deliveryFailure .. | .holdTimer .. | .duplicateWindowDrop ..
  | .landingFault .. | .faultEntryPost .. | .leaseRecall .. | .deviceWriteback .. | .shootdownGo ..
  | .shootdownUrgent .. | .shootdownComplete .. | .pageMigration .. | .migrationAbandon .. | .debugRead ..
  | .debugWrite .. | .debugResume .. | .debugEnd .. | .debugHaltRequest .. | .registerWrite ..
  | .timeWrite .. | .ptpEventMessage .. | .ethernetFrameReceive .. | .ethernetTransmit .. | .streamEnable ..
  | .streamDisable .. | .streamPacket .. | .rawStreamPacket .. | .frameTimeout .. | .mergeWindowClose ..
  | .scanSlot .. | .scanDrainTimeout .. | .scanPass .. | .scanFail .. | .scanlate .. | .correctableError ..
  | .uncorrectableError .. | .patrolScrub .. | .coldStart .. | .warmStart .. | .keySlotRequest ..
  | .attestationGo .. | .quoteComplete .. | .alarm .. | .powerThrottle .. | .hardwarePrefetch ..
  | .ethernetLinkUp .. | .landedPairExpiry .. | .flashImageWrite .. | .wrappedKeyRecordProvision .. => none

/-- R62: the bytes of an encoded instruction. -/
def encodeBytes (i : Instr) : List Byte :=
  match encodeFields i with
  | none => []
  | some (b, e) =>
    leBytes 8 (b.word e.len).toNat ++
      (match e with | .none => [] | .imm v => leBytes 4 v.toNat | .ext v => leBytes 8 v.toNat)

/-- R62: the length of an instruction in bytes. -/
def Instr.bytes (i : Instr) : Nat :=
  match encodeFields i with
  | none => 0
  | some (_, e) => e.bytes

end Sys2Proof
end

