-- ==== Sys2Proof/Config.lean ====
section
/-! DEFINITION. Free values: what the manual leaves open and what the outside fixes. Each is an opaque constant without a
body, so no proof can see a value of it (log entries 6 to 12). -/

namespace Sys2Proof.Config

/-- R49: whether the n-th read choice takes the new value of a register whose V-class write of the same run is outstanding
(register specifier and lane as further arguments). -/
opaque takesNew : Nat → Nat → Nat → Bool
/-- R49: whether a contested V-class write survives. -/
opaque survives : Nat → Nat → Bool
/-- Nanoseconds that pass in one step, as a function of the step's number: timing is left out of the model. -/
opaque elapsed : Nat → Nat
/-- A byte whose value the manual leaves unspecified (stash contents after a context switch, a line read under another key,
the slot of an unrecoverable landing, corrupted state). The first argument numbers the occasion. -/
opaque freeByte : Nat → Nat → Byte
/-- Thirty-two unspecified bits (R418 cause 3). -/
opaque freeLane : Nat → Nat → Lane
/-- A choice the manual leaves to the device among n alternatives. -/
opaque choice : Nat → Nat → Nat
/-- R297: whether a package has a direct link to this one (the pod's wiring). -/
opaque linked : BitVec 12 → Bool
/-- R284, R285: the routes of the fabric manager's tables, which are replaced when a link goes down: the first argument numbers the
tables, the second the pair of dies (and for a bulk packet its choice). -/
opaque port : Nat → Nat → Nat
/-- R283: whether the n-th look at a channel and hop level of a link finds credit. -/
opaque credit : Nat → BitVec 6 → BitVec 2 → BitVec 2 → Bool
/-- The type-specific fields and the payload bytes of packets whose layout the manual does not give, by the number of the occasion
(log entry 105). -/
opaque tspec : Nat → BitVec 240
opaque wire : Nat → Nat → Byte
/-- R443: whether an object's HSS signature verifies (RFC 8554, outside the manual). -/
opaque hssValid : List Byte → Bool
/-- R447: the 2,964-byte HSS signature over a quote with the leaf of that number. -/
opaque hssSign : Nat → List Byte → Nat → Byte
/-- R444: the identity of the device key that the PUF reconstructs. -/
opaque deviceKey : Nat → Byte
/-- R444: AES key wrap (RFC 3394) of a request under slot 0, unwrapped: whether it verifies. -/
opaque wrapValid : List Byte → Bool

/-- R426, R434: the stack, channel, bank and row of an HBM address, as DETAIL of a KIND 3 entry holds them. -/
opaque hbmRow : Nat → BitVec 32

end Sys2Proof.Config
end

