-- ==== Sys2Proof/Machine/State.lean ====
section
/-! DEFINITION. The state of one package: plain data holding everything the manual gives the machine, and its reset value. -/

namespace Sys2Proof.Machine

/-- Sparse data by key, in ONE canonical form: keys strictly rising, and no entry equal to what an unlisted key reads as. -/
abbrev Tbl (α : Type) := List (Nat × α)

/-- Why the machine stops. The manual describes an outcome for every access and every encoding (an exception of the
architecture is a next state), so no meaning raises one. -/
inductive Fault where
  /-- Raised by no meaning. Safe. -/
  | unreachable
  deriving DecidableEq, Repr

/-- Why an instruction has no meaning. -/
inductive Refusal where
  /-- Answered by an arm of the dispatch whose instruction is not modelled. Safe. -/
  | notModelled (mnemonic : String)
  deriving DecidableEq, Repr

/-! ## One task context (R35) -/

/-- R39: the state of a token. -/
inductive TokSt where
  | idle | busy | done | fault
  deriving DecidableEq, Repr, Inhabited

/-- R39, R173: a token with its error record. -/
structure Token where
  st  : TokSt
  err : Word
  deriving DecidableEq, Repr, Inhabited

/-- R55, R56: the REP state. `gn` is the count register, `body` the address of the first body instruction. -/
structure Rep where
  act    : Bool
  pos    : BitVec 3
  off    : BitVec 3
  body   : Word
  len    : Nat
  stride : BitVec 3
  gn     : GReg
  deriving DecidableEq, Repr, Inhabited

/-- R383: a fault: class, cause, access kind, LAND, ENG, PRIV and the address for FLTVA. -/
structure FaultRec where
  cls   : BitVec 8
  cause : BitVec 16
  acc   : BitVec 2
  land  : Bool
  eng   : Bool
  priv  : Bool
  va    : Word
  deriving DecidableEq, Repr, Inhabited

/-- R37: a register written by an instruction. -/
inductive RegName where
  | g (r : GReg) | p (r : PReg) | a (r : AReg) | m (r : MReg) | q (r : QReg)
  deriving DecidableEq, Repr, Inhabited

/-- R48: the register result of a V-class instruction. For an accumulator: the lanes that are written and their values. -/
inductive RegVal where
  | g (r : GReg) (v : Word)
  | a (r : AReg) (lanes : BitVec 32) (v : Vector Lane 32)
  | m (r : MReg) (v : BitVec 32)
  | q (r : QReg) (v : Bool)
  deriving DecidableEq, Repr

/-- What an access to memory outside the package, or a question to another package, will do when it is answered (R261). -/
inductive RemKind where
  | load (gd : GReg) (sz : BitVec 2) (sx : Bool)
  /-- a fill of the read-only cache (R121). -/
  | ldro (gd : GReg) (sz : BitVec 2) (sx : Bool)
  | store
  | amo (gd : GReg) (qs : QReg) (sz : BitVec 2)
  | red
  | value (gd : GReg)
  | flag (qd : QReg)
  | count
  | fetch
  /-- a question about a wait condition. -/
  | poll
  /-- a doubleword that an instruction needs at issue. -/
  | gather
  deriving DecidableEq, Repr, Inhabited

/-- R123, R261, R286: one outstanding access of a context. `host` is its class; `counted` says that it is part of the posted
counts; `ctr` and `scope` name the counter raised when it lands (R124). -/
structure RemAcc where
  req     : Nat
  /-- the agent that sent it. -/
  src     : CtxId
  seq     : BitVec 32
  dpkg    : BitVec 12
  ddie    : BitVec 2
  host    : Bool
  counted : Bool
  kind    : RemKind
  opc     : BitVec 4
  va      : Word
  opnd    : Word
  ctr     : Option Word
  /-- R124: the raise has scope .sys. -/
  sys     : Bool
  /-- R271: engine operations issued before it whose reads its raise waits for. -/
  engs    : List Nat
  sz      : BitVec 2
  /-- R128: ATMODE at issue: POISON. -/
  poison  : Bool
  inRun   : Bool
  region  : Word
  pctx    : BitVec 12
  inv     : Nat
  ph      : Word
  deriving DecidableEq, Repr, Inhabited

/-- R171: what a parked context waits for. -/
inductive Wait where
  | tokens (qd : QReg) (mask : BitVec 8) (ge : GReg)
  | await (gd gbuf : GReg) (qd : QReg) (ph buf : Word) (conf : Bool)
  | counter (qd : QReg) (c : Word) (thr : BitVec 48)
  | phase (qd : QReg) (gs : GReg) (id : Word) (ph : Option Nat)
  deriving DecidableEq, Repr, Inhabited

/-- What a context is doing. -/
inductive Status where
  /-- holds no invocation (R238). -/
  | free
  /-- holds the current run of its core: issues the instruction at the program counter. -/
  | running
  /-- at a switch point and ready: the choice of the next run is to be made (R53). -/
  | ready
  /-- follows the leader of its gang (R59). -/
  | follow
  /-- its run has ended; it is parked until its results are written, and then passes its switch point (R50). -/
  | atSwitch
  /-- parked for posted counts (R67, R129); true for the classes pod and host. -/
  | posted (pod host : Bool)
  /-- parked in a waiting instruction (R171), until the absolute time. -/
  | waiting (w : Wait) (deadline : Option Word) (sw : Bool) (len : Nat)
  /-- holds issue for an engine queue, a busy token or a full count (R53, R54). -/
  | blocked
  /-- holds issue for a walk (R52). -/
  | walking (va : Word) (acc : BitVec 2)
  /-- parked on a recoverable fault that is to be posted (R386). -/
  | faulted (f : FaultRec)
  /-- parked on its entry of the fault queue (R387): the number of the entry. -/
  | onEntry (f : FaultRec) (n : Nat)
  /-- has issued HALT and waits for its engine operations (R112). -/
  | halting
  /-- in debug halt (R113, R373): the code and address of the BRK, and whether a BRK made it. -/
  | debug (code : BitVec 16) (at_ : Word) (brk : Bool)
  /-- ended (R60): a former gang member that has ended while others have not. -/
  | ended
  /-- parked on MIG = 1 (R399). -/
  | onMig (va : Word)
  /-- R389: the pager has answered FAIL while the context was pre-empted. -/
  | refused (f : FaultRec)
  deriving DecidableEq, Repr, Inhabited

/-- R337, R338: a row of a send list: header, row address, row size, the choices left, the table. -/
structure SendRow where
  header  : Word
  lb      : Word
  src     : Word
  rowb    : BitVec 16
  rest    : List Word
  table   : Word
  /-- R268: accesses outstanding when the row was issued. -/
  fork    : List Nat
  /-- R54: the number of the DISP that sent it. -/
  op      : Nat
  deriving DecidableEq, Repr, Inhabited

/-- R183: one open send list. -/
structure SendList where
  pkg   : BitVec 12
  table : Word
  rows  : List SendRow
  deriving DecidableEq, Repr, Inhabited

/-- R350: an invocation's copy of its protection context entry. -/
structure Prot where
  dbg     : Bool
  ttroot  : Word
  keyslot : BitVec 8
  cbase   : BitVec 16
  clen    : BitVec 17
  sventry : Word
  fqbase  : Word
  fqlen   : BitVec 20
  deriving DecidableEq, Repr, Inhabited

/-- R58: a context's gang: the members, the leader first, the size code of GIDX, whether the gang is undissolved, and whether
GSPLIT has issued: the gang dissolves at its switch point (R154). -/
structure Gang where
  members : List CtxId
  size  : BitVec 2
  whole : Bool
  split : Bool
  deriving DecidableEq, Repr, Inhabited

/-- R136: one stash window with its entries: the index of a 64-byte line in the window, and the physical address that its
first touch found. The bytes of an entry are those of the line (the entry is coherent); its dirty bytes are in `dirty`. -/
structure Window where
  stash : Nat
  va    : Word
  len   : Nat
  owner : BitVec 2
  filled : List (Nat × Nat)
  deriving DecidableEq, Repr, Inhabited

/-- R353, R239: what the model keeps of a running invocation besides its registers. -/
structure Running where
  i      : Inv
  method : BitVec 8
  start  : Nat
  lateOf : Bool
  charged : Word
  deriving DecidableEq, Repr, Inhabited

/-- R35, R40, R371 and the entries: the state of one task context. -/
structure Ctx where
  id       : CtxId
  status   : Status
  pc       : Word
  g        : Vector Word 32
  p        : Vector Word 8
  a        : Vector (Vector Lane 32) 8
  m        : Vector (BitVec 32) 8
  q        : Vector Bool 8
  t        : Vector Token 8
  /-- tile elements, keyed tile × 4,096 + row × 64 + column. -/
  x        : Tbl Lane
  /-- R164: tile checksums, exact, in units of 2 ^ -300: keyed tile × 256 + 0..63 Rs,
64..127 Cs, 128..191 Sr, 192..255 Sc. -/
  sums     : Tbl Int
  /-- R164: tile × 256 keys of checksums that hold a NaN or an infinity. -/
  sumBad   : List Nat
  rep      : Rep
  gen      : Word
  seed     : Word
  lnum     : Word
  fltva    : Word
  fltinfo  : Word
  region   : Word
  deadline : BitVec 48
  prio     : BitVec 4
  rmode    : BitVec 3
  atmode   : Bool
  priv     : Bool
  gang     : Option Gang
  gidx     : BitVec 3
  late     : Bool
  alog     : Bool
  sepc     : Word
  spriv    : Bool
  snum     : BitVec 16
  sscr     : Word
  pctx     : BitVec 12
  pceil    : BitVec 4
  dbgen    : Bool
  prot     : Prot
  /-- R48: V-class results issued and not yet written. -/
  pend     : List RegVal
  /-- R49: registers written in this run. -/
  landed   : List RegName
  /-- R51: instructions issued in this run. -/
  runLen   : Nat
  /-- R67 step 1 has been taken for the next instruction. -/
  fault    : Option FaultRec
  /-- R419: asynchronous containment errors pending, the first detected first. -/
  errs     : List FaultRec
  /-- R207: the failed region and code that reach this context at its next switch point; whether a scan failed it (R429). -/
  rgfail   : Option (Word × BitVec 8 × Bool)
  /-- doublewords of memory homed elsewhere that the present instruction has read: index and value. -/
  got      : List (Nat × Word)
  /-- doublewords of code homed elsewhere that the present instruction has fetched (log entry 15): address and bytes. -/
  code     : List (Word × List Byte)
  /-- R171: a wait on an agent of another package: the number of the question that has been put, and its answer. -/
  poll     : Option (Nat × Option (Word × Word))
  /-- R214: a wait on a phaser of another package: how long its timers had stood still when the deadline was fixed. -/
  thawed   : Word
  /-- R113: the phasers of other packages have been told that the context is in debug halt. -/
  toldHalt : Bool
  /-- R210: phasers of other packages that the context is a member of, and the regions. -/
  joined   : List (Word × Word)
  /-- R123: outstanding accesses to other packages and hosts. -/
  rem      : List RemAcc
  /-- R129: cores on which the invocation has run before, whose L1 may still hold its stores. -/
  wrote    : List Nat
  mbox     : List Word
  lists    : List SendList
  /-- R183: tokens that a DFLUSH has set BUSY. -/
  flushes : List Tok
  /-- R204: blocks opened by this context and not closed, the innermost first. -/
  opened   : List Word
  /-- R193: INVKs issued by the invocation. -/
  invks    : Nat
  run      : Option Running
  /-- R59: members of the gang that have issued the leader's present instruction. -/
  gdone    : List CtxId
  /-- R214: the arrival of the present PHAW has been made. -/
  arrived  : Bool
  /-- R65: the guard of the present instruction, which acts at the switch point, as it was read at issue. -/
  firm     : Option Bool
  /-- R373: a halt request is pending. -/
  haltReq  : Bool
  /-- R111: the run ended with a YIELD. -/
  yielded  : Bool
  /-- R366: chosen as victim of a pre-emption by the invocation of that identity. -/
  victim   : Option Nat
  /-- R397: an urgent shootdown is to stop its invocation. -/
  unpin    : Bool
  deriving DecidableEq, Repr

/-! ## One core -/

/-- R381: one TLB entry: the context, the page (VA without the bits of the offset), the level, the leaf and its address. -/
structure TlbE where
  pctx : BitVec 12
  vpn  : Nat
  lvl  : Nat
  pte  : Word
  ptePa : Nat
  deriving DecidableEq, Repr, Inhabited

/-- R121, R266: bytes of one 64-byte sector in the read-only cache: the address of the first, the contexts of the core that may
read them, the bytes, and the poisoned words among them (R416). -/
structure RoLine where
  slots : List (BitVec 2)
  pctx : BitVec 12
  va   : Nat
  bytes : List Byte
  bad  : List Nat
  deriving DecidableEq, Repr, Inhabited

/-- R155: a decoded tile descriptor. -/
structure Tile where
  fmt    : BitVec 4
  rows   : Nat
  cols   : Nat
  stride : Nat
  deriving DecidableEq, Repr, Inhabited

/-- R156 to R163: what a matrix operation does. Addresses are virtual; translations are held from issue (R157). -/
inductive MxKind where
  | zero
  | mul (a b : Tile) (pa pb : Word)
  | quant (a b : Tile) (pa pb pz : Word) (gs : BitVec 2)
  /-- `old` is gm as read at issue, `code` the rounding mode in effect, `gen` the generator state at issue. -/
  | drain (dst : Word) (max : GReg) (old : Word) (fmt : BitVec 4) (code : BitVec 3) (ov : BitVec 2) (rows cols stride : Nat)
      (gen : Word)
  | load (src : Word) (fmt : BitVec 4) (rows cols stride : Nat)
  deriving DecidableEq, Repr, Inhabited

/-- What an engine keeps of the invocation that issued an operation. -/
structure Issuer where
  ctx    : CtxId
  inv    : Nat
  pctx   : BitVec 12
  prot   : Prot
  user   : Bool
  region : Word
  ph     : Word
  launch : LaunchId
  /-- R268: accesses of the issuing context that were outstanding at issue: they precede every access of the thread. -/
  fork   : List Nat
  deriving DecidableEq, Repr, Inhabited

/-- R156: an entry of the matrix queue. `req` names the outstanding result of MXDRN; `pages` pairs virtual page numbers with
physical pages. -/
structure MxOp where
  by_  : Issuer
  x    : TileNo
  tok  : Option Tok
  kind : MxKind
  pages : List (Nat × Nat)
  req  : Nat
  /-- R164: soft errors that strike the integer dots of MXQ: group, row, column, error. None is there at issue, and no step makes one. -/
  upset : List ((Nat × Nat × Nat) × Int)
  deriving DecidableEq, Repr, Inhabited

/-- R417, R418: a poisoned word that an agent has met: its address, where it lies where that is this package, the cause of R418 and
the kind of access. -/
structure BadWord where
  va    : Word
  pa    : Option Nat
  cause : BitVec 16
  acc   : BitVec 2
  deriving DecidableEq, Repr, Inhabited

/-- R174 to R177, R315: one copy: issued by an instruction, or triggered (`trig` names its entry). -/
structure Copy where
  id     : Nat
  by_    : Issuer
  tok    : Option Tok
  trig   : Option Word
  dst    : Word
  src    : Word
  rowb   : Nat
  rows   : Nat
  dstr   : Int
  sstr   : Int
  rd     : Bool
  rop    : BitVec 4
  fmt    : BitVec 4
  det    : Bool
  /-- R175, R177: the counter named. -/
  ctr    : Option Word
  /-- bytes read from the source, and written or sent. -/
  pos    : Nat
  /-- bytes written at their homes. -/
  landed : Nat
  /-- begun: its queue entry is free (R54). -/
  begun  : Bool
  /-- stopped by a pre-emption (R367). -/
  stopped : Bool
  /-- a recoverable fault that is to be posted; the number of the entry that it waits for (R387). -/
  stall  : Option FaultRec
  onEntry : Option Nat
  /-- packets that are not answered. -/
  unacked : Nat
  /-- bytes that came from another package and are not written yet: their places in the transfer. -/
  buf     : List (Nat × List Byte)
  /-- R177: the source of an ordered contribution, once it has been read; whether it has been applied. -/
  whole   : Option (List Byte)
  applied : Bool
  /-- waits for bytes of an element whose source lies on two pages. -/
  asked   : Bool
  err    : BitVec 8
  /-- the poisoned word that ended it (R417). -/
  bad    : Option BadWord
  deriving DecidableEq, Repr, Inhabited

/-- R343: what the copy engine does next with a row. -/
inductive RowStage where
  /-- to be read and sent. -/
  | send
  /-- read from its home in another package. -/
  | asked
  /-- sent: waits for the receiver's answer. -/
  | sent
  /-- moves on to its next choice. -/
  | next
  /-- counts to be added to the status block: 0 SENT, 1 REDIR, 2 DROPPED. -/
  | count (ns : List Nat)
  | done
  deriving DecidableEq, Repr, Inhabited

/-- R338 to R343: a row that a copy engine settles. -/
structure FlightRow where
  id     : Nat
  by_    : Issuer
  /-- the core whose copy engine settles it. -/
  core   : CoreId
  row    : SendRow
  rank   : Nat
  pkg    : BitVec 12
  dlseq  : BitVec 32
  didx   : BitVec 4
  dlast  : Bool
  redir  : Bool
  /-- the DFLUSH token that covers it; none before one does, or where none will (R340). -/
  tok    : Option Tok
  cover  : Bool
  stage  : RowStage
  /-- R54: in the active set of its engine. -/
  begun  : Bool
  /-- bytes of the row that came from another package, by their place in it. -/
  buf    : List (Nat × List Byte)
  /-- a recoverable fault that is to be posted; the entry it waits for; the pager has answered FAIL. -/
  stall  : Option FaultRec
  onEntry : Option Nat
  refused : Bool
  /-- the first error for the covering token (R173), and when it was met. -/
  err    : BitVec 8
  errAt  : Nat
  deriving DecidableEq, Repr, Inhabited

/-- R54, R183: a DISP or a DFLUSH that waits in the copy queue of its core. -/
structure QueuedOp where
  id   : Nat
  core : CoreId
  ctx  : CtxId
  inv  : Nat
  /-- the token of a DFLUSH. -/
  tok  : Option Tok
  deriving DecidableEq, Repr, Inhabited

/-- The state of one core beside its contexts. -/
structure CoreSt where
  id      : CoreId
  /-- bytes of stash scratch that have been written since the contents were last unspecified. -/
  stash   : Tbl Byte
  /-- R46, R370: which free bytes an unlisted byte of the stash reads as; 0 reads as zeros (log entry 4). -/
  era     : Nat
  windows : List Window
  tlb     : List TlbE
  ro      : List RoLine
  mxq     : List MxOp
  /-- R341: the next DLSEQ of the redirection series, by destination package. -/
  rlseq   : Tbl (BitVec 32)
  /-- R286: the next SEQ of each series of this core: keyed agent × 2^16 + package × 4 + die. -/
  seq     : Tbl (BitVec 32)
  /-- R191: promise slots granted by dies of other packages, keyed package × 4 + die, the grant used last first; the dies asked. -/
  grants  : List (Nat × List Word)
  asked   : List Nat
  /-- R428: promises resolved by this core since its last pass. -/
  unconf  : List Word
  /-- R429: regions with an invocation running on this core since its last pass. -/
  ran     : List (BitVec 12 × Word)
  /-- R427: when it last passed its scan; whether it is being drained; whether a SCANLATE record has been posted since. -/
  scanned : Word
  drain   : Bool
  late    : Bool
  retired : Bool
  /-- R426: times of uncorrectable errors and of checksum corrections. -/
  ues     : List Word
  fixes   : List Word
  /-- R53: the slot that ran last. -/
  last    : BitVec 2
  /-- R244: scan wanted next (R426). -/
  wantScan : Bool
  deriving DecidableEq, Repr

/-! ## The agents of a die -/

/-- R188: one slot of an object table. -/
structure Obj where
  name    : Word
  body    : Word
  len     : Nat
  cls     : Word
  float   : Bool
  hint    : BitVec 2
  pctx    : BitVec 12
  deleted : Bool
  /-- the present home core (R244); the stubs are the cores it has left. -/
  home    : CoreId
  stubs   : List CoreId
  moved   : Word
  moving  : Option CoreId
  /-- R243: the cluster of its home when it was created; R190: an OMOVE has asked for a move to a core. -/
  born    : CoreId
  asked   : Option CoreId
  deriving DecidableEq, Repr, Inhabited

/-- R198, R229: one slot of a promise table. -/
structure Promise where
  ph      : Word
  st      : PState
  conf    : Bool
  by_     : Option CoreId
  /-- freed by HFREE while PENDING (R202). -/
  freed   : Bool
  launch  : LaunchId
  inv     : Nat
  region  : Word
  /-- dies of other packages that registered (R235). -/
  regs    : List (BitVec 12 × BitVec 2)
  /-- R200: the name that it resolves to once the chain has been found to close no loop. -/
  trying  : Option Word
  deriving DecidableEq, Repr, Inhabited

/-- R226: the stage of an invocation that this package holds. -/
inductive Stage where
  | queued (ph : Word)
  | held
  | ready
  | running
  | preempted
  deriving DecidableEq, Repr, Inhabited

/-- R226, R235: an invocation in the invocation store. -/
structure InvRec where
  i      : Inv
  die    : BitVec 2
  stage  : Stage
  obj    : Option Word
  core   : Option CoreId
  place  : Option (BitVec 2 × Nat)
  entry  : Option Word
  tiles  : Bool
  /-- R368: the contexts of a pre-empted invocation, the leader first, and their windows; whether it lies in a drain frame,
  and the core that it was drained from (R427). -/
  frame  : List Ctx
  windows : List (CtxId × Window)
  drained : Bool
  from_  : Option CoreId
  /-- the fault-queue entry its method table waits for (R194). -/
  onEntry : Option Nat
  /-- its `.resolve` arguments are registered (R235). -/
  regd   : Bool
  /-- R242: when it was placed. -/
  order  : Nat
  /-- R237: when it became otherwise ready; the lines that are pinned for it, by virtual and by physical number. -/
  turn   : Option Nat
  pins   : List (Nat × Nat)
  /-- R231: objects of other packages that its arguments resolve to: the question, and the cause of a break (0: none) once told. -/
  orefs  : List (Word × Nat × Option (BitVec 8))
  /-- R194: words of a method table homed in another package; whether one has been asked for. -/
  got    : List (Nat × Word)
  asked  : Bool
  /-- R361: leave to start, where a block of its regions lies elsewhere: asked for, given. -/
  leave  : Option Bool
  deriving DecidableEq, Repr

/-- R310: a wait of a context of another package that is registered at a counter. -/
structure CtWait where
  src : CtxId
  pkg : BitVec 12
  req : Nat
  ctr : Word
  thr : BitVec 48
  deriving DecidableEq, Repr, Inhabited

/-- R209 to R213: a member of a phaser. -/
structure Member where
  who    : Party
  mode   : BitVec 2
  next   : Option (BitVec 2)
  since  : Nat
  /-- the phase at which it has not yet arrived. -/
  arr    : Nat
  region : Word
  /-- R214: a member of another package is in debug halt. -/
  halted : Bool
  deriving DecidableEq, Repr, Inhabited

/-- R209: a phaser. -/
structure Phaser where
  id      : Word
  launch  : LaunchId
  phase   : Nat
  short   : Bool
  used    : Bool
  members : List Member
  /-- phases that completed SHORT. -/
  shorts  : List Nat
  /-- R214: since when a SIG or SW member has been in debug halt; how long its timers have stood still before. -/
  frozen  : Option Word
  stood   : Word
  deriving DecidableEq, Repr, Inhabited

/-- R220, R221, R312: a Rennet entry. -/
structure Entry where
  id     : Word
  trig   : Word
  thr    : BitVec 48
  oper   : BitVec 8
  comp   : Word
  rearm  : BitVec 48
  args   : List Word
  region : Word
  pctx   : BitVec 12
  prot   : Prot
  prio   : BitVec 4
  ceil   : BitVec 4
  seed   : Word
  launch : LaunchId
  fired  : Bool
  order  : Nat
  coll   : Option (BitVec 8)
  deriving DecidableEq, Repr, Inhabited

/-- R313, R314: a raise of a cell that the firing queue had no room to finish: the cell, the value that its thresholds had not
reached, and the entries that may still be due. -/
structure Raising where
  die : BitVec 2
  idx : BitVec 16
  low : BitVec 48
  ids : List Word
  deriving DecidableEq, Repr, Inhabited
/-- R314: a raise that the Vat of a die does not yet accept. -/
structure HeldRaise where
  die : BitVec 2
  idx : BitVec 16
  amt : BitVec 48
  deriving DecidableEq, Repr, Inhabited

/-- R314, R315: a firing: queued, or under way as a triggered operation. -/
structure Firing where
  id    : Nat
  die   : BitVec 2
  e     : Entry
  begun : Bool
  /-- a packet whose acknowledgement ends the operation: package, die, sequence number. -/
  sent  : Option (BitVec 12 × BitVec 2 × BitVec 32)
  /-- the invocation that OPER 4 made. -/
  made  : Nat
  /-- a recoverable fault that is to be posted; the entry it waits for; the pager has answered FAIL. -/
  stall : Option FaultRec
  onEntry : Option Nat
  refused : Bool
  /-- its accesses are done: CAUSE (0 for none) and PROGRESS. -/
  fin   : Option (BitVec 8 × Nat)
  /-- R361: the effective PRIO of a region homed elsewhere: asked for, told. -/
  lvl   : Option (Option (BitVec 4))
  deriving DecidableEq, Repr, Inhabited

/-- R323: one message of a collective: to be sent (`dest` is a rank), or received (`dest` is this rank). -/
structure CollMsg where
  id    : Nat
  dest  : Nat
  b     : Nat
  i     : Nat
  src   : Nat
  final : Bool
  /-- none: the rank's own bytes of SRC, read when it is sent. -/
  data  : Option (List Byte)
  /-- R329: deferred by the owner. -/
  defer : Bool
  /-- of the packet that carries or carried it. -/
  seq   : BitVec 32
  at_   : Word
  /-- the sending die. -/
  from_ : BitVec 12 × BitVec 2
  deriving DecidableEq, Repr, Inhabited

/-- R328, R329: what a rank holds of one chunk that is being reduced. -/
structure CollPart where
  b     : Nat
  i     : Nat
  /-- contributions applied. -/
  n     : Nat
  /-- contributions or partials that wait, by rank. -/
  held  : List (Nat × List Byte)
  /-- R330: exact sums. -/
  sums  : List Int
  /-- R329: sources whose contributions were not accepted; sources whose contributions have been applied or staged. -/
  kept  : List Nat
  seen  : List Nat
  /-- R328, R330: the reduction so far, where its owner does not receive the result. -/
  acc   : List Byte
  deriving DecidableEq, Repr, Inhabited

/-- R293, R323: what a rank that is ready has told: its DST, the index of its first landing counter, its protection context. -/
structure Peer where
  rank : Nat
  dst  : Word
  land : BitVec 16
  pctx : BitVec 12
  deriving DecidableEq, Repr, Inhabited

/-- R321 to R332: a collective that this die takes part in (a slot). -/
structure Coll where
  slot   : BitVec 8
  die    : BitVec 2
  /-- R332: the core that issued it. -/
  core   : BitVec 8
  blk    : Word
  oper   : BitVec 4
  algo   : BitVec 4
  det    : Bool
  strict : Bool
  dtype  : BitVec 4
  rop    : BitVec 4
  group  : BitVec 16
  root   : Nat
  src    : Word
  dst    : Word
  count  : Nat
  chunk  : Nat
  land   : Word
  doneC  : Word
  rank   : Nat
  k      : Nat
  ranks  : List (BitVec 12 × BitVec 2)
  ready  : List Nat
  /-- R293, R323: of a rank that is ready: DST, the index of its first landing counter, its protection context. -/
  peers  : List Peer
  /-- R323: the start entry. -/
  start  : Word
  started : Bool
  bases  : List (BitVec 32)
  /-- received and to be dealt with; to be sent; sent and not acknowledged. -/
  inq    : List CollMsg
  out    : List CollMsg
  flight : List CollMsg
  parts  : List CollPart
  /-- chunks that have landed; sends made. -/
  landed : Nat
  sends  : Nat
  /-- R332: aborted with that error, while its start firing is still queued. -/
  err    : BitVec 8
  region : Word
  pctx   : BitVec 12
  prot   : Prot
  launch : LaunchId
  stall  : Option FaultRec
  onEntry : Option Nat
  refused : Bool
  deriving DecidableEq, Repr, Inhabited

/-- R294: an entry of the side-information table. -/
structure SideInfo where
  bid    : BitVec 48
  gen    : BitVec 16
  pa     : Nat
  valid  : Bool
  orig   : Bool
  expiry : Word
  deriving DecidableEq, Repr, Inhabited

/-- R299: an entry of a holdings view. -/
structure Holding where
  rpkg  : BitVec 12
  rdie  : BitVec 2
  bid   : BitVec 48
  gen   : BitVec 16
  at_   : Word
  deriving DecidableEq, Repr, Inhabited

/-- R302: a coded packet kept by the coding switch until every component is acknowledged. -/
structure Coded where
  cseq  : BitVec 32
  comps : List Component
  blocks : List (List Byte)
  done  : List Nat
  at_   : Word
  /-- R304, R305: components sent again as fallbacks; components that failed under STRICT. -/
  fell  : List Nat
  void  : List Nat
  deriving DecidableEq, Repr, Inhabited

/-- R306: a pair that has landed: block, receiver counter, when. -/
structure Landed where
  bid  : BitVec 48
  cidx : BitVec 16
  addr : Word
  at_  : Word
  deriving DecidableEq, Repr, Inhabited

/-- R177: a contribution held in a landing slot of the die, and the source of its packet if it came from another package. -/
structure HeldCon where
  con : Contrib
  src : Option (BitVec 12 × BitVec 2 × BitVec 8 × BitVec 32)
  deriving DecidableEq, Repr, Inhabited

/-- R345, R346: a write of an admitted slot. -/
structure LandWrite where
  /-- the header write, as against the row write. -/
  head  : Bool
  /-- a recoverable fault that is to be posted; the entry it waits for; the pager has answered FAIL. -/
  stall : Option FaultRec
  onEntry : Option Nat
  refused : Bool
  /-- the 64 KiB pages for which it is held, by its own fault or behind an earlier write. -/
  pages : List Nat
  deriving DecidableEq, Repr, Inhabited

/-- R341, R345 to R347: a dispatch row that has arrived at its landing buffer and waits for its turn or for its writes. -/
structure LandRow where
  id   : Nat
  row  : Row
  /-- the number of its packet, and the die that it came to. -/
  seq  : BitVec 32
  die  : BitVec 2
  /-- package, die and core of the sending engine. -/
  src  : BitVec 12 × BitVec 2 × BitVec 8
  /-- once admitted: the addresses of the row and of its header, and the landing counter. -/
  slot : Option (Word × Word × Word)
  /-- the writes of the slot that are not made yet. -/
  writes : List LandWrite
  /-- the entry that the admission waits for. -/
  onEntry : Option Nat
  /-- the pager has answered FAIL. -/
  refused : Bool
  deriving DecidableEq, Repr, Inhabited

/-- R385: a pending entry of a fault queue: its queue, its number, whether it is complete, who waits. -/
inductive Waiter where
  | ctx (c : CtxId)
  | copy (id : Nat)
  | landing (p : Packet)
  | row (id : Nat)
  | method (inv : Nat)
  | trig (op : Nat)
  | coll (die : BitVec 2) (slot : BitVec 8)
  /-- R411: nobody. -/
  | media
  deriving DecidableEq, Repr

structure FqEntry where
  fqbase : Word
  /-- where the entry lies, as a package physical address. -/
  at_    : Nat
  n      : Nat
  va     : Word
  f      : FaultRec
  who    : Waiter
  inv    : Nat
  resp   : BitVec 2
  rank   : Nat
  deriving DecidableEq, Repr

/-- R395: the translation control block of a die. -/
structure Tcb where
  sdva   : Word
  sdnp   : Word
  sdctx  : BitVec 12
  allctx : Bool
  go     : Bool
  urgent : Bool
  sdctr  : Word
  sddone : Word
  pgpool : Word
  pglen  : BitVec 32
  migen  : Bool
  deriving DecidableEq, Repr, Inhabited

/-- R373: the debug page of a die. -/
structure DebugPage where
  dcore : BitVec 8
  dctx  : BitVec 2
  item  : BitVec 16
  index : BitVec 16
  ddata : Word
  dcmd  : BitVec 3
  dstat : BitVec 3
  deriving DecidableEq, Repr, Inhabited

/-- R399: a migration under way. -/
structure Mig where
  pctx  : BitVec 12
  va    : Word
  ptePa : Nat
  old   : Word
  frame : Nat
  slot  : Nat
  begun : Word
  ldie  : BitVec 2
  deriving DecidableEq, Repr, Inhabited

/-- R308, R431: statistics of a die. -/
structure Stats where
  codedpkt  : Word
  codedcmp  : Word
  decfault  : Word
  fallback  : Word
  sievict   : Word
  codecsave : Word
  malformed : Word
  cecore    : Word
  cel2      : Word
  cehbm     : Word
  ue        : Word
  abftcorr  : Word
  abftfail  : Word
  scanpass  : Word
  scanfail  : Word
  deriving DecidableEq, Repr, Inhabited

/-- R278 to R280: one end of a link: the next LSEQ to send, the LSEQ expected, the flits that LACK has not covered, whether a NAK is
owed, the times of replays, whether the link is up and whether it is being retrained, its lanes; flits to be sent (again), and
flits delivered in order. -/
structure Link where
  txSeq    : BitVec 12
  rxSeq    : BitVec 12
  replay   : List Flit
  nak      : Bool
  replays  : List Word
  up       : Bool
  training : Bool
  lanes    : Nat
  outq     : List Flit
  inq      : List Flit
  /-- R279: flits of a packet that are still to be sent, whose sideband is not filled in; flits up to the next good one are discarded; an
  acknowledgement is owed. -/
  txq      : List Flit
  dropping : Bool
  owes     : Bool
  deriving DecidableEq, Repr

/-- R287, R288: what the destination keeps of one source series. -/
structure RxSeries where
  next    : BitVec 32
  window  : List (BitVec 32 × Option Packet)
  /-- accesses that are accepted and held at a landing fault (R263). -/
  heldSeq : List (BitVec 32)
  /-- accesses that have failed and are not yet named in an acknowledgement, with the reason. -/
  failed  : List (BitVec 32 × Word)
  /-- when something last arrived. -/
  last    : Word
  /-- R290: a packet that is held back by flow control, and since when; when HOLD was last sent for those accepted and held at a landing
  fault. -/
  holding : Option (Word × Packet)
  heldAt  : Word
  deriving DecidableEq, Repr

/-- R323: a ready message: group, number, NRANK, and of the rank its number, DST, first landing counter index and protection context. -/
structure Early where
  group : BitVec 16
  k     : Nat
  nrank : Nat
  rank  : Nat
  dst   : Word
  land  : BitVec 16
  pctx  : BitVec 12
  deriving DecidableEq, Repr, Inhabited

/-- The state of one die beside its cores. -/
structure DieSt where
  tcb      : Tcb
  dbg      : DebugPage
  stats    : Stats
  /-- cluster TLBs: the cluster and the entry. -/
  ctlb     : List (Nat × TlbE)
  mig      : Option Mig
  notify   : List (BitVec 12 × Word)
  side     : List SideInfo
  rgen     : BitVec 16
  holdings : List Holding
  coded    : List Coded
  cseq     : BitVec 32
  landed   : List Landed
  /-- R300: block packets queued at an egress port: the port and the packet. -/
  egress   : List (BitVec 6 × Packet)
  held     : List HeldCon
  /-- contributions under way to a destination in another package, by the number of their packet. -/
  applying : List (Nat × HeldCon)
  /-- R332: buffer tags of collectives of the die that were aborted. -/
  dead     : List (BitVec 20)
  badWays  : List (BitVec 8 × Nat)
  ways     : List (BitVec 8 × Nat × Word)
  /-- R426: corrections by HBM row, with their times. -/
  rowFix   : List (BitVec 32 × Word)
  levelled : Word
  /-- R427: the core whose turn is next; the core of the present slot, and when the slot began. -/
  scanSlot : Nat
  scanning : Option (BitVec 8)
  slotAt   : Word
  /-- R323: ready messages of collectives that are not issued here yet. -/
  early   : List Early
  /-- R332: aborts of such collectives. -/
  earlyErr : List (BitVec 16 × Nat × BitVec 8)
  deriving DecidableEq, Repr

/-! ## The package -/

/-- R404, R436, R438, R447: the device registers that are not of one die. -/
structure Regs where
  ctxtab : Word
  wqtab  : Word
  grptab : Word
  grplen : BitVec 17
  stab   : Word
  ptpen  : Bool
  lock   : Bool
  domain : BitVec 8
  offset : Word
  hqbase : Word
  hqlen  : BitVec 16
  hqprod : Word
  hqcons : Word
  hqlost : Word
  hqctr  : Word
  state  : BitVec 3
  warm   : Bool
  step   : BitVec 4
  fstep  : BitVec 4
  alarms : BitVec 8
  powcap : BitVec 16
  nonce  : BitVec 256
  qaddr  : Word
  qgo    : Bool
  qstat  : BitVec 2
  deriving DecidableEq, Repr, Inhabited

/-- R406, R407: one Ethernet port. -/
structure Port where
  mac    : BitVec 48
  en     : Bool
  link   : Bool
  ipv4   : BitVec 32
  rxbase : Word
  rxlen  : BitVec 16
  rxctr  : Word
  rxprod : Word
  rxcons : Word
  txbase : Word
  txlen  : BitVec 16
  txprod : Word
  txdone : Word
  txctr  : Word
  rxdrop : Word
  /-- a transmit entry in host memory: asked for; come. -/
  txAsked : Bool
  txBuf  : Option (List Byte)
  deriving DecidableEq, Repr, Inhabited

/-- R411, R412: an open frame of a stream: its number, time stamps, bytes received by line, packets, duplicates; when it is to
close after its marker (RED). -/
structure FrameSt where
  n       : Word
  rtpTs   : BitVec 32
  first   : Word
  lastAt  : Word
  rows    : List (Nat × Nat)
  pkts    : Nat
  dups    : Nat
  closeAt : Option Word
  deriving DecidableEq, Repr, Inhabited

/-- R408 to R412: the engine's state of one enabled stream: the open frame; the RTP time stamps of closed frames, the last
first; the frame that is dropped for lack of a buffer; extended sequence numbers accepted in the present and the previous frame. -/
structure Stream where
  idx    : BitVec 10
  frame  : Option FrameSt
  closed : List (BitVec 32)
  skip   : Option (BitVec 32)
  seen   : List (BitVec 32)
  before : List (BitVec 32)
  deriving DecidableEq, Repr, Inhabited

/-- R434, R442 to R447: the flash of the package: the configuration record, the two firmware images, the repair log, the counts
of failed starts, the module's start count, the slots of the wrapped-key record with their keys as wrapped (none after ERASE), and
the next leaf of the attestation key. -/
structure Flash where
  record     : ConfigRecord
  controller : FwImage
  firmware   : FwImage
  repairs    : List Repair
  cfail      : BitVec 2
  wfail      : BitVec 2
  starts     : Nat
  keys       : Option (List (BitVec 8 × List Byte))
  leaf       : Nat
  deriving DecidableEq, Repr, Inhabited

/-- R356: a launch: waiting or running. -/
structure Launch where
  id      : LaunchId
  target  : Word
  args    : List Word
  method  : BitVec 8
  prio    : BitVec 4
  gang    : BitVec 2
  rl      : Bool
  deadline : BitVec 48
  running : Bool
  block   : Word
  slot    : Nat
  /-- the root promise: PENDING until the launch's result is fixed (R358). -/
  res     : PState
  refused : Option (BitVec 8)
  ending  : Bool
  discarded : Nat
  flush   : List Nat
  /-- R358 step 2 has been taken; steps 1 to 3 have been taken. -/
  cut     : Bool
  freed   : Bool
  /-- R358: packages that have not answered the present step; of a launch of another package, that one, where an answer is owed. -/
  out     : List (BitVec 12)
  /-- R358: the step that the launch's own package has asked for. -/
  step    : Nat
  /-- R192: what has come of a residency list homed elsewhere, by place in the list, and the read that is outstanding. -/
  list    : List (Nat × List Byte)
  asked   : Option Nat
  /-- R355: every check has been made. -/
  checked : Bool
  deriving DecidableEq, Repr, Inhabited

/-- R290, R419: the invocation that has sent a packet, its place in its gang, and where its errors are logged once it has ended. -/
structure Sent where
  inv    : Nat
  lane   : BitVec 3
  pctx   : BitVec 12
  region : Word
  ph     : Word
  deriving DecidableEq, Repr, Inhabited

/-- R290: a packet that its destination has not accepted or answered, and when it was first sent, not counting time covered by HOLD. -/
structure Unacked where
  p   : Packet
  at_ : Word
  /-- accepted, but its reply has not come. -/
  acc : Bool
  /-- landed, and its landing acknowledged, but its reply has not come. -/
  landed : Bool
  /-- when its present resend interval began, and how long that is, in nanoseconds. -/
  since : Word
  gap : Nat
  who : Option Sent := none
  /-- R290: when the last HOLD came. -/
  held : Option Word := none
  deriving DecidableEq, Repr, Inhabited

/-- What the model does next on its own or on the outside's behalf (log entry 1). -/
inductive Act where
  /-- a device event is due. -/
  | event (i : Instr)
  /-- the issuing core is now that one. -/
  | turn (c : CtxId)
  /-- the n-th in-package packet in flight is delivered. -/
  | deliver (n : Nat)
  /-- R279, R283: a link sends. -/
  | transmit (l : BitVec 6)
  /-- R271: raises whose conditions hold take effect. -/
  | raises
  deriving DecidableEq, Repr

/-- The state of one package. -/
structure State where
  /-- MODEL: the context that issues. -/
  cx      : Ctx
  /-- MODEL: the other contexts; one that is not listed is free and as at reset. -/
  ctxs    : List Ctx
  cores   : List CoreSt
  die0    : DieSt
  die1    : DieSt
  die2    : DieSt
  die3    : DieSt
  /-- bytes of HBM by package physical address (R375). -/
  mem     : Tbl Byte
  /-- R253, R267, R416: bytes whose last store has not been written at the home slice: the byte at home, whether its word is poisoned
  there, and the core. -/
  dirty   : Tbl ((Byte × Bool) × Nat)
  /-- R416: addresses of poisoned words. -/
  poison  : List Nat
  /-- R352: the key under which each 256-byte line was last written: its slot, and 256 times the slot's version. -/
  lineKey : Tbl Nat
  /-- R444, R445: how often the key of a slot has been changed. -/
  keyVer  : Tbl Nat
  /-- R216: counter cells, keyed die × 65,536 + index. -/
  ctrs    : Tbl (BitVec 48)
  time    : Word
  regs    : Regs
  pkg     : BitVec 12
  pods    : List (BitVec 12)
  hosts   : List (BitVec 12)
  objs    : List Obj
  promises : List Promise
  /-- R169: generations of table slots, keyed 0 objects, 1 promises, 2 phasers, 3 Rennet entries × 2^32 + die × 2^24 + slot. -/
  gens    : Tbl (BitVec 16)
  invs    : List InvRec
  launches : List Launch
  phasers : List Phaser
  entries : List Entry
  firings : List Firing
  /-- R313, R314: raises under way, and raises not yet accepted. -/
  raising : List Raising
  heldRaises : List HeldRaise
  copies  : List Copy
  rows    : List FlightRow
  landRows : List LandRow
  /-- R341: the next row expected of each series: DLSEQ × 16 + DIDX. -/
  rowSeq  : Tbl Nat
  /-- R310: waits of other packages on the counters. -/
  ctWaits : List CtWait
  /-- R163: contexts that have been freed while operations on their tiles were still in the matrix queue of their core. -/
  leftTiles : List Ctx
  /-- R54: the copy queues: what else than copies waits there. -/
  copyq   : List QueuedOp
  /-- R341: the next DLSEQ of a series of this package, keyed invocation × 4,096 + destination package. -/
  dlseq   : Tbl (BitVec 32)
  colls   : List Coll
  /-- R321: how many collectives of a group this package has begun: keyed group × 4 + die. -/
  collNo  : Tbl Nat
  fq      : List FqEntry
  /-- R286: receive series: keyed by source and destination die. -/
  rx      : List (Nat × RxSeries)
  unacked : List Unacked
  /-- R287: numbered packets that would stand 4,096 or more above the oldest pending one of their series. -/
  backlog : List Packet
  links   : List (BitVec 6 × Link)
  /-- R284: which of the fabric manager's tables is in force, and the links that are down. -/
  routeEra : Nat
  downs   : List (BitVec 6)
  ports   : Vector Port 4
  streams : List Stream
  flash   : Flash
  mr      : Vector (BitVec 256) 8
  /-- R444: the slots of the key store that hold a key. -/
  keys    : List (BitVec 8)
  /-- R450: idle issue cycles in every 16. -/
  throttle : Nat
  /-- R235, R245: the last reported state of promises of other packages, and whether it is confirmed. -/
  reports : List (Word × PState × Bool)
  /-- R123, R289: outstanding accesses of invocations that have ended or have no context now. -/
  orphans : List RemAcc
  /-- R361: invocations that run in other packages with regions of this one: protection context and region. -/
  awayRuns : List (BitVec 12 × Word)
  /-- R207, R319: regions of invocations and entries that have left for other packages: protection context and region. -/
  awayRegions : List (BitVec 12 × Word)
  /-- R359: the releases of resolved promises that dependants in other packages wait for. -/
  owing   : List (Word × FlushTok)
  /-- R359: the release flushes asked for, by the number of the question, and whether they are over. -/
  flushes : List (Nat × FlushTok × Bool)
  /-- R395: stores to a translation control block that are held until its shootdown ends. -/
  heldWrites : List (Nat × Word)
  /-- counters to be raised, each by a die, once the writes of the device with that tag outside the package are acknowledged. -/
  lateRaises : List (Nat × Word × BitVec 2)
  /-- MODEL: packets in flight inside the package. -/
  net     : List Packet
  /-- R283: packets on their way out, until a link sends them. -/
  outbox  : List Packet
  /-- MODEL: Ethernet frames that left. -/
  txFrames : List (BitVec 2 × List Byte)
  /-- MODEL: what is due next. -/
  agenda  : List Act
  /-- MODEL: instructions issued, the index of free choices. -/
  issued  : Nat
  /-- MODEL: next fresh identity. -/
  fresh   : Nat
  deriving DecidableEq, Repr

/-! ## Reset -/

def Prot.none_ : Prot := ⟨false, 0, 0, 0, 0, 0, 0, 0⟩
def Rep.none_ : Rep := ⟨false, 0, 0, 0, 0, 0, 0⟩

/-- A context without an invocation, as at reset (log entry 3). -/
def Ctx.blank (id : CtxId) : Ctx :=
  { id := id, status := .free, pc := 0, g := Vector.replicate 32 0, p := Vector.replicate 8 0,
    a := Vector.replicate 8 (Vector.replicate 32 0), m := Vector.replicate 8 0, q := Vector.replicate 8 false,
    t := Vector.replicate 8 ⟨.idle, 0⟩, x := [], sums := [], sumBad := [], rep := Rep.none_, gen := 0, seed := 0,
    lnum := 0, fltva := 0, fltinfo := 0, region := 0, deadline := 0, prio := 0, rmode := 0, atmode := false,
    priv := false, gang := none, gidx := 0, late := false, alog := false, sepc := 0, spriv := false, snum := 0,
    sscr := 0, pctx := 0, pceil := 0, dbgen := false, prot := Prot.none_, pend := [], landed := [], runLen := 0,
    fault := none, errs := [], rgfail := none, got := [], code := [], poll := none, thawed := 0, toldHalt := false, joined := [], rem := [], wrote := [], mbox := [], lists := [], flushes := [], opened := [], invks := 0,
    run := none, gdone := [], arrived := false, firm := none, haltReq := false, yielded := false, victim := none, unpin := false }

def Tcb.reset : Tcb := ⟨0, 0, 0, false, false, false, 0, 0, 0, 0, false⟩
def DebugPage.reset : DebugPage := ⟨0, 0, 0, 0, 0, 0, 0⟩
def Stats.reset : Stats := ⟨0, 0, 0, 0, 0, 0, 0, 0, 0, 0, 0, 0, 0, 0, 0⟩

/-- A die with every table empty. -/
def DieSt.reset : DieSt :=
  { tcb := Tcb.reset, dbg := DebugPage.reset, stats := Stats.reset, ctlb := [], mig := none, notify := [], side := [],
    rgen := 0, holdings := [], coded := [], cseq := 0, landed := [], egress := [], held := [], applying := [], dead := [], badWays := [],
    ways := [], rowFix := [], levelled := 0, scanSlot := 0, scanning := none, slotAt := 0, early := [], earlyErr := [] }

/-- R404, R436, R438, R447: the registers at the reset values of their tables; DOMAIN is 127. -/
def Regs.reset : Regs :=
  { ctxtab := 0, wqtab := 0, grptab := 0, grplen := 0, stab := 0, ptpen := false, lock := false, domain := 127, offset := 0,
    hqbase := 0, hqlen := 0, hqprod := 0, hqcons := 0, hqlost := 0, hqctr := 0, state := 0, warm := false, step := 0,
    fstep := 0, alarms := 0, powcap := 0, nonce := 0, qaddr := 0, qgo := false, qstat := 0 }

def Port.reset : Port := ⟨0, false, false, 0, 0, 0, 0, 0, 0, 0, 0, 0, 0, 0, 0, false, none⟩
def ConfigRecord.reset : ConfigRecord := ⟨0x43524647, 1, 0, 0, 0, 0, [], []⟩
def Flash.reset : Flash :=
  { record := ConfigRecord.reset, controller := ⟨0, true, []⟩, firmware := ⟨0, true, []⟩, repairs := [], cfail := 0, wfail := 0, starts := 0,
    keys := some [(0, [])], leaf := 0 }

/-- The package right after reset: no invocation, no launch, every register at the value its table gives, memory with nothing
listed. Values that the manual does not give are named in log entry 3. -/
def State.reset : State :=
  { cx := Ctx.blank ⟨0, 0, 0⟩, ctxs := [], cores := [], die0 := DieSt.reset, die1 := DieSt.reset, die2 := DieSt.reset,
    die3 := DieSt.reset, mem := [], dirty := [], poison := [], lineKey := [], keyVer := [], ctrs := [], time := 0, regs := Regs.reset,
    pkg := 0, pods := [], hosts := [], objs := [], promises := [], gens := [], invs := [], launches := [], phasers := [],
    entries := [], firings := [], raising := [], heldRaises := [], copies := [], rows := [], copyq := [], leftTiles := [], dlseq := [], ctWaits := [], landRows := [], rowSeq := [], colls := [], collNo := [], fq := [],
    rx := [], unacked := [], backlog := [], links := [], routeEra := 0, downs := [], ports := Vector.replicate 4 Port.reset, streams := [], flash := Flash.reset,
    mr := Vector.replicate 8 0, keys := [], throttle := 0, reports := [], orphans := [], awayRuns := [], awayRegions := [], owing := [], flushes := [], heldWrites := [], lateRaises := [], net := [],
    outbox := [], txFrames := [], agenda := [], issued := 0, fresh := 1 }

end Sys2Proof.Machine
end

