-- ==== Sys2Proof/Machine/Base.lean ====
section
/-! DEFINITION. Sparse tables, access to contexts, cores and dies, register reads and writes (R37, R48, R49) and bytes of
memory (R250 to R258, R352, R416). -/

namespace Sys2Proof.Machine

/-! ## Sparse tables -/

/-- The value at a key. -/
def tget {α : Type} (d : α) : Tbl α → Nat → α
  | [], _ => d
  | (k', v) :: t, k => if k' = k then v else tget d t k

/-- The table without an entry for a key. -/
def tdel {α : Type} : Tbl α → Nat → Tbl α
  | [], _ => []
  | (k', v) :: t, k => if k' = k then tdel t k else (k', v) :: tdel t k

/-- The table with an entry put at its place. -/
def tput {α : Type} : Tbl α → Nat → α → Tbl α
  | [], k, v => [(k, v)]
  | (k', v') :: t, k, v =>
    if k < k' then (k, v) :: (k', v') :: t
    else if k = k' then (k, v) :: t
    else (k', v') :: tput t k v

/-- A write that keeps the canonical form: writing what an unlisted key reads as removes the entry. -/
def tset {α : Type} [DecidableEq α] (d : α) (t : Tbl α) (k : Nat) (v : α) : Tbl α :=
  if v = d then tdel t k else tput t k v

/-- Every key is above `lo`, keys rise strictly, and no value is the default. -/
def twfFrom {α : Type} [DecidableEq α] (d : α) : Option Nat → Tbl α → Bool
  | _, [] => true
  | lo, (k, v) :: t => (match lo with | none => true | some l => decide (l < k)) && v ≠ d && twfFrom d (some k) t

/-- The canonical form of a table. -/
def twf {α : Type} [DecidableEq α] (d : α) (t : Tbl α) : Bool := twfFrom d none t

/-- The canonical form of memory. A byte that nothing has written reads as 0 (R440). -/
def Memory.wf (m : Tbl Byte) : Bool := twf 0 m

/-! ## Small arithmetic -/

def bit (b : Bool) : Word := if b then 1 else 0
/-- Sign extension of the low n bits of a word. -/
def sextLow (n : Nat) (v : Word) : Word := (v.setWidth n).signExtend 64
def zextLow (n : Nat) (v : Word) : Word := (v.setWidth n).setWidth 64
/-- A bit field [lo + n - 1 : lo] of a word. -/
def fld {w : Nat} (v : BitVec w) (lo n : Nat) : BitVec n := v.extractLsb' lo n
/-- A word whose field [lo + n - 1 : lo] is replaced. -/
def putFld {n : Nat} (w : Word) (lo : Nat) (v : BitVec n) : Word :=
  (w &&& ~~~((BitVec.allOnes n).setWidth 64 <<< lo)) ||| (v.setWidth 64 <<< lo)
def natWord (n : Nat) : Word := BitVec.ofNat 64 n
def intWord (n : Int) : Word := BitVec.ofInt 64 n
/-- A little-endian word of eight bytes or fewer. -/
def wordOf (bs : List Byte) : Word := natWord (leNat bs)
/-- The n-th doubleword of a list of bytes. -/
def dwAt (bs : List Byte) (n : Nat) : Word := wordOf ((bs.drop (8 * n)).take 8)
def wordBytes (w : Word) : List Byte := leBytes 8 w.toNat
def zeros (n : Nat) : List Byte := List.replicate n 0
/-- n bytes whose value the manual leaves unspecified. -/
def freeBytes (occasion n : Nat) : List Byte := (List.range n).map (Config.freeByte occasion)

/-! ## Contexts, cores and dies -/

/-- A core as at reset. -/
def CoreSt.blank (id : CoreId) : CoreSt :=
  { id := id, stash := [], era := 0, windows := [], tlb := [], ro := [], mxq := [], rlseq := [], seq := [], grants := [], asked := [], unconf := [], ran := [],
    scanned := 0, drain := false, late := false, retired := false, ues := [], fixes := [], last := 3,
    wantScan := false }

def ctxIn (id : CtxId) : List Ctx → Ctx
  | [] => Ctx.blank id
  | c :: cs => if c.id = id then c else ctxIn id cs

/-- The context of that name. -/
def State.ctx (s : State) (id : CtxId) : Ctx := if s.cx.id = id then s.cx else ctxIn id s.ctxs

def putCtxIn (c : Ctx) : List Ctx → List Ctx
  | [] => [c]
  | d :: ds => if d.id = c.id then c :: ds else d :: putCtxIn c ds

/-- Replaces the context of that name. -/
def State.setCtx (s : State) (c : Ctx) : State :=
  if s.cx.id = c.id then { s with cx := c } else { s with ctxs := putCtxIn c s.ctxs }

/-- Makes a context the one that issues. -/
def State.focus (s : State) (id : CtxId) : State :=
  if s.cx.id = id then s
  else { s with cx := s.ctx id, ctxs := putCtxIn s.cx (s.ctxs.filter (fun c => c.id ≠ id)) }

/-- Runs a change of one context with that context as the issuing one, and returns to the present one. -/
def State.withCtx (s : State) (id : CtxId) (f : State → State) : State := (f (s.focus id)).focus s.cx.id

/-- Every context that is listed. -/
def State.allCtxs (s : State) : List Ctx := s.cx :: s.ctxs

def coreIn (id : CoreId) : List CoreSt → CoreSt
  | [] => CoreSt.blank id
  | c :: cs => if c.id = id then c else coreIn id cs
def State.core (s : State) (id : CoreId) : CoreSt := coreIn id s.cores
def putCoreIn (c : CoreSt) : List CoreSt → List CoreSt
  | [] => [c]
  | d :: ds => if d.id = c.id then c :: ds else d :: putCoreIn c ds
def State.setCore (s : State) (c : CoreSt) : State := { s with cores := putCoreIn c s.cores }
/-- The core of the issuing context. -/
def State.myCore (s : State) : CoreSt := s.core s.cx.id.coreId

def State.die (s : State) (d : BitVec 2) : DieSt :=
  if d = 0 then s.die0 else if d = 1 then s.die1 else if d = 2 then s.die2 else s.die3
def State.setDie (s : State) (d : BitVec 2) (x : DieSt) : State :=
  if d = 0 then { s with die0 := x } else if d = 1 then { s with die1 := x }
  else if d = 2 then { s with die2 := x } else { s with die3 := x }

/-- A core's index in the package; a context's cluster. -/
def coreNum (c : CoreId) : Nat := c.die.toNat * 192 + c.core.toNat
/-- A context's index in the package. -/
def ctxNum (c : CtxId) : Nat := coreNum c.coreId * 4 + c.slot.toNat
def clusterOf (core : BitVec 8) : Nat := core.toNat / 8
def dies : List (BitVec 2) := [0, 1, 2, 3]

/-- A fresh identity. -/
def State.takeFresh (s : State) : Nat × State := (s.fresh, { s with fresh := s.fresh + 1 })

/-- Time passes (log entry 2). -/
def State.tick (s : State) : State := { s with time := s.time + natWord (Config.elapsed s.issued) }

/-- A packet inside the package goes to `net`, any other leaves. -/
def State.send (s : State) (p : Packet) : State :=
  if p.dpkg = s.pkg then { s with net := s.net ++ [p] } else { s with outbox := s.outbox ++ [p] }

/-- An autonomous event becomes due. -/
def State.due (s : State) (i : Instr) : State := { s with agenda := s.agenda ++ [.event i] }

/-! ## Sorting that the kernel evaluates -/

def insertBy {α : Type} (le : α → α → Bool) (x : α) : List α → List α
  | [] => [x]
  | y :: ys => if le x y then x :: y :: ys else y :: insertBy le x ys
def sortBy {α : Type} (le : α → α → Bool) : List α → List α
  | [] => []
  | x :: xs => insertBy le x (sortBy le xs)

/-! ## Registers (R37, R48, R49) -/

/-- R49: the value a read of g receives when V-class writes of the run are outstanding. `n` numbers the read and `c` the
context: each choice is its own. -/
def pickG (n c : Nat) (r : GReg) : Nat → List RegVal → Word → Word
  | _, [], v => v
  | k, .g r' w :: ps, v => pickG n c r (k + 1) ps (if r' = r && Config.takesNew n (64 * k + r.toNat) (32 * c) then w else v)
  | k, _ :: ps, v => pickG n c r (k + 1) ps v
def pickM (n c : Nat) (r : MReg) : Nat → List RegVal → BitVec 32 → BitVec 32
  | _, [], v => v
  | k, .m r' w :: ps, v => pickM n c r (k + 1) ps (if r' = r && Config.takesNew n (64 * k + 48 + r.toNat) (32 * c) then w else v)
  | k, _ :: ps, v => pickM n c r (k + 1) ps v
def pickQ (n c : Nat) (r : QReg) : Nat → List RegVal → Bool → Bool
  | _, [], v => v
  | k, .q r' w :: ps, v => pickQ n c r (k + 1) ps (if r' = r && Config.takesNew n (64 * k + 56 + r.toNat) (32 * c) then w else v)
  | k, _ :: ps, v => pickQ n c r (k + 1) ps v
/-- R49: for an accumulator the choice is made for each lane. -/
def pickA (n c : Nat) (r : AReg) : Nat → List RegVal → Vector Lane 32 → Vector Lane 32
  | _, [], v => v
  | k, .a r' ls w :: ps, v =>
    pickA n c r (k + 1) ps
      (if r' = r then Vector.ofFn (fun l : Fin 32 =>
          if ls.getLsbD l.val && Config.takesNew n (64 * k + 40 + r.toNat) (32 * c + l.val) then w[l] else v[l])
        else v)
  | k, _ :: ps, v => pickA n c r (k + 1) ps v

/-- R55: in a REP body an accumulator specifier is moved on by REPOFF. -/
def Ctx.aNum (c : Ctx) (r : AReg) : AReg := if c.rep.act then r + c.rep.off else r

/-- R37: a general register; g0 reads 0. -/
def State.g (s : State) (r : GReg) : Word := if r = 0 then 0 else pickG s.issued (ctxNum s.cx.id) r 0 s.cx.pend s.cx.g[r.toFin]
def State.p (s : State) (r : PReg) : Word := s.cx.p[r.toFin]
/-- R37: a mask; m0 reads all ones. -/
def State.m (s : State) (r : MReg) : BitVec 32 :=
  if r = 0 then BitVec.allOnes 32 else pickM s.issued (ctxNum s.cx.id) r 0 s.cx.pend s.cx.m[r.toFin]
/-- R37: a predicate; q0 reads true. -/
def State.q (s : State) (r : QReg) : Bool := if r = 0 then true else pickQ s.issued (ctxNum s.cx.id) r 0 s.cx.pend s.cx.q[r.toFin]
def State.a (s : State) (r : AReg) : Vector Lane 32 :=
  pickA s.issued (ctxNum s.cx.id) (s.cx.aNum r) 0 s.cx.pend s.cx.a[(s.cx.aNum r).toFin]

/-- R73: the second source of a scalar instruction. -/
def State.src (s : State) : Src → Word
  | .reg r => s.g r
  | .imm v => v.signExtend 64

/-- R48: an F-class write of g; a write to g0 is discarded. -/
def State.setG (s : State) (r : GReg) (v : Word) : State :=
  if r = 0 then s
  else { s with cx := { s.cx with g := s.cx.g.set r.toFin v, landed := .g r :: s.cx.landed } }
def State.setP (s : State) (r : PReg) (v : Word) : State :=
  { s with cx := { s.cx with p := s.cx.p.set r.toFin v, landed := .p r :: s.cx.landed } }
/-- F-class write of q; a write to q0 is discarded. -/
def State.setQ (s : State) (r : QReg) (v : Bool) : State :=
  if r = 0 then s
  else { s with cx := { s.cx with q := s.cx.q.set r.toFin v, landed := .q r :: s.cx.landed } }

/-- R48: a V-class result, written at some later time. Results to g0, m0 and q0 are discarded. -/
def State.later (s : State) (v : RegVal) : State := { s with cx := { s.cx with pend := s.cx.pend ++ [v] } }
def State.laterG (s : State) (r : GReg) (v : Word) : State := if r = 0 then s else s.later (.g r v)
def State.laterM (s : State) (r : MReg) (v : BitVec 32) : State := if r = 0 then s else s.later (.m r v)
def State.laterQ (s : State) (r : QReg) (v : Bool) : State := if r = 0 then s else s.later (.q r v)
def State.laterA (s : State) (r : AReg) (ls : BitVec 32) (v : Vector Lane 32) : State := s.later (.a (s.cx.aNum r) ls v)

def RegVal.name : RegVal → RegName
  | .g r _ => .g r
  | .a r _ _ => .a r
  | .m r _ => .m r
  | .q r _ => .q r

/-- The lanes named are replaced. -/
def mergeLanes (ls : BitVec 32) (new old : Vector Lane 32) : Vector Lane 32 :=
  Vector.ofFn (fun l : Fin 32 => if ls.getLsbD l.val then new[l] else old[l])

/-- Writes a result into its register. -/
def RegVal.put (v : RegVal) (c : Ctx) : Ctx :=
  match v with
  | .g r w => { c with g := c.g.set r.toFin w }
  | .a r ls w => { c with a := c.a.set r.toFin (mergeLanes ls w c.a[r.toFin]) }
  | .m r w => { c with m := c.m.set r.toFin w }
  | .q r w => { c with q := c.q.set r.toFin w }

/-- R49: the k-th outstanding result is written. Where the register has been written in the run already, which of the writes
survives is unspecified: a free value for each result of each context. -/
def commitOne (n k : Nat) (v : RegVal) (c : Ctx) : Ctx :=
  if v.name ∈ c.landed then (if Config.survives n (4096 * k + ctxNum c.id) then v.put c else c)
  else { v.put c with landed := v.name :: c.landed }

/-- R50: every outstanding result is written and the run is over. -/
def commitAll (n : Nat) (c : Ctx) : Ctx :=
  { c.pend.zipIdx.foldl (fun c v => commitOne n v.2 v.1 c) c with pend := [], landed := [], runLen := 0 }

/-! ## Bytes of HBM -/

/-- R375: HBM lies below 2 ^ 39. -/
def isHbm (pa : Nat) : Bool := decide (pa < 2 ^ 39)

/-- R251: the die and the core of the home slice of an address. -/
def homeDie (pa : Nat) : BitVec 2 := BitVec.ofNat 2 (pa / 2 ^ 37)
def homeSlice (pa : Nat) : BitVec 8 := BitVec.ofNat 8 (((pa / 2 ^ 8 % 2 ^ 14) ^^^ (pa / 2 ^ 22 % 2 ^ 14)) % 192)
def homeCore (pa : Nat) : CoreId := ⟨homeDie pa, homeSlice pa⟩

/-- The byte that the package's total order holds at an address (R257). -/
def State.byte (s : State) (pa : Nat) : Byte := tget 0 s.mem pa

/-- R267, R378: the byte at the home slice: a store held in an L1 or a window is not seen. -/
def State.homeByte (s : State) (pa : Nat) : Byte :=
  match s.dirty.find? (fun e => e.1 = pa) with
  | some (_, b, _) => b.1
  | none => s.byte pa

/-- R445: the key that a slot holds now. -/
def State.keyId (s : State) (key : BitVec 8) : Nat := key.toNat + 256 * tget 0 s.keyVer key.toNat
/-- R352, R440, R445: a byte as seen under a key. Read under another key it is unspecified. -/
def State.keyed (s : State) (key : BitVec 8) (pa : Nat) (b : Byte) : Byte :=
  if tget 0 s.lineKey (pa / 256) = s.keyId key then b else Config.freeByte s.issued pa

/-- n bytes from an address, as an ordinary access under a key reads them. -/
def State.bytes (s : State) (key : BitVec 8) (pa n : Nat) : List Byte :=
  (List.range n).map (fun i => s.keyed key (pa + i) (s.byte (pa + i)))
/-- n bytes at the home slices. -/
def State.homeBytes (s : State) (key : BitVec 8) (pa n : Nat) : List Byte :=
  (List.range n).map (fun i => s.keyed key (pa + i) (s.homeByte (pa + i)))

/-- R416: the words that are poisoned at their home slices: a store that cleared a mark may not have been written back. -/
def State.homePoison (s : State) : List Nat := s.poison ++ (s.dirty.filter (fun e => e.2.1.2)).map (fun e => e.1 / 8 * 8)
/-- R416: whether any word of the range is poisoned. -/
def State.poisoned (s : State) (pa n : Nat) : Bool :=
  s.poison.any (fun w => decide (w + 8 > pa) && decide (w < pa + n))

/-- R352: a line taken under another key: its other bytes become unspecified. -/
def State.rekey (s : State) (key : BitVec 8) (pa : Nat) : State :=
  let l := pa / 256
  if tget 0 s.lineKey l = s.keyId key then s
  else { s with
    mem := (List.range 256).foldl (fun m i => tset 0 m (256 * l + i) (Config.freeByte s.issued (256 * l + i))) s.mem
    dirty := s.dirty.filter (fun e => e.1 / 256 ≠ l)
    lineKey := tset 0 s.lineKey l (s.keyId key) }

/-- R295: a write to a copy's lines evicts the entry. -/
def evictSide (pa n : Nat) (l : List SideInfo) : List SideInfo :=
  l.map (fun e => if e.valid && decide (e.pa < pa + n) && decide (pa < e.pa + 4096) then
    { e with valid := false, gen := e.gen + 1 } else e)
def sideHits (pa n : Nat) (l : List SideInfo) : Nat :=
  (l.filter (fun e => e.valid && decide (e.pa < pa + n) && decide (pa < e.pa + 4096))).length
/-- R295: the home die of written bytes watches them. -/
def State.watch (s : State) (pa n : Nat) : State :=
  let d := s.die (homeDie pa)
  if sideHits pa n d.side = 0 then s
  else s.setDie (homeDie pa)
    { d with side := evictSide pa n d.side
             stats := { d.stats with sievict := d.stats.sievict + natWord (sideHits pa n d.side) } }
def State.watchAll (s : State) (pas : List Nat) : State := pas.foldl (fun s pa => s.watch pa 1) s

/-- R253: a write-back of a core's dirty bytes that satisfy the test. The bytes at home become those of the total order; R295: it
evicts the entries whose copies it writes. -/
def State.writeBack (s : State) (p : Nat → Nat → Bool) : State :=
  { s.watchAll ((s.dirty.filter (fun e => p e.1 e.2.2)).map Prod.fst) with dirty := s.dirty.filter (fun e => !p e.1 e.2.2) }

/-- R352: the lines of a range taken under a key. -/
def State.rekeyRange (s : State) (key : BitVec 8) (pa n : Nat) : State :=
  (List.range ((pa + (n - 1)) / 256 - pa / 256 + 1)).foldl (fun s k => s.rekey key (pa + 256 * k)) s

/-- R252, R253: an access by a core recalls the write leases that others hold on the sectors of a range. -/
def State.recallRange (s : State) (owner pa n : Nat) : State :=
  s.writeBack (fun a o => decide (pa / 64 ≤ a / 64) && decide (a / 64 ≤ (pa + n - 1) / 64) && o ≠ owner)

/-- R253: an access that no core's L1 makes takes back every lease on the sectors of a range. -/
def State.recallAll (s : State) (pa n : Nat) : State :=
  s.writeBack (fun a _ => decide (pa / 64 ≤ a / 64) && decide (a / 64 ≤ (pa + n - 1) / 64))

def memPut (m : Tbl Byte) : Nat → List Byte → Tbl Byte
  | _, [] => m
  | pa, b :: bs => memPut (tset 0 m pa b) (pa + 1) bs

/-- R421: the words that a write covers whole lose their mark. -/
def clearPoison (ps : List Nat) (pa n : Nat) : List Nat :=
  ps.filter (fun w => !(decide (pa ≤ w) && decide (w + 8 ≤ pa + n)))

/-- R421: a write that covers part of a poisoned word. -/
def State.overPoison (s : State) (pa n : Nat) : Bool :=
  s.poison.any (fun w => decide (w + 8 > pa) && decide (w < pa + n) && !(decide (pa ≤ w) && decide (w + 8 ≤ pa + n)))

/-- R421: what a write puts into an 8-byte word that lies k bytes from its first byte. -/
def coveredPart (k : Int) (bs : List Byte) : Word :=
  natWord (leNat ((List.range 8).map (fun (j : Nat) => if 0 ≤ k + j then bs.getD (k + j).toNat 0 else 0)))
/-- R421: the words that hold the first and the last byte of a write are poisoned, and covered in part: bits 0 and 1. -/
def State.mergeEdges (s : State) (first last : Nat) : Nat :=
  let a := first / 8 * 8
  let b := last / 8 * 8
  let bad := fun (w : Nat) => s.poison.contains w && !(decide (first ≤ w) && decide (w + 7 ≤ last))
  (if bad a then 1 else 0) + (if b ≠ a && bad b then 2 else 0)
/-- R421: how an acknowledgement reports merges; none where there is nothing to report (log entry 101). -/
def mergeInfo (edges : Nat) : Option Word := if edges = 0 then none else some (natWord (2 ^ 41 + edges))
def isMerge (w : Word) : Bool := w.getLsbD 41
/-- R421: the words that a report names: their addresses, and what the write put there. -/
def mergedWords (w va : Word) (bs : List Byte) : List (Word × Word) :=
  let low : Int := va.toNat % 8
  let high : Int := ((va.toNat % 8 + bs.length - 1) / 8 * 8 : Nat)
  (if w.getLsbD 0 then [(va - natWord (va.toNat % 8), coveredPart (-low) bs)] else []) ++
    (if w.getLsbD 1 then [(va + intWord (high - low), coveredPart (high - low) bs)] else [])

/-- A write at the home slices: by an engine, a message context, the device, an atomic update. It recalls the write leases on its
sectors (R253). -/
def State.putHome (s : State) (key : BitVec 8) (pa : Nat) (bs : List Byte) : State :=
  let s := ((s.rekeyRange key pa bs.length).recallAll pa bs.length).watch pa bs.length
  { s with
    mem := memPut s.mem pa bs
    poison := clearPoison s.poison pa bs.length }

/-- R267: the byte at home of a byte that a core stores and that is not yet written back. -/
def dirtyPut (s : State) (core : Nat) : Tbl ((Byte × Bool) × Nat) → Nat → Nat → Tbl ((Byte × Bool) × Nat)
  | d, _, 0 => d
  | d, pa, n + 1 =>
    dirtyPut s core (match d.find? (fun e => e.1 = pa) with
      | some _ => d
      | none => tput d pa ((s.byte pa, s.poison.contains (pa / 8 * 8)), core)) (pa + 1) n

/-- R257: a store by a core of the package under a write lease. -/
def State.putL1 (s : State) (core : Nat) (key : BitVec 8) (pa : Nat) (bs : List Byte) : State :=
  let s := ((s.rekeyRange key pa bs.length).recallRange core pa bs.length).watch pa bs.length
  { s with
    dirty := dirtyPut s core s.dirty pa bs.length
    mem := memPut s.mem pa bs
    poison := clearPoison s.poison pa bs.length }

end Sys2Proof.Machine
end

