-- ==== Sys2Proof/Machine/Hash.lean ====
section
/-! DEFINITION. SHA-256 (FIPS 180-4) and HMAC-SHA-256 (RFC 2104), which R434, R446 name. -/

namespace Sys2Proof.Machine

/-- The first 64 primes. -/
def firstPrimes : List Nat := (List.range 312).filter (fun n => decide (1 < n) && (List.range n).all (fun d => d < 2 || n % d ≠ 0))
/-- The integer root of x, its bits tried from the top: so many are left, and that much is found. -/
def rootFrom (power x : Nat) : Nat → Nat → Nat
  | 0, found => found
  | left + 1, found => rootFrom power x left (if (found + 2 ^ left) ^ power ≤ x then found + 2 ^ left else found)
/-- The first 32 bits of the fractional part of a root of n. -/
def rootBits (power n : Nat) : BitVec 32 := BitVec.ofNat 32 (rootFrom power (n * 2 ^ (32 * power)) 37 0)
/-- FIPS 180-4: the round constants come from the cube roots of the first 64 primes, the first digest from the square roots of the first
eight. -/
def shaConstants : List (BitVec 32) := firstPrimes.map (rootBits 3)
def shaInit : List (BitVec 32) := (firstPrimes.take 8).map (rootBits 2)

/-- A big-endian word of bytes, and its bytes. -/
def beWord (bs : List Byte) : BitVec 32 := BitVec.ofNat 32 (leNat bs.reverse)
def beBytes (n : Nat) (v : Nat) : List Byte := (leBytes n v).reverse

def shaCh (x y z : BitVec 32) : BitVec 32 := (x &&& y) ^^^ (~~~x &&& z)
def shaMaj (x y z : BitVec 32) : BitVec 32 := (x &&& y) ^^^ (x &&& z) ^^^ (y &&& z)
def shaS0 (x : BitVec 32) : BitVec 32 := x.rotateRight 2 ^^^ x.rotateRight 13 ^^^ x.rotateRight 22
def shaS1 (x : BitVec 32) : BitVec 32 := x.rotateRight 6 ^^^ x.rotateRight 11 ^^^ x.rotateRight 25
def shaT0 (x : BitVec 32) : BitVec 32 := x.rotateRight 7 ^^^ x.rotateRight 18 ^^^ (x >>> 3)
def shaT1 (x : BitVec 32) : BitVec 32 := x.rotateRight 17 ^^^ x.rotateRight 19 ^^^ (x >>> 10)

/-- One more word of the message schedule; the list holds the words so far, the last first. -/
def shaNext (w : List (BitVec 32)) : BitVec 32 := shaT1 (w.getD 1 0) + w.getD 6 0 + shaT0 (w.getD 14 0) + w.getD 15 0
def shaExtend : Nat → List (BitVec 32) → List (BitVec 32)
  | 0, w => w
  | n + 1, w => shaExtend n (shaNext w :: w)
def shaSchedule (block : List Byte) : List (BitVec 32) :=
  (shaExtend 48 ((List.range 16).map (fun k => beWord ((block.drop (4 * k)).take 4))).reverse).reverse

/-- The eight working words through one round. -/
def shaRound (v : List (BitVec 32)) (k w : BitVec 32) : List (BitVec 32) :=
  match v with
  | [a, b, c, d, e, f, g, h] =>
    let t1 := h + shaS1 e + shaCh e f g + k + w
    [t1 + shaS0 a + shaMaj a b c, a, b, c, d + t1, e, f, g]
  | v => v
def shaRounds : List (BitVec 32 × BitVec 32) → List (BitVec 32) → List (BitVec 32)
  | [], v => v
  | (k, w) :: r, v => shaRounds r (shaRound v k w)
def shaBlock (h : List (BitVec 32)) (block : List Byte) : List (BitVec 32) :=
  h.zipWith (· + ·) (shaRounds (shaConstants.zip (shaSchedule block)) h)
def shaBlocks : Nat → List (BitVec 32) → List Byte → List (BitVec 32)
  | 0, h, _ => h
  | n + 1, h, bs => shaBlocks n (shaBlock h (bs.take 64)) (bs.drop 64)

/-- The padded message: a one bit, zeros, the length in bits. -/
def shaPad (bs : List Byte) : List Byte := bs ++ [0x80] ++ zeros ((119 - bs.length % 64) % 64) ++ beBytes 8 (8 * bs.length)
/-- The digest, 32 bytes. -/
def sha256 (bs : List Byte) : List Byte :=
  let m := shaPad bs
  (shaBlocks (m.length / 64) shaInit m).flatMap (fun w => beBytes 4 w.toNat)

/-- HMAC-SHA-256 under a key of at most 64 bytes. -/
def hmac256 (key bs : List Byte) : List Byte :=
  let k := key ++ zeros (64 - key.length)
  sha256 (k.map (· ^^^ 0x5C) ++ sha256 (k.map (· ^^^ 0x36) ++ bs))

end Sys2Proof.Machine
end

