-- ==== Sys2Proof/Machine/Xlate.lean ====
section
/-! DEFINITION. Address translation (R374 to R382): canonical addresses, walks, leaves, TLBs, permissions. -/

namespace Sys2Proof.Machine

/-- R374: bits [63:55] all equal bit 54. -/
def canonical (va : Word) : Bool :=
  let h := va.extractLsb' 54 10
  h = 0 || h = BitVec.allOnes 10

/-- R375: the device-register range of the package physical space. -/
def isDevPa (pa : Nat) : Bool := decide (0x300000000000 ≤ pa) && decide (pa < 0x400000000000)

/-- Where a translated access goes (R379). -/
inductive Place where
  | hbm (pa : Nat)
  | dev (pa : Nat)
  | pod (pkg : BitVec 12)
  | host (node : BitVec 12) (addr : Nat)
  deriving DecidableEq, Repr, Inhabited

/-! ## Table entries (R377) -/

def pteType (e : Word) : BitVec 2 := fld e 0 2
def pteR (e : Word) : Bool := e.getLsbD 2
def pteW (e : Word) : Bool := e.getLsbD 3
def pteX (e : Word) : Bool := e.getLsbD 4
def pteU (e : Word) : Bool := e.getLsbD 5
def pteA (e : Word) : Bool := e.getLsbD 6
def pteD (e : Word) : Bool := e.getLsbD 7
def pteNospec (e : Word) : Bool := e.getLsbD 8
def pteDev (e : Word) : Bool := e.getLsbD 9
def pteMig (e : Word) : Bool := e.getLsbD 10
def ptePaF (e : Word) : Nat := (fld e 16 30).toNat * 65536
def ptePkg (e : Word) : BitVec 12 := fld e 46 12
def pteLdie (e : Word) : BitVec 2 := fld e 58 2
def pteAcnt (e : Word) : BitVec 4 := fld e 60 4

/-- R376: the bits of the offset within what a leaf of a level maps, and the index at a level. -/
def lvlShift (lvl : Nat) : Nat := if lvl = 1 then 42 else if lvl = 2 then 29 else 16
def lvlIdx (lvl : Nat) (va : Word) : Nat := (va.toNat / 2 ^ lvlShift lvl) % 8192

/-- R379: whether a leaf is well-formed. -/
def leafOk (s : State) (lvl : Nat) (e : Word) : Bool :=
  let pa := ptePaF e
  (fld e 11 5 = 0) && decide (pa % 2 ^ lvlShift lvl = 0) &&
  (if ptePkg e = s.pkg then (if pteDev e then decide (lvl = 3) && isDevPa pa else isHbm pa)
   else if s.pods.contains (ptePkg e) then decide (pa = 0) && !pteDev e && !pteMig e
   else if s.hosts.contains (ptePkg e) then !pteDev e && !pteMig e
   else false)

/-- The outcome of a walk (R378, R418 cause 4). -/
inductive WalkRes where
  | fault (cause : BitVec 16)
  | poison (pa : Nat)
  | leaf (pte : Word) (lvl : Nat) (ptePa : Nat)
  deriving DecidableEq, Repr, Inhabited

/-- R378: the walk from a table. The fuel is the number of levels left. -/
def walkFrom (s : State) (key : BitVec 8) (va : Word) : Nat → Nat → Nat → WalkRes
  | 0, _, _ => .fault 4
  | fuel + 1, lvl, t =>
    let pa := t + 8 * lvlIdx lvl va
    if !isHbm (pa + 7) then .fault 4
    else if s.poisoned pa 8 then .poison pa
    else
      let e := wordOf (s.homeBytes key pa 8)
      if pteType e = 0 then .fault (BitVec.ofNat 16 lvl)
      else if pteType e = 3 then .fault 4
      else if pteType e = 1 then
        if fuel = 0 || fld e 2 14 ≠ 0 || fld e 46 18 ≠ 0 then .fault 4
        else walkFrom s key va fuel (lvl + 1) (ptePaF e)
      else if leafOk s lvl e then .leaf e lvl pa
      else .fault 4

/-- R378: the walk of an address for a protection context. -/
def walk (s : State) (prot : Prot) (va : Word) : WalkRes :=
  if prot.ttroot = 0 || prot.ttroot.toNat % 65536 ≠ 0 then .fault 4
  else walkFrom s prot.keyslot va 3 1 prot.ttroot.toNat

/-- R380: a leaf after a counted walk by a core of a die, for a write or not. -/
def walkUpd (pkg : BitVec 12) (e : Word) (lvl : Nat) (write : Bool) (die : BitVec 2) : Word :=
  let e1 := e ||| 64 ||| (if write then 128 else 0)
  if lvl = 3 && ptePkg e = pkg then
    if pteLdie e = die then putFld e1 60 (if pteAcnt e = 15 then (15 : BitVec 4) else pteAcnt e + 1)
    else putFld (putFld e1 58 die) 60 (1 : BitVec 4)
  else e1

/-- R380: the atomic update at the leaf's home slice: it succeeds only where the entry still holds the value read. -/
def State.pteCas (s : State) (key : BitVec 8) (pa : Nat) (old new : Word) : Option State :=
  let s1 := s.writeBack (fun a _ => a / 8 = pa / 8)
  if wordOf (s1.bytes key pa 8) = old then some (s1.putHome key pa (wordBytes new)) else none

/-- R379: where an address goes under a leaf. -/
def placeOf (s : State) (e : Word) (lvl : Nat) (va : Word) : Place :=
  let a := ptePaF e + va.toNat % 2 ^ lvlShift lvl
  if ptePkg e = s.pkg then (if pteDev e then .dev a else .hbm a)
  else if s.pods.contains (ptePkg e) then .pod (ptePkg e)
  else .host (ptePkg e) a

/-- The kinds of access (R383 ACC). -/
def accRead : BitVec 2 := 0
def accWrite : BitVec 2 := 1
def accFetch : BitVec 2 := 2
def accAtomic : BitVec 2 := 3

/-- R382: the cause of the Permission fault, by the first row that fails. `dw` says that the access is an aligned LD.d or ST.d. -/
def permCause (e : Word) (acc : BitVec 2) (user dw : Bool) : Option (BitVec 16) :=
  if user && !pteU e then some 4
  else if acc = 0 && !pteR e then some 1
  else if acc = 1 && !pteW e then some 2
  else if acc = 3 && !(pteR e && pteW e) then some 2
  else if acc = 2 && !pteX e then some 3
  else if pteDev e && !dw then some 5
  else none

/-! ## TLBs (R381) -/

def tlbHit (pctx : BitVec 12) (va : Word) (e : TlbE) : Bool :=
  e.pctx = pctx && decide (e.vpn = va.toNat % 2 ^ 55 / 2 ^ lvlShift e.lvl)

/-- R381: the core's TLB, then the cluster's. -/
def State.tlbFind (s : State) (core : CoreId) (pctx : BitVec 12) (va : Word) : Option TlbE :=
  match (s.core core).tlb.find? (tlbHit pctx va) with
  | some e => some e
  | none => ((s.die core.die).ctlb.find? (fun e => e.1 = clusterOf core.core && tlbHit pctx va e.2)).map (·.2)

/-- R381: replacement is unspecified. -/
def dropOne {α : Type} (n : Nat) (cap : Nat) (l : List α) : List α :=
  if l.length < cap then l else l.eraseIdx (Config.choice n l.length % l.length)

/-- Installs a translation in the core's and the cluster's TLB. -/
def State.tlbAdd (s : State) (core : CoreId) (e : TlbE) : State :=
  let c := s.core core
  let old := c.tlb.filter (fun x => !(x.pctx = e.pctx && x.vpn = e.vpn && x.lvl = e.lvl))
  let s := s.setCore { c with tlb := dropOne s.issued 128 old ++ [e] }
  let d := s.die core.die
  let k := clusterOf core.core
  let rest := d.ctlb.filter (fun x => x.1 ≠ k)
  let mine := d.ctlb.filter (fun x => x.1 = k && !(x.2.pctx = e.pctx && x.2.vpn = e.vpn && x.2.lvl = e.lvl))
  s.setDie core.die { d with ctlb := rest ++ dropOne s.issued 4096 mine ++ [(k, e)] }

/-- Removes the translations that satisfy a test from one core's TLB and its cluster's. -/
def State.tlbDrop (s : State) (core : CoreId) (p : TlbE → Bool) : State :=
  let c := s.core core
  let s := s.setCore { c with tlb := c.tlb.filter (fun e => !p e) }
  let d := s.die core.die
  s.setDie core.die { d with ctlb := d.ctlb.filter (fun e => !(e.1 = clusterOf core.core && p e.2)) }

/-- What a translation answers at issue. -/
inductive XRes where
  /-- translated: the place and the leaf. -/
  | ok (pl : Place) (pte : Word)
  /-- no translation is held: issue holds for a walk (R52). -/
  | miss
  /-- class and cause of the fault. -/
  | fault (cls : BitVec 8) (cause : BitVec 16)
  deriving DecidableEq, Repr, Inhabited

/-- R374, R380 to R382: a translation at issue by a context of a core. A first write through an entry whose D is 0 updates the
leaf; if the leaf has changed, the translation is discarded. -/
def State.xlate (s : State) (core : CoreId) (pctx : BitVec 12) (key : BitVec 8) (user dw : Bool) (acc : BitVec 2)
    (va : Word) : XRes × State :=
  if !canonical va then (.fault 10 1, s)
  else match s.tlbFind core pctx va with
    | none => (.miss, s)
    | some e =>
      match permCause e.pte acc user dw with
      | some c => (.fault 12 c, s)
      | none =>
        if (acc = 1 || acc = 3) && !pteD e.pte then
          match s.pteCas key e.ptePa e.pte (e.pte ||| 192) with
          | some s1 => (.ok (placeOf s e.pte e.lvl va) (e.pte ||| 192), s1.tlbAdd core { e with pte := e.pte ||| 192 })
          | none => (.miss, s.tlbDrop core (fun x => x = e))
        else (.ok (placeOf s e.pte e.lvl va) e.pte, s)

/-- R418 cause 4: the entry of a walk that is poisoned. -/
def State.badPte (s : State) (prot : Prot) (va : Word) : Option Nat :=
  match walk s prot va with
  | .poison pa => some pa
  | _ => none

/-- A translation by the device itself (queues, blocks, engines): a walk from memory that is not installed. -/
def State.xlateDev (s : State) (prot : Prot) (user dw : Bool) (acc : BitVec 2) (va : Word) : XRes :=
  if !canonical va then .fault 10 1
  else match walk s prot va with
    | .fault c => .fault 11 c
    | .poison _ => .fault 17 4
    | .leaf e lvl _ =>
      match permCause e acc user dw with
      | some c => .fault 12 c
      | none => .ok (placeOf s e lvl va) e

/-- The HBM address of a device translation that succeeds. -/
def XRes.pa : XRes → Option Nat
  | .ok (.hbm pa) _ => some pa
  | _ => none

/-- n bytes of HBM by virtual address, read by the device for a protection context. -/
def State.devRead (s : State) (prot : Prot) (va : Word) (n : Nat) : Option (List Byte) :=
  match (s.xlateDev prot false true 0 va).pa with
  | some pa => some (s.bytes prot.keyslot pa n)
  | none => none

/-- R380: the A and D bits that a walk by an engine or a home walk sets. -/
def State.markUsed (s : State) (prot : Prot) (va : Word) (write : Bool) : State :=
  match walk s prot va with
  | .leaf e _ ptePa =>
    let new := e ||| 64 ||| (if write then 128 else 0)
    if new = e then s else (s.pteCas prot.keyslot ptePa e new).getD s
  | _ => s

/-- A write by the device for a protection context; nothing where the address does not translate to HBM. -/
def State.devPut (s : State) (prot : Prot) (va : Word) (bs : List Byte) : State :=
  match (s.xlateDev prot false true 1 va).pa with
  | some pa => (s.markUsed prot va true).putHome prot.keyslot pa bs
  | none => s

end Sys2Proof.Machine
end

