-- ==== Sys2Proof/Machine/Agents.lean ====
section
/-! DEFINITION. Agents beyond the core that exceptions and instructions share: names (R169), region blocks and record queues
(R203, R361, R364, R422), phasers (R209 to R213), promises and their consequences (R229 to R231, R245, R246). -/

namespace Sys2Proof.Machine

/-! ## Names (R169) -/

def nmGen (n : Word) : BitVec 16 := fld n 0 16
def nmSlot (n : Word) : BitVec 24 := fld n 16 24
def nmCore (n : Word) : BitVec 8 := fld n 40 8
def nmDie (n : Word) : BitVec 2 := fld n 48 2
def nmPkg (n : Word) : BitVec 12 := fld n 50 12
def nmKind (n : Word) : BitVec 2 := fld n 62 2
def nmCoreId (n : Word) : CoreId := ⟨nmDie n, nmCore n⟩
/-- The name of its fields. -/
def mkName (kind : BitVec 2) (pkg : BitVec 12) (die : BitVec 2) (core : BitVec 8) (slot : BitVec 24) (gen : BitVec 16) : Word :=
  kind ++ pkg ++ die ++ core ++ slot ++ gen

/-- R169: the package is present in the pod (each of its four dies then is). -/
def State.present (s : State) (pkg : BitVec 12) : Bool := pkg = s.pkg || s.pods.contains pkg

/-- R169: a well-formed name. -/
def nameOk (s : State) (n : Word) : Bool :=
  (nmKind n = 1 || nmKind n = 2) && decide ((nmCore n).toNat < 192) && s.present (nmPkg n)
def isOref (n : Word) : Bool := nmKind n = 1
def isPh (n : Word) : Bool := nmKind n = 2

/-- Keys of the generation table: kind 0 objects, 1 promises, 2 phasers, 3 Rennet entries. -/
def genKey (kind : Nat) (die : BitVec 2) (slot : Nat) : Nat := kind * 2 ^ 32 + die.toNat * 2 ^ 24 + slot
/-- The generation of a slot; 1 at first (log entry 18). -/
def State.gen (s : State) (kind : Nat) (die : BitVec 2) (slot : Nat) : BitVec 16 := tget 1 s.gens (genKey kind die slot)
def State.bumpGen (s : State) (kind : Nat) (die : BitVec 2) (slot : Nat) : State :=
  { s with gens := tset 1 s.gens (genKey kind die slot) (s.gen kind die slot + 1) }

/-- The lowest slot below `cap` that is not in use. -/
def freeSlot (used : List Nat) (cap : Nat) : Option Nat :=
  let n := (List.range (used.length + 1)).find? (fun k => !used.contains k)
  match n with
  | some k => if k < cap then some k else none
  | none => none

/-! ## Packets -/

/-- R282: the channel of a type. -/
def channelOf (t : BitVec 8) : BitVec 2 :=
  if t.toNat < 0x10 then 0 else if t.toNat < 0x20 then 1 else if t.toNat < 0x30 then 2 else 3
/-- R291: the format hint of a payload: copies with RD = 1, and collective steps, with BF16 or FP32 data. -/
def hintOf (fmt : BitVec 4) : BitVec 2 := if fmt = 0 then 1 else if fmt = 2 then 2 else 0
def payHint : Payload → BitVec 2
  | .copyData _ _ _ rd _ fmt _ => if rd then hintOf fmt else 0
  | .contrib c => hintOf c.fmt
  | _ => 0
/-- R281: the data bytes of a payload, where the manual says what they are. -/
def payData : Payload → List Byte
  | .bytes b => b
  | .copyData _ _ _ _ _ _ b => b
  | .contrib c => c.bytes
  | .row r => r.bytes
  | .block _ _ _ _ _ _ _ _ b => b
  | .coded _ _ _ b => b
  | _ => []
/-- Whole flits of so many bytes. -/
def flitsOf (n : Nat) : Nat := (n + 63) / 64

/-- R281: a header with its type, channel and ends, and the lengths and the hint of its payload. -/
def mkPacket (s : State) (type : BitVec 8) (dpkg : BitVec 12) (ddie : BitVec 2) (dep : BitVec 8) (src : CoreId)
    (sag : BitVec 4) (payload : Payload) : Packet :=
  { type := type, vch := channelOf type, fh := payHint payload, ndf := BitVec.ofNat 7 (flitsOf (payData payload).length), dpkg := dpkg,
    ddie := ddie, dep := dep, spkg := s.pkg, sdie := src.die, score := src.core, sag := sag, seq := 0, addr := 0, aux := 0,
    plen := BitVec.ofNat 13 (payData payload).length, payload := payload, coded := type = 0x24, xc := false, hlv := 0, via := 0 }

/-- The series that a packet of a source belongs to (R286, R288): the agent and the destination die; bulk packets have one of their own. -/
def seriesKey (sag : BitVec 4) (dpkg : BitVec 12) (ddie : BitVec 2) : Nat :=
  sag.toNat * 2 ^ 14 + dpkg.toNat * 4 + ddie.toNat
/-- R282: the bulk class. -/
def bulkType (t : BitVec 8) : Bool := decide (0x20 ≤ t.toNat) && decide (t.toNat < 0x37)
def seriesOf (p : Packet) : Nat := (if bulkType p.type then 2 ^ 20 else 0) + seriesKey p.sag p.dpkg p.ddie
/-- R286, R288: two packets of one series. -/
def fellows (p q : Packet) : Bool := p.sdie = q.sdie && p.score = q.score && seriesOf p = seriesOf q

/-- R287: no packet of a series is sent whose SEQ is 4,096 or more above that of the oldest one of it that is still pending. -/
def windowSize : Nat := 4096
def State.seqRoom (s : State) (q : Packet) : Bool :=
  s.unacked.all (fun u => !fellows u.p q || decide ((q.seq - u.p.seq).toNat < windowSize)) && !s.backlog.any (fun p => fellows p q)
/-- R290: the invocation of the context that sends a packet. -/
def State.sentBy (s : State) (p : Packet) : Option Sent :=
  if decide (p.sag.toNat < 4) && p.score ≠ 255 then
    let c := s.ctx ⟨p.sdie, p.score, p.sag.setWidth 2⟩
    c.run.map (fun r => ⟨r.i.id, c.gidx, c.pctx, c.region, r.i.ph⟩)
  else none
/-- R290: a packet is first sent, and kept until it is accepted or answered. -/
def State.sendKept (s : State) (q : Packet) : State :=
  { s.send q with unacked := s.unacked ++ [{ p := q, at_ := s.time, acc := false, landed := false, since := s.time, gap := 20000, who := s.sentBy q }] }
/-- R286 to R290: numbers a packet in its series and sends it, or keeps it back until the series has room. A packet inside the package
needs no number. -/
def State.sendNumbered (s : State) (p : Packet) : State :=
  if p.dpkg = s.pkg then s.send p
  else
    let id : CoreId := ⟨p.sdie, p.score⟩
    let c := s.core id
    let q := { p with seq := tget 0 c.seq (seriesOf p) }
    let s := s.setCore { c with seq := tset 0 c.seq (seriesOf p) (q.seq + 1) }
    if s.seqRoom q then s.sendKept q else { s with backlog := s.backlog ++ [q] }
/-- A packet of the ordered class (R286). -/
def State.sendOrdered (s : State) (p : Packet) : State := s.sendNumbered p
/-- A packet of the bulk class (R288). -/
def State.sendBulk (s : State) (p : Packet) : State := s.sendNumbered p
/-- R287: packets that were kept back leave while their series have room. -/
def State.drainBacklog (s : State) : State :=
  s.backlog.foldl (fun s q =>
    let t := { s with backlog := s.backlog.filter (fun x => !(fellows x q)) }
    if t.seqRoom q && !((s.backlog.takeWhile (fun x => x ≠ q)).any (fun x => fellows x q)) then ({ s with backlog := s.backlog.erase q }).sendKept q else s) s
/-- R53, R287: whether an instruction that sends one more packet of the series must hold issue. -/
def State.seriesFull (s : State) (src : CoreId) (sag : BitVec 4) (dpkg : BitVec 12) (ddie : BitVec 2) : Bool :=
  dpkg ≠ s.pkg &&
    let q : Packet := { (default : Packet) with sdie := src.die, score := src.core, sag := sag, dpkg := dpkg, ddie := ddie, type := 1,
                                                seq := tget 0 (s.core src).seq (seriesKey sag dpkg ddie) }
    !s.seqRoom q

/-- The die agent of a die: core 255. -/
def dieAgent (d : BitVec 2) : CoreId := ⟨d, 255⟩

/-! ## Protection contexts (R350) -/

/-- Decodes a protection context table entry of 64 bytes. -/
def protOfBytes (bs : List Byte) : Bool × Prot :=
  let w0 := dwAt bs 0
  let w2 := dwAt bs 2
  ((w0.getLsbD 0),
   { dbg := w0.getLsbD 1, ttroot := dwAt bs 1, keyslot := fld w2 0 8, cbase := fld w2 16 16, clen := fld w2 32 17,
     sventry := dwAt bs 3, fqbase := dwAt bs 4, fqlen := fld (dwAt bs 5) 0 20 })

/-- The entry of a protection context in CTXTAB, under the host-management key (slot 0, R401). -/
def State.protEntry (s : State) (pctx : BitVec 12) : Bool × Prot :=
  protOfBytes (s.bytes 0 (s.regs.ctxtab.toNat + 64 * pctx.toNat) 64)
def State.protOf (s : State) (pctx : BitVec 12) : Prot := (s.protEntry pctx).2

/-! ## Region control blocks (R203) -/

/-- The n-th doubleword of a block; 0 where the block cannot be read. -/
def State.blk (s : State) (prot : Prot) (b : Word) (n : Nat) : Word :=
  match s.devRead prot (b + natWord (8 * n)) 8 with
  | some bs => wordOf bs
  | none => 0
def State.setBlk (s : State) (prot : Prot) (b : Word) (n : Nat) (v : Word) : State :=
  s.devPut prot (b + natWord (8 * n)) (wordBytes v)

def State.blkParent (s : State) (prot : Prot) (b : Word) : Word := s.blk prot b 0
def State.blkHandler (s : State) (prot : Prot) (b : Word) : Word := s.blk prot b 1
def State.blkState (s : State) (prot : Prot) (b : Word) : BitVec 3 := fld (s.blk prot b 7) 0 3
def State.blkFcode (s : State) (prot : Prot) (b : Word) : BitVec 8 := fld (s.blk prot b 7) 8 8
def State.setBlkState (s : State) (prot : Prot) (b : Word) (st : BitVec 3) : State :=
  s.setBlk prot b 7 (putFld (s.blk prot b 7) 0 st)
def State.setBlkFail (s : State) (prot : Prot) (b : Word) (st : BitVec 3) (code : BitVec 8) : State :=
  s.setBlk prot b 7 (putFld (putFld (s.blk prot b 7) 0 st) 8 code)

/-- The chain of a block: itself and its ancestors. -/
def regionChain (s : State) (prot : Prot) : Nat → Word → List Word
  | 0, _ => []
  | fuel + 1, b => if b = 0 then [] else b :: regionChain s prot fuel (s.blkParent prot b)
/-- A bound on the length of a chain; the manual bounds only the regions that one invocation opens (64). -/
def chainFuel : Nat := 4096
def State.chain (s : State) (prot : Prot) (b : Word) : List Word := regionChain s prot chainFuel b

/-- R361: the package that homes a block, where that is another one. -/
def State.blkAway (s : State) (prot : Prot) (b : Word) : Option (BitVec 12) :=
  match s.xlateDev prot false true 1 b with
  | .ok (.pod p) _ => some p
  | _ => none
/-- R361: the first block of a chain that lies in another package, and that package; the chain is known here up to it. -/
def State.awayEnd (s : State) (prot : Prot) (b : Word) : Option (BitVec 12 × Word) :=
  (s.chain prot b).findSome? (fun r => (s.blkAway prot r).map (fun p => (p, r)))
/-- A message of the package to the package that homes a region's block. -/
def State.tellPkg (s : State) (pkg : BitVec 12) (m : PrmMsg) : State :=
  s.sendOrdered (mkPacket s 7 pkg 0 255 (dieAgent 0) 7 (.prm m))
def State.tellPods (s : State) (m : PrmMsg) : State := (s.pods.filter (fun p => p ≠ s.pkg)).foldl (fun s p => s.tellPkg p m) s
/-- R207: a region leaves the package with an invocation or an entry. -/
def State.noteAway (s : State) (pkg pctx : BitVec 12) (region : Word) : State :=
  if pkg = s.pkg || region = 0 || s.awayRegions.contains (pctx, region) then s
  else { s with awayRegions := s.awayRegions ++ [(pctx, region)] }

/-- R361: the first nonzero override along the chain. -/
def firstNonzero : List Word → Word
  | [] => 0
  | v :: vs => if v = 0 then firstNonzero vs else v
def State.effPrio (s : State) (prot : Prot) (b : Word) : BitVec 4 :=
  fld (firstNonzero ((s.chain prot b).map (fun r => s.blk prot r 2 &&& 15))) 0 4
def State.effElog (s : State) (prot : Prot) (b : Word) : Word :=
  firstNonzero ((s.chain prot b).map (fun r => s.blk prot r 6))
/-- R361: the pair of the nearest block whose SQADDR is nonzero. -/
def State.effSq (s : State) (prot : Prot) (b : Word) : Word × Nat :=
  match (s.chain prot b).find? (fun r => s.blk prot r 4 ≠ 0) with
  | some r => (s.blk prot r 4, (fld (s.blk prot r 5) 0 16).toNat)
  | none => (0, 0)

/-- A power of two from 8 to the bound. -/
def ringLen (n hi : Nat) : Bool := decide (8 ≤ n) && decide (n ≤ hi) && decide (2 ^ Nat.log2 n = n)

/-- R364: posts a record of 32 bytes to a queue with a 64-byte header. -/
def State.postRecord (s : State) (prot : Prot) (q : Word) (len : Nat) (rec : List Byte) : State :=
  if q = 0 then s
  else match s.devRead prot q 64 with
    | none => s
    | some h =>
      let prod := dwAt h 0
      let cons := dwAt h 1
      let lost := s.devPut prot (q + 16) (wordBytes (dwAt h 2 + 1))
      if ringLen len 32768 then
        if (prod - cons).toNat < len then
          (s.devPut prot (q + 64 + natWord (32 * (prod.toNat % len))) rec).devPut prot q (wordBytes (prod + 1))
        else lost
      else lost

/-- R361, R364, R422: no block of the chain that lies here supplies a queue: the record goes to the home of the next block. -/
def State.passRecord (s : State) (prot : Prot) (pctx : BitVec 12) (region : Word) (elog : Bool) (rec : List Byte) : State :=
  match s.awayEnd prot region with
  | some (p, b) => s.tellPkg p (.record pctx b elog rec)
  | none => s

/-- R364: posts to the effective status queue of a region. -/
def State.postStatus (s : State) (prot : Prot) (pctx : BitVec 12) (region : Word) (rec : List Byte) : State :=
  let (q, n) := s.effSq prot region
  if q = 0 then s.passRecord prot pctx region false rec else s.postRecord prot q n rec

/-- R364: a region record (TYPE 2). -/
def regionRec (kind : BitVec 2) (fcode : BitVec 8) (region fva time : Word) : List Byte :=
  wordBytes (2 ||| (kind.setWidth 64 <<< 8) ||| (fcode.setWidth 64 <<< 16)) ++ wordBytes region ++ wordBytes fva ++
    wordBytes time

/-- R422: an error log record. -/
def errRec (type code : BitVec 8) (sz : BitVec 2) (pkg : BitVec 12) (src : CoreId) (sag : BitVec 4)
    (addr operand ph : Word) : List Byte :=
  wordBytes (type.setWidth 64 ||| (code.setWidth 64 <<< 8) ||| (sz.setWidth 64 <<< 16) ||| (pkg.setWidth 64 <<< 24) |||
    (src.die.setWidth 64 <<< 36) ||| (src.core.setWidth 64 <<< 38) ||| (sag.setWidth 64 <<< 46)) ++
    wordBytes addr ++ wordBytes operand ++ wordBytes ph

/-- R422: posts to the effective error log of a region; LEN stands in the log's header. -/
def State.postElog (s : State) (prot : Prot) (pctx : BitVec 12) (region : Word) (rec : List Byte) : State :=
  let q := s.effElog prot region
  if q = 0 then s.passRecord prot pctx region true rec else
  let len := match s.devRead prot q 64 with
    | some h => (fld (dwAt h 3) 0 16).toNat
    | none => 0
  s.postRecord prot q len rec

/-- R361: an end, a charge or a change of RUN is reported to the package of a region's block. -/
def State.account (s : State) (pkg pctx : BitVec 12) (region run ns : Word) (ended : Bool) : State :=
  s.tellPkg pkg (.account pctx region run ns ended)
/-- Adds to the RUN count of a region (R362). -/
def State.runAdd (s : State) (pctx : BitVec 12) (prot : Prot) (region : Word) (d : Word) : State :=
  if region = 0 then s
  else match s.blkAway prot region with
    | some p => s.account p pctx region d 0 false
    | none => s.setBlk prot region 8 (s.blk prot region 8 + d)
/-- R361: an invocation that another package gave leave to start has ended. -/
def State.endLeave (s : State) (pctx : BitVec 12) (prot : Prot) (region : Word) : State :=
  match s.awayEnd prot region with
  | some (p, b) => s.account p pctx b 0 0 true
  | none => s

/-! ## Phasers (R209 to R213) -/

/-- R213: whether a member's arrival is expected in a phase: SIG (0) and SW (2) members registered when it began. -/
def Member.expected (m : Member) (phase : Nat) : Bool := m.mode ≠ 1 && decide (m.since ≤ phase)

/-- R213: the phase advances, with pending registrations and mode changes brought in. -/
def Phaser.advance (p : Phaser) : Phaser :=
  { p with
    phase := p.phase + 1
    shorts := if p.short then p.phase :: p.shorts else p.shorts
    short := false
    members := p.members.map (fun m => match m.next with
      | some k => { m with mode := k, next := none }
      | none => m) }

/-- R213: phases complete while every expected arrival is made or removed. A phase without expected arrivals completes when
something waits for it: a pending registration, a mode change, a removed obligation (log entry 14). -/
def Phaser.settle (p : Phaser) : Nat → Phaser
  | 0 => p
  | fuel + 1 =>
    let exp := p.members.filter (fun m => m.expected p.phase)
    let want := p.short || p.members.any (fun m => decide (m.since > p.phase) || m.next.isSome)
    if exp.all (fun m => decide (m.arr > p.phase)) && (!exp.isEmpty || want) then (p.advance).settle fuel else p

def State.setPhaser (s : State) (p : Phaser) : State :=
  { s with phasers := s.phasers.map (fun q => if q.id = p.id then p else q) }
def State.phaser (s : State) (id : Word) : Option Phaser := s.phasers.find? (fun p => p.id = id)

/-- R211: a member that satisfies the test is dropped; an arrival not yet made is removed from the phase. -/
def Phaser.drop (p : Phaser) (t : Member → Bool) : Phaser :=
  let gone := p.members.filter t
  if gone.isEmpty then p
  else
    { p with
      members := p.members.filter (fun m => !t m)
      short := p.short || gone.any (fun m => m.expected p.phase && decide (m.arr ≤ p.phase)) }

/-- R209: a phaser without members that had one is freed and its GEN increments. -/
def State.freeEmptyPhasers (s : State) : State :=
  let gone := s.phasers.filter (fun p => p.used && p.members.isEmpty)
  gone.foldl (fun s p => s.bumpGen 2 (fld p.id 12 2) (fld p.id 0 12).toNat)
    { s with phasers := s.phasers.filter (fun p => !(p.used && p.members.isEmpty)) }

/-- R211: drops memberships from every phaser of the package. -/
def State.dropMembers (s : State) (t : Member → Bool) : State :=
  ({ s with phasers := s.phasers.map (fun (p : Phaser) => (p.drop t).settle 4) }).freeEmptyPhasers

/-! ## Promises (R198, R229) -/

def State.promise (s : State) (ph : Word) : Option Promise := s.promises.find? (fun p => p.ph = ph)
def State.setPromise (s : State) (p : Promise) : State :=
  { s with promises := s.promises.map (fun q => if q.ph = p.ph then p else q) }

/-- The end of a chain of names (R197, R200). -/
inductive ChainEnd where
  | value (ph : Word) (bytes : List Byte) (conf : Bool)
  | oref (n : Word) (conf : Bool)
  | broken (ph : Word) (cause : BitVec 8) (origin : Word)
  | pending (ph : Word)
  | stale
  deriving DecidableEq, Repr, Inhabited

/-- What this package knows of a promise: its own table, or the last report from another package (R235). `fresh` says that
the use is a new one, to which a freed slot is stale (R202). A report of a break with cause STALE and no origin is the report
of a stale name. -/
def State.pstate (s : State) (fresh : Bool) (ph : Word) : Option (PState × Bool) :=
  match (if nmPkg ph = s.pkg then s.promise ph else none) with
  | some p => if fresh && p.freed then none else some (p.st, p.conf)
  | none => match s.reports.find? (fun r => r.1 = ph) with
    | some (_, .broken 5 0, _) => none
    | some (_, st, c) => if fresh && nmPkg ph = s.pkg then none else some (st, c)
    | none => if nmPkg ph = s.pkg then none else some (.pending, false)

/-- Follows a chain of names. `conf` says whether the last resolution is confirmed. -/
def chase (s : State) (fresh : Bool) : Nat → Word → Bool → ChainEnd
  | 0, ph, _ => .pending ph
  | fuel + 1, n, conf =>
    if isOref n then .oref n conf
    else match s.pstate fresh n with
      | none => .stale
      | some (.pending, _) => .pending n
      | some (.value b, c) => .value n b c
      | some (.name m, c) => chase s fresh fuel m c
      | some (.broken c o, _) => .broken n c o

/-- A chain cannot be longer than the promises known (R200 keeps it free of cycles). -/
def State.chaseFuel (s : State) : Nat := s.promises.length + s.reports.length + 1
/-- The end of the chain for an agent that is registered on it. -/
def State.chainEnd (s : State) (n : Word) : ChainEnd := chase s false s.chaseFuel n true
/-- The end of the chain for a new use. -/
def State.chainNew (s : State) (n : Word) : ChainEnd := chase s true s.chaseFuel n true
/-- The end of the chain for a context parked at a promise: what lies beyond the promise is a new use. -/
def State.chainParked (s : State) (ph : Word) : ChainEnd :=
  match (if isOref ph then none else s.pstate false ph) with
  | some (.name m, c) => chase s true s.chaseFuel m c
  | _ => s.chainEnd ph

/-- R230: the invocation packet to a name's first home (R227). -/
def invPacket (s : State) (i : Inv) (src : CoreId) (sag : BitVec 4) : Packet :=
  { mkPacket s 1 (nmPkg i.target) (nmDie i.target) (nmCore i.target) src sag (.inv i) with addr := i.target, ndf := 1 }
/-- R230: an invocation is sent. -/
def State.sendInvTo (s : State) (i : Inv) (src : CoreId) (sag : BitVec 4) : State :=
  (s.noteAway (nmPkg i.target) i.pctx i.region).sendOrdered (invPacket s i src sag)

/-- R359: the releases known of a promise, and those of every promise on a chain of names. -/
def State.toksOf (s : State) (ph : Word) : List FlushTok := (s.owing.filter (fun o => o.1 = ph)).map (fun o => o.2)
def State.setToks (s : State) (ph : Word) (ts : List FlushTok) : State :=
  { s with owing := s.owing.filter (fun o => o.1 ≠ ph) ++ ts.map (fun t => (ph, t)) }
def chainToks (s : State) : Nat → Word → List FlushTok
  | 0, _ => []
  | fuel + 1, n =>
    if isOref n then []
    else s.toksOf n ++ (match s.pstate false n with
      | some (.name m, _) => chainToks s fuel m
      | _ => [])
/-- R359: whether the releases are complete as far as this package goes. -/
def State.flushOver (s : State) (t : FlushTok) : Bool := !t.owed.contains s.pkg || s.flushes.any (fun f => f.2.1 = t && f.2.2)
def State.flushesOver (s : State) (ts : List FlushTok) : Bool := ts.all s.flushOver
/-- Releases that are to be asked about. -/
def State.flushesNew (s : State) (ts : List FlushTok) : List FlushTok :=
  (ts.filter (fun t => !s.flushOver t && !s.flushes.any (fun f => f.2.1 = t))).eraseDups
/-- R359: the release flushes are asked for. -/
def State.askFlushes (s : State) (die : BitVec 2) (ts : List FlushTok) : State :=
  (s.flushesNew ts).foldl (fun s t =>
    ({ s with fresh := s.fresh + 1, flushes := s.flushes ++ [(s.fresh, t, false)] }).tellPkg t.pkg
      (.ask ⟨die, 255, 0⟩ s.pkg s.fresh (.flush t.inv t.wm t.loads))) s
/-- Answers that have served. -/
def State.dropFlushes (s : State) (ts : List FlushTok) : State := { s with flushes := s.flushes.filter (fun f => !ts.contains f.2.1) }

/-- The unit of work of a resolution: a promise (0 for the root of a launch) and its new state. -/
structure Work where
  ph     : Word
  launch : LaunchId
  st     : PState
  core   : Option CoreId
  deriving DecidableEq, Repr, Inhabited

/-- A break of the promise of a discarded invocation (R231): the origin is the promise itself unless inherited. -/
def breakWork (i : Inv) (cause : BitVec 8) (origin : Option Word) : Work :=
  ⟨i.ph, i.launch, .broken cause (match origin with | some o => o | none => i.ph), none⟩

/-- R189: a deleted object goes when the last invocation that has reached it is gone, and the GEN of its slot increments. -/
def State.objectDone (s : State) (name : Word) : State :=
  match s.objs.find? (fun o => o.name = name) with
  | none => s
  | some o =>
    if o.deleted && !s.invs.any (fun r => r.obj = some name) then
      ({ s with objs := s.objs.filter (fun x => x.name ≠ name) }).bumpGen 0 (nmDie name) (nmSlot name).toNat
    else s

/-- Removes an invocation from the store and from its region's count. -/
def State.dropInv (s : State) (r : InvRec) : State :=
  let s := { s with invs := s.invs.filter (fun x => x.i.id ≠ r.i.id), dlseq := s.dlseq.filter (fun e => e.1 / 4096 ≠ r.i.id) }
  let s := match r.obj with
    | some n => s.objectDone n
    | none => s
  let s := s.runAdd r.i.pctx (s.protOf r.i.pctx) r.i.region (-1)
  if r.leave = some true then s.endLeave r.i.pctx (s.protOf r.i.pctx) r.i.region else s

/-- Discards invocations (R231), each with a cause and an origin, and gives the breaks that follow. -/
def State.discard (s : State) (rs : List (InvRec × BitVec 8 × Option Word)) : State × List Work :=
  (rs.foldl (fun s r => s.dropInv r.1) s, rs.map (fun r => breakWork r.1.i r.2.1 r.2.2))

/-- R230: sends an invocation on to the first home of a name. A package that is not present discards it (R231). -/
def State.forward (s : State) (r : InvRec) (n : Word) : State × List Work :=
  if s.present (nmPkg n) then
    let i := { r.i with target := n, toks := (r.i.toks ++ s.toksOf r.i.target).eraseDups }
    (({ s with invs := s.invs.filter (fun x => x.i.id ≠ r.i.id) }).sendInvTo i (dieAgent r.die) 7, [])
  else s.discard [(r, 5, none)]

def forwardAll (n : Word) : List InvRec → State × List Work → State × List Work
  | [], acc => acc
  | r :: rs, (s, w) => let (s', w') := s.forward r n; forwardAll n rs (s', w ++ w')

/-- The invocations queued on a promise, in queue order (R226). -/
def State.queuedOn (s : State) (ph : Word) : List InvRec := s.invs.filter (fun r => r.stage = .queued ph)
/-- R235, R245: held invocations with a `.resolve` argument that waits at the promise. -/
def State.heldOn (s : State) (ph : Word) : List InvRec :=
  s.invs.filter (fun r => r.i.resolve && r.stage = .held &&
    r.i.args.any (fun a => isPh a && (match s.chainEnd a with | .pending p => p = ph | .broken p _ _ => p = ph | _ => false)))

/-- R202: the slot of a freed promise is free once it has resolved or broken. -/
def State.freePromise (s : State) (ph : Word) : State :=
  ({ s with promises := s.promises.filter (fun p => p.ph ≠ ph), owing := s.owing.filter (fun o => o.1 ≠ ph) }).bumpGen 1 (nmDie ph) (nmSlot ph).toNat

/-- Whether a context is parked at a promise. -/
def Ctx.parkedAt (ph : Word) (c : Ctx) : Bool :=
  match c.status with
  | .waiting (.await _ _ _ p _ _) _ _ _ => p = ph
  | _ => false
/-- Whether something here still has to learn the state of a promise: a context parked at it, or a held invocation with arguments. -/
def State.learns (s : State) (ph : Word) : Bool :=
  (s.cx :: s.ctxs ++ s.invs.flatMap (fun r => r.frame)).any (Ctx.parkedAt ph) ||
    s.invs.any (fun r => r.i.resolve && r.regd && r.stage = .held)
/-- R202, R245: the slot of a promise that has resolved or broken is freed: what waited for it still learns its state. -/
def State.freeSettled (s : State) (p : Promise) : State :=
  let ts := s.toksOf p.ph
  let keep := s.learns p.ph
  let s := s.freePromise p.ph
  if keep then { s with reports := s.reports ++ [(p.ph, p.st, p.conf)] }.setToks p.ph ts else s
/-- R197: where a context that waits on a chain stands when a promise of it resolves to a name: at the last promise that it reaches. -/
def chainAt (ph : Word) : ChainEnd → Word
  | .pending p => p
  | .value p _ _ => p
  | .broken p _ _ => p
  | _ => ph
def Ctx.moveTo (ph now : Word) (c : Ctx) : Ctx :=
  match c.status with
  | .waiting (.await gd gbuf qd p buf conf) d sw len =>
    if p = ph then { c with status := .waiting (.await gd gbuf qd now buf conf) d sw len } else c
  | _ => c
/-- R197: the contexts that wait on a chain go on along it when a promise resolves to a name. -/
def State.moveParked (s : State) (ph n : Word) : State :=
  let now := chainAt ph (s.chainNew n)
  { s with cx := s.cx.moveTo ph now, ctxs := s.ctxs.map (Ctx.moveTo ph now),
           invs := s.invs.map (fun (r : InvRec) => { r with frame := r.frame.map (Ctx.moveTo ph now) }) }

/-- Reports a new state to the dies of other packages that registered (R235). -/
def State.report (s : State) (p : Promise) : State :=
  p.regs.foldl (fun s r => s.sendOrdered
    (mkPacket s 7 r.1 r.2 255 (dieAgent (nmDie p.ph)) 7 (.prm (.report p.ph p.st p.conf (s.toksOf p.ph))))) s

/-- R229, R230, R231, R245: a promise takes a state, and what follows from it in the same step. -/
def State.settleAs (s : State) (p : Promise) (st : PState) : State × List Work :=
  let p' := { p with st := st, trying := none }
  let s := (s.setPromise p').report p'
  let queue := s.queuedOn p.ph
  let (s, ws) := match st with
    | .name n => forwardAll n queue (s.moveParked p.ph n, [])
    | .value _ => s.discard (queue.map (fun r => (r, 6, none)))
    | .broken _ o => s.discard ((queue ++ s.heldOn p.ph).map (fun r => (r, 2, some o)))
    | .pending => (s, [])
  (if p.freed then s.freeSettled p' else s, ws)

/-- R200: what following a chain from a name comes to, for a promise that is to resolve to it. -/
inductive Loop where
  | open_
  | closed
  /-- the chain goes on at a promise that another package, or a check that is under way, has to tell of. -/
  | goes (n : Word)
  | waits
  deriving DecidableEq, Repr
/-- R200: the chain from n, followed at this package for promise ph. A promise whose own check is under way counts as resolved where its
name is the lower, and is waited for where it is the higher, so that of two resolutions that would close a loop together one breaks
(log entry 103). -/
def loopFrom (s : State) (ph : Word) : Nat → Word → Loop
  | 0, n => .goes n
  | fuel + 1, n =>
    if n = ph then .closed
    else if isOref n || !s.present (nmPkg n) then .open_
    else if nmPkg n ≠ s.pkg then .goes n
    else match s.promise n with
      | none => .open_
      | some p => match p.st, p.trying with
        | .name m, _ => loopFrom s ph fuel m
        | .pending, some m => if n.ult ph then loopFrom s ph fuel m else .waits
        | _, _ => .open_
/-- R200: the home of promise ph asks the home of a name about the rest of a chain. -/
def State.askChain (s : State) (die : BitVec 2) (ph n : Word) : State :=
  s.sendOrdered (mkPacket s 7 (nmPkg n) (nmDie n) 255 (dieAgent die) 7 (.prm (.chase ph n)))

/-- R229: one transition of one promise. R200: a resolution that would close a chain of names breaks the promise instead; while other
packages are asked about the chain, the promise has not resolved, and nothing else resolves or breaks it. -/
def settleOne (s : State) (w : Work) : State × List Work :=
  if w.ph = 0 && w.launch.pkg ≠ s.pkg then
    (s.sendOrdered (mkPacket s 7 w.launch.pkg (fld w.launch.q 11 2) 255 (dieAgent 0) 7 (.prm (.root w.launch w.st))), [])
  else if w.ph = 0 then
    ({ s with launches := s.launches.map (fun l =>
        if l.id = w.launch && l.res = .pending then { l with res := w.st } else l) }, [])
  else if nmPkg w.ph ≠ s.pkg then
    ((s.setToks w.ph []).sendOrdered (mkPacket s 7 (nmPkg w.ph) (nmDie w.ph) 255 (dieAgent (nmDie w.ph)) 7
      (.prm (.resolve w.ph w.st (match w.core with | some c => c | none => ⟨0, 255⟩) s.pkg (s.toksOf w.ph)))), [])
  else match s.promise w.ph with
    | none => (s, [])
    | some p =>
      if p.st ≠ .pending || p.trying.isSome then (s, [])
      else
        let p := { p with conf := false, by_ := w.core }
        match w.st with
        | .name n => match loopFrom s w.ph s.chaseFuel n with
          | .open_ => s.settleAs p w.st
          | .closed => s.settleAs p (.broken 3 w.ph)
          | .goes m => ((s.setPromise { p with trying := some n }).askChain (nmDie w.ph) w.ph m, [])
          | .waits => ((s.setPromise { p with trying := some n }).askChain (nmDie w.ph) w.ph n, [])
        | st => s.settleAs p st

/-- Spreads until nothing is left: every unit of work discards at least one invocation, so the fuel suffices. -/
def settleAll : Nat → List Work → State → State
  | 0, _, s => s
  | _ + 1, [], s => s
  | fuel + 1, w :: ws, s => let (s', ws') := settleOne s w; settleAll fuel (ws ++ ws') s'

def State.settle (s : State) (ws : List Work) : State := settleAll (s.invs.length + ws.length + 1) ws s

/-- Discards invocations and spreads the breaks. -/
def State.discardAll (s : State) (rs : List (InvRec × BitVec 8 × Option Word)) : State :=
  let (s, ws) := s.discard rs
  s.settle ws

end Sys2Proof.Machine
end

