-- ==== Sys2Proof/Machine/Series.lean ====
section
/-! DEFINITION. Series at the destination (R286 to R288): acceptance, landing, acknowledgement, the duplicate window. -/

namespace Sys2Proof.Machine

/-- R286: an access of memory. -/
def accessType (t : BitVec 8) : Bool := decide (2 ≤ t.toNat) && decide (t.toNat ≤ 5)

/-- R286, R288: the series of a source agent at a destination die. -/
def rxKey (bulk : Bool) (spkg : BitVec 12) (sdie : BitVec 2) (score : BitVec 8) (sag : BitVec 4) (die : BitVec 2) : Nat :=
  ((((spkg.toNat * 4 + sdie.toNat) * 256 + score.toNat) * 16 + sag.toNat) * 4 + die.toNat) * 2 + (if bulk then 1 else 0)
def rxKeyOf (p : Packet) : Nat := rxKey (bulkType p.type) p.spkg p.sdie p.score p.sag p.ddie
def RxSeries.blank : RxSeries := ⟨0, [], [], [], 0, none, 0⟩
def State.rxGet (s : State) (k : Nat) : RxSeries := match s.rx.find? (fun e => e.1 = k) with | some e => e.2 | none => RxSeries.blank
def State.rxSet (s : State) (k : Nat) (r : RxSeries) : State := { s with rx := (k, r) :: s.rx.filter (fun e => e.1 ≠ k) }

/-- Whether a number of a series comes at or before another. -/
def seqLe (a b : BitVec 32) : Bool := decide ((b - a).toNat < 2 ^ 31)

/-- R286: PSEQ. -/
def RxSeries.pseq (r : RxSeries) : BitVec 32 := match r.heldSeq with | h :: _ => h - 1 | [] => r.next - 1
/-- R287: the window holds 4,096 numbers. -/
def winPush (w : List (BitVec 32 × Option Packet)) (q : BitVec 32) : List (BitVec 32 × Option Packet) :=
  (if w.length < 4096 then w else w.drop 1) ++ [(q, none)]

/-- A packet back to the source of one that came. AUX names the agent whose series it concerns (log entry 13). -/
def backTo (s : State) (p : Packet) (type : BitVec 8) (payload : Payload) : Packet :=
  { mkPacket s type p.spkg p.sdie p.score ⟨p.ddie, p.dep⟩ 4 payload with aux := p.sag.setWidth 64, ndf := 1 }

/-- R286: how far an acknowledgement's PSEQ goes, and the failed access that it names: one for each that PSEQ passes, in SEQ order. -/
def ackNames (last : BitVec 32) : List (BitVec 32 × Word) → List (BitVec 32 × Option (BitVec 32 × Word))
  | [] => [(last, none)]
  | [f] => [(last, some f)]
  | f :: g :: fs => (g.1 - 1, some f) :: ackNames last (g :: fs)
/-- R286: what the next acknowledgements of the series of a packet say; each failure is named once. -/
def State.ackParts (s : State) (p : Packet) : List (BitVec 32 × Option (BitVec 32 × Word)) × State :=
  let k := rxKeyOf p
  let r := s.rxGet k
  let pass := fun (f : BitVec 32 × Word) => seqLe f.1 r.pseq
  (ackNames r.pseq (sortBy (fun (x y : BitVec 32 × Word) => seqLe x.1 y.1) (r.failed.filter pass)),
   s.rxSet k { r with failed := r.failed.filter (fun f => !pass f) })
def ackPayload (aseq : BitVec 32) (n : BitVec 32 × Option (BitVec 32 × Word)) : Payload :=
  .ack aseq n.1 (n.2.map Prod.fst) ((n.2.map Prod.snd).getD 0)
def State.sendAcks (s : State) (p : Packet) (ns : List (BitVec 32 × Option (BitVec 32 × Word))) : State :=
  ns.foldl (fun s n => s.send (backTo s p 0x11 (ackPayload ((s.rxGet (rxKeyOf p)).next - 1) n))) s
/-- R286: acceptance and landing are acknowledged. -/
def State.ackSeries (s : State) (p : Packet) : State :=
  if p.spkg = s.pkg then s else let (ns, s) := s.ackParts p; s.sendAcks p ns

/-- R287: the reply to a packet is kept in the window, and sent. -/
def State.reply (s : State) (p q : Packet) : State :=
  if p.spkg = s.pkg then s.send q
  else
    let k := rxKeyOf p
    let r := s.rxGet k
    (s.rxSet k { r with window := r.window.map (fun e => if e.1 = p.seq then (e.1, some q) else e) }).send q

/-- R290: flow control holds a packet back: HOLD is sent after 10 µs. -/
def State.noteHeld (s : State) (p : Packet) : State :=
  if p.spkg = s.pkg then s
  else
    let r := s.rxGet (rxKeyOf p)
    s.rxSet (rxKeyOf p) { r with last := s.time, holding := r.holding.or (some (s.time, p)) }

/-- R286 to R288: the acceptance of a packet. `error` gives the state where it is not to be performed: a duplicate is answered
again, and one held at a landing fault is discarded; a packet that is too early is discarded. Whatever arrives counts as heard (R287). -/
def State.accept (s : State) (p : Packet) : Except State State :=
  if p.spkg = s.pkg then .ok s
  else
    let k := rxKeyOf p
    let r := { s.rxGet k with last := s.time }
    let s := s.rxSet k r
    let again := match r.window.find? (fun e => e.1 = p.seq) with
      | some (_, some q) => s.send q
      | _ => if r.heldSeq.contains p.seq || bulkType p.type then s else s.ackSeries p
    let known := r.window.any (fun e => e.1 = p.seq)
    let free := r.holding.filter (fun h => h.2.seq ≠ p.seq)
    if bulkType p.type then
      if known then .error again else .ok (s.rxSet k { r with window := winPush r.window p.seq, holding := free })
    else if p.seq = r.next then .ok (s.rxSet k { r with next := r.next + 1, window := winPush r.window p.seq, holding := free })
    else if seqLe p.seq r.next then .error again
    else .error s

/-- R263: an accepted access is held at a landing fault. Its acceptance is acknowledged all the same (R286). -/
def State.holdSeq (s : State) (p : Packet) : State :=
  if p.spkg = s.pkg || !(accessType p.type || bulkType p.type) then s
  else
    let r := s.rxGet (rxKeyOf p)
    if r.heldSeq.contains p.seq then s
    else
      let s := s.rxSet (rxKeyOf p) { r with heldSeq := r.heldSeq ++ [p.seq], heldAt := if r.heldSeq.isEmpty then s.time else r.heldAt }
      if bulkType p.type then s else s.ackSeries p
def State.unholdSeq (s : State) (p : Packet) : State :=
  if p.spkg = s.pkg then s
  else
    let r := s.rxGet (rxKeyOf p)
    s.rxSet (rxKeyOf p) { r with heldSeq := r.heldSeq.filter (fun q => q ≠ p.seq) }

/-- R286: an access has failed; the acknowledgement whose PSEQ passes it will say why. -/
def State.noteFail (s : State) (p : Packet) (w : Word) : State :=
  if p.spkg = s.pkg then s
  else let r := s.rxGet (rxKeyOf p); s.rxSet (rxKeyOf p) { r with failed := r.failed ++ [(p.seq, w)] }
/-- R286: an ordered packet has landed, or its access has failed. -/
def State.landed (s : State) (p : Packet) (fail : Option Word) : State :=
  let s := s.unholdSeq p
  ((fail.map (s.noteFail p)).getD s).ackSeries p

/-- A bulk packet is answered (R288, R290). -/
def State.bulkDone (s : State) (p : Packet) (payload : Payload) : State :=
  (s.unholdSeq p).reply p (backTo s p 0x30 payload)
def State.bulkAck (s : State) (p : Packet) (fail : Option Word) : State :=
  s.bulkDone p (.ack p.seq p.seq (fail.map (fun _ => p.seq)) (fail.getD 0))

/-- R321: the buffer tag of a block id, and of a collective. -/
def bidTag (b : BitVec 48) : BitVec 20 := b.extractLsb' 16 20
def Coll.tag (c : Coll) : BitVec 20 := BitVec.ofNat 20 (c.group.toNat * 16 + c.k % 16)
/-- The collective of a die that a block belongs to. -/
def State.blockColl (s : State) (die : BitVec 2) (bid : BitVec 48) : Option Coll :=
  s.colls.find? (fun c => c.die = die && c.err = 0 && c.algo = 4 && c.tag = bidTag bid)

/-- R263: the landing of a packet has failed for good. `w` is FLTINFO of the home walk. A SEND's operation ends in error (R316); a
block's collective takes error 6 (R332). -/
def State.landFail (s : State) (p : Packet) (w : Word) : State :=
  match p.payload with
  | .block bid _ _ _ _ _ _ coded _ =>
    let s := match s.blockColl p.ddie bid with
      | some c => s.due (.collectiveAbort c.die c.slot 6)
      | none => s
    if coded.isNone then s.bulkAck p (some w) else s.unholdSeq p
  | .copyData id _ _ _ _ _ _ =>
    if p.type ≠ 8 then s.bulkAck p (some w)
    else if p.spkg = s.pkg then
      { s with firings := s.firings.map (fun (f : Firing) => if f.id = id then { f with fin := some (3, 0) } else f) }
    else s.landed p (some w)
  | _ => if bulkType p.type then s.bulkAck p (some w) else if accessType p.type then s.landed p (some w) else s

end Sys2Proof.Machine
end

