-- ==== Sys2Proof/Machine/Fabric.lean ====
section
/-! DEFINITION. Ports, routes and the check of headers at a die switch (R277, R281 to R285). -/

namespace Sys2Proof.Machine

/-! ## Ports and routes -/

/-- R3, R277: ports of a package; die d owns 12d to 12d + 11. -/
def portCount : Nat := 48
def portDie (l : BitVec 6) : BitVec 2 := BitVec.ofNat 2 (l.toNat / 12)
/-- R277: the die that owns a link. Links 48 to 53 join the dies 0 and 1, 0 and 2, 0 and 3, 1 and 2, 1 and 3, 2 and 3, and stand here
at the lower one (log entry 106). -/
def linkDie (l : BitVec 6) : BitVec 2 :=
  if l.toNat < portCount then portDie l else if l.toNat < 51 then 0 else if l.toNat < 53 then 1 else 2
/-- R284: the ports that the fabric manager's tables use: none that is down. -/
def State.upPorts (s : State) : List (BitVec 6) := ((List.range portCount).map (BitVec.ofNat 6)).filter (fun l => !s.downs.contains l)
def routeKey (die : BitVec 2) (pkg : BitVec 12) (ddie : BitVec 2) : Nat := (die.toNat * 4096 + pkg.toNat) * 4 + ddie.toNat
def State.routeAt (s : State) (key : Nat) : BitVec 6 := s.upPorts.getD (Config.port s.routeEra key % s.upPorts.length) 0
/-- R284: the port by which the ordered route from a die of this package to a die of another one leaves. -/
def State.portTo (s : State) (die : BitVec 2) (pkg : BitVec 12) (ddie : BitVec 2) : BitVec 6 := s.routeAt (routeKey die pkg ddie)
/-- The die of this package at whose switch a packet stands: that of its source, or of the port at which it has come in. -/
def State.inDie (s : State) (p : Packet) : BitVec 2 := if p.spkg = s.pkg then p.sdie else portDie p.via
/-- Where a packet is bound; a coded packet for the first of the receivers that this copy serves (R285). -/
def aimOf (p : Packet) : BitVec 12 × BitVec 2 :=
  match p.payload with
  | .coded _ comps (k :: _) _ => match comps[k]? with
    | some c => (c.dpkg, c.ddie)
    | none => (p.dpkg, p.ddie)
  | _ => (p.dpkg, p.ddie)
/-- R284, R285: the port by which a packet leaves: its ordered route, and for other bulk packets than block packets any route, by a
choice of its own. -/
def State.portOf (s : State) (p : Packet) : BitVec 6 :=
  let k := routeKey (s.inDie p) (aimOf p).1 (aimOf p).2
  if bulkType p.type && p.type ≠ 0x23 && p.type ≠ 0x24 then s.routeAt (k + 2 ^ 20 * (1 + p.seq.toNat)) else s.routeAt k

/-! ## Headers (R281, R282) -/

/-- R282: the types of the table. -/
def knownType (t : BitVec 8) : Bool :=
  let n := t.toNat
  (decide (1 ≤ n) && decide (n ≤ 8)) || n = 0x10 || n = 0x11 || (decide (0x20 ≤ n) && decide (n ≤ 0x24)) || (decide (0x30 ≤ n) && decide (n ≤ 0x37))
/-- R281, R282: whether the fields of a header keep to the tables: the channel of the type, the ranges of the fields, what block and coded
packets and sends always bear (R293, R301). XC is undone by the port (R291). -/
def headerOk (p : Packet) : Bool :=
  knownType p.type && p.vch = channelOf p.type && !p.xc && p.coded = (p.type = 0x24) && p.fh ≠ 3 && decide (p.ndf.toNat ≤ 64) &&
    decide (p.plen.toNat ≤ 4096) && (decide (p.dep.toNat < 192) || p.dep = 255) && (decide (p.score.toNat < 192) || p.score = 255) &&
    decide (p.sag.toNat ≤ 8) && (!(p.type = 0x23 || p.type = 0x24) || (p.ndf = 64 && p.plen = 4096)) &&
    (p.type ≠ 8 || (decide (1 ≤ p.plen.toNat) && decide (p.plen.toNat ≤ 64)))
/-- R282: a packet that breaks the table is discarded and counted. -/
def State.malformed (s : State) (die : BitVec 2) : State :=
  let d := s.die die
  s.setDie die { d with stats := { d.stats with malformed := d.stats.malformed + 1 } }

/-- R283, R284: a packet for another package passes through, one hop level higher. None crosses more than 4 package links; one that would is
taken for malformed (log entry 107). -/
def State.transit (s : State) (p : Packet) : State :=
  if p.hlv = 3 then s.malformed (s.inDie p) else { s with outbox := s.outbox ++ [{ p with hlv := p.hlv + 1 }] }
/-- R282: what the first die switch does with a packet that has come: one that breaks the table is discarded, one for another package goes
on, and one for this package is dealt with. This package's own agents send none that break it. -/
def State.routed (s : State) (p : Packet) (ok : Bool) (f : State → State) : State :=
  if !((p.spkg = s.pkg || headerOk p) && ok) then s.malformed (s.inDie p) else if p.dpkg ≠ s.pkg then s.transit p else f s

end Sys2Proof.Machine
end

