-- ==== Sys2Proof/Machine/Float.lean ====
section
/-! DEFINITION. Floating-point values, rounding and conversions (R10 to R22, R33, R34): decode a value exactly, compute
exactly, round once. -/

namespace Sys2Proof.Machine

/-- A floating-point value: (-1) ^ neg × m × 2 ^ e. -/
inductive FV where
  | nan
  | inf (neg : Bool)
  | fin (neg : Bool) (m : Nat) (e : Int)
  deriving DecidableEq, Repr, Inhabited

/-- R10: a format: fraction bits, exponent bits, bias, and whether it has infinities. -/
structure Fmt where
  fb   : Nat
  eb   : Nat
  bias : Int
  inf  : Bool
  deriving DecidableEq, Repr, Inhabited

def fp32 : Fmt := ⟨23, 8, 127, true⟩
/-- R105: the format of a code 0 to 4. -/
def fmtOf (c : BitVec 4) : Fmt :=
  if c = 1 then ⟨10, 5, 15, true⟩ else if c = 2 then ⟨7, 8, 127, true⟩ else if c = 3 then ⟨3, 4, 7, false⟩
  else if c = 4 then ⟨2, 5, 15, true⟩ else fp32
def Fmt.width (f : Fmt) : Nat := 1 + f.eb + f.fb
/-- The exponent of the smallest normal value. -/
def Fmt.emin (f : Fmt) : Int := 1 - f.bias
/-- R11: the canonical NaN. -/
def Fmt.nanBits (f : Fmt) : Nat :=
  if f.inf then (2 ^ f.eb - 1) * 2 ^ f.fb + 2 ^ (f.fb - 1) else 2 ^ (f.eb + f.fb) - 1
def Fmt.infBits (f : Fmt) : Nat := (2 ^ f.eb - 1) * 2 ^ f.fb
/-- R11: the largest finite value, without its sign. -/
def Fmt.maxBits (f : Fmt) : Nat := if f.inf then f.infBits - 1 else 2 ^ (f.eb + f.fb) - 2
def signBits (f : Fmt) (neg : Bool) : Nat := if neg then 2 ^ (f.eb + f.fb) else 0

/-- R10, R11: the value of an encoding. A finite value keeps the unit of its encoding in `e`. -/
def decodeFV (f : Fmt) (bits : Nat) : FV :=
  let neg := decide (bits / 2 ^ (f.eb + f.fb) % 2 = 1)
  let ex := bits / 2 ^ f.fb % 2 ^ f.eb
  let fr := bits % 2 ^ f.fb
  if ex = 2 ^ f.eb - 1 && f.inf then (if fr = 0 then .inf neg else .nan)
  else if ex = 2 ^ f.eb - 1 && fr = 2 ^ f.fb - 1 then .nan
  else if ex = 0 then .fin neg fr (f.emin - f.fb)
  else .fin neg (2 ^ f.fb + fr) (ex - f.bias - f.fb)

/-- R16: a rounding mode; SR carries the word that step() returned. -/
inductive RMode where
  | rne | rtz | rup | rdn
  | sr (rb : Word)
  deriving DecidableEq, Repr, Inhabited

/-- R22: the overflow variant. -/
inductive Ovf where
  | dflt | sat | nosat
  deriving DecidableEq, Repr, Inhabited

/-- R16, R34: whether the magnitude kq + rem / 2 ^ sh rounds up to kq + 1. -/
def roundsUp (mode : RMode) (neg : Bool) (kq rem sh : Nat) : Bool :=
  match mode with
  | .rne => decide (2 * rem > 2 ^ sh) || (decide (2 * rem = 2 ^ sh) && decide (kq % 2 = 1) && decide (0 < sh))
  | .rtz => false
  | .rup => !neg && decide (rem ≠ 0)
  | .rdn => neg && decide (rem ≠ 0)
  | .sr rb =>
    let d := min sh 32
    let fb := rem / 2 ^ (sh - d)
    decide (0 < d) && decide (fb + rb.toNat / 2 ^ (64 - d) ≥ 2 ^ d)

/-- R19: the encoding of an overflow. -/
def overflowBits (f : Fmt) (ov : Ovf) (mode : RMode) (neg : Bool) : Nat :=
  let big := if f.inf then signBits f neg + f.infBits else f.nanBits
  let max := signBits f neg + f.maxBits
  if f.inf then
    match ov, mode with
    | .sat, _ => max
    | _, .rtz => max
    | _, .rup => if neg then max else big
    | _, .rdn => if neg then big else max
    | _, _ => big
  else
    match ov, mode with
    | .nosat, .rtz => max
    | .nosat, .rup => if neg then max else big
    | .nosat, .rdn => if neg then big else max
    | .nosat, _ => big
    | _, _ => max

/-- R19, R20: the encoding of m × 2 ^ e with m > 0, rounded once. -/
def roundMag (f : Fmt) (ov : Ovf) (mode : RMode) (neg : Bool) (m : Nat) (e : Int) : Nat :=
  let lead := (Nat.log2 m : Int) + e
  let q := max (lead - f.fb) (f.emin - f.fb)
  let sh := (q - e).toNat
  let kq0 := if e ≥ q then m * 2 ^ (e - q).toNat else m / 2 ^ sh
  let rem := if e ≥ q then 0 else m % 2 ^ sh
  let kq := if roundsUp mode neg kq0 rem (if e ≥ q then 0 else sh) then kq0 + 1 else kq0
  let carry := decide (kq = 2 ^ (f.fb + 1))
  let k := if carry then kq / 2 else kq
  let q' := if carry then q + 1 else q
  let mag := if k < 2 ^ f.fb then k else ((q' + f.fb + f.bias).toNat) * 2 ^ f.fb + (k - 2 ^ f.fb)
  if mag > f.maxBits then overflowBits f ov mode neg else signBits f neg + mag

/-- The encoding of a value in a format, rounded once (R19 to R21). -/
def encodeFV (f : Fmt) (ov : Ovf) (mode : RMode) : FV → Nat
  | .nan => f.nanBits
  | .inf neg =>
    if f.inf then (if ov = .sat then signBits f neg + f.maxBits else signBits f neg + f.infBits)
    else if ov = .nosat then f.nanBits else signBits f neg + f.maxBits
  | .fin neg m e => if m = 0 then signBits f neg else roundMag f ov mode neg m e

/-! ## Exact arithmetic (R14, R15) -/

def FV.isNan : FV → Bool
  | .nan => true
  | _ => false
def FV.isZero : FV → Bool
  | .fin _ 0 _ => true
  | _ => false
def FV.neg_ : FV → FV
  | .nan => .nan
  | .inf n => .inf (!n)
  | .fin n m e => .fin (!n) m e
/-- The integer that a finite value is in units of 2 ^ u, where u is not above its exponent. -/
def scaled (neg : Bool) (m : Nat) (e u : Int) : Int :=
  let v : Int := (m * 2 ^ (e - u).toNat : Nat)
  if neg then -v else v
def ofScaled (z : Int) (u : Int) (zneg : Bool) : FV :=
  if z = 0 then .fin zneg 0 u else .fin (decide (z < 0)) z.natAbs u

/-- R14: the exact sum. An exact zero sum of different signs is -0 under RDN. -/
def fvAdd (rdn : Bool) : FV → FV → FV
  | .nan, _ => .nan
  | _, .nan => .nan
  | .inf a, .inf b => if a = b then .inf a else .nan
  | .inf a, _ => .inf a
  | _, .inf b => .inf b
  | .fin na ma ea, .fin nb mb eb =>
    let u := min ea eb
    ofScaled (scaled na ma ea u + scaled nb mb eb u) u (if na = nb then na else rdn)

/-- R14: the exact product. -/
def fvMul : FV → FV → FV
  | .nan, _ => .nan
  | _, .nan => .nan
  | .inf a, .inf b => .inf (a != b)
  | .inf a, .fin b m _ => if m = 0 then .nan else .inf (a != b)
  | .fin a m _, .inf b => if m = 0 then .nan else .inf (a != b)
  | .fin na ma ea, .fin nb mb eb => .fin (na != nb) (ma * mb) (ea + eb)

/-- R14: the quotient to enough bits for one rounding: the last bit is sticky. -/
def fvDiv : FV → FV → FV
  | .nan, _ => .nan
  | _, .nan => .nan
  | .inf _, .inf _ => .nan
  | .inf a, .fin b _ _ => .inf (a != b)
  | .fin a _ _, .inf b => .fin (a != b) 0 0
  | .fin na ma ea, .fin nb mb eb =>
    if mb = 0 then (if ma = 0 then .nan else .inf (na != nb))
    else
      let n := ma * 2 ^ 64
      .fin (na != nb) (2 * (n / mb) + (if n % mb = 0 then 0 else 1)) (ea - eb - 65)

/-- The integer square root by bisection of its bits. -/
def isqrt (n : Nat) : Nat → Nat → Nat
  | 0, r => r
  | k + 1, r => let t := r + 2 ^ k; isqrt n k (if t * t ≤ n then t else r)

/-- R14: the square root to enough bits for one rounding. -/
def fvSqrt : FV → FV
  | .nan => .nan
  | .inf neg => if neg then .nan else .inf false
  | .fin neg m e =>
    if m = 0 then .fin neg 0 0
    else if neg then .nan
    else
      let (m1, e1) := if e % 2 = 0 then (m, e) else (2 * m, e - 1)
      let n := m1 * 2 ^ 80
      let r := isqrt n (Nat.log2 n / 2 + 1) 0
      .fin false (2 * r + (if r * r = n then 0 else 1)) ((e1 - 80) / 2 - 1)

/-- The order of values that are no NaN, as a sign: -0 and +0 are equal. -/
def fvCmp : FV → FV → Int
  | .inf a, .inf b => if a = b then 0 else if a then -1 else 1
  | .inf a, _ => if a then -1 else 1
  | _, .inf b => if b then 1 else -1
  | .fin na ma ea, .fin nb mb eb =>
    let u := min ea eb
    (scaled na ma ea u - scaled nb mb eb u).sign
  | _, _ => 0
def FV.sign_ : FV → Bool
  | .inf n => n
  | .fin n _ _ => n
  | .nan => false

/-- R15: the smaller operand, with -0 below +0. -/
def fvMin (a b : FV) : FV :=
  if a.isNan || b.isNan then .nan
  else
    let c := fvCmp a b
    if c < 0 then a else if c > 0 then b else if a.sign_ then a else b
def fvMax (a b : FV) : FV :=
  if a.isNan || b.isNan then .nan
  else
    let c := fvCmp a b
    if c > 0 then a else if c < 0 then b else if a.sign_ then b else a

/-! ## FP32 on encodings -/

def fv32 (x : BitVec 32) : FV := decodeFV fp32 x.toNat
def to32 (mode : RMode) (v : FV) : BitVec 32 := BitVec.ofNat 32 (encodeFV fp32 .dflt mode v)
def RMode.isRdn (m : RMode) : Bool := m = .rdn

/-- R14, R103: the FP32 operations. -/
def f32Add (m : RMode) (a b : BitVec 32) : BitVec 32 := to32 m (fvAdd m.isRdn (fv32 a) (fv32 b))
def f32Sub (m : RMode) (a b : BitVec 32) : BitVec 32 := to32 m (fvAdd m.isRdn (fv32 a) (fv32 b).neg_)
def f32Mul (m : RMode) (a b : BitVec 32) : BitVec 32 := to32 m (fvMul (fv32 a) (fv32 b))
def f32Fma (m : RMode) (a b c : BitVec 32) : BitVec 32 := to32 m (fvAdd m.isRdn (fvMul (fv32 a) (fv32 b)) (fv32 c))
def f32Div (m : RMode) (a b : BitVec 32) : BitVec 32 := to32 m (fvDiv (fv32 a) (fv32 b))
def f32Sqrt (m : RMode) (a : BitVec 32) : BitVec 32 := to32 m (fvSqrt (fv32 a))
def f32Min (a b : BitVec 32) : BitVec 32 := to32 .rne (fvMin (fv32 a) (fv32 b))
def f32Max (a b : BitVec 32) : BitVec 32 := to32 .rne (fvMax (fv32 a) (fv32 b))
/-- R142: VABS on a float lane. -/
def f32Abs (a : BitVec 32) : BitVec 32 :=
  match fv32 a with
  | .nan => to32 .rne .nan
  | _ => a &&& 0x7FFFFFFF

/-- R104: FCMP by condition code. -/
def f32Cond (cond : BitVec 4) (a b : BitVec 32) : Bool :=
  let x := fv32 a
  let y := fv32 b
  if x.isNan || y.isNan then cond = 1 || cond = 10
  else
    let c := fvCmp x y
    if cond = 0 then decide (c = 0) else if cond = 1 then decide (c ≠ 0) else if cond = 2 then decide (c < 0)
    else if cond = 3 then decide (c ≤ 0) else if cond = 4 then decide (c > 0) else if cond = 5 then decide (c ≥ 0)
    else false

/-! ## Rounding modes (R16 to R18) and the generator (R33) -/

/-- The mode of a code that is not SR; SR rounds by RNE where it is not accepted (R18). -/
def plainMode (c : BitVec 3) : RMode :=
  if c = 1 then .rtz else if c = 2 then .rup else if c = 3 then .rdn else .rne
/-- R16: DYN takes RMODE.RM. -/
def dynCode (rm rmode : BitVec 3) : BitVec 3 := if rm = 7 then rmode else rm
/-- The mode of arithmetic, which does not accept SR. -/
def arithMode (rm rmode : BitVec 3) : RMode := plainMode (dynCode rm rmode)

/-- R33: splitmix64. -/
def splitmix64 (x : Word) : Word :=
  let z := x + 0x9E3779B97F4A7C15
  let z := (z ^^^ (z >>> 30)) * 0xBF58476D1CE4E5B9
  let z := (z ^^^ (z >>> 27)) * 0x94D049BB133111EB
  z ^^^ (z >>> 31)
/-- R33: the initial generator state. -/
def genInit (seed lnum : Word) (idx : BitVec 3) : Word :=
  let st := splitmix64 (seed ^^^ ((lnum ^^^ (idx.setWidth 64 <<< 60)) * 0x9E3779B97F4A7C15))
  if st = 0 then 0x9E3779B97F4A7C15 else st
/-- R33: step(). -/
def genStep (st : Word) : Word :=
  let st := st ^^^ (st <<< 13)
  let st := st ^^^ (st >>> 7)
  st ^^^ (st <<< 17)

/-! ## Conversions (R21, R105, R106) -/

def ovOf (ov : BitVec 2) : Ovf := if ov = 1 then .sat else if ov = 2 then .nosat else .dflt

/-- The bounds of an integer format (R105). -/
def intBounds (f : BitVec 4) : Int × Int :=
  if f = 8 then (-2 ^ 31, 2 ^ 31 - 1) else if f = 9 then (-2 ^ 15, 2 ^ 15 - 1) else if f = 10 then (-2 ^ 7, 2 ^ 7 - 1)
  else if f = 11 then (0, 2 ^ 16 - 1) else if f = 12 then (0, 2 ^ 8 - 1) else if f = 13 then (0, 2 ^ 32 - 1)
  else if f = 14 then (-2 ^ 63, 2 ^ 63 - 1) else (0, 2 ^ 64 - 1)
/-- The width of a format code in bits. -/
def codeBits (f : BitVec 4) : Nat :=
  if f = 0 || f = 8 || f = 13 then 32 else if f = 1 || f = 2 || f = 9 || f = 11 then 16
  else if f = 14 || f = 15 then 64 else 8
def codeSigned (f : BitVec 4) : Bool := f = 8 || f = 9 || f = 10 || f = 14

/-- A finite value rounded to an integer. -/
def roundInt (mode : RMode) (neg : Bool) (m : Nat) (e : Int) : Int :=
  let k := if e ≥ 0 then m * 2 ^ e.toNat
    else
      let sh := (-e).toNat
      let k := m / 2 ^ sh
      if roundsUp mode neg k (m % 2 ^ sh) sh then k + 1 else k
  if neg then -(k : Int) else k

/-- R106: FP32 to an integer format. -/
def toIntFmt (f : BitVec 4) (mode : RMode) (v : FV) : Int :=
  let (lo, hi) := intBounds f
  match v with
  | .nan => 0
  | .inf neg => if neg then lo else hi
  | .fin neg m e => max lo (min hi (roundInt mode neg m e))

/-- The integer that the bits of an integer format hold. -/
def fromIntFmt (f : BitVec 4) (bits : Nat) : Int :=
  let w := codeBits f
  let b := bits % 2 ^ w
  if codeSigned f && decide (b ≥ 2 ^ (w - 1)) then (b : Int) - 2 ^ w else b

/-- R105, R106, R144: one conversion, from source bits to the bits placed in the destination register. -/
def convert (df sf : BitVec 4) (ov : BitVec 2) (mode : RMode) (bits : Word) : Word :=
  if fmtInt sf then
    let z := fromIntFmt sf bits.toNat
    natWord (encodeFV fp32 .dflt mode (ofScaled z 0 false))
  else
    let v := decodeFV (fmtOf sf) (bits.toNat % 2 ^ codeBits sf)
    if fmtInt df then intWord (toIntFmt df mode v)
    else
      -- an exact widening to FP32, whose unit SR refers to (R34), and one rounding
      let v32 := decodeFV fp32 (encodeFV fp32 .dflt .rne v)
      natWord (encodeFV (fmtOf df) (ovOf ov) mode v32)

/-- R131: an element of a format as the FP32 encoding, or the sign- or zero-extended integer, of a lane. -/
def widen (f : BitVec 4) (bits : Nat) : Lane :=
  if fmtFloat f then
    if f = 0 then BitVec.ofNat 32 bits
    else BitVec.ofNat 32 (encodeFV fp32 .dflt .rne (decodeFV (fmtOf f) (bits % 2 ^ codeBits f)))
  else BitVec.ofInt 32 (fromIntFmt f bits)

/-! ## Reductions (R30 to R32, R125, R176) -/

/-- R125: an integer operation 0 to 7 on n bits. -/
def intOp (opc : BitVec 4) (n : Nat) (old b : BitVec n) : BitVec n :=
  if opc = 0 then old + b else if opc = 1 then old &&& b else if opc = 2 then old ||| b else if opc = 3 then old ^^^ b
  else if opc = 4 then (if old.slt b then old else b)
  else if opc = 5 then (if old.slt b then b else old)
  else if opc = 6 then (if old.ult b then old else b)
  else (if old.ult b then b else old)

/-- R176: one element of a reduction, on encodings of the format: FADD and FMAX widen, combine and round once. -/
def reduceElem (rop fmt : BitVec 4) (d s : Nat) : Nat :=
  if fmtFloat fmt then
    let f := fmtOf fmt
    let x := decodeFV f d
    let y := decodeFV f s
    encodeFV f .dflt .rne (if rop = 8 then fvAdd false x y else fvMax x y)
  else if rop = 12 then
    -- R32: saturation at each arrival
    let z := fromIntFmt fmt d + fromIntFmt fmt s
    let (lo, hi) := intBounds fmt
    (BitVec.ofInt 32 (max lo (min hi z))).toNat
  else (intOp rop 32 (BitVec.ofNat 32 d) (BitVec.ofNat 32 s)).toNat

/-- R176: the reduction of a run of elements of n bytes each; the lists have the same length. -/
def reduceBytes (rop fmt : BitVec 4) (n : Nat) : Nat → List Byte → List Byte → List Byte
  | 0, _, _ => []
  | fuel + 1, d, s =>
    match d with
    | [] => []
    | _ =>
      leBytes n (reduceElem rop fmt (leNat (d.take n)) (leNat (s.take n))) ++
        reduceBytes rop fmt n fuel (d.drop n) (s.drop n)

end Sys2Proof.Machine
end

