-- ==== Sys2Proof/Machine/Vat.lean ====
section
/-! DEFINITION. Counters and the Rennet unit (R215, R216, R309 to R314), ordered contributions (R177), engine accesses to
memory (R270). -/

namespace Sys2Proof.Machine

/-! ## Engine accesses: page by page (R270) -/

/-- What stops an engine access: a fault, a poisoned word (R417), memory outside the package, or a page that is being migrated: the
access waits, and is tried again (R399). -/
inductive EngErr where
  | fault (f : FaultRec)
  | poison (w : BadWord)
  | away (pl : Place)
  | mig
  deriving DecidableEq, Repr, Inhabited

/-- R452: the fault of an engine access: the address is the first byte of the page (R385), or the address itself where it is
not canonical. -/
def engFault (cls : BitVec 8) (cause : BitVec 16) (acc : BitVec 2) (user : Bool) (va : Word) : FaultRec :=
  { cls := cls, cause := cause, acc := acc, land := false, eng := true, priv := !user,
    va := if cls = 10 then va else va &&& ~~~0xFFFF }

/-- R384: only Translation and Permission are recoverable. -/
def FaultRec.recoverable (f : FaultRec) : Bool := f.cls = 11 || f.cls = 12

/-- Bytes from an address to the end of its 64 KiB page. -/
def pageRoom (va : Word) : Nat := 65536 - va.toNat % 65536

/-- The pieces of a range, one for each page. -/
def pieces : Nat → Word → Nat → List (Word × Nat)
  | 0, _, _ => []
  | fuel + 1, va, n =>
    if n = 0 then []
    else let k := min n (pageRoom va); (va, k) :: pieces fuel (va + natWord k) (n - k)
def rangePieces (va : Word) (n : Nat) : List (Word × Nat) := pieces (n / 65536 + 2) va n

/-- Where one piece of a range lies. -/
def engPlace (s : State) (prot : Prot) (user : Bool) (acc : BitVec 2) (va : Word) : Except EngErr Place :=
  match s.xlateDev prot user false acc va with
  | .ok pl e => if pteMig e then .error .mig else .ok pl
  | .fault 17 _ => .error (.poison ⟨va, s.badPte prot va, 4, acc⟩)
  | .fault c k => .error (.fault (engFault c k acc user va))
  | .miss => .error (.fault (engFault 11 1 acc user va))

/-- The first poisoned word of a range. -/
def State.badWord (s : State) (pa n : Nat) : Option Nat :=
  (sortBy (fun (a b : Nat) => decide (a ≤ b)) (s.poison.filter (fun w => decide (w + 8 > pa) && decide (w < pa + n)))).head?
/-- R417: the word that stops an engine's read of a range of the package. -/
def State.engBad (s : State) (acc : BitVec 2) (va : Word) (pa n : Nat) : Option BadWord :=
  (s.badWord pa n).map (fun (w : Nat) => ⟨va + intWord ((w : Int) - pa), some w, 5, acc⟩)

/-- The bytes of a range homed in the package. -/
def engReadFrom (s : State) (prot : Prot) (user : Bool) (acc : BitVec 2) : List (Word × Nat) → Except EngErr (List Byte)
  | [] => .ok []
  | (va, n) :: ps =>
    match engPlace s prot user acc va with
    | .error e => .error e
    | .ok (.hbm pa) =>
      match s.engBad acc va pa n with
      | some w => .error (.poison w)
      | none => match engReadFrom s prot user acc ps with
        | .ok bs => .ok (s.bytes prot.keyslot pa n ++ bs)
        | .error e => .error e
    | .ok pl => .error (.away pl)
def engRead (s : State) (prot : Prot) (user : Bool) (va : Word) (n : Nat) : Except EngErr (List Byte) :=
  engReadFrom s prot user 0 (rangePieces va n)

/-- Writes a range homed in the package; the pieces before the one that fails stand. -/
def engWriteTo (s : State) (prot : Prot) (user : Bool) : List (Word × Nat) → List Byte → State × Option EngErr
  | [], _ => (s, none)
  | (va, n) :: ps, bs =>
    match engPlace s prot user 1 va with
    | .error e => (s, some e)
    | .ok (.hbm pa) => engWriteTo ((s.markUsed prot va true).putHome prot.keyslot pa (bs.take n)) prot user ps (bs.drop n)
    | .ok pl => (s, some (.away pl))
def engWrite (s : State) (prot : Prot) (user : Bool) (va : Word) (bs : List Byte) : State × Option EngErr :=
  engWriteTo s prot user (rangePieces va bs.length) bs

/-- R380: the pages of a range that an engine reads are marked. -/
def State.markRead (s : State) (prot : Prot) (va : Word) (n : Nat) : State :=
  (rangePieces va n).foldl (fun s p => s.markUsed prot p.1 false) s

/-- R176: reduces a range homed in the package elementwise. -/
def engReduce (s : State) (prot : Prot) (user : Bool) (rop fmt : BitVec 4) (va : Word) (bs : List Byte) :
    State × Option EngErr :=
  match engReadFrom s prot user 3 (rangePieces va bs.length) with
  | .error e => (s, some e)
  | .ok old => engWrite s prot user va (reduceBytes rop fmt (codeBits fmt / 8) bs.length old bs)

/-! ## Counters (R215, R216) -/

def ctIndex (c : Word) : BitVec 16 := fld c 0 16
def ctDie (c : Word) : BitVec 2 := fld c 16 2
def ctPkg (c : Word) : BitVec 12 := fld c 18 12
def ctExp (c : Word) : BitVec 32 := fld c 32 32
/-- The counter id of a cell of this package. -/
def ctId (pkg : BitVec 12) (die : BitVec 2) (idx : BitVec 16) : Word := (0#34 ++ pkg ++ die ++ idx)

/-- R172 cause 3, R351: whether an id is valid for a protection context. -/
def ctrOk (s : State) (prot : Prot) (c : Word) : Bool :=
  fld c 30 2 = 0 && s.present (ctPkg c) && decide (prot.cbase.toNat ≤ (ctIndex c).toNat) &&
    decide ((ctIndex c).toNat < prot.cbase.toNat + prot.clen.toNat)

def cellKey (die : BitVec 2) (idx : BitVec 16) : Nat := die.toNat * 65536 + idx.toNat
def State.cell (s : State) (die : BitVec 2) (idx : BitVec 16) : BitVec 48 := tget 0 s.ctrs (cellKey die idx)
/-- R216: a counter has reached a threshold. -/
def reached (v t : BitVec 48) : Bool := decide ((v - t).toNat < 2 ^ 47)

/-- R313: the thresholds that a raise makes due for one entry, in order. -/
def dueFrom : Nat → BitVec 48 → BitVec 48 → BitVec 48 → List (BitVec 48)
  | 0, _, _, _ => []
  | fuel + 1, t, rearm, v' =>
    if reached v' t then t :: (if rearm = 0 then [] else dueFrom fuel (t + rearm) rearm v') else []

/-- R314: the firing queue holds 65,536 firings. -/
def firingCap : Nat := 65536

def Entry.watches (e : Entry) (pkg : BitVec 12) (die : BitVec 2) (idx : BitVec 16) : Bool :=
  !e.fired && (e.coll.isNone || e.args = [0]) && ctPkg e.trig = pkg && ctDie e.trig = die && ctIndex e.trig = idx

/-- An entry after it has fired n times (R222, R312). -/
def Entry.after (e : Entry) (n : Nat) : Entry :=
  if n = 0 then e
  else if e.rearm = 0 then { e with fired := true }
  else { e with thr := e.thr + BitVec.ofNat 48 n * e.rearm }

/-- Queues firings of entries, numbering them. -/
def State.queueFirings (s : State) (die : BitVec 2) : List Entry → State
  | [] => s
  | e :: es => ({ s with firings := s.firings ++ [({ id := s.fresh, die := die, e := e, begun := false, sent := none, made := 0, stall := none, onEntry := none,
                                                      refused := false, fin := none, lvl := none } : Firing)], fresh := s.fresh + 1 }).queueFirings die es

/-- An answer to an agent of another package. -/
def State.answerTo (s : State) (die : BitVec 2) (src : CtxId) (pkg : BitVec 12) (req : Nat) (val aux : Word) : State :=
  s.sendOrdered (mkPacket s 7 pkg src.die src.core (dieAgent die) 7 (.prm (.answer src req val aux)))
/-- R219, R310: whether a wait on a cell is met by a raise to v. -/
def meets (s : State) (die : BitVec 2) (idx : BitVec 16) (v : BitVec 48) (c : Word) (thr : BitVec 48) : Bool :=
  ctPkg c = s.pkg && ctDie c = die && ctIndex c = idx && reached v thr
/-- R310: a context of the package whose wait a raise meets returns with it, whatever later raises do. -/
def Ctx.metBy (s : State) (die : BitVec 2) (idx : BitVec 16) (v : BitVec 48) (c : Ctx) : Ctx :=
  match c.status with
  | .waiting (.counter _ k thr) _ _ _ => if meets s die idx v k thr then { c with poll := some (0, some (1, 0)) } else c
  | _ => c
/-- R219, R310: the waits that a raise meets, here and in other packages. -/
def State.meetWaits (s : State) (die : BitVec 2) (idx : BitVec 16) (v : BitVec 48) : State :=
  let hit := fun (w : CtWait) => meets s die idx v w.ctr w.thr
  (s.ctWaits.filter hit).foldl (fun s w => s.answerTo die w.src w.pkg w.req 1 0)
    { s with cx := Ctx.metBy s die idx v s.cx, ctxs := s.ctxs.map (Ctx.metBy s die idx v), ctWaits := s.ctWaits.filter (fun w => !hit w) }

/-- R314: the firings that the queue of a die still takes. -/
def State.firingRoom (s : State) (die : BitVec 2) : Nat :=
  firingCap - (s.firings.filter (fun f => f.die = die && !f.begun && f.onEntry.isNone)).length
/-- R314: whether an armed entry watches a cell. -/
def State.watched (s : State) (die : BitVec 2) (idx : BitVec 16) : Bool := s.entries.any (fun e => e.watches s.pkg die idx)
/-- R313, R314: a raise of the cell is under way or waits, so that no other one and no TRCAN is applied. -/
def State.raisingCell (s : State) (die : BitVec 2) (idx : BitVec 16) : Bool := s.raising.any (fun r => r.die = die && r.idx = idx)
def State.cellBusy (s : State) (die : BitVec 2) (idx : BitVec 16) : Bool :=
  s.raisingCell die idx || s.heldRaises.any (fun h => h.die = die && h.idx = idx)

/-- R313: the firings of the entries named that a cell makes due, in the order in which they are queued: thresholds counted from a
value that none of them had reached. -/
def State.dueOrder (s : State) (die : BitVec 2) (idx : BitVec 16) (low : BitVec 48) (ids : List Word) : List (BitVec 48 × Entry) :=
  let v := s.cell die idx
  let mine := s.entries.filter (fun e => e.watches s.pkg die idx && ids.contains e.id)
  sortBy (fun (x y : BitVec 48 × Entry) =>
    decide ((x.1 - low).toNat < (y.1 - low).toNat) ||
      (decide ((x.1 - low).toNat = (y.1 - low).toNat) && decide ((fld x.2.id 0 14).toNat ≤ (fld y.2.id 0 14).toNat)))
    (mine.flatMap (fun e => (dueFrom (s.firingRoom die) e.thr e.rearm v).map (fun t => (t, e))))
/-- R313, R314: the due firings are queued as far as the queue has room; what is still due waits for room. -/
def State.fireDue (s : State) (die : BitVec 2) (idx : BitVec 16) (low : BitVec 48) (ids : List Word) : State :=
  let go := (s.dueOrder die idx low ids).take (s.firingRoom die)
  let s := { s with entries := s.entries.map (fun (e : Entry) => e.after (go.filter (fun (x : BitVec 48 × Entry) => x.2.id = e.id)).length) }.queueFirings die
    (go.map Prod.snd)
  let rest := (s.entries.filter (fun (e : Entry) => ids.contains e.id && e.watches s.pkg die idx && reached (s.cell die idx) e.thr)).map
    (fun (e : Entry) => e.id)
  if rest.isEmpty then s else { s with raising := s.raising ++ [⟨die, idx, low, rest⟩] }

/-- R310, R313: one raise of one cell with every firing that it makes due. -/
def State.applyRaise (s : State) (die : BitVec 2) (idx : BitVec 16) (amt : BitVec 48) : State :=
  let v := s.cell die idx
  let ids := (s.entries.filter (fun (e : Entry) => e.watches s.pkg die idx && !reached v e.thr)).map (fun (e : Entry) => e.id)
  { s.meetWaits die idx (v + amt) with ctrs := tset 0 s.ctrs (cellKey die idx) (v + amt) }.fireDue die idx v ids
/-- R314: whether the Vat of a die accepts a raise of a cell. -/
def State.raisable (s : State) (die : BitVec 2) (idx : BitVec 16) : Bool := !s.watched die idx || decide (0 < s.firingRoom die)
/-- R310, R314: a raise reaches the Vat of its cell; one that it does not accept waits. -/
def State.raiseCell (s : State) (die : BitVec 2) (idx : BitVec 16) (amt : BitVec 48) : State :=
  if s.raisable die idx && !s.cellBusy die idx then s.applyRaise die idx amt
  else { s with heldRaises := s.heldRaises ++ [⟨die, idx, amt⟩] }

/-! ## Ordered contributions (R177) -/

/-- What became of a contribution. -/
inductive ConRes where
  | applied | held | kept | late
  | failed (e : EngErr)
  deriving DecidableEq, Repr, Inhabited

/-- The rows of a contribution at its destination. -/
def conRows (con : Contrib) : Nat → Nat → List Byte → List (Word × List Byte)
  | 0, _, _ => []
  | fuel + 1, k, bs =>
    if bs.isEmpty || con.rowb = 0 then []
    else (con.dst + intWord (con.dstr * k), bs.take con.rowb) :: conRows con fuel (k + 1) (bs.drop con.rowb)

/-- Reduces rows at their homes in the package; nothing is written unless every row can be. -/
def reduceRows (prot : Prot) (rop fmt : BitVec 4) : List (Word × List Byte) → State → State × Option EngErr
  | [], s => (s, none)
  | (va, bs) :: rs, s =>
    match engReduce s prot true rop fmt va bs with
    | (s', none) => match reduceRows prot rop fmt rs s' with
      | (s'', none) => (s'', none)
      | (_, some e) => (s, some e)
    | (_, some e) => (s, some e)

/-- Writes a contribution to its destination in this package. -/
def State.applyCon (s : State) (con : Contrib) : State × Option EngErr :=
  reduceRows (s.protOf con.pctx) con.rop con.fmt (conRows con con.bytes.length 0 con.bytes) s

/-- R177: the destination lies in another package: the die writes it there, and the counter rises when the write is
acknowledged. -/
def State.applyAway (s : State) (h : HeldCon) (pkg : BitVec 12) : State :=
  let con := h.con
  let d := s.die con.die
  let n := s.fresh
  let p := { mkPacket s 0x20 pkg con.die 255 (dieAgent con.die) 6 (.contrib { con with det := false, copy := some n }) with
    addr := con.dst, plen := BitVec.ofNat 13 con.bytes.length }
  ({ s with fresh := n + 1 }.setDie con.die { d with applying := d.applying ++ [(n, h)] }).sendBulk p
def Place.awayPkg : Place → Option (BitVec 12)
  | .pod p => some p
  | .host n _ => some n
  | _ => none

/-- R288: what the answer to a bulk packet says of a failure: the FLTINFO of a landing fault; a cause of R173 above 2 ^ 32; or, with
bit 40, the distance of a poisoned word from the packet's address (log entry 13). -/
def causeInfo (err : BitVec 8) : Word := natWord (err.toNat + 2 ^ 32)
def poisonInfo (addr va : Word) : Word := (2 ^ 40 : Word) ||| (fld (va - addr) 0 40 : BitVec 40).setWidth 64
/-- R173: the CAUSE that a failed bulk packet gives. -/
def bulkCause (w : Word) : BitVec 8 :=
  if w = 0 || w.getLsbD 40 then 2 else if w.toNat ≥ 2 ^ 32 then BitVec.ofNat 8 (w.toNat - 2 ^ 32) else 3
/-- R417: the poisoned word that an answer tells of, by the address of the packet. -/
def bulkBad (acc : BitVec 2) (addr w : Word) : Option BadWord :=
  if w.getLsbD 40 then some ⟨addr + (fld w 0 40 : BitVec 40).signExtend 64, none, 5, acc⟩
  else if w = 0 then some ⟨addr, none, 5, acc⟩ else none
/-- A copy ends in error by an answer. -/
def Copy.failed (c : Copy) (acc : BitVec 2) (addr w : Word) : Copy :=
  { c with unacked := 0, err := bulkCause w, bad := bulkBad acc addr w }
/-- R177: what an error at the destination of a contribution tells its source. -/
def conInfo (con : Contrib) : EngErr → Word
  | .poison w => poisonInfo con.dst w.va
  | _ => causeInfo 3

/-- R175, R177: the copy that a contribution belongs to has been applied, or its sender is answered with BACK. -/
def State.conDone (s : State) (h : HeldCon) (fail : Option Word) : State :=
  let n := h.con.bytes.length
  let done := fun (c : Copy) => match fail with
    | none => { c with pos := n, landed := n, unacked := 0, applied := true }
    | some w => c.failed 3 h.con.dst w
  let s := match h.con.copy, h.src with
    | some id, none => { s with copies := s.copies.map (fun c => if c.id = id then done c else c) }
    | _, _ => s
  match h.src with
  | some (pkg, die, core, seq) =>
    let p := { mkPacket s 0x20 s.pkg h.con.die 255 ⟨die, core⟩ 5 .none with spkg := pkg, seq := seq }
    s.bulkAck p fail
  | none => s

/-- R385: whether a context has a fault queue in this package. -/
def Prot.hasFq (p : Prot) : Bool :=
  p.fqbase ≠ 0 && decide (p.fqbase.toNat % 64 = 0) && ringLen p.fqlen.toNat 65536

/-- R177, R387, R390, R399: a held contribution whose turn has come meets a recoverable fault, or a page that is being migrated: it
waits as one that arrives does. -/
def State.unheld (s : State) (h : HeldCon) : State :=
  match h.src with
  | none => { s with copies := s.copies.map (fun (c : Copy) => if some c.id = h.con.copy then { c with unacked := 0 } else c) }
  | some (pkg, die, core, seq) =>
    { s with net := s.net ++ [{ mkPacket s 0x20 s.pkg h.con.die 255 ⟨die, core⟩ 5 (.contrib h.con) with
        spkg := pkg, seq := seq, addr := h.con.dst, plen := BitVec.ofNat 13 h.con.bytes.length }] }
/-- R177: held contributions whose turn has come are applied, repeatedly. -/
def applyHeld : Nat → BitVec 2 → BitVec 16 → State → State
  | 0, _, _, s => s
  | fuel + 1, die, idx, s =>
    let d := s.die die
    let now := (s.cell die idx).setWidth 32
    match d.held.find? (fun h => h.con.idx = idx && h.con.exp = now) with
    | none => s
    | some h =>
      let s := s.setDie die { d with held := d.held.filter (fun x => x ≠ h) }
      match s.applyCon h.con with
      | (s, none) => applyHeld fuel die idx ((s.conDone h none).raiseCell die idx 1)
      | (s, some (.away pl)) => match pl.awayPkg with
        | some pkg => s.applyAway h pkg
        | none => s.conDone h (some (causeInfo 3))
      | (s, some (.fault f)) =>
        if f.recoverable && (s.protOf h.con.pctx).hasFq then s.unheld h else s.conDone h (some (conInfo h.con (.fault f)))
      | (s, some .mig) => s.unheld h
      | (s, some e) => s.conDone h (some (conInfo h.con e))

/-- R314: the raises of a die that are under way go on. -/
def State.goOn (s : State) (die : BitVec 2) : State :=
  (s.raising.filter (fun r => r.die = die)).foldl (fun s r => s.fireDue die r.idx r.low r.ids)
    { s with raising := s.raising.filter (fun r => r.die ≠ die) }
/-- R314: the first raise that a die holds and now accepts. -/
def State.nextHeld (s : State) (die : BitVec 2) : Option HeldRaise :=
  s.heldRaises.find? (fun h => h.die = die && s.raisable die h.idx && !s.raisingCell die h.idx)
/-- R314: whether a raise of a die may go on. -/
def State.vatDue (s : State) (die : BitVec 2) : Bool :=
  (decide (0 < s.firingRoom die) && s.raising.any (fun r => r.die = die)) || (s.nextHeld die).isSome
/-- R314: the raises that a die holds are accepted, oldest first, with the contributions that follow. -/
def acceptHeld : Nat → BitVec 2 → State → State
  | 0, _, s => s
  | fuel + 1, die, s => match s.nextHeld die with
    | none => s
    | some h =>
      let s := ({ s with heldRaises := s.heldRaises.erase h }).applyRaise die h.idx h.amt
      acceptHeld fuel die (applyHeld ((s.die die).held.length) die h.idx s)
def State.vatGo (s : State) (die : BitVec 2) : State :=
  let s := s.goOn die
  acceptHeld s.heldRaises.length die s
/-- A raise of a cell and the held contributions that follow. -/
def State.raiseLocal (s : State) (die : BitVec 2) (idx : BitVec 16) (amt : BitVec 48) : State :=
  let s := s.raiseCell die idx amt
  applyHeld ((s.die die).held.length) die idx s

/-- R329: staged contributions of the collectives whose landing counters a die holds, and of ordered copies. -/
def State.staged (s : State) (die : BitVec 2) : Nat :=
  ((s.colls.filter (fun c => ctDie c.land = die)).map (fun c => ((c.parts.map (fun p => p.held.length)).foldl (· + ·) 0))).foldl (· + ·) 0 +
    (s.die die).held.length
/-- R177, R329: landing slots of a die. -/
def slotCap : Nat := 512

/-- R177: one contribution arrives at the die of its landing counter. -/
def State.landCon (s : State) (h : HeldCon) : State × ConRes :=
  let con := h.con
  let dd := con.exp - (s.cell con.die con.idx).setWidth 32
  let d := s.die con.die
  if dd = 0 then
    match s.applyCon con with
    | (s, none) => ((s.conDone h none).raiseLocal con.die con.idx 1, .applied)
    | (s, some (.away pl)) => match pl.awayPkg with
      | some pkg => (s.applyAway h pkg, .held)
      | none => (s, .failed (.away pl))
    | (s, some e) => (s, .failed e)
  else if dd ≤ 3 && decide ((d.held.filter (fun x => x.con.idx = con.idx)).length < 3) && decide (s.staged con.die < slotCap) then
    (s.setDie con.die { d with held := d.held ++ [h] }, .held)
  else if dd ≤ 0x80000000 then (s, .kept)
  else (s, .late)

/-- R177: the write of a contribution in another package is acknowledged. -/
def State.awayDone (s : State) (die : BitVec 2) (n : Nat) (fail : Option Word) : State :=
  let d := s.die die
  match d.applying.find? (fun a => a.1 = n) with
  | none => s
  | some (_, h) =>
    let s := (s.setDie die { d with applying := d.applying.filter (fun a => a.1 ≠ n) }).conDone h fail
    if fail.isNone then s.raiseLocal die h.con.idx 1 else s

/-- R309: raises the counter that an id names: here, or by a CTR packet to its package. -/
def State.raise (s : State) (c : Word) (amt : BitVec 48) (src : CoreId) (sag : BitVec 4) : State :=
  if ctPkg c = s.pkg then s.raiseLocal (ctDie c) (ctIndex c) amt
  else s.sendOrdered { mkPacket s 6 (ctPkg c) (ctDie c) 255 src sag (.bytes (leBytes 6 amt.toNat)) with
    aux := c &&& 0xFFFFFFFF, plen := 6 }

end Sys2Proof.Machine
end

