-- ==== Sys2Proof/Machine/Rows.lean ====
section
/-! DEFINITION. Send lists and the copy engine's settling of dispatch rows (R182 to R184, R337 to R344). -/

namespace Sys2Proof.Machine

/-! ## Dispatch headers and table entries (R181, R182) -/

def mbExpert (e : Word) : BitVec 8 := fld e 0 8
def mbPrio (e : Word) : BitVec 16 := fld e 16 16
def mbGate (e : Word) : BitVec 16 := fld e 32 16
/-- R182: the header of a choice. -/
def dispHeader (tok : BitVec 16) (pkg : BitVec 12) (rank : Nat) (e : Word) : Word :=
  0#10 ++ mbGate e ++ mbExpert e ++ BitVec.ofNat 2 rank ++ pkg ++ tok
/-- R337: the header rewritten for a later choice. -/
def rehead (h : Word) (rank : Nat) (e : Word) : Word := dispHeader (fld h 0 16) (fld h 16 12) rank e
/-- The address of an expert's entry in a dispatch table. -/
def tableEntry (table : Word) (e : Word) : Word := table + natWord (16 * (mbExpert e).toNat)

/-- An access of memory, as against a question, a fetch or a raise. -/
def RemKind.isAccess : RemKind → Bool
  | .load _ _ _ | .ldro _ _ _ | .store | .amo _ _ _ | .red | .gather => true
  | .value _ | .flag _ | .count | .fetch | .poll => false
/-- R268: the accesses of a context that are outstanding. -/
def Ctx.outstanding (c : Ctx) : List Nat := (c.rem.filter (fun r => r.kind.isAccess)).map (fun r => r.req)
/-- The issuing invocation of the issuing context. -/
def State.issuer (s : State) : Issuer :=
  let c := s.cx
  { ctx := c.id, inv := match c.run with | some r => r.i.id | none => 0, pctx := c.pctx, prot := c.prot, user := !c.priv,
    region := c.region, ph := match c.run with | some r => r.i.ph | none => 0,
    launch := match c.run with | some r => r.i.launch | none => ⟨0, 0, 0⟩, fork := c.outstanding }

/-- A row that the copy engine of the issuing core is to settle. -/
def State.addRow (s : State) (r : SendRow) (pkg : BitVec 12) (dlseq : BitVec 32) (didx : BitVec 4) (dlast cover : Bool)
    (stage : RowStage) : State :=
  let f : FlightRow :=
    { id := s.fresh, by_ := { s.issuer with fork := r.fork }, core := s.cx.id.coreId, row := r, rank := 0, pkg := pkg, dlseq := dlseq, didx := didx,
      dlast := dlast, redir := false, tok := none, cover := cover, stage := stage, stall := none, onEntry := none,
      begun := false, buf := [], refused := false, err := 0, errAt := 0 }
  { s with fresh := s.fresh + 1, rows := s.rows ++ [f] }

/-- R183: a list leaves: each row takes its place in the invocation's series (R341). `cover` says that a later DFLUSH covers
the rows (R340). -/
def flushRows (cover : Bool) (seq : BitVec 32) (pkg : BitVec 12) : Nat → List SendRow → State → State
  | _, [], s => s
  | k, r :: rs, s =>
    flushRows cover seq pkg (k + 1) rs (s.addRow r pkg seq (BitVec.ofNat 4 k) rs.isEmpty cover .send)

/-- R183, R340: flushes one list of the issuing context. -/
def State.flushList (s : State) (cover : Bool) (l : SendList) : State :=
  let c := s.cx
  let series := s.issuer.inv * 4096 + l.pkg.toNat
  let seq := tget 0 s.dlseq series
  let s := { s with cx := { c with lists := c.lists.filter (fun x => x.pkg ≠ l.pkg) }, dlseq := tset 0 s.dlseq series (seq + 1) }
  if l.rows.isEmpty then s else flushRows cover seq l.pkg 0 l.rows s

def flushLists (cover : Bool) : List SendList → State → State
  | [], s => s
  | l :: ls, s => flushLists cover ls (s.flushList cover l)
/-- R340: flushes every list of the issuing context. -/
def State.flushAll (s : State) (cover : Bool) : State := flushLists cover s.cx.lists s

end Sys2Proof.Machine
end

