-- ==== Sys2Proof/Machine/Ops.lean ====
section
/-! DEFINITION. The operations that every instruction shares: issue and retirement (R48 to R51, R65 to R67), runs and switch
points (R50, R59), TAKING AN EXCEPTION (R208, R365, R372, R207) and returning from one (R114), the end of an invocation
(R112, R358), the health queue (R436). -/

namespace Sys2Proof.Machine

abbrev Out := Host.Outcome State Fault Refusal

/-! ## Fault records (R383, R452) -/

/-- R383: FLTINFO. -/
def FaultRec.info (f : FaultRec) : Word :=
  0#35 ++ boolBit f.priv ++ boolBit f.eng ++ boolBit f.land ++ f.acc ++ f.cause ++ f.cls

/-- R452: a fault of the issuing context with the address of the instruction. -/
def State.flt (s : State) (cls : BitVec 8) (cause : BitVec 16) : FaultRec :=
  { cls := cls, cause := cause, acc := 0, land := false, eng := false, priv := s.cx.priv, va := s.cx.pc }
/-- R452: a fault of the issuing context with the address of the access. -/
def State.fltAt (s : State) (cls : BitVec 8) (cause : BitVec 16) (acc : BitVec 2) (va : Word) : FaultRec :=
  { s.flt cls cause with acc := acc, va := va }

/-! ## The health queue (R436) -/

/-- R374: a global physical address names its package in [57:46]. -/
def gpaPkg (a : Word) : BitVec 12 := fld a 46 12

/-- A write of the device to a host; the tag says what follows its acknowledgement. -/
def State.hostPut (s : State) (tag : Nat) (die : BitVec 2) (at_ : Word) (bs : List Byte) : State :=
  s.sendBulk { mkPacket s 0x20 (gpaPkg at_) 0 255 (dieAgent die) 7 (.copyData 0 tag 0 false 0 0 bs) with
    addr := at_, plen := BitVec.ofNat 13 bs.length, ndf := BitVec.ofNat 7 ((bs.length + 63) / 64) }
/-- Whether writes of the device with a tag are outstanding. -/
def State.tagged (s : State) (tag : Nat) : Bool :=
  s.unacked.any (fun u => match u.p.payload with | .copyData 0 t _ _ _ _ _ => t = tag | _ => false)
/-- R407, R411, R436: a raise by the device as a release: it comes after the device's writes with the tag. -/
def State.raisePosted (s : State) (tag : Nat) (die : BitVec 2) (c : Word) : State :=
  if c = 0 then s
  else if s.tagged tag then { s with lateRaises := s.lateRaises ++ [(tag, c, die)] }
  else s.raise c 1 (dieAgent die) 7
/-- R447: the tag of a quote, which is done once its writes are. -/
def quoteTag : Nat := 1034
/-- The raises that waited for the writes with a tag. -/
def State.lateRaised (s : State) (tag : Nat) : State :=
  if s.tagged tag then s
  else if tag = quoteTag then { s with regs := { s.regs with qstat := 2, qgo := false } }
  else (s.lateRaises.filter (fun e => e.1 = tag)).foldl (fun s e => s.raise e.2.1 1 (dieAgent e.2.2) 7)
    { s with lateRaises := s.lateRaises.filter (fun e => e.1 ≠ tag) }

/-- R436: posts a health record of 64 bytes. A ring in host memory is written by packets. -/
def State.postHealth (s : State) (type sub : BitVec 8) (src : CoreId) (a b c : Word) : State :=
  let r := s.regs
  let len := r.hqlen.toNat
  if r.hqbase ≠ 0 && ringLen len 32768 && decide ((r.hqprod - r.hqcons).toNat < len) then
    let rec_ := wordBytes (0#26 ++ src.core ++ src.die ++ s.pkg ++ sub ++ type) ++ wordBytes s.time ++ wordBytes a ++
      wordBytes b ++ wordBytes c ++ zeros 24
    let at_ := r.hqbase + natWord (64 * (r.hqprod.toNat % len))
    let s := if gpaPkg r.hqbase = s.pkg then s.putHome 0 (at_.toNat % 2 ^ 46) rec_
      else s.hostPut 1032 0 at_ rec_
    let s := { s with regs := { s.regs with hqprod := s.regs.hqprod + 1 } }
    s.raisePosted 1032 0 r.hqctr
  else { s with regs := { r with hqlost := r.hqlost + 1 } }

/-! ## Gangs (R58, R59) -/

/-- The contexts that act as one: the members of an undissolved gang, or the context alone. -/
def Ctx.gangIds (c : Ctx) : List CtxId :=
  match c.gang with
  | some g => if g.whole then g.members else [c.id]
  | none => [c.id]
def Ctx.inGang (c : Ctx) : Bool :=
  match c.gang with
  | some g => g.whole
  | none => false
/-- The cores that take part in a run of a context: its own, or those of every member of its gang (R59). -/
def Ctx.cores (c : Ctx) : List CoreId := c.gangIds.map (fun id => id.coreId)

/-- Applies a change to each of the contexts named, and returns to the issuing one. -/
def State.each (s : State) (ids : List CtxId) (f : State → State) : State := ids.foldl (fun s id => s.withCtx id f) s

/-! ## The end of an invocation -/

/-- R210: the issuing context as a member of phasers. -/
def State.party (s : State) : Party :=
  { pkg := s.pkg, inv := match s.cx.run with | some r => r.i.id | none => 0, lane := s.cx.gidx }

/-- R53, R287: the series of the issuing context toward a die of another package has no room, so an instruction that sends there holds issue. -/
def State.mustWait (s : State) (pkg : BitVec 12) (die : BitVec 2) : Bool := s.seriesFull s.cx.id.coreId (s.cx.id.slot.setWidth 4) pkg die
/-- Puts a question of an agent of the issuing context to a die of another package. -/
def State.sendAsk (s : State) (pkg : BitVec 12) (die : BitVec 2) (req : Nat) (q : Query) : State :=
  s.sendOrdered (mkPacket s 7 pkg die 255 s.cx.id.coreId (s.cx.id.slot.setWidth 4) (.prm (.ask s.cx.id s.pkg req q)))

def phPkg (id : Word) : BitVec 12 := fld id 14 12
def phDie (id : Word) : BitVec 2 := fld id 12 2

/-- R211: the issuing context's memberships tied to the regions that satisfy a test are dropped, wherever the phasers are. -/
def State.dropOwn (s : State) (t : Word → Bool) : State :=
  let me := s.party
  let s := s.dropMembers (fun m => m.who = me && t m.region)
  let away := s.cx.joined.filter (fun j => t j.2)
  away.foldl (fun s j => s.sendAsk (phPkg j.1) (phDie j.1) 0 (.phdrop j.1 me))
    { s with cx := { s.cx with joined := s.cx.joined.filter (fun j => !t j.2) } }

def State.closeRegion (s : State) (b : Word) : State :=
  if s.blkState s.cx.prot b = 1 then s.setBlkState s.cx.prot b 0 else s

/-- R138: every dirty sector of a window is written at its home slice. -/
def State.flushWindow (s : State) (core : CoreId) (w : Window) : State :=
  s.writeBack (fun a o => o = coreNum core + 1000 && w.filled.any (fun e => e.2 / 64 = a / 64))

/-- Stash bytes whose contents become unspecified. -/
def scramble (occasion : Nat) : Tbl Byte → Nat → Nat → Tbl Byte
  | t, _, 0 => t
  | t, a, n + 1 => scramble occasion (tput t a (Config.freeByte occasion a)) (a + 1) n

/-- R138: a window is written back and removed; its range becomes scratch with unspecified contents. -/
def State.unmap (s : State) (core : CoreId) (w : Window) : State :=
  let s := s.flushWindow core w
  let k := s.core core
  s.setCore { k with windows := k.windows.filter (fun x => x.stash ≠ w.stash), stash := scramble s.issued k.stash w.stash w.len }

/-- R140: the windows of a context. -/
def State.dropWindows (s : State) (c : CtxId) : State :=
  ((s.core c.coreId).windows.filter (fun w => w.owner = c.slot)).foldl (fun s w => s.unmap c.coreId w) s

/-- R238, R239: whether a deadline has passed. -/
def isLate (d now : BitVec 48) : Bool := d ≠ 0 && decide ((d - now).toNat ≥ 2 ^ 47)

/-- R239: the late record. -/
def lateRec (when_ : BitVec 2) (prio : BitVec 4) (method : BitVec 8) (ph : Word) (deadline : BitVec 48) (time : Word) : List Byte :=
  wordBytes (0#40 ++ method ++ 0#2 ++ prio ++ when_ ++ 1#8) ++ wordBytes ph ++ wordBytes (deadline.setWidth 64) ++ wordBytes time

/-- R60: whether another context still runs the same invocation. -/
def State.othersRun (s : State) : Bool :=
  match s.cx.run with
  | none => false
  | some r => s.ctxs.any (fun c => c.run.map (fun x => x.i.id) = some r.i.id)

/-- R239: the check at the end of an invocation, which the last of its contexts makes. -/
def State.lateAtEnd (s : State) : State :=
  match s.cx.run with
  | none => s
  | some r =>
    if !s.othersRun && !s.cx.late && isLate s.cx.deadline (s.time.setWidth 48) then
      s.postStatus s.cx.prot s.cx.pctx r.i.region (lateRec 2 s.cx.prio r.i.method r.i.ph s.cx.deadline s.time)
    else s

/-- Contexts and frames that hold an invocation. -/
def State.runners (s : State) : List Ctx :=
  s.allCtxs.filter (fun c => c.status ≠ .free) ++ s.invs.flatMap (fun r => r.frame)
/-- Every access outstanding: those of contexts, of frames, of invocations that have ended. -/
def State.rems (s : State) : List RemAcc := s.runners.flatMap (fun c => c.rem) ++ s.orphans

/-- R196, R359: whether a release covers an access: it is counted, or it reads memory. -/
def RemAcc.released (loads : Bool) (x : RemAcc) : Bool :=
  !x.host && (x.counted || (loads && (match x.kind with | .load _ _ _ => true | .amo _ _ _ => true | .gather => true | _ => false)))
/-- R196, R359: the release of the issuing invocation, where accesses that it covers are outstanding to other packages. -/
def State.release (s : State) (loads : Bool) : List FlushTok :=
  match s.cx.run with
  | none => []
  | some r =>
    let ps := ((s.rems.filter (fun x => x.inv = r.i.id && x.released loads)).map (fun x => x.dpkg)).eraseDups
    if ps.isEmpty then [] else [⟨s.pkg, r.i.id, s.fresh, loads, ps⟩]

/-- R359: the release of a resolution of the issuing invocation is noted for its dependants. -/
def State.noteRelease (s : State) (ph : Word) (st : PState) : State :=
  match st with
  | .broken _ _ => s
  | _ =>
    let ts := s.release false
    if ts.isEmpty || (nmPkg ph = s.pkg && (s.promise ph).all (fun p => p.st ≠ .pending)) then s else s.setToks ph ts

/-- The invocation's own promise takes a state (R199, R208). -/
def State.resolveOwn (s : State) (st : PState) : State :=
  match s.cx.run with
  | none => s
  | some r => (s.noteRelease r.i.ph st).settle [⟨r.i.ph, r.i.launch, st, some s.cx.id.coreId⟩]

/-- R428: the core lists its unconfirmed resolutions. -/
def State.noteUnconfirmed (s : State) : State :=
  match s.cx.run with
  | none => s
  | some r =>
    let k := s.myCore
    if (s.promise r.i.ph).any (fun p => p.st ≠ .pending) then s else s.setCore { k with unconf := k.unconf ++ [r.i.ph] }

/-- R359: the host-class accesses of a root invocation, of whichever of its contexts, that its release flush waits for. -/
def State.noteFlush (s : State) : State :=
  match s.cx.run with
  | none => s
  | some r =>
    if r.i.ph = 0 then
      { s with launches := s.launches.map (fun l => if l.id = r.i.launch && l.res = .pending then
          { l with flush := l.flush ++ (s.rems.filter (fun x => x.inv = r.i.id && x.host && x.counted)).map (fun x => x.req) } else l) }
    else s

/-- The record of the invocation leaves the store, once no other former gang member runs it (R60). -/
def State.leaveStore (s : State) (inv : Nat) : State :=
  match s.invs.find? (fun r => r.i.id = inv) with
  | none => s
  | some r =>
    -- copies that a shootdown or a pre-emption has stopped end without their invocation
    let s := { s with copies := s.copies.map (fun (c : Copy) => if c.trig.isNone && c.by_.inv = inv then { c with stopped := false } else c) }
    s.dropInv r

/-- R340: the rows that no DFLUSH of a context that ends, or of an invocation that ends in its frame, will cover. -/
def State.uncover (s : State) (mine : Issuer → Bool) : State :=
  let free := fun (r : FlightRow) => if mine r.by_ then { r with cover := false, tok := none } else r
  { s with rows := (s.rows.map free).filter (fun r => !mine r.by_ || r.stage ≠ .done) }

/-- R171: the wait of the issuing context is over: a question of its that is unanswered is withdrawn. -/
def State.withdraw (s : State) : State :=
  let t := { s with cx := { s.cx with poll := none } }
  match s.cx.poll with
  | some (n, none) => match s.cx.rem.find? (fun r => r.req = n) with
    | some r => ({ t with cx := { t.cx with rem := t.cx.rem.filter (fun x => x.req ≠ n) } }).sendAsk r.dpkg r.ddie 0 (.unwait n)
    | none => t
  | _ => t

/-- Frees the issuing context; operations of the matrix queue keep its tiles (R163). Lists are flushed (R340), windows unmapped (R140), pins released, the store updated. -/
def State.freeCtx (s : State) : State :=
  let inv := s.cx.run.map (fun r => r.i.id)
  let s := s.withdraw
  let s := ((s.flushAll false).uncover (fun b => b.ctx = s.cx.id && b.inv = s.issuer.inv)).dropWindows s.cx.id
  let mine := s.myCore.mxq.any (fun x => x.by_.ctx = s.cx.id && x.by_.inv = s.issuer.inv)
  let s := { s with orphans := s.orphans ++ s.cx.rem, leftTiles := if mine then s.leftTiles ++ [s.cx] else s.leftTiles,
                    cx := Ctx.blank s.cx.id }
  match inv with
  | none => s
  | some n => if s.ctxs.any (fun c => c.run.map (fun r => r.i.id) = some n) then s else s.leaveStore n

/-- R112 steps 2, 3 and R358 step 1: regions closed, innermost first, and memberships dropped. -/
def State.closeAll (s : State) : State :=
  let s := s.cx.opened.foldl (fun s b => s.closeRegion b) s
  let c := s.cx
  let s := { s with cx := { c with opened := [], region := match c.run with | some r => r.i.region | none => c.region } }
  s.dropOwn (fun _ => true)

/-- The invocation of the issuing context ends by HALT or by unwinding; its promise takes the state given, if it is still PENDING. -/
def State.endInv (s : State) (res : Option PState) : State :=
  let s := s.closeAll.lateAtEnd
  let s := match res with
    | some st => s.noteFlush.resolveOwn st
    | none => s
  s.freeCtx

/-- The break of an invocation's own promise with cause UNWIND (R170). -/
def State.unwindState (s : State) : PState := .broken 1 (match s.cx.run with | some r => r.i.ph | none => 0)

/-! ## Taking an exception (R208, R365, R372) -/

/-- R208 step 4: records a failure in a block: STATE, FCODE, FVA and FINFO. A block with STATE 2 keeps STATE and FCODE. -/
def State.recordFail (s : State) (prot : Prot) (b : Word) (cls : BitVec 8) (va info : Word) : State :=
  let s := if s.blkState prot b = 2 then s else s.setBlkFail prot b 3 cls
  (s.setBlk prot b 10 va).setBlk prot b 11 info

/-- R319: the Rennet entries of regions are removed; a collective that loses one aborts (R332). -/
def State.dropTriggers (s : State) (t : Entry → Bool) : State :=
  let gone := s.entries.filter (fun e => t e && !e.fired)
  let s := gone.foldl (fun s e => s.bumpGen 3 (fld e.id 14 2) (fld e.id 0 14).toNat)
    { s with entries := s.entries.filter (fun e => !(t e && !e.fired)) }
  let slots := (gone.filterMap (fun e => e.coll.map (fun k => (fld e.id 14 2, k)))).eraseDups
  { s with agenda := s.agenda ++ slots.map (fun x => .event (.collectiveAbort x.1 x.2 4)) }
def State.dropRegions (s : State) (pctx : BitVec 12) (bs : List Word) : State :=
  s.dropTriggers (fun e => e.pctx = pctx && bs.contains e.region)

/-- R319: the entries of a region that unwinds are removed, wherever they are. -/
def State.unwindEntries (s : State) (pctx : BitVec 12) (b : Word) : State :=
  let s := s.dropRegions pctx [b]
  if s.awayRegions.contains (pctx, b) then s.tellPods (.dropped pctx [b]) else s

/-- R208 step 6: the KIND 3 record, unless the block had failed already. -/
def State.recordUnwind (s : State) (prot : Prot) (pctx : BitVec 12) (b : Word) (cls : BitVec 8) (va info : Word) : State :=
  let failed := s.blkState prot b = 2
  let s := (s.recordFail prot b cls va info).unwindEntries pctx b
  if failed then s else s.postStatus prot pctx b (regionRec 3 cls b va s.time)

/-- R208: a region that no context opened here takes STATE 3, unless it had failed already. One whose block lies in another package is
told of. -/
def State.baseUnwound (s : State) (prot : Prot) (pctx : BitVec 12) (b : Word) (cls : BitVec 8) (va info : Word) : State :=
  if b = 0 then s
  else match s.blkAway prot b with
    | some p => s.tellPkg p (.unwound pctx b cls va info)
    | none => if s.blkState prot b = 2 then s else s.recordUnwind prot pctx b cls va info

/-- R208: no region qualifies: the inherited region records the failure, and the invocation ends. -/
def State.endUnwound (s : State) (f : FaultRec) : State :=
  let base := match s.cx.run with | some r => r.i.region | none => 0
  (s.baseUnwound s.cx.prot s.cx.pctx base f.cls f.va f.info).endInv (some s.unwindState)

/-- R208 step 5: the context continues at a handler at user level. -/
def State.enterHandler (s : State) (handler : Word) (f : FaultRec) : State :=
  let s := s.withdraw
  { s with cx := { s.cx with
      pc := handler, priv := false, fltva := f.va, fltinfo := f.info, rep := Rep.none_, status := .ready, fault := none,
      gdone := [], arrived := false, firm := none, got := [], code := [] } }

/-- R208 steps 3 to 6 and R365, from the innermost of the regions given outward. -/
def unwindFrom (f : FaultRec) : List Word → State → State
  | [], s => s.endUnwound f
  | g :: outer, s =>
    let c := s.cx
    let s := s.dropOwn (fun r => r = g)
    let s := s.recordUnwind c.prot c.pctx g f.cls f.va f.info
    let handler := s.blkHandler c.prot g
    let s := { s with cx := { s.cx with region := s.blkParent c.prot g, opened := outer } }
    if handler = 0 then unwindFrom f outer s else s.enterHandler handler f

/-- TAKING AN EXCEPTION: an unrecoverable fault or a consumed error reaches the issuing context. At user level it unwinds
(R208); at supervisor level it ends the invocation (R372). -/
def State.takeException (s : State) (f : FaultRec) : State :=
  if s.cx.priv then
    let ph := match s.cx.run with | some r => r.i.ph | none => 0
    (s.endInv (some s.unwindState)).postHealth 7 f.cls s.cx.id.coreId f.va f.info ph
  else unwindFrom f s.cx.opened s

/-- R207, R208: the failure of a region by RGFAIL, by its quota or by a scan (R429) reaches the issuing context. -/
def State.takeRegionFail (s : State) (b : Word) (code : BitVec 8) (scan : Bool) : State :=
  let f : FaultRec := if scan then s.fltAt 17 9 0 b else s.fltAt 15 (code.setWidth 16) 0 b
  if s.cx.priv then s.takeException f
  else
    let inner := s.cx.opened.takeWhile (fun g => g ≠ b)
    let c := s.cx
    let s := inner.foldl (fun s g => s.closeRegion g) s
    let s := s.dropOwn inner.contains
    unwindFrom f (c.opened.drop inner.length) s

/-- RETURNING FROM THE SUPERVISOR (R372): ERET sets the program counter and the level from the save registers. -/
def State.returnFrom (s : State) : State := { s with cx := { s.cx with pc := s.cx.sepc, priv := s.cx.spriv } }

/-! ## Switch points (R50, R419) -/

/-- R50: results from other packages that the run waits for. -/
def Ctx.awaits (c : Ctx) : Bool := c.rem.any (fun r => r.inRun)

/-- R419: the errors after the first are posted as TYPE 22 records. -/
def State.logErrors (s : State) (es : List FaultRec) : State :=
  let ph := match s.cx.run with | some r => r.i.ph | none => 0
  es.foldl (fun s e => s.postElog s.cx.prot s.cx.pctx s.cx.region
    (errRec 22 (e.cause.setWidth 8) 0 s.pkg s.cx.id.coreId (s.cx.id.slot.setWidth 4) e.va e.info ph)) s

/-- R358: whether the launch of the issuing invocation is being retired. -/
def State.retiring (s : State) : Bool :=
  match s.cx.run with
  | none => false
  | some r => s.launches.any (fun l => l.id = r.i.launch && l.ending)

/-- R358 step 1, R360: the issuing context ends with its launch's retirement; its invocation is counted once. -/
def State.endRetired (s : State) : State :=
  let s := match s.cx.run with
    | some r => if s.othersRun then s else
      { s with launches := s.launches.map (fun (l : Launch) => if l.id = r.i.launch then { l with discarded := l.discarded + 1 } else l) }
    | none => s
  s.closeAll.freeCtx

/-- R50: the results of the run are written. -/
def State.commitRun (s : State) : State := { s with cx := commitAll s.issued s.cx }

/-- A containment or delivery error is delivered: the error detected first; the others are logged (R419). -/
def State.deliverErrors (s : State) (e : FaultRec) (es : List FaultRec) : State :=
  let s := (s.logErrors es)
  ({ s with cx := { s.cx with errs := [], fault := none } }).takeException e

/-- The switch point of a context that is in no undissolved gang: results written, then what is pending is delivered. -/
def State.passOne (s : State) : State :=
  let s := s.commitRun
  if s.retiring then s.endRetired
  else match s.cx.errs with
    | e :: es => s.deliverErrors e es
    | [] => match s.cx.rgfail with
      | some (b, code, scan) => ({ s with cx := { s.cx with rgfail := none, fault := none } }).takeRegionFail b code scan
      | none => match s.cx.fault with
        | some f =>
          let s := { s with cx := { s.cx with fault := none } }
          if f.recoverable then { s with cx := { s.cx with status := .faulted f } } else s.takeException f
        | none =>
          if s.cx.haltReq && s.cx.dbgen then
            { s with cx := { s.cx with haltReq := false, status := .debug 0 s.cx.pc false } }
          else { s with cx := { s.cx with status := .ready, haltReq := false } }

/-- The first answer of a test over contexts. -/
def State.firstOf {α : Type} (s : State) (ids : List CtxId) (f : Ctx → Option α) : Option α :=
  ids.findSome? (fun id => f (s.ctx id))

/-- What holds a gang at its switch point: a member parked on a fault, a wait or a walk. -/
def Status.holdsGang : Status → Bool
  | .faulted _ => true
  | .onEntry _ _ => true
  | .waiting _ _ _ _ => true
  | .walking _ _ => true
  | .posted _ _ => true
  | .onMig _ => true
  | .refused _ => true
  | .debug _ _ _ => true
  | _ => false

/-- R60, R154: the issuing context leaves its gang, which has dissolved; GIDX keeps its value. -/
def Ctx.leaveGang (c : Ctx) : Ctx :=
  { c with gang := c.gang.map (fun g => { g with whole := false, split := false }),
           status := if c.status = .follow then .ready else c.status }
/-- R154: a gang that has issued GSPLIT dissolves at its switch point. -/
def State.dissolve (s : State) (ids : List CtxId) : State :=
  s.each ids (fun s => if s.cx.gang.any (fun g => g.split) then { s with cx := s.cx.leaveGang } else s)

/-- R59, R419: what the switch point of an undissolved gang delivers; its leader is the issuing context. -/
def State.deliverGang (s : State) : State :=
  let ids := s.cx.gangIds
  let s := s.each ids State.commitRun
  if s.retiring then s.each ids State.endRetired
  else match s.firstOf ids (fun c => c.errs.head?) with
    | some e => s.each ids (fun s => s.deliverErrors e (s.cx.errs.drop 1))
    | none => match s.firstOf ids (fun c => c.rgfail) with
      | some (b, code, scan) =>
        s.each ids (fun s => ({ s with cx := { s.cx with rgfail := none, fault := none } }).takeRegionFail b code scan)
      | none => match s.firstOf ids (fun c => c.fault.filter (fun f => !f.recoverable)) with
        | some f => s.each ids (fun s => ({ s with cx := { s.cx with fault := none } }).takeException f)
        | none =>
          let s := s.each ids (fun s => match s.cx.fault with
            | some f => { s with cx := { s.cx with fault := none, status := .faulted f } }
            | none =>
              if s.cx.haltReq && s.cx.dbgen then { s with cx := { s.cx with haltReq := false, status := .debug 0 s.cx.pc false } }
              else s)
          if ids.any (fun id => (s.ctx id).status.holdsGang) then s
          else { s with cx := { s.cx with status := .ready } }
/-- R59, R154: the switch point of an undissolved gang. -/
def State.passGang (s : State) : State := s.deliverGang.dissolve s.cx.gangIds

/-- The switch point of the issuing context, once no result of its run is outstanding. -/
def State.passSwitch (s : State) : State :=
  if (s.cx.gangIds).any (fun id => (s.ctx id).awaits) then s
  else if s.cx.inGang then s.passGang else s.passOne

/-- The run ends; the switch point comes when its results are written (R50). -/
def State.endRun (s : State) : State := { s with cx := { s.cx with status := .atSwitch } }

/-- One more instruction has issued. -/
def State.counted (s : State) : State := { s.tick with issued := s.issued + 1 }

/-- R52: a precise fault is recorded against the instruction and taken at the switch point of its run. -/
def State.recordFault (s : State) (f : FaultRec) : State :=
  let s := { s.counted with cx := { s.cx with fault := some f } }
  if s.cx.inGang || s.cx.awaits then s.endRun else s.passOne

/-! ## Issue and retirement -/

/-- What the effect of an instruction comes to. -/
inductive Done where
  /-- executed; the next instruction follows. -/
  | fall (s : State)
  /-- a taken control transfer. -/
  | jump (target : Word) (s : State)
  /-- a precise fault (R52); nothing but what `s` holds was done. -/
  | raise (f : FaultRec) (s : State)
  /-- the instruction holds issue, or its context is parked before it (R53); it will be issued again. -/
  | hold (s : State)
  /-- the context has gone: it has ended, or halted. -/
  | gone (s : State)
  deriving DecidableEq, Repr

/-- How an instruction takes part in its run. -/
structure Kind where
  /-- ends the preceding run (R67, R129, R171). -/
  starts : Bool
  /-- ends its run as if its SW bit were 1. -/
  ends   : Bool
  /-- acts at the switch point: everything pending is delivered first. -/
  acts   : Bool
  /-- in a gang, takes its guard from the leader (R59). -/
  lead   : Bool
  deriving DecidableEq, Repr

def Kind.plain : Kind := ⟨false, false, false, false⟩
def Kind.wait : Kind := ⟨true, false, false, false⟩
def Kind.transfer : Kind := ⟨false, false, false, true⟩
def Kind.ending : Kind := ⟨false, true, false, false⟩
def Kind.acting : Kind := ⟨false, true, true, false⟩

/-- R65: the guard, read at issue. -/
def State.guard (s : State) (m : Mods) : Bool := s.cx.firm.getD (s.q m.gq != m.gn)

/-- R67: no instruction of the run has issued and none of its results is outstanding. -/
def Ctx.freshRun (c : Ctx) : Bool := decide (c.runLen = 0) && c.pend.isEmpty && !c.awaits

/-- R123: the posted counts. -/
def Ctx.postedPod (c : Ctx) : Nat := (c.rem.filter (fun r => r.counted && !r.host)).length
def Ctx.postedHost (c : Ctx) : Nat := (c.rem.filter (fun r => r.counted && r.host)).length

/-- R67: whether a WT wait holds. -/
def Ctx.owes (c : Ctx) (wt : BitVec 2) : Bool :=
  (wt.getLsbD 0 && decide (c.postedPod ≠ 0)) || (wt.getLsbD 1 && decide (c.postedHost ≠ 0))

/-- R55: whether the instruction at that REP state is the last of its pass. -/
def Rep.passEnd (r : Rep) : Bool := r.act && decide (¬ r.pos.toNat + 1 < r.len)

/-- R55: the program counter and the REP state after an instruction that falls through to `next`. -/
def repNext (c : Ctx) (next : Word) : Word × Rep :=
  let r := c.rep
  if !r.act then (next, r)
  else if r.pos.toNat + 1 < r.len then (next, { r with pos := r.pos + 1 })
  else (r.body, { r with pos := 0, off := r.off + r.stride })

/-- R55: the end of a pass: the count falls, and at 0 the replay is over. -/
def State.repStep (s : State) (next : Word) : State :=
  let c := s.cx
  let (pc, rep) := repNext c next
  if c.rep.passEnd then
    let left := s.g c.rep.gn - 1
    let s := s.setG c.rep.gn left
    if left = 0 then { s with cx := { s.cx with pc := next, rep := Rep.none_ } }
    else { s with cx := { s.cx with pc := pc, rep := rep } }
  else { s with cx := { c with pc := pc, rep := rep } }

/-- R49, R51: the instruction has issued; the run ends with a switch marker or after 512 instructions. -/
def State.finish (s : State) (sw : Bool) : State :=
  let s := s.counted
  let n := s.cx.runLen + 1
  { s with cx := { s.cx with runLen := n, arrived := false, firm := none, got := [], code := [],
                             status := if sw || decide (512 ≤ n) then .atSwitch else .running } }

/-- Retires an instruction of `len` bytes that falls through. -/
def State.retire (s : State) (len : Nat) (sw : Bool) : State := (s.repStep (s.cx.pc + natWord len)).finish sw

/-- Retires a taken control transfer. -/
def State.jumpTo (s : State) (target : Word) (sw : Bool) : State :=
  ({ s with cx := { s.cx with pc := target } }).finish sw

/-- R53: the issuing context holds issue. -/
def State.block (s : State) : State :=
  if s.cx.status = .running then { s with cx := { s.cx with status := .blocked } } else s

/-- What the effect of an instruction of a context in no undissolved gang comes to. -/
def retireOne (sw : Bool) (len : Nat) : Done → Out
  | .fall s => .next (s.retire len sw)
  | .jump t s => .next (s.jumpTo t sw)
  | .raise f s => .next (s.recordFault f)
  | .hold s => .next s.counted.block
  | .gone s => .next s.counted

/-- R67 step 1: whether the preceding instruction must have ended its run. -/
def State.mustStart (s : State) (m : Mods) (k : Kind) : Bool := (k.starts || m.wt ≠ 0) && !s.cx.freshRun
/-- Whether an instruction that acts at the switch point finds something to be delivered there before it. -/
def Ctx.owesFirst (c : Ctx) : Bool := c.awaits || !c.errs.isEmpty || c.rgfail.isSome
def State.mustDeliver (s : State) (m : Mods) (k : Kind) : Bool := k.acts && s.guard m && s.cx.owesFirst
/-- Whether the run must end before this instruction (R66: where it is guarded off, only by R67 step 1). -/
def State.splits (s : State) (m : Mods) (k : Kind) : Bool := s.mustStart m k || s.mustDeliver m k
/-- The run ends before an instruction that acts at the switch point. Its guard has been read (R65). -/
def State.endBefore (s : State) (m : Mods) (k : Kind) : State :=
  ({ s with cx := { s.cx with firm := if s.mustStart m k then s.cx.firm else some (s.guard m) } }).endRun

/-- Issue of an instruction by a context in no undissolved gang. `off` is its effect when guarded off. -/
def issueOne (m : Mods) (len : Nat) (k : Kind) (body off : State → Done) (s : State) : Out :=
  if s.splits m k then .next (s.counted.endBefore m k)
  else if s.cx.owes m.wt then
    .next { s.counted with cx := { s.cx with status := .posted (m.wt.getLsbD 0) (m.wt.getLsbD 1) } }
  else if s.guard m then retireOne (m.sw || k.ends) len (body s)
  else retireOne m.sw len (off s)

/-! ### Gangs (R59) -/

/-- One member issues the leader's instruction; the members that have done so are listed in the leader's `gdone`. The
target of a transfer is the leader's. -/
def memberIssue (leader id : CtxId) (on : Option Bool) (m : Mods) (body off : State → Done) (acc : State × Option Word) :
    State × Option Word :=
  let s := acc.1.focus id
  let done (s : State) : State :=
    let s := s.focus leader
    { s with cx := { s.cx with gdone := s.cx.gdone ++ [id] } }
  let g := match on with | some b => b | none => s.guard m
  match (if g then body s else off s) with
  | .fall s => (done s, acc.2)
  | .jump t s => (done s, match acc.2 with | some x => some x | none => some t)
  | .raise f s => (({ s with cx := { s.cx with fault := some f } }).focus leader, acc.2)
  | .hold s => (s.focus leader, acc.2)
  | .gone s => (s.focus leader, acc.2)

/-- R59: every member takes the leader's program counter and REP state, and its count at the end of a pass. -/
def State.copyToMembers (s : State) (ids : List CtxId) (rep : Rep) : State :=
  let l := s.cx
  let n := s.g rep.gn
  ids.foldl (fun s id => if id = l.id then s else s.withCtx id (fun s =>
    let s := if rep.passEnd then s.setG rep.gn n else s
    { s with cx := { s.cx with pc := l.pc, rep := l.rep, runLen := l.runLen, arrived := false, firm := none, got := [] } })) s

/-- R53, R59: the leader waits for its members: at a switch point where one is parked, holding issue where one walks. -/
def State.standBy (s : State) : State :=
  if s.cx.gangIds.any (fun id => match (s.ctx id).status with | .walking _ _ => false | st => st.holdsGang) then
    (if s.cx.status = .running then { s with cx := { s.cx with status := .ready } } else s)
  else s.block

/-- R59, R66, R67: what an undissolved gang does before it issues an instruction that no member has issued yet: its run ends where
any member's must, and members that owe posted counts are parked. -/
def State.beforeGang (s : State) (m : Mods) (k : Kind) : Option State :=
  let ids := s.cx.gangIds
  let on := if k.lead then some (s.guard m) else none
  let firm := fun (s : State) => { s with cx := { s.cx with firm := some (on.getD (s.guard m)) } }
  if ids.any (fun id => (s.focus id).mustStart m k) then some s.counted.endRun
  else if k.acts && ids.any (fun id => on.getD ((s.focus id).guard m) && (s.ctx id).owesFirst) then some (s.each ids firm).counted.endRun
  else
    let owing := ids.filter (fun id => (s.ctx id).owes m.wt)
    if owing.isEmpty then none
    else some (s.each owing (fun s => { s with cx := { s.cx with status := .posted (m.wt.getLsbD 0) (m.wt.getLsbD 1) } })).counted.standBy

def issueGang (m : Mods) (len : Nat) (k : Kind) (body off : State → Done) (s : State) : Out :=
  let leader := s.cx.id
  let ids := s.cx.gangIds
  match (if s.cx.gdone.isEmpty then s.beforeGang m k else none) with
  | some s => .next s
  | none =>
      let on := if k.lead then some (s.guard m) else none
      let any := on.getD (ids.any (fun id => (s.focus id).guard m))
      let todo := ids.filter (fun id => !s.cx.gdone.contains id && !(s.ctx id).status.holdsGang)
      let rep := s.cx.rep
      let (s, target) := todo.foldl (fun acc id => memberIssue leader id on m body off acc) (s, none)
      if ids.all (fun id => s.cx.gdone.contains id) then
        let s := { s with cx := { s.cx with gdone := [] } }
        let sw := m.sw || (k.ends && any)
        let s := match target with
          | some t => s.jumpTo t sw
          | none => s.retire len sw
        .next (s.copyToMembers ids rep)
      else if ids.any (fun id => (s.ctx id).fault.isSome) then .next s.counted.endRun
      else .next s.counted.standBy

/-- ISSUE (R65 to R67): ends the run first where the instruction asks for it, waits for posted counts, evaluates the guard,
executes, and retires. -/
def issueWith (m : Mods) (len : Nat) (k : Kind) (body off : State → Done) (s : State) : Out :=
  if s.cx.inGang then issueGang m len k body off s else issueOne m len k body off s

/-- An instruction that has no effect when it is guarded off (R66). -/
def issue (m : Mods) (len : Nat) (k : Kind) (s : State) (body : State → Done) : Out := issueWith m len k body .fall s

/-- Checks that are made whether or not the guard is true (R66, R75). -/
def checkedIssue (pre : Option FaultRec) (m : Mods) (len : Nat) (k : Kind) (s : State) (body : State → Done) : Out :=
  match pre with
  | some f => .next (s.recordFault f)
  | none => issue m len k s body

/-! ## Access checks at issue (R52, R118) -/

/-- A step of an instruction that may stop. -/
abbrev Try (α : Type) := Except Done α

/-- R52, R374, R382: translates one address at issue. A TLB miss holds issue for a walk. -/
def State.access (s : State) (acc : BitVec 2) (dw : Bool) (va : Word) : Try (Place × State) :=
  match s.xlate s.cx.id.coreId s.cx.pctx s.cx.prot.keyslot (!s.cx.priv) dw acc va with
  | (.ok pl _, s') => .ok (pl, s')
  | (.miss, s') => .error (.hold { s' with cx := { s'.cx with status := .walking va acc } })
  | (.fault c k, _) => .error (.raise (s.fltAt c k acc va) s)

/-- Ends a computation that may stop. -/
def Try.done : Try Done → Done
  | .ok d => d
  | .error d => d

/-- A pending containment error of the issuing context (R419). -/
def State.contain (s : State) (cause : BitVec 16) (acc : BitVec 2) (eng : Bool) (va : Word) : State :=
  { s with cx := { s.cx with errs := s.cx.errs ++ [{ s.fltAt 17 cause acc va with eng := eng }] } }

/-- R437: one UE record for each consumption of a poisoned word, by an agent. Which structure served the read is the device's. -/
def State.ueAt (s : State) (src : CoreId) (pa : Nat) : State :=
  s.postHealth 3 (BitVec.ofNat 8 (2 + Config.choice s.issued 4 % 4)) src (natWord (pa / 8 * 8)) 1 0
/-- R437: a poisoned word that the issuing context consumes: in memory, or in stash scratch, which has no address there. -/
def State.ueRecord (s : State) (pa : Nat) : State := s.ueAt s.cx.id.coreId pa
def State.ueScratch (s : State) : State := s.postHealth 3 3 s.cx.id.coreId 0 1 0
/-- R418, R437: a poisoned word that an engine, a home or a unit of a die consumes; one that lies in another package is reported
there (log entry 90). -/
def State.ueWord (s : State) (src : CoreId) (w : BadWord) : State :=
  match w.pa with
  | some pa => s.ueAt src pa
  | none => s

end Sys2Proof.Machine
end

