-- ==== Sys2Proof/Machine/Fetch.lean ====
section
/-! DEFINITION. Fetching an instruction (R62, R68, R69, R75 steps 1 to 3 and 6). -/

namespace Sys2Proof.Machine

/-- What fetch finds at the program counter of the issuing context. -/
inductive Fetched where
  | insn (i : Instr)
  /-- a block-end marker: fetch continues at the next multiple of 32 (R68). -/
  | marker (next : Word)
  | fault (f : FaultRec)
  /-- no translation is held: issue holds for a walk (R52). -/
  | walk
  /-- a poisoned word (R418 cause 2). -/
  | poison (pa : Nat)
  /-- code homed in another package or at a host, not yet held: the doubleword wanted (log entry 15). -/
  | away (pl : Place) (va : Word)
  deriving DecidableEq, Repr

/-- R75 step 6, R71: ERET and ATINV at user level, once OP and LEN are found good. -/
def supervisorOnly (bs : List Byte) : Bool :=
  let op := (leNat (bs.take 8)) / 512 % 256
  (op = 0x49 || op = 0x4D) && leNat (bs.take 8) % 4 = 0

/-- Decodes the bytes from the program counter to the end of the fetch block. -/
def fetchBytes (s : State) (bs : List Byte) : Fetched :=
  match bs with
  | [] => .fault (s.flt 1 2)
  | x :: _ =>
    match lenOfFirst x with
    | none => if leNat (bs.take 4) = 3 then .marker ((s.cx.pc &&& ~~~31) + 32) else .fault (s.flt 1 1)
    | some n =>
      if bs.length < n then .fault (s.flt 1 2)
      else if !s.cx.priv && supervisorOnly bs then .fault (s.flt 2 0)
      else match decodeBytes bs with
        | .ok (i, _) => .insn i
        | .error r => .fault (s.flt 1 r.cause)

/-- Bytes of the fetch block from the program counter on that an instruction may use. -/
def State.fetchRoom (s : State) : Nat := min 16 (32 - s.cx.pc.toNat % 32)

/-- The bytes of code homed elsewhere, from the doublewords that the present instruction has fetched. -/
def State.cached (s : State) (va : Word) : Option (List Byte) :=
  (s.cx.code.find? (fun l => l.1 = va &&& ~~~7)).map (fun l => l.2.drop (va.toNat % 8))

/-- Bytes of cached code, or the address of the doubleword that is missing. -/
def cachedBytes (s : State) : Nat → Word → Nat → Except Word (List Byte)
  | 0, _, _ => .ok []
  | fuel + 1, va, n =>
    if n = 0 then .ok []
    else match s.cached va with
      | none => .error va
      | some bs =>
        if n ≤ bs.length then .ok (bs.take n)
        else match cachedBytes s fuel (va + natWord bs.length) (n - bs.length) with
          | .ok r => .ok (bs ++ r)
          | .error e => .error e

/-- Fetches the instruction at the program counter of the issuing context. -/
def State.fetch (s : State) : Fetched :=
  let pc := s.cx.pc
  if fld pc 0 2 ≠ 0 then .fault (s.fltAt 3 0 2 pc)
  else match (s.xlate s.cx.id.coreId s.cx.pctx s.cx.prot.keyslot (!s.cx.priv) false 2 pc).1 with
    | .miss => .walk
    | .fault c k => .fault (s.fltAt c k 2 pc)
    | .ok (.hbm pa) _ =>
      if s.poisoned pa 4 then .poison ((s.badWord pa 4).getD pa)
      else
        let bs := s.bytes s.cx.prot.keyslot pa s.fetchRoom
        let n := match bs with | x :: _ => (lenOfFirst x).getD 4 | [] => 4
        if s.poisoned pa (min n s.fetchRoom) then .poison ((s.badWord pa n).getD pa) else fetchBytes s bs
    | .ok (.dev _) _ => .fault (s.fltAt 12 5 2 pc)
    | .ok pl _ =>
      match cachedBytes s 4 pc s.fetchRoom with
      | .ok bs => fetchBytes s bs
      | .error va => .away pl va

/-- R418 cause 2: the instruction does not issue and is treated as the last of its run. -/
def State.codePoison (s : State) (va : Word) (pa : Nat) : State := ((s.ueRecord pa).contain 2 2 false va).counted.endRun
def State.fetchPoison (s : State) (pa : Nat) : State := s.codePoison s.cx.pc pa

/-- The leaf that `withFetchWord` installs: a user page of the package with every permission, A and D set, frame 0. -/
def State.probeLeaf (s : State) : Word := putFld (0xFE : Word) 46 s.pkg

/-- The machine with the bytes of one instruction placed where the next step fetches them: the issuing context runs at
address 0, whose translation is held; nothing else is due. -/
def State.placeWord (s : State) (bs : List Byte) : State :=
  let s := s.putHome s.cx.prot.keyslot 0 bs
  let k := s.myCore
  let e : TlbE := { pctx := s.cx.pctx, vpn := 0, lvl := 3, pte := s.probeLeaf, ptePa := 0 }
  let s := s.setCore { k with tlb := e :: k.tlb.filter (fun x => x.pctx ≠ e.pctx || !tlbHit e.pctx 0 x) }
  { s with
    cx := { s.cx with pc := 0, status := .running, gang := none }
    agenda := []
    regs := { s.regs with state := if s.regs.state = 2 || s.regs.state = 3 || s.regs.state = 4 then 1 else s.regs.state } }

end Sys2Proof.Machine
end

