-- ==== Sys2Proof/Machine/FaultQ.lean ====
section
/-! DEFINITION. The fault queue (R385 to R390): posting, completion, release. -/

namespace Sys2Proof.Machine

/-- R385: an entry of 32 bytes, RESP = 0. -/
def fqRecord (va info : Word) (pkg : BitVec 12) (src : CoreId) (sag : BitVec 4) : List Byte :=
  wordBytes va ++ wordBytes info ++ wordBytes (0#38 ++ sag ++ src.core ++ src.die ++ pkg) ++ wordBytes 0

/-- Whether the queue of a context has room (R386). -/
def State.fqRoom (s : State) (p : Prot) : Bool :=
  let h := s.bytes p.keyslot p.fqbase.toNat 24
  decide ((dwAt h 0 - dwAt h 1).toNat < p.fqlen.toNat)

/-- R386: posts an entry; gives its number. The queue has room. -/
def State.postEntry (s : State) (p : Prot) (f : FaultRec) (pkg : BitVec 12) (src : CoreId) (sag : BitVec 4) (who : Waiter)
    (inv : Nat) : Nat × State :=
  let base := p.fqbase.toNat
  let h := s.bytes p.keyslot base 24
  let n := dwAt h 0
  let e := base + 64 + 32 * (n.toNat % p.fqlen.toNat)
  let s := s.putHome p.keyslot e (fqRecord f.va f.info pkg src sag)
  let s := s.putHome p.keyslot base (wordBytes (n + 1))
  let entry : FqEntry :=
    { fqbase := p.fqbase, at_ := e, n := n.toNat, va := f.va, f := f, who := who, inv := inv, resp := 0, rank := 0 }
  let s := { s with fq := s.fq ++ [entry] }
  (n.toNat, if dwAt h 2 = 0 then s else s.raise (dwAt h 2) 1 (dieAgent 0) 7)

/-- R397: the entry of an invocation that an urgent shootdown has stopped. Its context may be parked for something else. -/
def FqEntry.ofPins (e : FqEntry) : Bool := e.f.cls = 11 && e.f.cause = 6
/-- R389: an entry of a context that has been pre-empted meanwhile is answered in its frame. -/
def Ctx.answered (e : FqEntry) (st : Status) (c : Ctx) : Ctx :=
  match c.status with
  | .onEntry _ n => if e.who = .ctx c.id && n = e.n then { c with status := st } else c
  | _ => if e.ofPins && e.who = .ctx c.id && st ≠ .ready then { c with status := st } else c
def State.inFrames (s : State) (f : Ctx → Ctx) : State :=
  { s with invs := s.invs.map (fun (r : InvRec) => { r with frame := r.frame.map f }) }

/-- R346, R390: an entry of a dispatch row has been answered: that of its admission, or of one of its writes. -/
def LandRow.answered (r : LandRow) (n : Nat) (fail : Bool) : LandRow :=
  let mine := r.onEntry = some n
  { r with onEntry := if mine then none else r.onEntry, refused := r.refused || (fail && mine),
           writes := r.writes.map (fun w => if w.onEntry = some n then { w with onEntry := none, refused := w.refused || fail } else w) }
/-- R389, RETRY: a context re-executes the faulting instruction; other agents try again. -/
def State.retry (s : State) (e : FqEntry) : State :=
  match e.who with
  | .ctx c => s.withCtx c (fun s =>
      match s.cx.status with
      | .onEntry _ n => if n = e.n then
          { s with cx := { s.cx with status := if s.cx.inGang && s.cx.gidx ≠ 0 then .follow else .ready } } else s
      | _ => s.inFrames (Ctx.answered e .ready))
  | .copy id => { s with copies := s.copies.map (fun c => if c.id = id then { c with onEntry := none } else c) }
  | .landing p => { s with net := p :: s.net }
  | .row id =>
    { s with rows := s.rows.map (fun r => if r.id = id then { r with onEntry := none } else r)
             landRows := s.landRows.map (fun r => if r.id = id then r.answered e.n false else r) }
  | .method inv => { s with invs := s.invs.map (fun r => if r.i.id = inv then { r with onEntry := none } else r) }
  | .trig id => { s with firings := s.firings.map (fun f => if f.id = id then { f with onEntry := none } else f) }
  | .coll d k => { s with colls := s.colls.map (fun c => if c.die = d && c.slot = k then { c with onEntry := none } else c) }
  | .media => s

/-- R389, FAIL: a context takes an unrecoverable fault of the entry's class; an engine operation ends in error with CAUSE 1;
a landing becomes unrecoverable (R263). -/
def State.failEntry (s : State) (e : FqEntry) : State :=
  match e.who with
  | .ctx c =>
    let x := s.ctx c
    match x.status with
    | .onEntry _ n =>
      if n = e.n then s.each x.gangIds (fun s =>
        ({ s with cx := { s.cx with status := .ready } }).takeException e.f)
      else s
    | _ =>
      if e.ofPins && x.run.any (fun r => r.i.id = e.inv) then s.each x.gangIds (fun s =>
        ({ s with cx := { s.cx with status := .ready } }).takeException e.f)
      else s.inFrames (Ctx.answered e (.refused e.f))
  | .copy id => { s with copies := s.copies.map (fun c => if c.id = id then { c with onEntry := none, err := 1 } else c) }
  | .landing p => s.landFail p e.f.info
  | .row id =>
    { s with rows := s.rows.map (fun r => if r.id = id then { r with onEntry := none, refused := true } else r)
             landRows := s.landRows.map (fun r => if r.id = id then r.answered e.n true else r) }
  | .method inv => s.discardAll ((s.invs.filter (fun r => r.i.id = inv)).map (fun r => (r, 6, none)))
  | .trig id => { s with firings := s.firings.map (fun f => if f.id = id then { f with onEntry := none, refused := true } else f) }
  | .coll d k =>
    { s with colls := s.colls.map (fun c => if c.die = d && c.slot = k then { c with onEntry := none, refused := true } else c) }
  | .media => s

/-- R389: whether an entry may be released: complete, and no entry of its queue and page with a lower number is left. -/
def releasable (fq : List FqEntry) (e : FqEntry) : Bool :=
  e.resp ≠ 0 && !fq.any (fun x => x.fqbase = e.fqbase && decide (x.n < e.n) && x.va.toNat / 65536 = e.va.toNat / 65536)

/-- R389: releases what may be released, in ascending n. -/
def releaseAll : Nat → State → State
  | 0, s => s
  | fuel + 1, s =>
    match (sortBy (fun (a b : FqEntry) => decide (a.n ≤ b.n)) (s.fq.filter (releasable s.fq))).head? with
    | none => s
    | some e =>
      let s := { s with fq := s.fq.filter (fun x => !(x.fqbase = e.fqbase && x.n = e.n)) }
      releaseAll fuel (if e.resp = 1 then s.retry e else s.failEntry e)

/-- R388: a nonzero RESP completes its entry; completion releases. The slice watches the doubleword itself. -/
def State.fqCheck (s : State) : State :=
  let s := { s with fq := s.fq.map (fun (e : FqEntry) => if e.resp = 0 then { e with resp := fld (s.byte (e.at_ + 24)) 0 2 } else e) }
  if s.fq.any (releasable s.fq) then releaseAll s.fq.length s else s

/-- R408: the address of a stream's descriptor. -/
def State.descAt (s : State) (idx : BitVec 10) : Nat := s.regs.stab.toNat + 128 * idx.toNat
/-- R409: a write that clears EN of an enabled stream closes its frame. -/
def State.streamsCheck (s : State) : State :=
  let off := s.streams.filter (fun x => !(s.byte (s.descAt x.idx)).getLsbD 0)
  { s with agenda := s.agenda ++ (off.map (fun x => Act.event (.streamDisable x.idx))).filter (fun a => !s.agenda.contains a) }
/-- What a write to bytes of HBM sets off besides the write. -/
def State.noteStore (s : State) : State :=
  let s := if s.fq.isEmpty then s else s.fqCheck
  if s.streams.isEmpty then s else s.streamsCheck

end Sys2Proof.Machine
end

