-- ==== Sys2Proof/Machine/Device.lean ====
section
/-! DEFINITION. The device-register pages (R373, R395, R403, R404, R406, R431, R436, R438, R447): what a read returns and what a
write does. -/

namespace Sys2Proof.Machine

/-- A page of the device-register range (R403), with its die or port. -/
inductive RegPage where
  | tcb (d : BitVec 2)
  | control
  | port (e : BitVec 2)
  | debug (d : BitVec 2)
  | reserved
  deriving DecidableEq, Repr

def regPage (pa : Nat) : RegPage :=
  let o := (pa - 0x300000000000) / 0x10000
  if o < 4 then .tcb (BitVec.ofNat 2 o)
  else if o = 0x10 then .control
  else if 0x20 ≤ o ∧ o < 0x24 then .port (BitVec.ofNat 2 o)
  else if 0x30 ≤ o ∧ o < 0x34 then .debug (BitVec.ofNat 2 o)
  else .reserved

def readTcb (t : Tcb) (n : Nat) : Word :=
  match n with
  | 0 => t.sdva
  | 1 => t.sdnp
  | 2 => 0#51 ++ boolBit t.allctx ++ t.sdctx
  | 3 => 0#62 ++ boolBit t.urgent ++ boolBit t.go
  | 4 => t.sdctr
  | 5 => t.sddone
  | 6 => t.pgpool
  | 7 => 0#31 ++ boolBit t.migen ++ t.pglen
  | _ => 0

/-- R373: the context that the debug page of a die selects. -/
def DebugPage.ctxId (p : DebugPage) (d : BitVec 2) : CtxId := ⟨d, p.dcore, p.dctx⟩
def Status.halted : Status → Bool
  | .debug _ _ _ => true
  | _ => false
/-- R373: a context in debug halt, on its task context or in a frame. -/
def State.haltedCtx (s : State) (id : CtxId) : Option Ctx :=
  if (s.ctx id).status.halted then some (s.ctx id)
  else (s.invs.findSome? (fun r => r.frame.find? (fun c => c.id = id && c.status.halted)))
def State.haltCount (s : State) (d : BitVec 2) : Nat :=
  (s.allCtxs.filter (fun c => c.id.die = d && c.status.halted)).length +
    ((s.invs.flatMap (fun r => r.frame)).filter (fun c => c.id.die = d && c.status.halted)).length

def readDebug (s : State) (d : BitVec 2) (n : Nat) : Word :=
  let p := (s.die d).dbg
  match n with
  | 0 => 0#54 ++ p.dctx ++ p.dcore
  | 1 => 0#32 ++ p.index ++ p.item
  | 2 => p.ddata
  | 3 => 0#57 ++ boolBit (s.haltedCtx (p.ctxId d)).isSome ++ p.dstat ++ p.dcmd
  | 4 => natWord (s.haltCount d)
  | _ => 0

def readPort (p : Port) (n : Nat) : Word :=
  match n with
  | 0 => 0#14 ++ boolBit p.link ++ boolBit p.en ++ p.mac
  | 1 => p.ipv4.setWidth 64
  | 3 => p.rxbase
  | 4 => p.rxlen.setWidth 64
  | 5 => p.rxctr
  | 6 => p.rxprod
  | 7 => p.rxcons
  | 8 => p.txbase
  | 9 => p.txlen.setWidth 64
  | 10 => p.txprod
  | 11 => p.txdone
  | 12 => p.txctr
  | 13 => p.rxdrop
  | _ => 0

/-- R431: the statistics of one die. -/
def readStats (t : Stats) (n : Nat) : Word :=
  match n with
  | 0 => t.cecore
  | 1 => t.cel2
  | 2 => t.cehbm
  | 3 => t.ue
  | 4 => t.abftcorr
  | 5 => t.abftfail
  | 6 => t.scanpass
  | 7 => t.scanfail
  | _ => 0

/-- The package control page by doubleword (R404, R431, R436, R438, R447). -/
def readControl (s : State) (n : Nat) : Word :=
  let r := s.regs
  match n with
  | 0 => r.ctxtab
  | 1 => r.wqtab
  | 2 => r.grptab
  | 3 => r.grplen.setWidth 64
  | 4 => r.stab
  | 5 => s.time
  | 6 => (fld r.offset 0 32) ++ 0#22 ++ r.domain ++ boolBit r.lock ++ boolBit r.ptpen
  | 0x220 => r.hqbase
  | 0x221 => r.hqlen.setWidth 64
  | 0x222 => r.hqprod
  | 0x223 => r.hqcons
  | 0x224 => r.hqlost
  | 0x225 => r.hqctr
  | 0x240 => 0#48 ++ s.flash.cfail ++ s.flash.wfail ++ r.fstep ++ r.step ++ boolBit r.warm ++ r.state
  | 0x241 => (fld r.alarms 0 4).setWidth 64
  | 0x243 => r.powcap.setWidth 64
  | 0x248 => fld r.nonce 0 64
  | 0x249 => fld r.nonce 64 64
  | 0x24A => fld r.nonce 128 64
  | 0x24B => fld r.nonce 192 64
  | 0x24C => r.qaddr
  | 0x24D => 0#61 ++ r.qstat ++ boolBit r.qgo
  | n =>
    if 0x200 ≤ n ∧ n < 0x220 then readStats (s.die (BitVec.ofNat 2 ((n - 0x200) / 8))).stats ((n - 0x200) % 8) else 0

/-- An aligned read of a device register. A reserved address has no value that the manual states. -/
def State.readReg (s : State) (pa : Nat) : Word :=
  let n := pa % 0x10000 / 8
  match regPage pa with
  | .tcb d => readTcb (s.die d).tcb n
  | .control => readControl s n
  | .port e => readPort s.ports[e.toFin] n
  | .debug d => readDebug s d n
  | .reserved => wordOf (freeBytes s.issued 8)

/-- Whether a device-register address is on a page that exists. -/
def regExists (pa : Nat) : Bool := isDevPa pa && regPage pa ≠ .reserved

/-- R395: a store to a translation control block; GO starts a shootdown. -/
def State.writeTcb (s : State) (d : BitVec 2) (n : Nat) (v : Word) : State :=
  let x := s.die d
  let t := x.tcb
  match n with
  | 0 => s.setDie d { x with tcb := { t with sdva := v } }
  | 1 => s.setDie d { x with tcb := { t with sdnp := v } }
  | 2 => s.setDie d { x with tcb := { t with sdctx := fld v 0 12, allctx := v.getLsbD 12 } }
  | 3 =>
    let s := s.setDie d { x with tcb := { t with urgent := v.getLsbD 1, go := t.go || v.getLsbD 0 } }
    if v.getLsbD 0 then s.due (if v.getLsbD 1 then .shootdownUrgent d else .shootdownGo d) else s
  | 4 => s.setDie d { x with tcb := { t with sdctr := v } }
  | 6 => s.setDie d { x with tcb := { t with pgpool := v } }
  | 7 => s.setDie d { x with tcb := { t with pglen := fld v 0 32, migen := v.getLsbD 32 } }
  | _ => s

/-- R373: a store to DCMD starts a command, unless one is under way. -/
def State.writeDebug (s : State) (d : BitVec 2) (n : Nat) (v : Word) : State :=
  let x := s.die d
  let p := x.dbg
  match n with
  | 0 => s.setDie d { x with dbg := { p with dcore := fld v 0 8, dctx := fld v 8 2 } }
  | 1 => s.setDie d { x with dbg := { p with item := fld v 0 16, index := fld v 16 16 } }
  | 2 => s.setDie d { x with dbg := { p with ddata := v } }
  | 3 =>
    if p.dstat = 1 then s
    else
      let cmd : BitVec 3 := fld v 0 3
      let go := fun (i : Instr) => (s.setDie d { x with dbg := { p with dcmd := cmd, dstat := 1 } }).due i
      match cmd.toNat with
      | 1 => go (.debugRead d)
      | 2 => go (.debugWrite d)
      | 3 => go (.debugResume d)
      | 4 => go (.debugEnd d)
      | 5 => go (.debugHaltRequest d)
      | _ => s.setDie d { x with dbg := { p with dcmd := cmd } }
  | _ => s

def Port.write (p : Port) (n : Nat) (v : Word) : Port :=
  match n with
  | 0 => { p with mac := fld v 0 48, en := v.getLsbD 48 }
  | 1 => { p with ipv4 := fld v 0 32 }
  | 3 => { p with rxbase := v }
  | 4 => { p with rxlen := fld v 0 16 }
  | 5 => { p with rxctr := v }
  | 7 => { p with rxcons := v }
  | 8 => { p with txbase := v }
  | 9 => { p with txlen := fld v 0 16 }
  | 10 => { p with txprod := v }
  | 12 => { p with txctr := v }
  | _ => p

/-- What a start finds where nothing fails (log entry 16). -/
def StartTests.good : StartTests := ⟨true, none, true, true, [], [], [], none⟩

/-- R447: NONCE and QADDR are not written while a quote is being made. -/
def State.setNonce (s : State) (k : Nat) (v : Word) : State :=
  if s.regs.qstat = 1 then s
  else { s with regs := { s.regs with
    nonce := (s.regs.nonce &&& ~~~((BitVec.allOnes 64).setWidth 256 <<< (64 * k))) ||| (v.setWidth 256 <<< (64 * k)) } }

/-- A store to the package control page; fields marked RO are not written. -/
def State.writeControl (s : State) (n : Nat) (v : Word) : State :=
  let r := s.regs
  match n with
  | 0 => { s with regs := { r with ctxtab := v } }
  | 1 => { s with regs := { r with wqtab := v } }
  | 2 => { s with regs := { r with grptab := v } }
  | 3 => { s with regs := { r with grplen := fld v 0 17 } }
  | 4 => { s with regs := { r with stab := v } }
  | 5 => s.due (.timeWrite v)
  | 6 => { s with regs := { r with ptpen := v.getLsbD 0, domain := fld v 2 8 } }
  | 0x220 => { s with regs := { r with hqbase := v } }
  | 0x221 => { s with regs := { r with hqlen := fld v 0 16 } }
  | 0x223 => { s with regs := { r with hqcons := v } }
  | 0x225 => { s with regs := { r with hqctr := v } }
  | 0x242 => if v.getLsbD 0 then s.due (.warmStart .rstreq StartTests.good) else s
  | 0x243 => { s with regs := { r with powcap := fld v 0 16 } }
  | 0x248 => s.setNonce 0 v
  | 0x249 => s.setNonce 1 v
  | 0x24A => s.setNonce 2 v
  | 0x24B => s.setNonce 3 v
  | 0x24C => if r.qstat = 1 then s else { s with regs := { r with qaddr := v } }
  | 0x24D => if v.getLsbD 0 then s.due .attestationGo else s
  | _ => s

/-- An aligned store to a device register. A store to a translation control block whose shootdown is under way is held. -/
def State.writeReg (s : State) (pa : Nat) (v : Word) : State :=
  let n := pa % 0x10000 / 8
  match regPage pa with
  | .tcb d => if (s.die d).tcb.go then { s with heldWrites := s.heldWrites ++ [(pa, v)] } else s.writeTcb d n v
  | .control => s.writeControl n v
  | .port e =>
    let s := { s with ports := s.ports.set e.toFin (s.ports[e.toFin].write n v) }
    if n = 10 then s.due (.ethernetTransmit e) else s
  | .debug d => s.writeDebug d n v
  | .reserved => s

/-- R40, R404: a store to a device register is performed. -/
def execRegisterWrite (pa : Nat) (v : Word) (s : State) : Out := .next (s.writeReg pa v).counted

/-- R404: TIME is written while PTPEN = 0, and never lowered. -/
def execTimeWrite (v : Word) (s : State) : Out :=
  .next { s with time := if !s.regs.ptpen && s.time.ule v then v else s.time }

end Sys2Proof.Machine
end

