-- ==== Sys2Proof/Machine/Flags.lean ====
section
/-! DEFINITION. Conditions (R100), truth tables (R102, R152), integer results (R23, R24, R96, R97). -/

namespace Sys2Proof.Machine

/-- R100: the comparison conditions 0 to 9 on n bits. -/
def cmpCond {n : Nat} (cond : BitVec 4) (x y : BitVec n) : Bool :=
  if cond = 0 then x = y else if cond = 1 then x ≠ y
  else if cond = 2 then x.slt y else if cond = 3 then x.sle y
  else if cond = 4 then y.slt x else if cond = 5 then y.sle x
  else if cond = 6 then x.ult y else if cond = 7 then x.ule y
  else if cond = 8 then y.ult x else if cond = 9 then y.ule x
  else false

/-- R102: bit 2 × a + b of a 4-bit truth table. -/
def ttBit (tt : BitVec 4) (a b : Bool) : Bool :=
  tt.getLsbD ((if a then 2 else 0) + (if b then 1 else 0))

/-- R24: an exact result clamped to the signed interval of n bits. -/
def clampS (n : Nat) (v : Int) : BitVec n :=
  BitVec.ofInt n (max (-2 ^ (n - 1)) (min (2 ^ (n - 1) - 1) v))
def addSat {n : Nat} (x y : BitVec n) : BitVec n := clampS n (x.toInt + y.toInt)
def subSat {n : Nat} (x y : BitVec n) : BitVec n := clampS n (x.toInt - y.toInt)

/-- R96: shift distances are taken modulo n. -/
def shlN {n : Nat} (x y : BitVec n) : BitVec n := x <<< (y.toNat % n)
def shrN {n : Nat} (x y : BitVec n) : BitVec n := x >>> (y.toNat % n)
def sarN {n : Nat} (x y : BitVec n) : BitVec n := x.sshiftRight (y.toNat % n)
def rotN {n : Nat} (x y : BitVec n) : BitVec n := x.rotateRight (y.toNat % n)
def minS {n : Nat} (x y : BitVec n) : BitVec n := if y.slt x then y else x
def maxS {n : Nat} (x y : BitVec n) : BitVec n := if x.slt y then y else x
def minU {n : Nat} (x y : BitVec n) : BitVec n := if y.ult x then y else x
def maxU {n : Nat} (x y : BitVec n) : BitVec n := if x.ult y then y else x

/-- R23: division has a result for every divisor. -/
def divS {n : Nat} (x y : BitVec n) : BitVec n :=
  if y = 0 then BitVec.allOnes n else BitVec.ofInt n (x.toInt.tdiv y.toInt)
def divU {n : Nat} (x y : BitVec n) : BitVec n := if y = 0 then BitVec.allOnes n else x.udiv y
def remS {n : Nat} (x y : BitVec n) : BitVec n := if y = 0 then x else BitVec.ofInt n (x.toInt.tmod y.toInt)
def remU {n : Nat} (x y : BitVec n) : BitVec n := if y = 0 then x else x.umod y

/-- R97: zero bits above the highest one. -/
def clzN {n : Nat} (x : BitVec n) : BitVec n :=
  BitVec.ofNat n (if x.toNat = 0 then n else n - 1 - Nat.log2 x.toNat)
/-- R97: zero bits below the lowest one, counting up from a position. -/
def ctzFrom {n : Nat} (x : BitVec n) : Nat → Nat → Nat
  | 0, k => k
  | fuel + 1, k => if x.getLsbD k then k else ctzFrom x fuel (k + 1)
def ctzN {n : Nat} (x : BitVec n) : BitVec n := BitVec.ofNat n (ctzFrom x n 0)
/-- R97: the number of one bits. -/
def onesOf {n : Nat} (x : BitVec n) : Nat := ((List.range n).filter (fun k => x.getLsbD k)).length
def popN {n : Nat} (x : BitVec n) : BitVec n := BitVec.ofNat n (onesOf x)
/-- R97: bit i is x[n − 1 − i]. -/
def brevN {n : Nat} (x : BitVec n) : BitVec n := x.reverse

/-- R73: the 32-bit form takes the low halves and sign-extends its result. -/
def byW (w : Bool) (f32 : BitVec 32 → BitVec 32 → BitVec 32) (f64 : Word → Word → Word) (x y : Word) : Word :=
  if w then (f32 (x.setWidth 32) (y.setWidth 32)).signExtend 64 else f64 x y
def byW1 (w : Bool) (f32 : BitVec 32 → BitVec 32) (f64 : Word → Word) (x : Word) : Word :=
  if w then (f32 (x.setWidth 32)).signExtend 64 else f64 x

/-- R96: bits [127:64] of the products. -/
def mulHi (x y : Word) : Word := BitVec.ofInt 64 ((x.toInt * y.toInt) / 2 ^ 64)
def mulHiU (x y : Word) : Word := BitVec.ofNat 64 (x.toNat * y.toNat / 2 ^ 64)

/-- R98: field operations; the width is WM + 1. -/
def extrF (x : Word) (pos wm : BitVec 6) : Word := zextLow (wm.toNat + 1) (x >>> pos.toNat)
def insrF (x y : Word) (pos wm : BitVec 6) : Word :=
  let mask : Word := (BitVec.allOnes (wm.toNat + 1)).setWidth 64 <<< pos.toNat
  (x &&& ~~~mask) ||| ((y <<< pos.toNat) &&& mask)

/-- R125: an atomic operation on n bits: whether it writes, and the new value. FADD and FMAX have n = 32. -/
def amoNew {n : Nat} (int : BitVec 4 → BitVec n → BitVec n → BitVec n) (flt : Bool → BitVec 32 → BitVec 32 → BitVec 32)
    (opc : BitVec 4) (old b c : BitVec n) : Bool × BitVec n :=
  if opc = 10 then (true, b)
  else if opc = 11 then (old = b, if old = b then c else old)
  else if opc = 8 then (true, (flt true (old.setWidth 32) (b.setWidth 32)).setWidth n)
  else if opc = 9 then (true, (flt false (old.setWidth 32) (b.setWidth 32)).setWidth n)
  else (true, int opc old b)

end Sys2Proof.Machine
end

