-- ==== Sys2Proof/Machine/Operands.lean ====
section
/-! DEFINITION. Operand forms: effective addresses (R117, R118), pointers (R43 to R45), stash operands and windows (R131,
R133, R136), and ordinary accesses of the issuing context to memory of the package (R119, R120, R256 to R258, R416 to R421). -/

namespace Sys2Proof

/-! ## Lengths (R62) -/

def Src.len : Src → Nat
  | .reg _ => 8
  | .imm _ => 12
def MemOff.len : MemOff → Nat
  | .imm _ => 12
  | _ => 8

/-- R74: the bytes of a NOP. -/
def NopExt.len : NopExt → Nat
  | .none => 8
  | .imm _ => 12
  | .ext _ => 16

def LeaOff.len : LeaOff → Nat
  | .idx _ _ => 8
  | .imm _ => 12
def MoviImm.len : MoviImm → Nat
  | .w32 _ => 12
  | .w64 _ => 16
def MoviImm.value : MoviImm → Word
  | .w32 v => v.signExtend 64
  | .w64 v => v
end Sys2Proof

namespace Sys2Proof.Machine

/-! ## Effective addresses (R118) -/

/-- Bytes of an access size code. -/
def szBytes (sz : BitVec 2) : Nat := 2 ^ sz.toNat

/-- R118: the effective address. -/
def State.ea (s : State) (ga : GReg) (mo : MemOff) (sz : BitVec 2) : Word :=
  match mo with
  | .off o => s.g ga + (o.signExtend 64 <<< sz.toNat)
  | .idx gb sh => s.g ga + (s.g gb <<< sh.toNat)
  | .imm v => s.g ga + v.signExtend 64

/-- R118: an address that is not a multiple of the size raises Misaligned Access. -/
def State.aligned (s : State) (acc : BitVec 2) (n : Nat) (va : Word) : Try Unit :=
  if va.toNat % n = 0 then .ok () else .error (.raise (s.fltAt 4 0 acc va) s)

/-! ## Ordinary accesses to HBM of the package -/

/-- The bytes of poisoned words read as 0 (R418 cause 1). -/
def State.clean (s : State) (pa : Nat) (bs : List Byte) : List Byte :=
  (bs.zip (List.range bs.length)).map (fun e => if s.poison.contains ((pa + e.2) / 8 * 8) then 0 else e.1)

/-- An ordinary read by the issuing context. Poison raises a containment error of the cause given (R418). -/
def State.readPa (s : State) (owner : Nat) (va : Word) (pa n : Nat) : List Byte × State :=
  let s := s.recallRange owner pa n
  let bs := s.bytes s.cx.prot.keyslot pa n
  match s.badWord pa n with
  | none => (bs, s)
  | some w => (s.clean pa bs, (s.ueRecord w).contain 1 0 false (va + intWord (w - pa)))

/-- R421: the TYPE 17 records of a write that covers part of poisoned words. -/
def State.mergeRecords (s : State) (sz : BitVec 2) (va : Word) (pa : Nat) (bs : List Byte) : State :=
  let n := bs.length
  let part := s.poison.filter (fun w =>
    decide (w + 8 > pa) && decide (w < pa + n) && !(decide (pa ≤ w) && decide (w + 8 ≤ pa + n)))
  let ph := match s.cx.run with | some r => r.i.ph | none => 0
  part.foldl (fun s w =>
    let word := (List.range 8).map (fun k => if pa ≤ w + k ∧ w + k < pa + n then bs.getD (w + k - pa) 0 else 0)
    s.postElog s.cx.prot s.cx.pctx s.cx.region
      (errRec 17 0 sz s.pkg s.cx.id.coreId (s.cx.id.slot.setWidth 4) (va + intWord (w - pa)) (wordOf word) ph)) s

/-- An ordinary store by the issuing context. -/
def State.writePa (s : State) (owner : Nat) (sz : BitVec 2) (va : Word) (pa : Nat) (bs : List Byte) : State :=
  let merges := s.overPoison pa bs.length
  let s := s.putL1 owner s.cx.prot.keyslot pa bs
  (if merges then s.mergeRecords sz va pa bs else s).noteStore

/-- The owner number of the issuing core's L1, and of its windows. -/
def State.l1 (s : State) : Nat := coreNum s.cx.id.coreId
def State.winOwner (s : State) : Nat := coreNum s.cx.id.coreId + 1000

/-- What a range of ordinary bytes must be homed in (R453: homing comes last): class and cause otherwise. -/
structure Homing where
  cls   : BitVec 8
  cause : BitVec 16
  deriving DecidableEq, Repr

/-- R172 cause 9. -/
def homed9 : Homing := ⟨8, 9⟩

/-- The physical pieces of a range that must lie in HBM of the package, each page translated in ascending order. -/
def placePieces (acc : BitVec 2) (h : Homing) : List (Word × Nat) → State → Try (List (Word × Nat × Nat) × State)
  | [], s => .ok ([], s)
  | (va, n) :: ps, s =>
    match s.access acc false va with
    | .error d => .error d
    | .ok (.hbm pa, s) =>
      match placePieces acc h ps s with
      | .error d => .error d
      | .ok (rest, s) => .ok ((va, pa, n) :: rest, s)
    | .ok (_, s) => .error (.raise (s.flt h.cls h.cause) s)

/-- Translates a range at issue. -/
def State.place (s : State) (acc : BitVec 2) (h : Homing) (va : Word) (n : Nat) : Try (List (Word × Nat × Nat) × State) :=
  placePieces acc h (rangePieces va n) s

/-- Ordinary loads of a translated range. -/
def readPieces : List (Word × Nat × Nat) → State → List Byte × State
  | [], s => ([], s)
  | (va, pa, n) :: ps, s =>
    let (bs, s) := s.readPa s.l1 va pa n
    let (rest, s) := readPieces ps s
    (bs ++ rest, s)
/-- Ordinary stores to a translated range. -/
def writePieces : List (Word × Nat × Nat) → List Byte → State → State
  | [], _, s => s
  | (va, pa, n) :: ps, bs, s => writePieces ps (bs.drop n) (s.writePa s.l1 3 va pa (bs.take n))

/-- An ordinary load of n bytes homed in the package. -/
def State.load (s : State) (h : Homing) (va : Word) (n : Nat) : Try (List Byte × State) := do
  let (ps, s) ← s.place 0 h va n
  pure (readPieces ps s)
/-- An ordinary store of bytes homed in the package. -/
def State.store (s : State) (h : Homing) (va : Word) (bs : List Byte) : Try State := do
  let (ps, s) ← s.place 1 h va bs.length
  pure (writePieces ps bs s)

/-! ## Pointers (R43 to R45) -/

def pCur (d : Word) : BitVec 24 := fld d 0 24
def pStr (d : Word) : BitVec 16 := fld d 24 16
def pWrap (d : Word) : Nat := (fld d 40 20).toNat
def pMode (d : Word) : BitVec 4 := fld d 60 4
/-- R44: step_cursor. -/
def stepCursor (wrap : Nat) (cur : BitVec 24) (delta : Int) : BitVec 24 :=
  if wrap = 0 then BitVec.ofInt 24 (cur.toNat + delta)
  else
    let m := cur.toNat % wrap
    BitVec.ofInt 24 ((cur.toNat - m : Nat) + ((m : Int) + delta) % (wrap : Int))
def setCur (d : Word) (c : BitVec 24) : Word := putFld d 0 c

/-- R44: the access address of a pointer and the descriptor afterwards. -/
def pointerStep (d : Word) : BitVec 24 × Word :=
  let up := stepCursor (pWrap d) (pCur d) (pStr d).toInt
  let down := stepCursor (pWrap d) (pCur d) (-(pStr d).toInt)
  if pMode d = 0 then (pCur d, setCur d up)
  else if pMode d = 1 then (up, setCur d up)
  else if pMode d = 2 then (pCur d, d)
  else (pCur d, setCur d down)

/-- R130: the stash width of a format. -/
def stashW (f : BitVec 4) : Nat := codeBits f / 8
/-- R45: the stash. -/
def stashSize : Nat := 262144

/-! ## The stash (R46, R136) -/

/-- The key of a poisoned word of stash scratch, above every address of HBM. -/
def stashPoison (core : CoreId) (a : Nat) : Nat := 2 ^ 50 + coreNum core * 2 ^ 18 + a / 8 * 8

/-- The window that covers a stash address. -/
def windowAt (ws : List Window) (a : Nat) : Option Window :=
  ws.find? (fun w => decide (w.stash ≤ a) && decide (a < w.stash + w.len))

/-- Where one 64-byte line of the stash lies: scratch, or an entry of a window. -/
inductive StashLine where
  | scratch (a n : Nat)
  | mem (va : Word) (pa n : Nat)
  deriving DecidableEq, Repr

/-- The lines of a span. -/
def stashSpan : Nat → Nat → Nat → List (Nat × Nat)
  | 0, _, _ => []
  | fuel + 1, a, n =>
    if n = 0 then []
    else let k := min n (64 - a % 64); (a, k) :: stashSpan fuel (a + k) (n - k)

/-- R136, R139 cause 6: one line of a span is found; a first touch translates, and a write needs write permission. -/
def State.stashLine (s : State) (acc : BitVec 2) (a n : Nat) : Try (StashLine × State) :=
  match windowAt s.myCore.windows a with
  | none => .ok (.scratch a n, s)
  | some w =>
    if w.owner ≠ s.cx.id.slot then .error (.raise (s.flt 5 0) s)
    else
      let idx := (a - w.stash) / 64
      let va := w.va + natWord (a - w.stash)
      match (if acc = 0 then (w.filled.find? (fun e => e.1 = idx)) else none) with
      | some (_, pa) => .ok (.mem va (pa + a % 64) n, s)
      | none =>
        match s.access acc false va with
        | .error d => .error d
        | .ok (.hbm pa, s) =>
          let k := s.myCore
          let w' := { w with filled := (idx, pa / 64 * 64) :: w.filled.filter (fun e => e.1 ≠ idx) }
          .ok (.mem va pa n, s.setCore { k with windows := k.windows.map (fun x => if x.stash = w.stash then w' else x) })
        | .ok (_, s) => .error (.raise (s.flt 6 6) s)

def stashLines (acc : BitVec 2) : List (Nat × Nat) → State → Try (List StashLine × State)
  | [], s => .ok ([], s)
  | (a, n) :: ls, s =>
    match s.stashLine acc a n with
    | .error d => .error d
    | .ok (l, s) =>
      match stashLines acc ls s with
      | .error d => .error d
      | .ok (rest, s) => .ok (l :: rest, s)

/-- R45, R136: the checks of a span of n bytes at a, in the order of R453: range, other windows, translation. -/
def State.stashPlace (s : State) (acc : BitVec 2) (a n : Nat) : Try (List StashLine × State) :=
  if stashSize < a + n then .error (.raise (s.flt 5 0) s)
  else if s.myCore.windows.any (fun w => w.owner ≠ s.cx.id.slot && decide (w.stash < a + n) && decide (a < w.stash + w.len)) then
    .error (.raise (s.flt 5 0) s)
  else stashLines acc (stashSpan (n / 64 + 2) a n) s

/-- The byte of scratch at a stash address. -/
def CoreSt.scratch (k : CoreSt) (a : Nat) : Byte :=
  tget (if k.era = 0 then 0 else Config.freeByte k.era (2 ^ 50 + coreNum k.id * 2 ^ 18 + a)) k.stash a

/-- A read of scratch: poisoned words read as 0 and are consumed (R418). -/
def State.readScratch (s : State) (a n : Nat) : List Byte × State :=
  let k := s.myCore
  let bad := fun x => s.poison.contains (stashPoison k.id x)
  let bs := (List.range n).map (fun i => if bad (a + i) then 0 else k.scratch (a + i))
  if (List.range n).any (fun i => bad (a + i)) then (bs, s.ueScratch.contain 1 0 false s.cx.pc) else (bs, s)

def readStash : List StashLine → State → List Byte × State
  | [], s => ([], s)
  | .scratch a n :: ls, s =>
    let (bs, s) := s.readScratch a n
    let (rest, s) := readStash ls s
    (bs ++ rest, s)
  | .mem va pa n :: ls, s =>
    let (bs, s) := s.readPa s.winOwner va pa n
    let (rest, s) := readStash ls s
    (bs ++ rest, s)

/-- Writes the bytes of a line whose place is `some`. -/
def State.writeScratch (s : State) (a : Nat) (bs : List (Option Byte)) : State :=
  let k := s.myCore
  let put := fun (t : Tbl Byte) (e : Option Byte × Nat) => match e.1 with | some b => tput t (a + e.2) b | none => t
  let st := (bs.zip (List.range bs.length)).foldl put k.stash
  let whole := fun w => (List.range 8).all (fun i => decide (a ≤ w + i) && ((bs.getD (w + i - a) none).isSome))
  { (s.setCore { k with stash := st }) with
    poison := s.poison.filter (fun p => !(decide (2 ^ 50 ≤ p) && p = stashPoison k.id (p % 2 ^ 18) && whole (p % 2 ^ 18))) }

/-- Stores each run of adjacent bytes that are written; `va` and `pa` are those of the next byte. -/
def writeRuns : Word → Nat → List (Option Byte) → List Byte → State → State
  | va, pa, [], acc, s =>
    if acc.isEmpty then s else s.writePa s.winOwner 0 (va - natWord acc.length) (pa - acc.length) acc
  | va, pa, some b :: bs, acc, s => writeRuns (va + 1) (pa + 1) bs (acc ++ [b]) s
  | va, pa, none :: bs, acc, s =>
    writeRuns (va + 1) (pa + 1) bs []
      (if acc.isEmpty then s else s.writePa s.winOwner 0 (va - natWord acc.length) (pa - acc.length) acc)

def writeStash : List StashLine → List (Option Byte) → State → State
  | [], _, s => s
  | .scratch a n :: ls, bs, s => writeStash ls (bs.drop n) (s.writeScratch a (bs.take n))
  | .mem va pa n :: ls, bs, s => writeStash ls (bs.drop n) (writeRuns va pa (bs.take n) [] s)

/-! ## Vector operands (R131) -/

/-- R45, R453 step 1: a pointer with a reserved MODE. -/
def State.modeOk (s : State) (r : PReg) : Try Unit :=
  if pMode (s.p r) < 4 then .ok () else .error (.raise (s.flt 1 10) s)
def State.srcMode (s : State) : VSrc → Try Unit
  | .a _ => .ok ()
  | .p r => s.modeOk r

/-- The checks of a stash operand of 32 elements of width w. -/
def State.spanAt (s : State) (acc : BitVec 2) (w : Nat) (r : PReg) : Try (List StashLine × State) :=
  let a := (pointerStep (s.p r)).1.toNat
  if a % w = 0 then s.stashPlace acc a (32 * w) else .error (.raise (s.fltAt 4 0 acc (natWord a)) s)

/-- R44: the cursor moves, once for each pointer named. -/
def State.advance (s : State) (r : PReg) : State := s.setP r (pointerStep (s.p r)).2

/-- The 32 lanes of a run of elements, widened (R131). -/
def lanesOf (fmt : BitVec 4) (bs : List Byte) : Vector Lane 32 :=
  let w := stashW fmt
  Vector.ofFn (fun l : Fin 32 => widen fmt (leNat ((bs.drop (w * l.val)).take w)))

/-- A source that has passed its checks: the lanes of an accumulator, or the lines of a stash operand. -/
inductive VOpnd where
  | lanes (v : Vector Lane 32)
  | lines (ls : List StashLine)

def State.vCheck (s : State) (fmt : BitVec 4) : VSrc → Try (VOpnd × State)
  | .a r => .ok (.lanes (s.a r), s)
  | .p r => do
    let (ls, s) ← s.spanAt 0 (stashW fmt) r
    pure (.lines ls, s)
/-- The lanes of a source; `f` makes lanes of the bytes of a stash operand. -/
def State.vRead (s : State) (f : List Byte → Vector Lane 32) : VOpnd → Vector Lane 32 × State
  | .lanes v => (v, s)
  | .lines ls => let (bs, s) := readStash ls s; (f bs, s)

/-- R131: reads one source, widened by `f`. -/
def State.srcBy (s : State) (f : List Byte → Vector Lane 32) (fmt : BitVec 4) (x : VSrc) : Try (Vector Lane 32 × State) := do
  s.srcMode x
  let (o, s) ← s.vCheck fmt x
  let (v, s) := s.vRead f o
  pure (v, match x with | .p r => s.advance r | .a _ => s)
def State.src1 (s : State) (fmt : BitVec 4) (x : VSrc) : Try (Vector Lane 32 × State) := s.srcBy (lanesOf fmt) fmt x

/-- The encodings of a run of elements, unwidened (R144). -/
def rawLanes (fmt : BitVec 4) (bs : List Byte) : Vector Lane 32 :=
  let w := stashW fmt
  Vector.ofFn (fun l : Fin 32 => BitVec.ofNat 32 (leNat ((bs.drop (w * l.val)).take w)))

/-- R131: reads two sources: both are checked before either pointer moves, SA before SB; one pointer named twice moves once. -/
def State.src2 (s : State) (fmt : BitVec 4) (x y : VSrc) : Try (Vector Lane 32 × Vector Lane 32 × State) := do
  s.srcMode x
  s.srcMode y
  let (ox, s) ← s.vCheck fmt x
  let (oy, s) ← s.vCheck fmt y
  let (vx, s) := s.vRead (lanesOf fmt) ox
  let (vy, s) := s.vRead (lanesOf fmt) oy
  let s := match x with | .p r => s.advance r | .a _ => s
  let s := match y with | .p r => if x = y then s else s.advance r | .a _ => s
  pure (vx, vy, s)

end Sys2Proof.Machine
end

