-- ==== Sys2Proof/Machine/Memory.lean ====
section
/-! DEFINITION. Memory instructions (R117 to R129) and the accesses of a context to memory homed elsewhere (R123, R261). -/

namespace Sys2Proof.Machine

/-! ## The conditions of a fence (R129) -/

/-- R129: the dirty sectors that hold stores of the issuing context, or those of them homed in its cluster, are written at their
slices: those of its core, and those left on cores where its invocation ran before. -/
def State.fenceWrite (s : State) (scope : BitVec 2) : State :=
  let k := coreNum s.cx.id.coreId
  let near := fun a => homeDie a = s.cx.id.die && clusterOf (homeSlice a) = clusterOf s.cx.id.core
  s.writeBack (fun a o => (o = k || o = k + 1000 || s.cx.wrote.contains o) && (scope ≠ 1 || near a))

/-- R129: whether an operation has not performed all its reads of memory. -/
def MxOp.readsMemory (x : MxOp) : Bool := match x.kind with | .mul _ _ _ _ | .quant _ _ _ _ _ _ | .load _ _ _ _ _ => true | _ => false
def FlightRow.readsMemory (r : FlightRow) : Bool := r.stage = .send || r.stage = .asked || r.stage = .next
/-- A copy reads until every element is read: an ordered contribution as a whole (R177), bytes of another package when they come. -/
def State.copyReads (s : State) (c : Copy) : Bool :=
  (if c.det then c.whole.isNone && c.rowb * c.rows ≠ 0 else decide (c.pos < c.rowb * c.rows)) ||
    s.unacked.any (fun u => match u.p.payload with | .readReq id _ _ _ => id = c.id | _ => false)
/-- R129: the engine operations that the issuing context has issued and that have not performed all their reads. -/
def State.engReads (s : State) : List Nat :=
  let mine := fun (b : Issuer) => b.ctx = s.cx.id && b.inv = s.issuer.inv
  (s.myCore.mxq.filter (fun x => mine x.by_ && x.readsMemory)).map (fun x => x.req) ++
    (s.copies.filter (fun c => mine c.by_ && c.trig.isNone && s.copyReads c)).map (fun c => c.id) ++
    (s.rows.filter (fun r => mine r.by_ && r.readsMemory)).map (fun r => r.id)
def State.reading (s : State) : Bool := !s.engReads.isEmpty
/-- Whether one of those operations still reads. -/
def State.stillReads (s : State) (ids : List Nat) : Bool :=
  !ids.isEmpty && (s.cores.any (fun k => k.mxq.any (fun x => ids.contains x.req)) || s.copies.any (fun c => ids.contains c.id && s.copyReads c) ||
    s.rows.any (fun r => ids.contains r.id && r.readsMemory))

/-! ## Accesses to memory homed elsewhere (R123, R261) -/

/-- R123: at most 1,024 outstanding accesses in each class. -/
def postedLimit : Nat := 1024

/-- R123: whether an access of that class must hold issue. -/
def Ctx.full (c : Ctx) (host counted : Bool) : Bool := counted && decide ((if host then c.postedHost else c.postedPod) ≥ postedLimit)

/-- R261: where the access is carried: package, die and address. The die of the other package with the index of the issuing
die performs the home walk (R379). -/
def remoteTo (s : State) (va : Word) : Place → BitVec 12 × BitVec 2 × Word
  | .host n a => (n, 0, natWord a)
  | .pod p => (p, s.cx.id.die, va)
  | _ => (s.pkg, s.cx.id.die, va)
def Place.isHost : Place → Bool
  | .host _ _ => true
  | _ => false

/-- What an access carries besides its address. -/
structure RemoteOp where
  type : BitVec 8
  kind : RemKind
  counted : Bool
  sz   : BitVec 2
  opc  : BitVec 4
  opnd : Word
  swp  : Word
  ctr  : Option Word
  /-- R124: the scope of the raise of the counter named. -/
  scope : BitVec 2
  inRun : Bool
  deriving DecidableEq, Repr

/-- Sends one access to its home and lists it. -/
def State.remote (s : State) (pl : Place) (va : Word) (o : RemoteOp) : Try State :=
  if s.cx.full pl.isHost o.counted || s.mustWait (remoteTo s va pl).1 (remoteTo s va pl).2.1 then .error (.hold s)
  else
    let (pkg, die, addr) := remoteTo s va pl
    let c := s.cx
    let inv := match c.run with | some r => r.i.id | none => 0
    let ph := match c.run with | some r => r.i.ph | none => 0
    let sag : BitVec 4 := c.id.slot.setWidth 4
    let seq := tget 0 s.myCore.seq (seriesKey sag pkg die)
    let r : RemAcc :=
      { req := s.fresh, src := c.id, seq := seq, dpkg := pkg, ddie := die, host := pl.isHost, counted := o.counted, kind := o.kind,
        opc := o.opc, va := va, opnd := o.opnd, ctr := o.ctr, sys := o.scope = 2, engs := if o.ctr.isSome then s.engReads else [], sz := o.sz, poison := c.atmode, inRun := o.inRun, region := c.region,
        pctx := c.pctx, inv := inv, ph := ph }
    let q : MemReq :=
      { va := addr, sz := o.sz, opc := o.opc, opnd := o.opnd, swp := o.swp, pctx := c.pctx, user := !c.priv,
        poison := c.atmode, src := c.id, inv := inv, region := c.region, ph := ph }
    let s := if o.ctr.isSome then s.fenceWrite o.scope else s
    let s := { s with fresh := s.fresh + 1, cx := { c with rem := c.rem ++ [r] } }
    .ok (s.sendOrdered { mkPacket s o.type pkg die 255 c.id.coreId sag (.mem q) with addr := addr })

/-! ## Code homed elsewhere (log entry 15) -/

/-- What an access that may have to wait comes to, for a fetch. -/
def afterFetch (s : State) : Try State → State
  | .ok s' => s'.counted.block
  | .error _ => s.counted.block
/-- Code that is homed in another package or at a host: its doubleword is asked for once (log entry 15). -/
def State.fetchAway (s : State) (pl : Place) (va : Word) : State :=
  let a := va &&& ~~~7
  if s.cx.rem.any (fun r => r.kind = .fetch) then s.counted.block
  else afterFetch s (s.remote pl a ⟨2, .fetch, false, 3, 0, 0, 0, none, 0, true⟩)

/-! ## Raises -/

/-- Whether two counter ids name one cell. -/
def sameCell (a b : Word) : Bool := fld a 0 30 = fld b 0 30
/-- R124, R217, R271, R310: whether the raise of a counter waits for an access issued earlier: one of memory homed in the counter's
package, at `.sys` any that is counted, and one whose own raise of the same cell is to come. -/
def RemAcc.before (ctr : Word) (sys : Bool) (x : RemAcc) : Bool :=
  x.ctr.any (sameCell ctr) ||
  ((match x.kind with | .load _ _ _ => true | .store => true | .amo _ _ _ => true | .red => true | .gather => true | _ => false) &&
    ((sys && x.counted) || (!x.host && x.dpkg = ctPkg ctr)))
/-- R271: whether a raise takes effect at once: no access that it covers is outstanding, and no engine operation issued before it still
reads. The stores that it covers are written back at issue (`State.fenceWrite`). -/
def State.raiseNow (s : State) (ctr : Word) (scope : BitVec 2) : Bool := !s.cx.rem.any (RemAcc.before ctr (scope = 2)) && !s.reading
/-- A raise that waits: an entry of the list of accesses. `acc` is the kind of access for an error of the raise. -/
def State.raiseLater (s : State) (va amt ctr : Word) (scope acc : BitVec 2) : State :=
  let c := s.cx
  let r : RemAcc :=
    { req := s.fresh, src := c.id, seq := 0, dpkg := 0, ddie := 0, host := false, counted := false, kind := .count, opc := acc.setWidth 4,
      va := va, opnd := amt, ctr := some ctr, sys := scope = 2, engs := s.engReads, sz := 0, poison := false, inRun := false, region := c.region, pctx := c.pctx,
      inv := match c.run with | some x => x.i.id | none => 0, ph := match c.run with | some x => x.i.ph | none => 0 }
  { s with fresh := s.fresh + 1, cx := { c with rem := c.rem ++ [r] } }

/-- R124: the raise of a named counter, once its access is done. An id that is not valid raises a containment error, cause 8. -/
def State.raiseNamed (s : State) (va : Word) (ctr : Word) (acc : BitVec 2) : State :=
  if ctrOk s s.cx.prot ctr then s.raise ctr 1 s.cx.id.coreId (s.cx.id.slot.setWidth 4) else s.contain 8 acc false va

/-- R124, R271: the raise of a named counter is a release of its scope: stores are written back, and it waits for the accesses and
the reads that it covers. -/
def State.raiseAfter (s : State) (va : Word) (ctr : Word) (scope acc : BitVec 2) : State :=
  let s := s.fenceWrite scope
  if s.raiseNow ctr scope then s.raiseNamed va ctr acc else s.raiseLater va 1 ctr scope acc

/-- The counter id that an instruction names: 0 in CTR names none. -/
def State.ctrOf (s : State) (k : GReg) : Option Word := if k = 0 then none else some (s.g k)
def State.thenRaise (s : State) (va : Word) (k : Option Word) (scope acc : BitVec 2) : State :=
  match k with
  | some c => s.raiseAfter va c scope acc
  | none => s

/-! ## Loads and stores -/

/-- R119: a value of n bytes extended to 64 bits. -/
def extend (sz : BitVec 2) (sx : Bool) (v : Word) : Word :=
  if sx then sextLow (8 * szBytes sz) v else zextLow (8 * szBytes sz) v

/-- R119: a load by the issuing context. -/
def ldBody (gd ga : GReg) (mo : MemOff) (sz : BitVec 2) (sx : Bool) (s : State) : Try Done := do
  let va := s.ea ga mo sz
  let n := szBytes sz
  s.aligned 0 n va
  let (pl, s) ← s.access 0 (sz = 3) va
  match pl with
  | .hbm pa =>
    let (bs, s) := s.readPa s.l1 va pa n
    pure (.fall (s.laterG gd (extend sz sx (wordOf bs))))
  | .dev pa => pure (.fall (s.laterG gd (s.readReg pa)))
  | pl => do
    let s ← s.remote pl va ⟨2, .load gd sz sx, false, sz, 0, 0, 0, none, 0, true⟩
    pure (.fall s)

/-- R119. -/
def execLd (m : Mods) (gd ga : GReg) (mo : MemOff) (sz : BitVec 2) (sx : Bool) (s : State) : Out :=
  issue m mo.len .plain s (fun s => Try.done (ldBody gd ga mo sz sx s))

/-- The low bytes of a register. -/
def lowBytes (sz : BitVec 2) (v : Word) : List Byte := leBytes (szBytes sz) v.toNat

/-- R120, R124: a store by the issuing context. -/
def stBody (ga : GReg) (mo : MemOff) (gc : GReg) (sz : BitVec 2) (ctr : GReg) (s : State) : Try Done := do
  let va := s.ea ga mo sz
  let v := s.g gc
  let k := s.ctrOf ctr
  s.aligned 1 (szBytes sz) va
  let (pl, s) ← s.access 1 (sz = 3) va
  match pl with
  | .hbm pa => pure (.fall ((s.writePa s.l1 sz va pa (lowBytes sz v)).thenRaise va k 0 1))
  | .dev pa => pure (.fall ((s.due (.registerWrite pa v)).thenRaise va k 0 1))
  | pl => do
    let s ← s.remote pl va ⟨3, .store, true, sz, 0, v, 0, k, 0, false⟩
    pure (.fall s)

/-- R120. -/
def execSt (m : Mods) (ga : GReg) (mo : MemOff) (gc : GReg) (sz : BitVec 2) (ctr : GReg) (s : State) : Out :=
  issue m mo.len .plain s (fun s => Try.done (stBody ga mo gc sz ctr s))

/-! ## The read-only path (R121, R266, R267) -/

/-- R266: cached bytes of the read-only cache that the issuing context may read: those not older than its start and its last
resumption. -/
def State.roFind (s : State) (va : Word) (n : Nat) : Option RoLine :=
  s.myCore.ro.find? (fun l => l.pctx = s.cx.pctx && l.slots.contains s.cx.id.slot && decide (l.va ≤ va.toNat) &&
    decide (va.toNat + n ≤ l.va + l.bytes.length))
/-- The read-only cache takes up bytes; older ones that they cover are dropped. -/
def CoreSt.roAdd (k : CoreSt) (l : RoLine) : CoreSt :=
  { k with ro := l :: k.ro.filter (fun x => !(x.pctx = l.pctx && decide (x.va < l.va + l.bytes.length) && decide (l.va < x.va + x.bytes.length))) }
/-- A fill of a sector from the home copy, which sees no store held in an L1. Poisoned words keep their marks (R416). -/
def State.roFill (s : State) (va : Word) (pa : Nat) : RoLine × State :=
  let base := pa / 64 * 64
  let at_ := va.toNat / 64 * 64
  let l : RoLine :=
    { slots := [0, 1, 2, 3], pctx := s.cx.pctx, va := at_, bytes := s.homeBytes s.cx.prot.keyslot base 64,
      bad := (s.homePoison.filter (fun w => decide (base ≤ w) && decide (w < base + 64))).map (fun w => at_ + (w - base)) }
  (l, s.setCore (s.myCore.roAdd l))

/-- R418 cause 1: the bytes that an LDRO receives, and the first poisoned word among them. -/
def RoLine.take (l : RoLine) (va n : Nat) : List Byte × Option Nat :=
  let hit := fun (a : Nat) => l.bad.contains (a / 8 * 8)
  ((List.range n).map (fun i => if hit (va + i) then 0 else l.bytes.getD (va + i - l.va) 0),
   ((List.range n).find? (fun i => hit (va + i))).map (fun i => (va + i) / 8 * 8))
/-- R266: an LDRO may return what is cached, or the home copy of now: which is the device's choice. -/
def State.roRead (s : State) (va : Word) (pa n : Nat) : List Byte × State :=
  let (l, s) := match (if Config.choice s.issued 2 = 0 then none else s.roFind va n) with
    | some l => (l, s)
    | none => s.roFill va pa
  let (bs, bad) := l.take va.toNat n
  match bad with
  | some w => (bs, (s.ueRecord (pa / 8 * 8)).contain 1 0 false (natWord w))
  | none => (bs, s)
/-- R250, R266: memory homed elsewhere, where the read-only cache holds it and the device uses that. -/
def State.roAway (s : State) (va : Word) (n : Nat) : Option (List Byte) :=
  (if Config.choice s.issued 2 = 0 then none else s.roFind va n).map (fun l => (l.take va.toNat n).1)

def ldroBody (gd ga : GReg) (mo : MemOff) (sz : BitVec 2) (sx : Bool) (s : State) : Try Done := do
  let va := s.ea ga mo sz
  let n := szBytes sz
  s.aligned 0 n va
  let (pl, s) ← s.access 0 false va
  match pl with
  | .hbm pa =>
    let (bs, s) := s.roRead va pa n
    pure (.fall (s.laterG gd (extend sz sx (wordOf bs))))
  | .dev _ => .error (.raise (s.fltAt 12 5 0 va) s)
  | pl => match s.roAway va n with
    | some bs => pure (.fall (s.laterG gd (extend sz sx (wordOf bs))))
    | none => do
      let s ← s.remote pl va ⟨2, .ldro gd sz sx, false, sz, 0, 0, 0, none, 0, true⟩
      pure (.fall s)

/-- R121. -/
def execLdro (m : Mods) (gd ga : GReg) (mo : MemOff) (sz : BitVec 2) (sx : Bool) (s : State) : Out :=
  issue m mo.len .plain s (fun s => Try.done (ldroBody gd ga mo sz sx s))

/-- R121: the read-only cache of the core is empty. -/
def State.roClear (s : State) : State := let k := s.myCore; s.setCore { k with ro := [] }
/-- R121. -/
def execRoinv (m : Mods) (s : State) : Out := issue m 8 .plain s (fun s => .fall s.roClear)

/-- R122, R274: a prefetch takes a copy under a read lease, which no access can tell (R275); the device may drop it. -/
def execPref (m : Mods) (ga : GReg) (mo : MemOff) (s : State) : Out :=
  issue m mo.len .plain s (fun s => .fall (let _ := s.ea ga mo 0; s))

/-! ## Atomics (R125 to R128) -/

/-- R125: an operation of AMO or RED on 64-bit registers; the result has n = 8 × size bits. -/
def atomic (opc : BitVec 4) (sz : BitVec 2) (old b c : Word) : Bool × Word :=
  let f := fun (add : Bool) x y => if add then f32Add .rne x y else f32Max x y
  if sz = 3 then amoNew (fun o => intOp o 64) f opc old b c
  else if sz = 2 then
    let r := amoNew (fun o => intOp o 32) f opc (old.setWidth 32) (b.setWidth 32) (c.setWidth 32)
    (r.1, r.2.setWidth 64)
  else if sz = 1 then
    let r := amoNew (fun o => intOp o 16) f opc (old.setWidth 16) (b.setWidth 16) (c.setWidth 16)
    (r.1, r.2.setWidth 64)
  else
    let r := amoNew (fun o => intOp o 8) f opc (old.setWidth 8) (b.setWidth 8) (c.setWidth 8)
    (r.1, r.2.setWidth 64)

/-- An error log record of the issuing context (R422, R423). -/
def State.logOwn (s : State) (type code : BitVec 8) (sz : BitVec 2) (va opnd : Word) : State :=
  let ph := match s.cx.run with | some r => r.i.ph | none => 0
  s.postElog s.cx.prot s.cx.pctx s.cx.region
    (errRec type code sz s.pkg s.cx.id.coreId (s.cx.id.slot.setWidth 4) va opnd ph)

/-- R126: the atomic on HBM of the package, where the word is not poisoned: old value, whether it wrote, the new state. -/
def State.amoPa (s : State) (opc : BitVec 4) (sz : BitVec 2) (va : Word) (pa : Nat) (b c : Word) : Word × Bool × State :=
  let s := s.recallRange s.l1 pa (szBytes sz)
  let old := wordOf (s.bytes s.cx.prot.keyslot pa (szBytes sz))
  let (ok, new) := atomic opc sz old b c
  (old, ok, if ok then s.writePa s.l1 sz va pa (lowBytes sz new) else s)

/-- R126, R128: AMO. -/
def amoBody (gd ga gb gc : GReg) (opc : BitVec 4) (sz : BitVec 2) (qs : QReg) (ctr : GReg) (scope : BitVec 2) (s : State) :
    Try Done := do
  let va := s.g ga
  let b := s.g gb
  let c := s.g gc
  let k := s.ctrOf ctr
  s.aligned 3 (szBytes sz) va
  let (pl, s) ← s.access 3 false va
  match pl with
  | .hbm pa =>
    match s.badWord pa (szBytes sz) with
    | some w =>
      let s :=
        if s.cx.atmode then
          ((s.laterG gd (wordOf (s.bytes s.cx.prot.keyslot pa (szBytes sz)))).laterQ qs false).logOwn 18 (opc.setWidth 8) sz va b
        else (s.ueRecord w).contain 6 3 false (va + intWord (w - pa))
      pure (.fall (s.thenRaise va k scope 3))
    | none =>
      let (old, ok, s) := s.amoPa opc sz va pa b c
      pure (.fall (((s.laterG gd old).laterQ qs ok).thenRaise va k scope 3))
  | .dev _ => .error (.raise (s.fltAt 12 5 3 va) s)
  | pl => do
    let s ← s.remote pl va ⟨4, .amo gd qs sz, true, sz, opc, b, c, k, scope, true⟩
    pure (.fall s)

/-- R126. -/
def execAmo (m : Mods) (gd ga gb gc : GReg) (opc : BitVec 4) (sz : BitVec 2) (qs : QReg) (ctr : GReg) (scope : BitVec 2)
    (s : State) : Out :=
  issue m 8 .plain s (fun s => Try.done (amoBody gd ga gb gc opc sz qs ctr scope s))

/-- R127, R128: RED. -/
def redBody (ga gb : GReg) (opc : BitVec 4) (sz : BitVec 2) (ctr : GReg) (scope : BitVec 2) (s : State) : Try Done := do
  let va := s.g ga
  let b := s.g gb
  let k := s.ctrOf ctr
  s.aligned 3 (szBytes sz) va
  let (pl, s) ← s.access 3 false va
  match pl with
  | .hbm pa =>
    match s.badWord pa (szBytes sz) with
    | some _ =>
      let s :=
        if s.cx.atmode then s.logOwn 18 (opc.setWidth 8) sz va b
        else let s := s.logOwn 16 (opc.setWidth 8) sz va b; { s with cx := { s.cx with alog := true } }
      pure (.fall (s.thenRaise va k scope 3))
    | none =>
      let (_, _, s) := s.amoPa opc sz va pa b 0
      pure (.fall (s.thenRaise va k scope 3))
  | .dev _ => .error (.raise (s.fltAt 12 5 3 va) s)
  | pl => do
    let s ← s.remote pl va ⟨5, .red, true, sz, opc, b, 0, k, scope, false⟩
    pure (.fall s)

/-- R127. -/
def execRed (m : Mods) (ga gb : GReg) (opc : BitVec 4) (sz : BitVec 2) (ctr : GReg) (scope : BitVec 2) (s : State) : Out :=
  issue m 8 .plain s (fun s => Try.done (redBody ga gb opc sz ctr scope s))

/-! ## FENCE (R129) -/

/-- Parks the context at its switch point until it is tried again; in a gang the leader holds issue instead. -/
def State.tryLater (s : State) : State := if s.cx.inGang then s else { s with cx := { s.cx with status := .ready } }

/-- R129. -/
def fenceBody (scope : BitVec 2) (s : State) : Done :=
  let s := s.fenceWrite scope
  if s.reading then .hold s.tryLater
  else if scope = 2 && s.cx.owes 3 then .hold { s with cx := { s.cx with status := .posted true true } }
  else if s.cx.alog then .raise (s.flt 16 0) { s with cx := { s.cx with alog := false } }
  else .fall s

/-- R129. -/
def execFence (m : Mods) (scope : BitVec 2) (s : State) : Out := issue m 8 .wait s (fenceBody scope)

end Sys2Proof.Machine
end

