-- ==== Sys2Proof/Machine/Control.lean ====
section
/-! DEFINITION. Control transfer, REP, run control, traps, the supervisor, special registers, gangs (R40 to R42, R55, R56, R59
to R61, R107 to R116, R153, R154, R371, R372). -/

namespace Sys2Proof.Machine

/-! ## Transfers (R107 to R109) -/

/-- R107: the offset in words, sign-extended. -/
def brWords : BrOff → Word
  | .short o => o.signExtend 64
  | .long o => o.signExtend 64
def brLen : BrOff → Nat
  | .short _ => 8
  | .long _ => 12
/-- R107: the target. -/
def State.brTarget (s : State) (off : BrOff) : Word := s.cx.pc + 4 * brWords off

/-- R109: a transfer to an address that is not a multiple of 4 raises Misaligned Fetch and writes no link. -/
def transfer (s : State) (gd : GReg) (target : Word) (len : Nat) : Done :=
  if fld target 0 2 ≠ 0 then .raise { s.flt 3 0 with acc := 2 } s
  else .jump target (s.setG gd (s.cx.pc + natWord len))

/-- R107. -/
def execBr (m : Mods) (off : BrOff) (s : State) : Out :=
  issue m (brLen off) .transfer s (fun s => transfer s 0 (s.brTarget off) (brLen off))
/-- R107: the link is the address of the next instruction. -/
def execCall (m : Mods) (gd : GReg) (off : BrOff) (s : State) : Out :=
  issue m (brLen off) .transfer s (fun s => transfer s gd (s.brTarget off) (brLen off))
/-- R108: ga is read before the link is written; in a gang it is the leader's. -/
def execJmp (m : Mods) (gd ga : GReg) (s : State) : Out :=
  issue m 8 .transfer s (fun x => transfer x gd (s.g ga) 8)
/-- R108. -/
def execRet (m : Mods) (ga : GReg) (s : State) : Out :=
  issue m 8 .transfer s (fun x => transfer x 0 (s.g ga) 8)

/-! ## REP (R55, R56, R110) -/

/-- What reading four bytes of code comes to. -/
inductive CodeHalf where
  | word (w : Nat)
  | fault (f : FaultRec)
  | walk
  | poison (pa : Nat)
  | away (pl : Place)
  deriving DecidableEq, Repr

/-- Four bytes of code at an address, read as fetch reads them. -/
def State.codeHalf (s : State) (va : Word) : CodeHalf :=
  match (s.xlate s.cx.id.coreId s.cx.pctx s.cx.prot.keyslot (!s.cx.priv) false 2 va).1 with
  | .miss => .walk
  | .fault c k => .fault (s.fltAt c k 2 va)
  | .ok (.hbm pa) _ => match s.badWord pa 4 with
    | some p => .poison p
    | none => .word (leNat (s.bytes s.cx.prot.keyslot pa 4))
  | .ok (.dev _) _ => .fault (s.fltAt 12 5 2 va)
  | .ok pl _ => match s.cached va with
    | some bs => .word (leNat (bs.take 4))
    | none => .away pl

/-- The general registers that a body word of an opcode names as destinations: the slots that the entry of the opcode writes. DST of
CPY, CPY2D, DISP and MXQ holds a source; TWAIT, TTEST, PHWAIT and PHAW write SC (log entry 94). -/
def writesDst (op : Nat) : Bool := op ≠ 0xB2 && op ≠ 0xC0 && op ≠ 0xC1 && op ≠ 0xC4
def writesSc (op : Nat) : Bool := op = 0xC2 || op = 0xC3 || op = 0xE3 || op = 0xE4
/-- R56: whether a word may not stand in a REP body with that count register. -/
def repBad (gn : GReg) (w : Nat) : Bool :=
  let op := w / 512 % 256
  w % 4 ≠ 0 || (decide (0x40 ≤ op) && decide (op ≤ 0x4A)) || op = 0x4F ||
    (gn ≠ 0 && ((writesDst op && w / 2 ^ 17 % 64 = gn.toNat) || (writesSc op && w / 2 ^ 35 % 64 = gn.toNat)))

/-- What stops a REP before it issues. -/
inductive RepStop where
  | illegal
  | fault (f : FaultRec)
  | walk (va : Word)
  | poison (va : Word) (pa : Nat)
  | away (va : Word) (pl : Place)
  deriving DecidableEq, Repr

/-- The structural check of one body word. A word that cannot be read stops the REP as its own fetch would stop it (log entry 94). -/
def State.repWord (s : State) (gn : GReg) (va : Word) : Option RepStop :=
  let stop := fun (va : Word) (h : CodeHalf) => match h with
    | .word _ => none
    | .fault f => some (RepStop.fault f)
    | .walk => some (.walk va)
    | .poison pa => some (.poison va pa)
    | .away pl => some (.away va pl)
  match s.codeHalf va, s.codeHalf (va + 4) with
  | .word lo, .word hi => if repBad gn (lo + 2 ^ 32 * hi) then some .illegal else none
  | .word lo, hi => if lo % 4 ≠ 0 then some .illegal else stop (va + 4) hi
  | lo, _ => stop va lo

/-- R56, R75 step 10, R154: the structural check of REP, made whether or not the guard is true. -/
def State.repCheck (s : State) (gn : GReg) (len : BitVec 4) : Option RepStop :=
  (List.range len.toNat).findSome? (fun k => s.repWord gn (s.cx.pc + natWord (8 + 8 * k)))
/-- What a REP that is stopped comes to. -/
def State.repStopped (s : State) : RepStop → State
  | .illegal => s.recordFault (s.flt 1 8)
  | .fault f => s.recordFault f
  | .walk va => { s.counted with cx := { s.cx with status := .walking va 2 } }
  | .poison va pa => s.codePoison va pa
  | .away va pl => s.fetchAway pl va

/-- R55: the address after the body. -/
def State.afterBody (s : State) (len : BitVec 4) : Word := s.cx.pc + natWord (8 + 8 * len.toNat)
/-- R55: the replay begins. -/
def State.repStart (s : State) (gn : GReg) (len : BitVec 4) (stride : BitVec 3) : State :=
  { s with cx := { s.cx with
      rep := { act := true, pos := 0, off := 0, body := s.cx.pc + 8, len := len.toNat, stride := stride, gn := gn } } }

/-- R55: a count of 0 skips the body; R59: the count is the leader's. A guarded-off REP skips its body (R66). -/
def execRep (m : Mods) (gn : GReg) (len : BitVec 4) (stride : BitVec 3) (s : State) : Out :=
  match s.repCheck gn len with
  | some x => .next (s.repStopped x)
  | none =>
    issueWith m 8 .transfer
      (fun x => if s.g gn = 0 then .jump (x.afterBody len) x else .jump (x.cx.pc + 8) (x.repStart gn len stride))
      (fun x => .jump (x.afterBody len) x) s

/-! ## Run control -/

/-- R111: the run ends, and the next one goes to another ready context. -/
def execYield (m : Mods) (s : State) : Out :=
  issue m 8 .ending s (fun s => .fall { s with cx := { s.cx with yielded := true } })

/-- R112 step 1: every token has left BUSY; R428: the core's list has room for the resolution. -/
def Ctx.quiet (c : Ctx) : Bool := c.t.all (fun t => t.st ≠ .busy)
def State.canHalt (s : State) : Bool := s.cx.quiet && decide (s.myCore.unconf.length < 32768)

/-- R112 steps 2 to 5 for one context: only the last former member resolves the promise (R60). -/
def State.endHalt (s : State) : State :=
  if s.othersRun then s.endInv none else s.noteUnconfirmed.endInv (some (.value []))

/-- R112: goes on with a HALT that has issued. In an undissolved gang every member ends with the leader. -/
def State.haltOn (s : State) : State :=
  if s.cx.inGang then
    let ids := s.cx.gangIds
    if ids.all (fun id => (s.focus id).canHalt) then s.each ids State.endHalt else s
  else if s.canHalt then s.endHalt else s

/-- R424: a HALT issued while ALOG is 1 takes the Atomic Error fault. -/
def State.atomicFault (s : State) : Done :=
  .raise (s.flt 16 0) { s with cx := { s.cx with alog := false } }

def haltBody (s : State) : Done :=
  if s.cx.alog then s.atomicFault
  else
    let s := s.commitRun
    .gone ({ s with cx := { s.cx with status := .halting } }).haltOn

/-- R59, R112: the leader's HALT ends every member of an undissolved gang. -/
def haltGang (m : Mods) (s : State) : Out :=
  let ids := s.cx.gangIds
  if !s.guard m then issueGang m 8 ⟨false, false, false, true⟩ .fall .fall s
  else match s.beforeGang m ⟨false, true, true, true⟩ with
  | some s => .next s
  | none =>
    if ids.any (fun id => (s.ctx id).alog) then
      .next ((s.each ids (fun s => { s with cx := { s.cx with alog := false } })).recordFault (s.flt 16 0))
    else .next (s.each ids (fun s => let s := s.commitRun; { s with cx := { s.cx with status := .halting } })).haltOn.counted

/-- R112. -/
def execHalt (m : Mods) (s : State) : Out :=
  if s.cx.inGang then haltGang m s else issue m 8 .acting s haltBody

/-- R113: an unrecoverable fault of class Trap. -/
def execTrap (m : Mods) (code : BitVec 16) (s : State) : Out :=
  issue m 8 .acting s (fun s => .raise (s.flt 13 code) s)

/-- R113: debug halt with the program counter at the BRK, or a fault of class Breakpoint. -/
def execBrk (m : Mods) (code : BitVec 16) (s : State) : Out :=
  issue m 8 .acting s (fun s =>
    if s.cx.dbgen then
      let s := s.commitRun
      .gone ({ s with cx := { s.cx with firm := none, status := .debug code s.cx.pc true } }.due .switchPoint)
    else .raise (s.flt 14 code) s)

/-! ## The supervisor (R61, R71, R114, R372) -/

/-- R71: supervisor-only opcodes raise Privileged Instruction at user level, whether or not the guard is true. -/
def State.needsSuper (s : State) : Option FaultRec := if s.cx.priv then none else some (s.flt 2 0)

/-- R114, R372: the return target is checked by R109. In an undissolved gang the guard and the target are the leader's, as for the
transfers of R59; SYSC is guarded by each member and enters at the entry of their protection context (log entry 95). -/
def execEret (m : Mods) (s : State) : Out :=
  checkedIssue s.needsSuper m 8 .transfer s (fun s =>
    if fld s.cx.sepc 0 2 ≠ 0 then .raise { s.flt 3 0 with acc := 2 } s
    else .jump s.returnFrom.cx.pc s.returnFrom)

/-- R372: the state saved by SYSC, and the supervisor level. -/
def State.enterSuper (s : State) (n : BitVec 16) : State :=
  { s with cx := { s.cx with sepc := s.cx.pc + 8, spriv := s.cx.priv, snum := n, priv := true } }

/-- R114, R372: an entry address of 0 takes a fault of class Trap in place of entering. -/
def execSysc (m : Mods) (n : BitVec 16) (s : State) : Out :=
  issue m 8 .acting s (fun s =>
    if s.cx.prot.sventry = 0 then .raise (s.flt 13 n) s
    else .jump s.cx.prot.sventry (s.enterSuper n))

/-! ## Special registers (R40 to R42, R115, R371) -/

/-- R42: STATUS. -/
def Ctx.statusWord (c : Ctx) : Word :=
  0#53 ++ boolBit c.alog ++ boolBit c.late ++ c.rep.off ++ c.rep.pos ++ boolBit c.rep.act ++ boolBit c.inGang ++ boolBit c.priv
/-- R42: GIDX keeps its value after the gang dissolves. -/
def Ctx.gidxWord (c : Ctx) : Word := 0#59 ++ (match c.gang with | some g => g.size | none => (0 : BitVec 2)) ++ c.gidx
/-- R42: COREID. -/
def State.coreIdWord (s : State) : Word := 0#42 ++ s.pkg ++ s.cx.id.die ++ s.cx.id.core

/-- R40, R371: the value of a special register; none for an unassigned number. -/
def State.spr (s : State) (n : BitVec 12) : Option Word :=
  let c := s.cx
  let st := (s.die c.id.die).stats
  if n = 0x000 then some s.time else if n = 0x001 then some (c.id.slot.setWidth 64)
  else if n = 0x002 then some s.coreIdWord else if n = 0x003 then some c.gidxWord
  else if n = 0x010 then some c.seed else if n = 0x011 then some c.lnum
  else if n = 0x020 then some c.fltva else if n = 0x021 then some c.fltinfo
  else if n = 0x030 then some c.region else if n = 0x031 then some (c.deadline.setWidth 64)
  else if n = 0x032 then some (c.prio.setWidth 64) else if n = 0x040 then some (c.rmode.setWidth 64)
  else if n = 0x041 then some (bit c.atmode) else if n = 0x042 then some c.statusWord
  else if n = 0x800 then some c.sepc else if n = 0x801 then some (0#32 ++ c.snum ++ 0#15 ++ boolBit c.spriv)
  else if n = 0x802 then some c.sscr else if n = 0x810 then some (c.pctx.setWidth 64)
  else if n = 0x811 then some (c.pceil.setWidth 64) else if n = 0x812 then some (bit c.dbgen)
  else if n = 0x820 then some s.regs.ctxtab else if n = 0x821 then some s.regs.wqtab
  else if n = 0x822 then some s.regs.grptab else if n = 0x823 then some (s.regs.grplen.setWidth 64)
  else if n = 0x830 then some st.codedpkt else if n = 0x831 then some st.codedcmp
  else if n = 0x832 then some st.decfault else if n = 0x833 then some st.fallback
  else if n = 0x834 then some st.sievict else if n = 0x835 then some st.codecsave
  else if n = 0x836 then some st.malformed
  else none

/-- R40, R371: the registers that MTS writes. -/
def sprWritable (n : BitVec 12) : Bool :=
  n = 0x010 || n = 0x011 || n = 0x031 || n = 0x040 || n = 0x041 || n = 0x800 || n = 0x801 || n = 0x802 || n = 0x812

/-- R75 step 11. -/
def State.sprCheck (s : State) (n : BitVec 12) (write : Bool) : Option FaultRec :=
  if decide (0x800 ≤ n.toNat) && !s.cx.priv then some (s.flt 2 0)
  else if (s.spr n).isNone || (write && !sprWritable n) then some (s.flt 1 9)
  else none

/-- R33: the generator state starts afresh. -/
def Ctx.reseed (c : Ctx) : Ctx := { c with gen := genInit c.seed c.lnum (if c.gang.isSome then c.gidx else 0) }

/-- R17, R41, R115: a write of a special register; fields marked RO are ignored. -/
def State.setSpr (s : State) (n : BitVec 12) (v : Word) : State :=
  let c := s.cx
  { s with cx :=
      if n = 0x010 then { c with seed := v }.reseed
      else if n = 0x011 then { c with lnum := v }.reseed
      else if n = 0x031 then { c with deadline := fld v 0 48 }
      else if n = 0x040 then { c with rmode := if fld v 0 3 ≤ 4 then fld v 0 3 else 0 }
      else if n = 0x041 then { c with atmode := v.getLsbD 0 }
      else if n = 0x800 then { c with sepc := v }
      else if n = 0x801 then { c with spriv := v.getLsbD 0, snum := fld v 16 16 }
      else if n = 0x802 then { c with sscr := v }
      else if n = 0x812 then { c with dbgen := v.getLsbD 0 }
      else c }

/-- R115. -/
def execMfs (m : Mods) (gd : GReg) (spr : BitVec 12) (s : State) : Out :=
  checkedIssue (s.sprCheck spr false) m 8 .plain s (fun s => .fall (s.setG gd ((s.spr spr).getD 0)))
/-- R115. -/
def execMts (m : Mods) (ga : GReg) (spr : BitVec 12) (s : State) : Out :=
  checkedIssue (s.sprCheck spr true) m 8 .plain s (fun s => .fall (s.setSpr spr (s.g ga)))

/-- R116: removes translations from the core's and the cluster's TLB. -/
def State.atinv (s : State) (mode : BitVec 2) (va : Word) : State :=
  s.tlbDrop s.cx.id.coreId (fun e =>
    if mode = 0 then tlbHit s.cx.pctx va e else if mode = 1 then e.pctx = s.cx.pctx else true)
/-- R116. -/
def execAtinv (m : Mods) (ga : GReg) (mode : BitVec 2) (s : State) : Out :=
  checkedIssue s.needsSuper m 8 .plain s (fun s => .fall (s.atinv mode (s.g ga)))

/-! ## Gangs (R153, R154) -/

/-- R153: the contributions: position and predicate; a member guarded off contributes false. -/
def State.votes (s : State) (m : Mods) (qa : QReg) : List (Nat × Bool) :=
  s.cx.gangIds.map (fun id => let x := s.focus id; (x.cx.gidx.toNat, x.guard m && x.q qa))
/-- R153: BALLOT: bit IDX holds the contribution of member IDX, also outside a gang, where GIDX keeps its value (log entry 96). -/
def ballot (vs : List (Nat × Bool)) : Word :=
  vs.foldl (fun w v => if v.2 then w ||| (1 <<< v.1) else w) 0

/-- R153: every member whose guard is true receives the same result. -/
def execGvote (m : Mods) (d : VoteDst) (qa : QReg) (s : State) : Out :=
  let vs := s.votes m qa
  issue m 8 .plain s (fun s => .fall (match d with
    | .any q => s.laterQ q (vs.any (fun v => v.2))
    | .all q => s.laterQ q (vs.all (fun v => v.2))
    | .ballot g => s.laterG g (ballot vs)))

/-- R154: a member takes part in a GSPLIT: its gang dissolves at the switch point (`State.passGang`). -/
def State.markSplit (s : State) : State :=
  { s with cx := { s.cx with gang := s.cx.gang.map (fun g => { g with split := g.split || g.whole }) } }

/-- R154: GSPLIT ends the run of an undissolved gang; its guard is the leader's. Outside a gang it has no effect. -/
def execGsplit (m : Mods) (s : State) : Out :=
  issue m 8 ⟨false, s.cx.inGang, false, true⟩ s (fun x => .fall x.markSplit)

end Sys2Proof.Machine
end

