-- ==== Sys2Proof/Machine/Engine.lean ====
section
/-! DEFINITION. What the engines share: issuers, tokens (R39, R173), errors of engine operations (R417 to R419). -/

namespace Sys2Proof.Machine

/-- The identity of the invocation that a context runs. -/
def Ctx.invId (c : Ctx) : Nat := match c.run with | some r => r.i.id | none => 0
def Ctx.phOf (c : Ctx) : Word := match c.run with | some r => r.i.ph | none => 0

/-- Whether a context runs the invocation that issued an operation. -/
def Issuer.isRun (b : Issuer) (c : Ctx) : Bool := c.id = b.ctx && c.invId = b.inv && c.status ≠ .free

/-- Changes the issuing context, on its task context or in its frame. -/
def State.onIssuer (s : State) (b : Issuer) (f : Ctx → Ctx) : State :=
  if b.isRun (s.ctx b.ctx) then s.setCtx (f (s.ctx b.ctx))
  else { s with invs := s.invs.map (fun r =>
    if r.i.id = b.inv then { r with frame := r.frame.map (fun c => if c.id = b.ctx then f c else c) } else r) }
/-- Whether the invocation that issued an operation still runs, or waits in a frame. -/
def State.alive (s : State) (b : Issuer) : Bool :=
  b.isRun (s.ctx b.ctx) || s.invs.any (fun r => r.i.id = b.inv && r.frame.any (fun c => c.id = b.ctx))

/-- R268: the accesses that the issuing context made before an operation precede those of its thread: none of them is outstanding. -/
def State.forked (s : State) (b : Issuer) : Bool := b.fork.isEmpty || s.rems.all (fun r => !b.fork.contains r.req)

def Ctx.setTok (c : Ctx) (t : Tok) (x : Token) : Ctx := { c with t := c.t.set t.toFin x }

/-- R39: the issue of an engine operation sets its token to BUSY. -/
def State.tokBusy (s : State) (tok : Option Tok) : State :=
  match tok with
  | some t => { s with cx := s.cx.setTok t ⟨.busy, 0⟩ }
  | none => s
/-- R54: the named token is BUSY. -/
def State.tokIsBusy (s : State) (tok : Option Tok) : Bool :=
  match tok with
  | some t => s.cx.t[t.toFin].st = .busy
  | none => false

/-- R173: the error record. -/
def errorRecord (cause : BitVec 8) (tok : Tok) (prog : Nat) : Word := 0#8 ++ BitVec.ofNat 40 prog ++ 0#5 ++ tok ++ cause

/-- R175: the token of an operation that completed is DONE. -/
def State.tokDone (s : State) (b : Issuer) (tok : Option Tok) : State :=
  match tok with
  | some t => s.onIssuer b (fun c => c.setTok t ⟨.done, 0⟩)
  | none => s

/-- R419: a containment or delivery error of an engine operation is pending against the invocation that issued it. -/
def State.containEng (s : State) (b : Issuer) (cause : BitVec 16) (acc : BitVec 2) (va : Word) : State :=
  s.onIssuer b (fun c =>
    { c with errs := c.errs ++ [⟨17, cause, acc, false, true, c.priv, va⟩] })

/-- R423 TYPE 19: an operation ends in error with no running issuer. -/
def State.logEng (s : State) (b : Issuer) (cause : BitVec 8) (addr : Word) (prog : Nat) : State :=
  s.postElog b.prot b.pctx b.region (errRec 19 cause 0 s.pkg b.ctx.coreId 5 addr (natWord prog) b.ph)

/-- R173, R419: an operation of an instruction ends in error. `addr` is its destination. -/
def State.engFail (s : State) (b : Issuer) (tok : Option Tok) (cause : BitVec 8) (prog : Nat) (addr : Word) : State :=
  if s.alive b then
    match tok with
    | some t => s.onIssuer b (fun c => c.setTok t ⟨.fault, errorRecord cause t prog⟩)
    | none => s
  else s.logEng b cause addr prog

/-- R421: the TYPE 17 records of an engine write that covers part of poisoned words. -/
def State.engMerges (s : State) (b : Issuer) (va : Word) (pa : Nat) (bs : List Byte) : State :=
  let part := s.poison.filter (fun w => decide (w + 8 > pa) && decide (w < pa + bs.length) &&
    !(decide (pa ≤ w) && decide (w + 8 ≤ pa + bs.length)))
  part.foldl (fun s w =>
    let word := (List.range 8).map (fun k => if pa ≤ w + k ∧ w + k < pa + bs.length then bs.getD (w + k - pa) 0 else 0)
    s.postElog b.prot b.pctx b.region (errRec 17 0 3 s.pkg b.ctx.coreId 5 (va + intWord (w - pa)) (wordOf word) b.ph)) s

/-- An engine write at home, with what it sets off. -/
def State.engPut (s : State) (b : Issuer) (va : Word) (pa : Nat) (bs : List Byte) : State :=
  let merges := s.overPoison pa bs.length
  let s := s.putHome b.prot.keyslot pa bs
  (if merges then s.engMerges b va pa bs else s).noteStore

/-- R417 to R419: an operation of an instruction has met a poisoned word. -/
def State.engPoison (s : State) (b : Issuer) (w : BadWord) : State := (s.ueWord b.ctx.coreId w).containEng b w.cause w.acc w.va

/-! ## Bytes read at issue, wherever they are homed -/

/-- A place n bytes further on. -/
def Place.shift (pl : Place) (n : Int) : Place :=
  match pl with
  | .host p a => .host p (a + n).toNat
  | x => x
/-- The doublewords that n bytes lie in. -/
def dwordsOf (va : Word) (n : Nat) : List Nat := (List.range ((va.toNat % 8 + n + 7) / 8)).map (fun k => k + va.toNat / 8)

/-- Asks for doublewords of memory homed elsewhere, as remote loads. -/
def askDwords (pl : Place) (va : Word) : List Nat → State → Try State
  | [], s => .ok s
  | k :: ks, s =>
    if s.cx.rem.any (fun r => r.kind = .gather && r.va = natWord (8 * k)) then askDwords pl va ks s
    else
      match s.remote (pl.shift ((8 * k : Nat) - va.toNat)) (natWord (8 * k)) ⟨2, .gather, false, 3, 0, 0, 0, none, 0, false⟩ with
      | .ok s => askDwords pl va ks s
      | .error d => .error d

/-- Bytes of memory homed elsewhere: issue holds until every doubleword has come. -/
def State.gatherAway (s : State) (pl : Place) (va : Word) (n : Nat) : Try (List Byte × State) :=
  let ks := dwordsOf va n
  let miss := ks.filter (fun k => !s.cx.got.any (fun e => e.1 = k))
  if miss.isEmpty then
    .ok ((((ks.flatMap (fun k => wordBytes (tget 0 s.cx.got k))).drop (va.toNat % 8)).take n), s)
  else match askDwords pl va miss s with
    | .ok s => .error (.hold s)
    | .error d => .error d

/-- An ordinary load of n bytes wherever they are homed. -/
def gatherPieces : List (Word × Nat) → State → Try (List Byte × State)
  | [], s => .ok ([], s)
  | (va, n) :: ps, s => do
    let (pl, s) ← s.access 0 false va
    let (bs, s) ← (match pl with
      | .hbm pa => .ok (s.readPa s.l1 va pa n)
      | .dev _ => .error (.raise (s.fltAt 12 5 0 va) s)
      | pl => s.gatherAway pl va n)
    let (rest, s) ← gatherPieces ps s
    pure (bs ++ rest, s)
def State.gather (s : State) (va : Word) (n : Nat) : Try (List Byte × State) := gatherPieces (rangePieces va n) s

end Sys2Proof.Machine
end

