-- ==== Sys2Proof/Machine/Copy.lean ====
section
/-! DEFINITION. The copy engine (R174 to R178): CPY, CPY2D, TWAIT, TTEST and the progress of a copy. -/

namespace Sys2Proof

/-- R174. -/
def CpyLen.len : CpyLen → Nat
  | .imm _ => 12
  | .ext _ => 16
def CpyLen.value : CpyLen → Nat
  | .imm v => v.toNat
  | .ext v => v.toNat
def CpyStride.len : CpyStride → Nat
  | .both _ => 12
  | .two _ _ => 16
/-- Destination and source strides. -/
def CpyStride.dst : CpyStride → Int
  | .both v => v.toInt
  | .two d _ => d.toInt
def CpyStride.src : CpyStride → Int
  | .both v => v.toInt
  | .two _ s => s.toInt

end Sys2Proof

namespace Sys2Proof.Machine

/-! ## Issue -/

/-- R172: the precise fault Engine Operand. -/
def State.operandFault {α : Type} (s : State) (cause : BitVec 16) : Try α := .error (.raise (s.flt 8 cause) s)
/-- Raises Engine Operand where a test fails. -/
def State.need (s : State) (ok : Bool) (cause : BitVec 16) : Try Unit := if ok then .ok () else s.operandFault cause

/-- R54: entries of a core's copy queue that the engine has not taken: copies, DISPs and DFLUSHes. -/
def State.copyQueued (s : State) (core : CoreId) : Nat :=
  (s.copies.filter (fun c => c.trig.isNone && c.by_.ctx.coreId = core && !c.begun && !c.stopped)).length +
    (s.copyq.filter (fun q => q.core = core)).length
/-- R54: operations of a core's active set: copies, and rows from their first sending until they are settled. -/
def State.copyActive (s : State) (core : CoreId) : Nat :=
  (s.copies.filter (fun c => c.trig.isNone && c.by_.ctx.coreId = core && c.begun && !c.stopped)).length +
    (s.rows.filter (fun r => r.core = core && r.begun && r.stage ≠ .done)).length
def State.copyFull (s : State) : Bool := decide (s.copyQueued s.cx.id.coreId ≥ 2)
/-- R54: the engine takes an operation at once where its active set has room and nothing waits before it. -/
def State.takesAtOnce (s : State) (core : CoreId) : Bool := decide (s.copyActive core < 32) && decide (s.copyQueued core = 0)
/-- R183: a DISP or a DFLUSH of the issuing context takes its copy-queue entry. Its number is that before this. -/
def State.enqueueOp (s : State) (tok : Option Tok) : State :=
  let core := s.cx.id.coreId
  { s with fresh := s.fresh + 1,
           copyq := if s.takesAtOnce core then s.copyq else s.copyq ++ [⟨s.fresh, core, s.cx.id, s.issuer.inv, tok⟩] }

/-- A copy enters the queue; the engine takes it at once where its active set has room. -/
def State.addCopy (s : State) (tok : Option Tok) (dst src : Word) (rowb rows : Nat) (dstr sstr : Int) (mode : CpyMode)
    (ctr : Option Word) : State :=
  let core := s.cx.id.coreId
  let c : Copy :=
    { id := s.fresh, by_ := s.issuer, tok := tok, trig := none, dst := dst, src := src, rowb := rowb, rows := rows,
      dstr := dstr, sstr := sstr, rd := mode.rd, rop := mode.rop, fmt := mode.fmt, det := mode.det, ctr := ctr, pos := 0,
      landed := 0, begun := s.takesAtOnce core, stopped := false, stall := none, onEntry := none, unacked := 0, buf := [],
      whole := none, applied := false, asked := false, err := 0, bad := none }
  { s with fresh := s.fresh + 1, copies := s.copies ++ [c] }.tokBusy tok

/-- R382: a reduction reads and writes its destination. -/
def copyAcc (rd : Bool) : BitVec 2 := if rd then 3 else 1

/-- R175: the first pages are translated at issue. -/
def State.firstPages (s : State) (mode : CpyMode) (dst src : Word) : Try State := do
  let (_, s) ← s.access 0 false src
  let (_, s) ← s.access (copyAcc mode.rd) false dst
  pure s

/-- R176: bytes of an element of a reduction. -/
def redBytes (fmt : BitVec 4) : Nat := codeBits fmt / 8
/-- R172 cause 2. -/
def multiples (mode : CpyMode) (vs : List Int) : Bool := !mode.rd || vs.all (fun v => v % (redBytes mode.fmt : Int) = 0)

/-- R175: a counter named by gk. -/
def State.gkOk (s : State) (gk : GReg) : Bool := gk = 0 || ctrOk s s.cx.prot (s.g gk)

def cpyBody (gd gs gn gk : GReg) (mode : CpyMode) (len : CpyLen) (s : State) : Try Done := do
  if s.copyFull || s.tokIsBusy mode.tok then .error (.hold s) else pure ()
  let dst := s.g gd
  let src := s.g gs
  let ctr := if gk = 0 then none else some (s.g gk)
  let n := if gn = 0 then len.value else (s.g gn).toNat
  s.need (decide (n < 2 ^ 40) && (!mode.det || decide (n ≤ 65536))) 1
  s.need (s.gkOk gk) 3
  if n = 0 then pure (.fall (s.addCopy mode.tok dst src 0 0 0 0 mode ctr))
  else do
    s.need (multiples mode [src.toNat, dst.toNat, n]) 2
    let s ← s.firstPages mode dst src
    pure (.fall (s.addCopy mode.tok dst src n 1 0 0 mode ctr))
/-- R174. -/
def execCpy (m : Mods) (gd gs gn gk : GReg) (mode : CpyMode) (len : CpyLen) (s : State) : Out :=
  issue m len.len .plain s (fun s => Try.done (cpyBody gd gs gn gk mode len s))

def cpy2dBody (gd gs gsh gk : GReg) (mode : CpyMode) (st : CpyStride) (s : State) : Try Done := do
  if s.copyFull || s.tokIsBusy mode.tok then .error (.hold s) else pure ()
  let dst := s.g gd
  let src := s.g gs
  let sh := s.g gsh
  let ctr := if gk = 0 then none else some (s.g gk)
  let rowb := (fld sh 0 24).toNat
  let rows := (fld sh 24 16).toNat
  s.need (rowb ≠ 0 && rows ≠ 0 && fld sh 40 24 = 0) 4
  s.need (!mode.det || decide (rowb * rows ≤ 65536)) 1
  s.need (s.gkOk gk) 3
  s.need (multiples mode [src.toNat, dst.toNat, rowb, st.dst, st.src]) 2
  let s ← s.firstPages mode dst src
  pure (.fall (s.addCopy mode.tok dst src rowb rows st.dst st.src mode ctr))
/-- R174. -/
def execCpy2d (m : Mods) (gd gs gsh gk : GReg) (mode : CpyMode) (strides : CpyStride) (s : State) : Out :=
  issue m strides.len .plain s (fun s => Try.done (cpy2dBody gd gs gsh gk mode strides s))

/-! ## Tokens (R178) -/

def maskToks (mask : BitVec 8) : List Tok := ([0, 1, 2, 3, 4, 5, 6, 7] : List Tok).filter (fun t => mask.getLsbD t.toNat)
/-- R178: no named token is BUSY. -/
def Ctx.toksQuiet (c : Ctx) (mask : BitVec 8) : Bool := (maskToks mask).all (fun t => c.t[t.toFin].st ≠ .busy)
/-- R178: the error record of the lowest named token in FAULT. -/
def Ctx.tokError (c : Ctx) (mask : BitVec 8) : Option Word :=
  ((maskToks mask).find? (fun t => c.t[t.toFin].st = .fault)).map (fun t => c.t[t.toFin].err)
def Ctx.clearToks (c : Ctx) (mask : BitVec 8) : Ctx := (maskToks mask).foldl (fun c t => c.setTok t ⟨.idle, 0⟩) c

/-- R178: the results of TWAIT; the named tokens become IDLE. -/
def State.twaitDone (s : State) (qd : QReg) (mask : BitVec 8) (ge : GReg) : State :=
  let e := s.cx.tokError mask
  let s := { s with cx := s.cx.clearToks mask }
  (s.laterQ qd e.isNone).laterG ge (e.getD 0)

/-- R171: parks the issuing context in a waiting instruction; the status keeps what its retirement needs. -/
def State.waitOn (s : State) (m : Mods) (w : Wait) (deadline : Option Word) (len : Nat) : State :=
  { s with cx := { s.cx with status := .waiting w deadline m.sw len } }

/-- R178. -/
def execTwait (m : Mods) (qd : QReg) (mask : BitVec 8) (ge : GReg) (s : State) : Out :=
  issue m 8 .wait s (fun s =>
    if s.cx.toksQuiet mask then .fall (s.twaitDone qd mask ge) else .hold (s.waitOn m (.tokens qd mask ge) none 8))

/-- R178: TTEST changes no token. -/
def execTtest (m : Mods) (qd : QReg) (mask : BitVec 8) (ge : GReg) (s : State) : Out :=
  issue m 8 .plain s (fun s =>
    .fall ((s.laterQ qd (s.cx.toksQuiet mask)).laterG ge ((s.cx.tokError mask).getD 0)))

/-! ## Progress (R175) -/

def Copy.total (c : Copy) : Nat := c.rowb * c.rows
def State.setCopy (s : State) (c : Copy) : State := { s with copies := s.copies.map (fun x => if x.id = c.id then c else x) }
/-- Source and destination of a byte of the transfer. -/
def Copy.srcAt (c : Copy) (pos : Nat) : Word := c.src + intWord (c.sstr * (pos / c.rowb : Nat) + (pos % c.rowb : Nat))
def Copy.dstAt (c : Copy) (pos : Nat) : Word := c.dst + intWord (c.dstr * (pos / c.rowb : Nat) + (pos % c.rowb : Nat))
/-- R175, R270: bytes of the element at a position: within 256 bytes, one row and one page of the destination, cut where an aligned
8-byte word of the destination ends, so that each is written whole. It lies on one page of the source, unless the word at which it
begins has its source on two. -/
def Copy.elemLen (c : Copy) (pos : Nat) : Nat :=
  let dst := c.dstAt pos
  let n := min (min (256 - dst.toNat % 8) (c.rowb - pos % c.rowb)) (pageRoom dst)
  let room := pageRoom (c.srcAt pos)
  let past := (dst.toNat + room) % 8
  if n ≤ room then n else if past < room then room - past else min n (8 - dst.toNat % 8)
/-- The pieces of n bytes of the source, by page: positions in the transfer, and lengths. -/
def Copy.cuts (c : Copy) (pos n : Nat) : List (Nat × Nat) :=
  let room := pageRoom (c.srcAt pos)
  if n ≤ room then [(pos, n)] else [(pos, room), (pos + room, n - room)]

/-- Pieces of a source: read here, or come from their homes before; or the first that cannot be read here. -/
def srcBytes (s : State) (b : Issuer) (buf : List (Nat × List Byte)) (va : Nat → Word) :
    List (Nat × Nat) → Except (EngErr × Nat × Nat) (List Byte)
  | [] => .ok []
  | q :: qs =>
    let own : Except EngErr (List Byte) := match buf.find? (fun e => e.1 = q.1) with
      | some e => .ok e.2
      | none => engRead s b.prot b.user (va q.1) q.2
    match own with
    | .error e => .error (e, q)
    | .ok bs => match srcBytes s b buf va qs with
      | .ok r => .ok (bs ++ r)
      | .error e => .error e

/-- What one element comes to. -/
inductive ElemRes where
  | ok (s : State)
  /-- a packet was sent; it is to be answered. -/
  | away (s : State)
  /-- a piece of the element is to come from another package first. -/
  | ask (p : Packet)
  | stop (e : EngErr)

/-- The packet that asks for source bytes of another package or host (R270). -/
def copyAsk (s : State) (c : Copy) (pkg : BitVec 12) (va : Word) (pos n : Nat) : Packet :=
  { mkPacket s 0x21 pkg c.by_.ctx.die 255 c.by_.ctx.coreId 5 (.readReq c.id pos n c.by_.pctx) with addr := va, plen := BitVec.ofNat 13 n, fh := if c.rd then hintOf c.fmt else 0 }
/-- The packet that carries bytes to a destination in another package or host. -/
def copyPut (s : State) (c : Copy) (pkg : BitVec 12) (va : Word) (pos : Nat) (bs : List Byte) : Packet :=
  { mkPacket s 0x20 pkg c.by_.ctx.die 255 c.by_.ctx.coreId 5 (.copyData c.id pos c.by_.pctx c.rd c.rop c.fmt bs) with
    addr := va, plen := BitVec.ofNat 13 bs.length, ndf := BitVec.ofNat 7 ((bs.length + 63) / 64) }
/-- Package and address of a place outside the package. -/
def Place.awayAt (va : Word) : Place → Option (BitVec 12 × Word)
  | .pod p => some (p, va)
  | .host n a => some (n, natWord a)
  | _ => none

/-- Bytes written at a destination homed in the package, reduced where RD = 1. -/
def State.copyWrite (s : State) (c : Copy) (va : Word) (pa : Nat) (bs : List Byte) : State :=
  let s := s.recallAll pa bs.length
  let old := s.bytes c.by_.prot.keyslot pa bs.length
  s.engPut c.by_ va pa (if c.rd then reduceBytes c.rop c.fmt (redBytes c.fmt) bs.length old bs else bs)

/-- The source pages of an element are marked, and its leases recalled. -/
def State.copyTakes (s : State) (c : Copy) (qs : List (Nat × Nat)) : State :=
  qs.foldl (fun s q => match engPlace s c.by_.prot c.by_.user 0 (c.srcAt q.1) with
    | .ok (.hbm pa) => (s.markUsed c.by_.prot (c.srcAt q.1) false).recallAll pa q.2
    | _ => s) s
/-- R175, R270, R417: one element. `s0` is the state in which the thread's reads of now may also be placed. -/
def copyElem (s0 : State) (c : Copy) (s : State) : ElemRes :=
  let dst := c.dstAt c.pos
  let n := c.elemLen c.pos
  let cuts := c.cuts c.pos n
  match srcBytes (if Config.choice (s.issued + c.pos) 2 = 0 then s0 else s) c.by_ c.buf c.srcAt cuts with
  | .error (.away pl, q) =>
    match pl.awayAt (c.srcAt q.1) with
    | some (pkg, va) =>
      if q.2 = n then .away (s.sendBulk (copyAsk s c pkg va c.pos n)) else .ask (copyAsk s c pkg va q.1 q.2)
    | none => .stop (.fault (engFault 12 5 0 c.by_.user (c.srcAt q.1)))
  | .error (e, _) => .stop e
  | .ok bs =>
    match engPlace s c.by_.prot c.by_.user (copyAcc c.rd) dst with
    | .error e => .stop e
    | .ok pd =>
      let s := (s.copyTakes c cuts).markUsed c.by_.prot dst true
      match pd.awayAt dst with
      | some (pkg, va) => .away (s.sendBulk (copyPut s c pkg va c.pos bs))
      | none =>
        match pd with
        | .hbm pb => match (if c.rd then s.engBad 3 dst pb n else none) with
          | some w => .stop (.poison w)
          | none => .ok (s.copyWrite c dst pb bs)
        | _ => .stop (.fault (engFault 12 5 (copyAcc c.rd) c.by_.user dst))

/-- R175, R384, R399: what stops a copy: the pager is asked, a migration is waited for, or the copy ends in error. -/
def Copy.halt (c : Copy) : EngErr → Copy
  | .fault f => if f.recoverable && c.by_.prot.hasFq then { c with stall := some f } else { c with err := 1 }
  | .poison w => { c with err := 2, bad := some w }
  | .away _ => { c with err := 1 }
  | .mig => c

/-- Elements one after another, until the copy is through, stops, or waits. -/
def copyLoop (s0 : State) : Nat → Copy → State → State
  | 0, c, s => s.setCopy c
  | fuel + 1, c, s =>
    if c.pos ≥ c.total then s.setCopy c
    else
      let n := c.elemLen c.pos
      match copyElem s0 c s with
      | .ok s => copyLoop s0 fuel { c with pos := c.pos + n, landed := c.landed + n, buf := [] } s
      | .away s => copyLoop s0 fuel { c with pos := c.pos + n, unacked := c.unacked + 1, buf := [] } s
      | .ask p => (s.setCopy { c with unacked := c.unacked + 1, asked := true }).sendBulk p
      | .stop e => s.setCopy (c.halt e)

/-- The pieces of the whole source from a position on: within 256 bytes, one row and one page. -/
def Copy.detCuts (c : Copy) : Nat → Nat → List (Nat × Nat)
  | 0, _ => []
  | fuel + 1, pos =>
    if pos ≥ c.total then []
    else let n := min (min 256 (c.rowb - pos % c.rowb)) (pageRoom (c.srcAt pos)); (pos, n) :: Copy.detCuts c fuel (pos + n)
/-- R177: the whole source of an ordered contribution: as it was read, or read now. -/
def detBytes (s : State) (c : Copy) : Except (EngErr × Nat × Nat) (List Byte) :=
  match c.whole with
  | some bs => .ok bs
  | none => srcBytes s c.by_ c.buf c.srcAt (c.detCuts (c.total + 1) 0)

def Copy.contrib (c : Copy) (bs : List Byte) : Contrib :=
  let ctr := c.ctr.getD 0
  { die := ctDie ctr, idx := ctIndex ctr, exp := ctExp ctr, det := true, dst := c.dst, pctx := c.by_.pctx, rop := c.rop,
    fmt := c.fmt, bytes := bs, rowb := c.rowb, dstr := c.dstr, copy := some c.id, coll := none, launch := c.by_.launch }

/-- R177: the contribution goes to the die of its landing counter. Its source is read once. -/
def State.copyDet (s : State) (c : Copy) : State :=
  if c.unacked ≠ 0 then s
  else match detBytes s c with
    | .error (.away pl, q) =>
      match pl.awayAt (c.srcAt q.1) with
      | some (pkg, va) => (s.setCopy { c with unacked := 1 }).sendBulk (copyAsk s c pkg va q.1 q.2)
      | none => s.setCopy (c.halt (.away pl))
    | .error (e, _) => s.setCopy (c.halt e)
    | .ok bs =>
      let s := if c.whole.isSome then s
        else (List.range c.rows).foldl (fun s k => s.markRead c.by_.prot (c.srcAt (k * c.rowb)) c.rowb) s
      let con := c.contrib bs
      let s := s.setCopy { c with unacked := 1, whole := some bs, buf := [] }
      let ctr := c.ctr.getD 0
      if ctPkg ctr = s.pkg then s.due (.detContributionArrival con)
      else s.sendBulk { mkPacket s 0x20 (ctPkg ctr) (ctDie ctr) 255 c.by_.ctx.coreId 5 (.contrib con) with
        addr := c.dst, aux := ctr &&& 0xFFFFFFFF, plen := BitVec.ofNat 13 bs.length }

/-- R54: what waits first in the copy queue of a core. -/
def State.queueHead (s : State) (core : CoreId) : Option Nat :=
  (sortBy (fun (a b : Nat) => decide (a ≤ b))
    ((s.copies.filter (fun c => c.trig.isNone && c.by_.ctx.coreId = core && !c.begun && !c.stopped)).map (fun c => c.id) ++
      (s.copyq.filter (fun q => q.core = core)).map (fun q => q.id))).head?
/-- R54: the engine takes entries in queue order while its active set has room. -/
def beginLoop (core : CoreId) : Nat → State → State
  | 0, s => s
  | fuel + 1, s =>
    match s.queueHead core with
    | none => s
    | some n =>
      if s.copyActive core < 32 then
        beginLoop core fuel { s with copies := s.copies.map (fun (c : Copy) => if c.id = n then { c with begun := true } else c),
                                     copyq := s.copyq.filter (fun q => q.id ≠ n) }
      else s
def State.beginNext (s : State) (core : CoreId) : State := beginLoop core (s.copyQueued core) s

/-- R417, R418: the error of a copy that has met a poisoned word; that of a triggered one goes no further (R419). -/
def State.copyPoison (s : State) (c : Copy) : State :=
  match c.bad, c.trig with
  | none, _ => s
  | some w, none => s.engPoison c.by_ w
  | some w, some _ => s.ueWord c.by_.ctx.coreId w
/-- R175, R315: the end of a copy: its counter is raised before its token or COMP is set. -/
def State.copyEnd (s : State) (c : Copy) : State :=
  let s := ({ s with copies := s.copies.filter (fun x => x.id ≠ c.id) } : State).copyPoison c
  let ctr := c.ctr.getD 0
  let raises := c.err = 0 && !c.det && c.ctr.isSome
  match c.trig with
  | none =>
    let s := s.beginNext c.by_.ctx.coreId
    if c.err ≠ 0 then s.engFail c.by_ c.tok c.err c.landed c.dst
    else (if raises then s.raise ctr 1 c.by_.ctx.coreId 5 else s).tokDone c.by_ c.tok
  | some _ =>
    let fin := fun (s : State) (err : BitVec 8) =>
      { s with firings := s.firings.map (fun (f : Firing) => if f.id = c.id then { f with fin := some (err, c.landed) } else f) }
    if c.err ≠ 0 then fin s c.err
    else if raises && !ctrOk s c.by_.prot ctr then fin s 4
    else fin (if raises then s.raise ctr 1 (dieAgent c.by_.ctx.die) 6 else s) 0

/-- Whether the engine can go on with a copy now. -/
def Copy.canGo (c : Copy) : Bool := c.begun && !c.stopped && c.stall.isNone && c.onEntry.isNone && !c.asked
/-- R175, R177: every byte has been taken on, or the contribution has been applied. -/
def Copy.through (c : Copy) : Bool := if c.det then c.applied else decide (c.total ≤ c.pos)

/-- The engine goes on with a copy, and ends it where nothing of it is outstanding. -/
def State.copyStep (s : State) (c : Copy) : State :=
  let s := if c.err ≠ 0 || c.through then s
    else if c.det then s.copyDet c
    else copyLoop s (c.total + 1) c s
  match s.copies.find? (fun x => x.id = c.id) with
  | none => s
  | some c => if (c.err ≠ 0 || c.through) && c.unacked = 0 then s.copyEnd c else s

/-! ## Dispatch rows at their engine (R343) -/

def FlightRow.canGo (r : FlightRow) : Bool := r.stall.isNone && r.onEntry.isNone
def State.setRow (s : State) (r : FlightRow) : State := { s with rows := s.rows.map (fun x => if x.id = r.id then r else x) }
/-- R184: a token that meets several errors keeps the first. -/
def FlightRow.fail (r : FlightRow) (s : State) (err : BitVec 8) : FlightRow :=
  if r.err = 0 then { r with err := err, errAt := s.issued } else r
/-- R343: the row is counted in DROPPED. -/
def FlightRow.drop (r : FlightRow) : FlightRow := { r with stage := .count [2], stall := none }

/-- R339: the packet of a row. -/
def rowPacket (s : State) (r : FlightRow) (bytes : List Byte) : Packet :=
  { mkPacket s 0x20 r.pkg r.core.die 255 r.core 5
      (.row { header := r.row.header, lb := r.row.lb, rowb := r.row.rowb, dlseq := r.dlseq, didx := r.didx,
              dlast := r.dlast, redir := r.redir, bytes := bytes, pctx := r.by_.pctx,
              sender := if r.redir then coreNum r.core else r.by_.inv, region := r.by_.region, ph := r.by_.ph, inv := r.by_.inv }) with
    addr := r.row.lb, aux := r.row.header, plen := r.row.rowb.setWidth 13, ndf := BitVec.ofNat 7 ((r.row.rowb.toNat + 63) / 64) }

/-- Whether what stops the engine is waited for: the pager, or the end of a migration. -/
def FlightRow.waits (r : FlightRow) : EngErr → Bool
  | .fault f => f.recoverable && !r.refused && r.by_.prot.hasFq
  | .mig => true
  | _ => false
def FlightRow.hold (r : FlightRow) : EngErr → FlightRow
  | .fault f => { r with stall := some f }
  | _ => r

/-- A row that is dropped before it is sent keeps its place in its series: a row of no bytes, which the receiver rejects
(DEDUCED, log entry 17). -/
def State.rowGap (s : State) (r : FlightRow) : State := s.sendBulk (rowPacket s { r with row := { r.row with rowb := 0 } } [])

/-- The pieces of a row, by page: places in the row, and lengths. -/
def FlightRow.cuts (r : FlightRow) : List (Nat × Nat) :=
  let n := r.row.rowb.toNat
  let room := pageRoom r.row.src
  if n ≤ room then [(0, n)] else [(0, room), (room, n - room)]
/-- R343: the engine reads the row and sends it. -/
def State.rowSend (s : State) (r : FlightRow) : State :=
  match srcBytes s r.by_ r.buf (fun k => r.row.src + natWord k) r.cuts with
  | .ok bs =>
    ((s.markRead r.by_.prot r.row.src r.row.rowb.toNat).setRow { r with stage := .sent, refused := false, buf := [] }).sendBulk
      (rowPacket s r bs)
  | .error (.away pl, q) =>
    let va := r.row.src + natWord q.1
    match pl.awayAt va with
    | some (pkg, va) =>
      (s.setRow { r with stage := .asked, refused := false }).sendBulk
        { mkPacket s 0x21 pkg r.core.die 255 r.core 5 (.readReq r.id q.1 q.2 r.by_.pctx) with addr := va }
    | none => (s.setRow (r.fail s 1).drop).rowGap r
  | .error (.poison w, _) => ((s.engPoison r.by_ w).setRow (r.fail s 2).drop).rowGap r
  | .error (e, _) => if r.waits e then s.setRow (r.hold e) else (s.setRow { (r.fail s 1).drop with refused := false }).rowGap r

/-- R341: the next number of the core's redirection series. -/
def State.takeRl (s : State) (core : CoreId) (pkg : BitVec 12) : BitVec 32 × State :=
  let c := s.core core
  let n := tget 0 c.rlseq pkg.toNat
  (n, s.setCore { c with rlseq := tset 0 c.rlseq pkg.toNat (n + 1) })

/-- R417, R418: an engine access for a row that has met a poisoned word. -/
def State.rowPoison (s : State) (r : FlightRow) : EngErr → State
  | .poison w => s.engPoison r.by_ w
  | _ => s
/-- R173: the CAUSE of an engine access that stops for good. -/
def errCause : EngErr → BitVec 8
  | .poison _ => 2
  | _ => 1

/-- R54, R184: a row that is settled leaves the active set. One that a DFLUSH covers, or may cover, is kept for its token. -/
def State.rowSettled (s : State) (r : FlightRow) : State :=
  (if r.cover || r.tok.isSome then s.setRow { r with stage := .done, refused := false }
   else { s with rows := s.rows.filter (fun x => x.id ≠ r.id) }).beginNext r.core
/-- R337, R338, R343: one further choice: an absent expert, an unreadable entry or a host is skipped. The first choice in rank order
that is present fixes the length of the row, also where it is skipped. -/
def State.rowNext (s : State) (r : FlightRow) : State :=
  match r.row.rest with
  | [] => s.setRow r.drop
  | e :: es =>
    let rank := r.rank + 1
    let r1 := { r with rank := rank, row := { r.row with rest := es }, refused := false }
    match engRead s r.by_.prot r.by_.user (tableEntry r.row.table e) 16 with
    | .error x => if r.waits x then s.setRow (r.hold x) else (s.rowPoison r x).setRow r1
    | .ok bs =>
      let s := s.markRead r.by_.prot (tableEntry r.row.table e) 16
      let lb := dwAt bs 0
      let rowb := if r.row.rowb = 0 then fld (dwAt bs 1) 0 16 else r.row.rowb
      if lb = 0 then s.setRow r1
      else if !(decide (64 ≤ rowb.toNat) && decide (rowb.toNat ≤ 4096) && decide (rowb.toNat % 64 = 0)) then
        s.setRow (r1.fail s 7).drop
      else
        let skip := { r1 with row := { r1.row with rowb := rowb } }
        match engPlace s r.by_.prot r.by_.user 0 lb with
        | .error x => if r.waits x then s.setRow (r.hold x) else (s.rowPoison r x).setRow skip
        | .ok (.host _ _) => s.setRow skip
        | .ok pl =>
          let pkg := match pl with | .pod p => p | _ => s.pkg
          let (seq, s) := s.takeRl r.core pkg
          s.setRow { r1 with pkg := pkg, dlseq := seq, didx := 0, dlast := true, redir := true, stage := .send,
                             row := { header := rehead r.row.header rank e, lb := lb, src := r.row.src, rowb := rowb,
                                      rest := es, table := r.row.table, fork := r.row.fork, op := r.row.op } }

/-- R343: one count of the status block. -/
def State.rowCount (s : State) (r : FlightRow) (n : Nat) (ns : List Nat) : State :=
  let va := r.row.table + 4096 + natWord (8 * n)
  let rest := fun (s : State) (r : FlightRow) =>
    if ns.isEmpty then s.rowSettled r else s.setRow { r with stage := .count ns, refused := false }
  match engRead s r.by_.prot r.by_.user va 8 with
  | .error e => if r.waits e then s.setRow (r.hold e) else rest (s.rowPoison r e) (r.fail s (errCause e))
  | .ok bs =>
    match engWrite s r.by_.prot r.by_.user va (wordBytes (wordOf bs + 1)) with
    | (s, none) => rest s r
    | (s, some e) => if r.waits e then s.setRow (r.hold e) else rest s (r.fail s 1)

/-- R343: the engine does the next thing with a row. -/
def State.rowStep (s : State) (r : FlightRow) : State :=
  match r.stage with
  | .send => s.rowSend r
  | .next => s.rowNext r
  | .count [] => s.rowSettled r
  | .count (n :: ns) => s.rowCount r n ns
  | .asked => s
  | .sent => s
  | .done => s

/-- R184, R343: the receiver's answer. -/
def State.rowAnswer (s : State) (r : FlightRow) (res : BitVec 2) : State :=
  if res = 0 then s.setRow { r with stage := .count (if r.rank = 0 then [0] else [0, 1]) }
  else if res = 2 then s.setRow (r.fail s 7).drop
  else s.setRow { r with stage := .next }

/-- R54: whether a row is in the active set of its engine, or may enter it: its DISP has left the queue, and there is room. -/
def State.rowMayGo (s : State) (r : FlightRow) : Bool :=
  r.begun || (decide (s.copyActive r.core < 32) && s.copyq.all (fun q => q.id ≠ r.row.op))
/-- R54, R175, R343: the engine goes on with the operation of that number: a copy, or a row. -/
def execCopyComplete (copy : Nat) (s : State) : Out :=
  match s.copies.find? (fun c => c.id = copy && c.canGo && s.forked c.by_) with
  | some c => .next (s.copyStep c).counted
  | none => match s.rows.find? (fun r => r.id = copy && r.canGo && s.forked r.by_ && s.rowMayGo r) with
    | some r => .next (s.rowStep { r with begun := true }).counted
    | none => .next s.counted

/-- R386, R387: a recoverable fault of the engine is posted to the fault queue of the context, when it has room. -/
def State.engPost (s : State) (b : Issuer) (f : FaultRec) (who : Waiter) : Option (Nat × State) :=
  if s.fqRoom b.prot then some (s.postEntry b.prot f s.pkg b.ctx.coreId 5 who b.inv) else none

/-- R175, R387: the page fault of a copy or a row. -/
def execCopyPageFault (copy : Nat) (s : State) : Out :=
  .next (State.counted (match s.copies.find? (fun c => c.id = copy && c.onEntry.isNone) with
    | some c => match c.stall with
      | some f => match s.engPost c.by_ f (.copy c.id) with
        | some (n, s) => s.setCopy { c with stall := none, onEntry := some n }
        | none => s
      | none => s
    | none => match s.rows.find? (fun r => r.id = copy && r.onEntry.isNone) with
      | some r => match r.stall with
        | some f => match s.engPost r.by_ f (.row r.id) with
          | some (n, s) => s.setRow { r with stall := none, onEntry := some n }
          | none => s
        | none => s
      | none => s))

/-- R177: a contribution of this package arrives at the die of its landing counter. -/
def execDetContributionArrival (con : Contrib) (s : State) : Out :=
  let s1 := s.landCon ⟨con, none⟩
  let fix := fun (f : Copy → Copy) (s : State) =>
    { s with copies := s.copies.map (fun c => if some c.id = con.copy then f { c with unacked := 0 } else c) }
  .next (State.counted (match s1.2 with
    | .applied => s1.1
    | .held => s1.1
    | .kept => fix id s1.1
    | .late => fix (fun c => { c with err := 5 }) s1.1
    | .failed e => fix (fun c => c.halt e) s1.1))

/-! ## DFLUSH tokens (R183, R343) -/

/-- The rows that a DFLUSH token of a context covers. -/
def State.tokRows (s : State) (c : CtxId) (inv : Nat) (tok : Tok) : List FlightRow :=
  s.rows.filter (fun r => r.by_.ctx = c && r.by_.inv = inv && r.tok = some tok)
/-- The error of the covering token: that of the row that met one first. -/
def firstErr (rs : List FlightRow) : BitVec 8 :=
  match (sortBy (fun (a b : FlightRow) => decide (a.errAt ≤ b.errAt)) (rs.filter (fun r => r.err ≠ 0))).head? with
  | some r => r.err
  | none => 0
/-- R54, R183: a DFLUSH has left the copy queue, and every row that its token covers is settled and counted. -/
def State.flushSettled (s : State) (c : CtxId) (tok : Tok) : Bool :=
  let inv := (s.ctx c).invId
  (s.tokRows c inv tok).all (fun r => r.stage = .done) && s.copyq.all (fun q => !(q.ctx = c && q.inv = inv && q.tok = some tok))

/-- R183: every row that the token covers is settled and counted. -/
def execDflushTokenDone (c : CtxId) (tok : Tok) (s : State) : Out :=
  let x := s.ctx c
  if x.flushes.contains tok && s.flushSettled c tok then
    let e := firstErr (s.tokRows c x.invId tok)
    let s := { s with rows := s.rows.filter (fun r => !(r.by_.ctx = c && r.by_.inv = x.invId && r.tok = some tok)) }
    let y := { s.ctx c with flushes := x.flushes.filter (fun t => t ≠ tok) }
    .next (s.setCtx (y.setTok tok (if e = 0 then ⟨.done, 0⟩ else ⟨.fault, errorRecord e tok 0⟩))).counted
  else .next s.counted

end Sys2Proof.Machine
end

