-- ==== Sys2Proof/Machine/Disp.lean ====
section
/-! DEFINITION. Expert dispatch: mailboxes, DISP, DFLUSH, LBSET, and the receiver of rows (R179 to R186, R336 to R347). -/

namespace Sys2Proof.Machine

/-! ## The mailbox (R179, R180, R336) -/

/-- R336: the place of a new entry: after every entry whose PRIO is not lower. -/
def mbInsert (k : Nat) (e : Word) (box : List Word) : List Word :=
  let high := box.takeWhile (fun x => (mbPrio e).ule (mbPrio x))
  (high ++ e :: box.drop high.length).take k
/-- R180. -/
def execMbpost (m : Mods) (ge : GReg) (k : BitVec 4) (fresh : Bool) (s : State) : Out :=
  issue m 8 .plain s (fun s =>
    .fall { s with cx := { s.cx with mbox := mbInsert k.toNat (s.g ge) (if fresh then [] else s.cx.mbox) } })
/-- R180: all ones where the mailbox holds no such entry. -/
def execMbtake (m : Mods) (gd : GReg) (rank : BitVec 3) (s : State) : Out :=
  issue m 8 .plain s (fun s => .fall (s.laterG gd (s.cx.mbox.getD rank.toNat (BitVec.allOnes 64))))

/-! ## DISP and DFLUSH (R182, R183, R338) -/

def dispLen : DispTok → Nat
  | .reg _ => 8
  | .imm _ => 12
def State.dispTok (s : State) : DispTok → BitVec 16
  | .reg g => (s.g g).setWidth 16
  | .imm v => v

/-- R183: a row joins the open list of its destination package. -/
def State.appendRow (s : State) (pkg : BitVec 12) (table : Word) (r : SendRow) : State :=
  let c := s.cx
  let s := if c.lists.any (fun (l : SendList) => l.pkg = pkg) then s
    else
      let s := match c.lists with
        | l :: _ => if c.lists.length ≥ 8 then s.flushList true l else s
        | [] => s
      { s with cx := { s.cx with lists := s.cx.lists ++ [⟨pkg, table, []⟩] } }
  let s := { s with cx := { s.cx with lists := s.cx.lists.map (fun (l : SendList) => if l.pkg = pkg then { l with rows := l.rows ++ [r] } else l) } }
  match s.cx.lists.find? (fun (l : SendList) => l.pkg = pkg && decide (l.rows.length ≥ 16)) with
  | some l => s.flushList true l
  | none => s

/-- R338, R188: no byte of a range is homed elsewhere. A page that does not translate shows its fault when it is used (log entry 100). -/
def State.rangeHere (s : State) (va : Word) (n : Nat) : Bool :=
  (rangePieces va n).all (fun q => match engPlace s s.cx.prot (!s.cx.priv) 0 q.1 with
    | .ok (.hbm _) => true
    | .ok _ => false
    | .error _ => true)
/-- R182, R338, R453. -/
def dispBody (gd gs gt : GReg) (tok : DispTok) (s : State) : Try Done := do
  match s.cx.mbox with
  | [] => pure (.fall (s.laterG gd 0))
  | c :: rest =>
    if s.copyFull then .error (.hold s) else pure ()
    let src := s.g gs
    let table := s.g gt
    let h := dispHeader (s.dispTok tok) s.pkg 0 c
    s.aligned 0 8 src
    s.aligned 0 64 table
    let (bs, s) ← s.load homed9 (tableEntry table c) 16
    s.need (s.rangeHere table 4160) 9
    let lb := dwAt bs 0
    let rowb := fld (dwAt bs 1) 0 16
    if lb = 0 then
      let row : SendRow := { header := h, lb := 0, src := src, rowb := 0, rest := rest, table := table, fork := s.cx.outstanding, op := s.fresh }
      pure (.fall (({ s with cx := { s.cx with mbox := [] } }.enqueueOp none |>.addRow row s.pkg 0 0 true true .next).laterG gd h))
    else do
      s.need (decide (64 ≤ rowb.toNat) && decide (rowb.toNat ≤ 4096) && decide (rowb.toNat % 64 = 0)) 1
      let (pl, s) ← s.access 0 false lb
      s.need (!pl.isHost) 9
      let pkg := match pl with | .pod p => p | _ => s.pkg
      let row : SendRow := { header := h, lb := lb, src := src, rowb := rowb, rest := rest, table := table, fork := s.cx.outstanding, op := s.fresh }
      pure (.fall (({ s with cx := { s.cx with mbox := [] } }.enqueueOp none |>.appendRow pkg table row).laterG gd h))
/-- R182. -/
def execDisp (m : Mods) (gd gs gt : GReg) (tok : DispTok) (s : State) : Out :=
  issue m (dispLen tok) .plain s (fun s => Try.done (dispBody gd gs gt tok s))

/-- R183: every open list leaves, and the rows since the previous DFLUSH are tied to the token. -/
def State.dflush (s : State) (tok : Tok) : State :=
  let s := (s.enqueueOp (some tok)).flushAll true
  let inv := s.issuer.inv
  let tie := fun (r : FlightRow) =>
    if r.by_.ctx = s.cx.id && r.by_.inv = inv && r.cover && r.tok.isNone then { r with tok := some tok } else r
  let s := { s with rows := s.rows.map tie, cx := { s.cx with flushes := tok :: s.cx.flushes } }
  s.tokBusy (some tok)
/-- R183. -/
def execDflush (m : Mods) (tok : Tok) (s : State) : Out :=
  issue m 8 .plain s (fun s => if s.copyFull || s.tokIsBusy (some tok) then .hold s else .fall (s.dflush tok))

/-! ## Landing buffers (R185, R186) -/

/-- R185: the bytes of a control block. -/
def lbBlock (base : Word) (cap : BitVec 13) (rsz : BitVec 3) (fill ctr rejects : Word) : List Byte :=
  wordBytes base ++ wordBytes (0#48 ++ rsz ++ cap) ++ wordBytes fill ++ wordBytes ctr ++ wordBytes rejects ++ zeros 24

def lbsetBody (gb gbase gk : GReg) (cap : BitVec 13) (rsz : BitVec 3) (s : State) : Try Done := do
  let b := s.g gb
  s.need (ctrOk s s.cx.prot (s.g gk)) 3
  s.aligned 1 64 b
  let s ← s.store homed9 b (lbBlock (s.g gbase) cap rsz 0 (s.g gk) 0)
  pure (.fall s)
/-- R185. -/
def execLbset (m : Mods) (gb gbase gk : GReg) (cap : BitVec 13) (rsz : BitVec 3) (s : State) : Out :=
  issue m 8 .plain s (fun s => Try.done (lbsetBody gb gbase gk cap rsz s))

/-! ## The receiver (R341, R342, R345, R346) -/

/-- R341: the series of a row. -/
def rowKey_ (spkg : BitVec 12) (r : Row) : Nat := (r.sender * 2 + (if r.redir then 1 else 0)) * 4096 + spkg.toNat
def rowPos (r : Row) : Nat := r.dlseq.toNat * 16 + r.didx.toNat
def rowAfter (r : Row) : Nat := if r.dlast then ((r.dlseq + 1).toNat) * 16 else rowPos r + 1
def State.rowTurn (s : State) (x : LandRow) : Bool := x.slot.isNone && tget 0 s.rowSeq (rowKey_ x.src.1 x.row) = rowPos x.row

/-- R342: the answer to a row. -/
def State.rowBack (s : State) (x : LandRow) (res : BitVec 2) (slot : Nat) : State :=
  let (pkg, die, core) := x.src
  let r := x.row
  let p := { mkPacket s 0x20 s.pkg x.die 255 ⟨die, core⟩ 5 .none with spkg := pkg, seq := x.seq }
  (s.unholdSeq p).reply p { backTo s p 0x30 (.answer res r.dlseq r.didx r.redir (BitVec.ofNat 13 slot)) with
    aux := natWord r.sender }

def State.setLand (s : State) (x : LandRow) : State := { s with landRows := s.landRows.map (fun y => if y.id = x.id then x else y) }
def State.dropLand (s : State) (x : LandRow) : State := { s with landRows := s.landRows.filter (fun y => y.id ≠ x.id) }
/-- R346: admitted rows stand in the order of their admission. -/
def State.addLand (s : State) (x : LandRow) : State := { s with landRows := s.landRows ++ [x] }
/-- R341: the next row of the series may be admitted. -/
def State.rowPass (s : State) (x : LandRow) : State :=
  { s with rowSeq := tset 0 s.rowSeq (rowKey_ x.src.1 x.row) (rowAfter x.row) }

/-- R423 TYPE 21: a landing that proved unrecoverable. -/
def State.logLanding (s : State) (pctx : BitVec 12) (region : Word) (f : FaultRec) (pkg : BitVec 12) (core : CoreId)
    (sag : BitVec 4) (va ph : Word) : State :=
  s.postElog (s.protOf pctx) pctx region (errRec 21 f.cls 0 pkg core sag va f.info ph)
def noFault : FaultRec := ⟨0, 0, 0, true, true, false, 0⟩

/-- R342: a row that the block cannot take: RES 3 with a record. -/
def State.rowRefuse (s : State) (x : LandRow) (f : FaultRec) : State :=
  let r := x.row
  (((s.logLanding r.pctx r.region f x.src.1 ⟨x.src.2.1, x.src.2.2⟩ 5 r.lb r.ph).rowBack x 3 0).rowPass x).dropLand x

/-- Posts a landing fault, where the queue has room (R386, R390). -/
def State.landPost (s : State) (pctx : BitVec 12) (f : FaultRec) (src : BitVec 12 × BitVec 2 × BitVec 8) (who : Waiter)
    (inv : Nat) : Option (Nat × State) :=
  let p := s.protOf pctx
  if s.fqRoom p then some (s.postEntry p f src.1 ⟨src.2.1, src.2.2⟩ 5 who inv) else none

/-- R186, R342: the admission of the row whose turn it is. -/
def State.admitRow (s : State) (x : LandRow) : State :=
  let r := x.row
  let p := s.protOf r.pctx
  match engPlace s p true 0 r.lb with
  | .ok (.hbm pa) =>
    match s.engBad 0 r.lb pa 64 with
    | some w => (s.ueWord (dieAgent x.die) w).rowRefuse x { noFault with cls := 17, cause := 1, va := w.va }
    | none =>
      let s := s.markUsed p r.lb true
      let bs := s.bytes p.keyslot pa 64
      let base := dwAt bs 0
      let cap := (fld (dwAt bs 1) 0 13).toNat
      let rsz := (fld (dwAt bs 1) 13 3).toNat
      let fill := (dwAt bs 2).toNat
      let size := 64 * 2 ^ rsz
      if cap = 0 then ((s.rowBack x 3 0).rowPass x).dropLand x
      else if r.rowb.toNat ≠ size then ((s.rowBack x 2 0).rowPass x).dropLand x
      else if cap ≤ fill then
        (((s.putHome p.keyslot (pa + 32) (wordBytes (dwAt bs 4 + 1))).rowBack x 1 0).rowPass x).dropLand x
      else
        let s := s.putHome p.keyslot (pa + 16) (wordBytes (dwAt bs 2 + 1))
        let at_ := base + natWord (fill * size)
        let hd := base + natWord (cap * size + 8 * fill)
        (((s.rowBack x 0 fill).rowPass x).dropLand x).addLand { x with
          slot := some (at_, hd, dwAt bs 3), writes := [⟨false, none, none, false, []⟩, ⟨true, none, none, false, []⟩] }
  | .error (.fault f) =>
    let f := { f with land := true }
    if f.recoverable && p.hasFq && !x.refused then
      match s.landPost r.pctx f x.src (.row x.id) r.sender with
      | some (n, s) => s.setLand { x with onEntry := some n }
      | none => s
    else s.rowRefuse x f
  | .error (.poison w) => (s.ueWord (dieAgent x.die) w).rowRefuse x { noFault with cls := 17, cause := 4, va := w.va }
  | .error .mig => s
  | _ => s.rowRefuse x noFault

/-- R345: the address and the bytes of a write of a slot. -/
def LandRow.what (x : LandRow) (w : LandWrite) : Word × List Byte :=
  match x.slot with
  | some (a, h, _) => if w.head then (h, wordBytes x.row.header) else (a, x.row.bytes)
  | none => (0, [])
/-- The 64 KiB pages of a write. -/
def LandRow.pages (x : LandRow) (w : LandWrite) : List Nat :=
  let e := x.what w
  [e.1.toNat / 65536, (e.1 + natWord (e.2.length - 1)).toNat / 65536]
/-- Whether two rows go to one landing buffer. -/
def State.sameBuffer (s : State) (x y : LandRow) : Bool :=
  x.row.lb = y.row.lb && (s.protOf x.row.pctx).ttroot = (s.protOf y.row.pctx).ttroot
/-- R346: a write waits behind each earlier write of its buffer, in admission order, that is held for one of its pages. Of the two writes
of a row the one that is held first comes first; where both have come to hold a page, the row's. -/
def State.behind (s : State) (x : LandRow) (w : LandWrite) : Bool :=
  let before := fun (y : LandRow) (v : LandWrite) => (v.pages.filter (x.pages w).contains).any (fun pg =>
    y.id ≠ x.id || (w.head && !v.head) || (v.head && !w.head && !w.pages.contains pg))
  (s.landRows.takeWhile (fun y => y.id ≠ x.id) ++ [x]).any (fun y => s.sameBuffer x y && y.writes.any (before y))
/-- R346: the writes that a held write leaves behind when it lands: they are next on its pages, in admission order. -/
def State.passPages (s : State) (x : LandRow) (head : Bool) (pages : List Nat) : State :=
  let mark := fun (y : LandRow) (w : LandWrite) => { w with pages := (w.pages ++ (y.pages w).filter pages.contains).eraseDups }
  let late := ((s.landRows.dropWhile (fun y => y.id ≠ x.id)).drop 1).map (fun y => y.id)
  { s with landRows := s.landRows.map (fun y =>
      if y.id = x.id then { y with writes := y.writes.map (fun w => if w.head ≠ head then mark y w else w) }
      else if late.contains y.id && s.sameBuffer x y then { y with writes := y.writes.map (mark y) } else y) }

/-- R346: the bytes of a slot whose write proved unrecoverable are unspecified, wherever they can be written. -/
def State.spoil (s : State) (p : Prot) (va : Word) (n : Nat) : State :=
  (rangePieces va n).foldl (fun s q => match engPlace s p true 1 q.1 with
    | .ok (.hbm pa) => s.putHome p.keyslot pa (freeBytes s.issued q.2)
    | _ => s) s

/-- R346: the containment error of a row whose landing is given up, where its invocation is still running. -/
def State.rowFails (s : State) (inv : Nat) (va : Word) : State :=
  match s.allCtxs.find? (fun c => c.invId = inv && c.status ≠ .free) with
  | some c => s.setCtx { c with errs := c.errs ++ [⟨17, 7, 1, true, true, c.priv, va⟩] }
  | none => s
/-- R346, R263: the landing of an admitted row is given up. -/
def State.rowLost (s : State) (x : LandRow) (a h : Word) (f : FaultRec) : State :=
  let r := x.row
  let p := s.protOf r.pctx
  let s := ((s.spoil p a r.bytes.length).spoil p h 8).logLanding r.pctx r.region f x.src.1 ⟨x.src.2.1, x.src.2.2⟩ 5 f.va r.ph
  let s := if x.src.1 = s.pkg then s.rowFails r.inv f.va else s.tellPkg x.src.1 (.rowLost r.inv f.va)
  s.dropLand x

/-- R345: one write of an admitted slot. When both have been performed, the slot raises its counter. -/
def State.landWrite (s : State) (x : LandRow) (w : LandWrite) (a h ctr : Word) : State :=
  let r := x.row
  let p := s.protOf r.pctx
  let e := x.what w
  let put := fun (s : State) (v : LandWrite) =>
    s.setLand { x with writes := x.writes.map (fun y => if y.head = w.head then v else y) }
  match engWrite s p true e.1 e.2 with
  | (s, none) =>
    let s := (s.passPages x w.head w.pages)
    if x.writes.length ≤ 1 then
      let s := s.dropLand x
      if ctrOk s p ctr then s.raise ctr 1 (dieAgent (ctDie ctr)) 7 else s
    else { s with landRows := s.landRows.map (fun y =>
      if y.id = x.id then { y with writes := y.writes.filter (fun v => v.head ≠ w.head) } else y) }
  | (s, some (.fault f)) =>
    let f := { f with land := true }
    if f.recoverable && p.hasFq && !w.refused then
      let w := { w with pages := (f.va.toNat / 65536 :: w.pages).eraseDups }
      match s.landPost r.pctx f x.src (.row x.id) r.sender with
      | some (n, s) => put s { w with stall := none, onEntry := some n }
      | none => put s { w with stall := some f }
    else s.rowLost x a h f
  | (s, some (.poison q)) => (s.ueWord (dieAgent x.die) q).rowLost x a h { noFault with cls := 17, cause := 4, va := q.va }
  | (s, some (.away _)) => s.rowLost x a h { noFault with va := a }
  | (_, some .mig) => s

/-- R346: the writes of a slot that may be made, or tried again. -/
def State.landable (s : State) (x : LandRow) : List LandWrite :=
  x.writes.filter (fun w => w.onEntry.isNone && !s.behind x w)
/-- R345: a write of an admitted row, or the admission of a row whose turn has come. -/
def State.landStep (s : State) (x : LandRow) : State :=
  if x.onEntry.isSome then s
  else match x.slot with
    | none => if s.rowTurn x then s.admitRow x else s
    | some (a, h, ctr) =>
      let ws := s.landable x
      match ws.drop (Config.choice s.issued ws.length % ws.length) with
      | w :: _ => s.landWrite x w a h ctr
      | [] => s

/-- R345. -/
def execDispatchRowLanded (row : Nat) (s : State) : Out :=
  .next (State.counted (match s.landRows.find? (fun x => x.id = row) with
    | some x => s.landStep x
    | none => s))

end Sys2Proof.Machine
end

