-- ==== Sys2Proof/Machine/Scalar.lean ====
section
/-! DEFINITION. Integer and floating-point scalar instructions (R23, R24, R74, R96 to R106). -/

namespace Sys2Proof.Machine

/-- F-class integer instruction with two sources (R47, R48). -/
def alu2 (m : Mods) (gd ga : GReg) (y : Src) (f : Word → Word → Word) (s : State) : Out :=
  issue m y.len .plain s (fun s => .fall (s.setG gd (f (s.g ga) (s.src y))))
/-- V-class: DIV, DIVU, REM, REMU. -/
def alu2v (m : Mods) (gd ga : GReg) (y : Src) (f : Word → Word → Word) (s : State) : Out :=
  issue m y.len .plain s (fun s => .fall (s.laterG gd (f (s.g ga) (s.src y))))
/-- F-class integer instruction with one source. -/
def alu1 (m : Mods) (gd ga : GReg) (f : Word → Word) (s : State) : Out :=
  issue m 8 .plain s (fun s => .fall (s.setG gd (f (s.g ga))))

/-- R74: NOP has no effect beyond its place in the run. -/
def execNop (m : Mods) (ext : NopExt) (s : State) : Out := issue m ext.len .plain s .fall

/-- R96: the sum modulo 2 ^ n. -/
def execAdd (m : Mods) (gd ga : GReg) (y : Src) (w : Bool) (s : State) : Out :=
  alu2 m gd ga y (byW w (· + ·) (· + ·)) s
/-- R96: the difference modulo 2 ^ n. -/
def execSub (m : Mods) (gd ga : GReg) (y : Src) (w : Bool) (s : State) : Out :=
  alu2 m gd ga y (byW w (· - ·) (· - ·)) s
/-- R96: bitwise. -/
def execAnd (m : Mods) (gd ga : GReg) (y : Src) (w : Bool) (s : State) : Out :=
  alu2 m gd ga y (byW w (· &&& ·) (· &&& ·)) s
/-- R96: bitwise. -/
def execOr (m : Mods) (gd ga : GReg) (y : Src) (w : Bool) (s : State) : Out :=
  alu2 m gd ga y (byW w (· ||| ·) (· ||| ·)) s
/-- R96: bitwise. -/
def execXor (m : Mods) (gd ga : GReg) (y : Src) (w : Bool) (s : State) : Out :=
  alu2 m gd ga y (byW w (· ^^^ ·) (· ^^^ ·)) s
/-- R96: x AND NOT y. -/
def execAndn (m : Mods) (gd ga : GReg) (y : Src) (w : Bool) (s : State) : Out :=
  alu2 m gd ga y (byW w (fun x y => x &&& ~~~y) (fun x y => x &&& ~~~y)) s
/-- R96: shift left by y mod n. -/
def execShl (m : Mods) (gd ga : GReg) (y : Src) (w : Bool) (s : State) : Out :=
  alu2 m gd ga y (byW w shlN shlN) s
/-- R96: logical shift right. -/
def execShr (m : Mods) (gd ga : GReg) (y : Src) (w : Bool) (s : State) : Out :=
  alu2 m gd ga y (byW w shrN shrN) s
/-- R96: arithmetic shift right. -/
def execSar (m : Mods) (gd ga : GReg) (y : Src) (w : Bool) (s : State) : Out :=
  alu2 m gd ga y (byW w sarN sarN) s
/-- R96: rotation right. -/
def execRot (m : Mods) (gd ga : GReg) (y : Src) (w : Bool) (s : State) : Out :=
  alu2 m gd ga y (byW w rotN rotN) s
/-- R96: the smaller, signed. -/
def execMin (m : Mods) (gd ga : GReg) (y : Src) (w : Bool) (s : State) : Out :=
  alu2 m gd ga y (byW w minS minS) s
/-- R96: the larger, signed. -/
def execMax (m : Mods) (gd ga : GReg) (y : Src) (w : Bool) (s : State) : Out :=
  alu2 m gd ga y (byW w maxS maxS) s
/-- R96: the smaller, unsigned. -/
def execMinu (m : Mods) (gd ga : GReg) (y : Src) (w : Bool) (s : State) : Out :=
  alu2 m gd ga y (byW w minU minU) s
/-- R96: the larger, unsigned. -/
def execMaxu (m : Mods) (gd ga : GReg) (y : Src) (w : Bool) (s : State) : Out :=
  alu2 m gd ga y (byW w maxU maxU) s
/-- R96: the clamped sum (R24). -/
def execAdds (m : Mods) (gd ga : GReg) (y : Src) (w : Bool) (s : State) : Out :=
  alu2 m gd ga y (byW w addSat addSat) s
/-- R96: the clamped difference (R24). -/
def execSubs (m : Mods) (gd ga : GReg) (y : Src) (w : Bool) (s : State) : Out :=
  alu2 m gd ga y (byW w subSat subSat) s
/-- R96: the product modulo 2 ^ n. -/
def execMul (m : Mods) (gd ga : GReg) (y : Src) (w : Bool) (s : State) : Out :=
  alu2 m gd ga y (byW w (· * ·) (· * ·)) s
/-- R96: bits [127:64] of the signed product. -/
def execMulh (m : Mods) (gd ga : GReg) (y : Src) (s : State) : Out := alu2 m gd ga y mulHi s
/-- R96: bits [127:64] of the unsigned product. -/
def execMulhu (m : Mods) (gd ga : GReg) (y : Src) (s : State) : Out := alu2 m gd ga y mulHiU s
/-- R23. -/
def execDiv (m : Mods) (gd ga : GReg) (y : Src) (w : Bool) (s : State) : Out :=
  alu2v m gd ga y (byW w divS divS) s
/-- R23. -/
def execDivu (m : Mods) (gd ga : GReg) (y : Src) (w : Bool) (s : State) : Out :=
  alu2v m gd ga y (byW w divU divU) s
/-- R23. -/
def execRem (m : Mods) (gd ga : GReg) (y : Src) (w : Bool) (s : State) : Out :=
  alu2v m gd ga y (byW w remS remS) s
/-- R23. -/
def execRemu (m : Mods) (gd ga : GReg) (y : Src) (w : Bool) (s : State) : Out :=
  alu2v m gd ga y (byW w remU remU) s
/-- R97. -/
def execClz (m : Mods) (gd ga : GReg) (w : Bool) (s : State) : Out := alu1 m gd ga (byW1 w clzN clzN) s
/-- R97. -/
def execCtz (m : Mods) (gd ga : GReg) (w : Bool) (s : State) : Out := alu1 m gd ga (byW1 w ctzN ctzN) s
/-- R97. -/
def execPopc (m : Mods) (gd ga : GReg) (w : Bool) (s : State) : Out := alu1 m gd ga (byW1 w popN popN) s
/-- R97. -/
def execBrev (m : Mods) (gd ga : GReg) (w : Bool) (s : State) : Out := alu1 m gd ga (byW1 w brevN brevN) s
/-- R98: a zero-extended field. -/
def execExtr (m : Mods) (gd ga : GReg) (pos wm : BitVec 6) (s : State) : Out := alu1 m gd ga (fun x => extrF x pos wm) s
/-- R98: a field of ga replaced. -/
def execInsr (m : Mods) (gd ga gb : GReg) (pos wm : BitVec 6) (s : State) : Out :=
  issue m 8 .plain s (fun s => .fall (s.setG gd (insrF (s.g ga) (s.g gb) pos wm)))
/-- R98: the low WM + 1 bits, sign-extended. -/
def execSext (m : Mods) (gd ga : GReg) (wm : BitVec 6) (s : State) : Out := alu1 m gd ga (sextLow (wm.toNat + 1)) s
/-- R98: the low WM + 1 bits, zero-extended. -/
def execZext (m : Mods) (gd ga : GReg) (wm : BitVec 6) (s : State) : Out := alu1 m gd ga (zextLow (wm.toNat + 1)) s

/-- R99: the address that LEA computes. -/
def State.leaAddr (s : State) (ga : GReg) : LeaOff → Word
  | .idx gb sh => s.g ga + (s.g gb <<< sh.toNat)
  | .imm v => s.g ga + v.signExtend 64
/-- R99. -/
def execLea (m : Mods) (gd ga : GReg) (off : LeaOff) (s : State) : Out :=
  issue m off.len .plain s (fun s => .fall (s.setG gd (s.leaAddr ga off)))

/-- R73. -/
def execMovi (m : Mods) (gd : GReg) (v : MoviImm) (s : State) : Out :=
  issue m v.len .plain s (fun s => .fall (s.setG gd v.value))

/-- R100: the comparison of CMP. -/
def cmpW (w : Bool) (cond : BitVec 4) (x y : Word) : Bool :=
  if w then cmpCond cond (x.setWidth 32) (y.setWidth 32) else cmpCond cond x y
/-- R100. -/
def execCmp (m : Mods) (qd : QReg) (ga : GReg) (y : Src) (w : Bool) (cond : BitVec 4) (s : State) : Out :=
  issue m y.len .plain s (fun s => .fall (s.setQ qd (cmpW w cond (s.g ga) (s.src y))))
/-- R101. -/
def execCsel (m : Mods) (gd : GReg) (qc : QReg) (ga gb : GReg) (s : State) : Out :=
  issue m 8 .plain s (fun s => .fall (s.setG gd (if s.q qc then s.g ga else s.g gb)))
/-- R102. -/
def execQop (m : Mods) (qd qa qb : QReg) (tt : BitVec 4) (s : State) : Out :=
  issue m 8 .plain s (fun s => .fall (s.setQ qd (ttBit tt (s.q qa) (s.q qb))))

/-! ## Floating point (R103 to R106) -/

/-- R103: an FP32 operation on two registers; V-class. -/
def fp2 (m : Mods) (gd ga gb : GReg) (rm : BitVec 3) (f : RMode → BitVec 32 → BitVec 32 → BitVec 32) (s : State) : Out :=
  issue m 8 .plain s (fun s =>
    .fall (s.laterG gd ((f (arithMode rm s.cx.rmode) ((s.g ga).setWidth 32) ((s.g gb).setWidth 32)).setWidth 64)))

/-- R103. -/
def execFadd (m : Mods) (gd ga gb : GReg) (rm : BitVec 3) (s : State) : Out := fp2 m gd ga gb rm f32Add s
/-- R103. -/
def execFsub (m : Mods) (gd ga gb : GReg) (rm : BitVec 3) (s : State) : Out := fp2 m gd ga gb rm f32Sub s
/-- R103. -/
def execFmul (m : Mods) (gd ga gb : GReg) (rm : BitVec 3) (s : State) : Out := fp2 m gd ga gb rm f32Mul s
/-- R103. -/
def execFmin (m : Mods) (gd ga gb : GReg) (rm : BitVec 3) (s : State) : Out := fp2 m gd ga gb rm (fun _ => f32Min) s
/-- R103. -/
def execFmax (m : Mods) (gd ga gb : GReg) (rm : BitVec 3) (s : State) : Out := fp2 m gd ga gb rm (fun _ => f32Max) s
/-- R103. -/
def execFdiv (m : Mods) (gd ga gb : GReg) (rm : BitVec 3) (s : State) : Out := fp2 m gd ga gb rm f32Div s
/-- R103: one rounding. -/
def execFfma (m : Mods) (gd ga gb gc : GReg) (rm : BitVec 3) (s : State) : Out :=
  issue m 8 .plain s (fun s => .fall (s.laterG gd
    ((f32Fma (arithMode rm s.cx.rmode) ((s.g ga).setWidth 32) ((s.g gb).setWidth 32) ((s.g gc).setWidth 32)).setWidth 64)))
/-- R103. -/
def execFsqrt (m : Mods) (gd ga : GReg) (rm : BitVec 3) (s : State) : Out :=
  issue m 8 .plain s (fun s =>
    .fall (s.laterG gd ((f32Sqrt (arithMode rm s.cx.rmode) ((s.g ga).setWidth 32)).setWidth 64)))
/-- R104. -/
def execFcmp (m : Mods) (qd : QReg) (ga gb : GReg) (cond : BitVec 4) (s : State) : Out :=
  issue m 8 .plain s (fun s =>
    .fall (s.laterQ qd (f32Cond cond ((s.g ga).setWidth 32) ((s.g gb).setWidth 32))))

/-- R106, R18: the rounding mode in effect of a conversion, and whether it is SR. SR is accepted where both formats are
floating-point; DYN that selects SR rounds by RNE elsewhere. -/
def cvtCode (rm rmode : BitVec 3) (df sf : BitVec 4) : BitVec 3 :=
  let c := dynCode rm rmode
  if c = 4 && (fmtInt df || fmtInt sf) then 0 else c
/-- R34: the mode of a conversion by a generator state; SR takes the word of one step(). -/
def cvtMode (code : BitVec 3) (gen : Word) : RMode := if code = 4 then .sr (genStep gen) else plainMode code

/-- R105, R106, R34: FCVT. Whenever the mode in effect is SR, step() is called once. -/
def execFcvt (m : Mods) (gd ga : GReg) (rm : BitVec 3) (df sf : BitVec 4) (ov : BitVec 2) (s : State) : Out :=
  issue m 8 .plain s (fun s =>
    let code := cvtCode rm s.cx.rmode df sf
    let v := convert df sf ov (cvtMode code s.cx.gen) (s.g ga)
    let s := if code = 4 then { s with cx := { s.cx with gen := genStep s.cx.gen } } else s
    .fall (s.laterG gd v))

end Sys2Proof.Machine
end

