-- ==== Sys2Proof/Machine/Special.lean ====
section
/-! DEFINITION. The functions of VSPEC (R151): the exact value, or a value between the same two neighbours of every grid that
one rounding to FP32 can meet. Irrational values are computed to 320 binary places and made odd in their last place. -/

namespace Sys2Proof.Machine

/-- Binary places of the fixed-point computations. -/
def places : Nat := 320
def one320 : Nat := 2 ^ places

/-- e ^ t from its series; t, the term and the sum in units of 2 ^ -320. -/
def expSum (t : Nat) : Nat → Nat → Nat → Nat → Nat
  | 0, _, _, acc => acc
  | fuel + 1, k, term, acc => expSum t fuel (k + 1) (term * t / one320 / (k + 1)) (acc + term)
/-- e ^ t for 0 ≤ t ≤ 1. -/
def exp320 (t : Nat) : Nat := expSum t 90 0 one320 0

/-- The odd series of the inverse hyperbolic tangent. -/
def atanhSum (z2 : Nat) : Nat → Nat → Nat → Nat → Nat
  | 0, _, _, acc => acc
  | fuel + 1, k, pow, acc => atanhSum z2 fuel (k + 1) (pow * z2 / one320) (acc + pow / (2 * k + 1))
def atanh320 (z : Nat) : Nat := atanhSum (z * z / one320) 110 0 z 0
/-- The natural logarithm of 2. -/
def ln2 : Nat := 2 * atanh320 (one320 / 3)

/-- An inexact value of 320 places, made odd in its last place. -/
def odd320 (neg : Bool) (v : Nat) (e : Int) : FV := .fin neg (2 * (v / 2 ^ 32) + 1) (e - 320 + 32 - 1)

/-- An exponent beyond the range of every format, brought near it. -/
def nearExp (n : Int) : Int := max (-1000) (min 1000 n)

def fvExp2 : FV → FV
  | .nan => .nan
  | .inf neg => if neg then .fin false 0 0 else .inf false
  | .fin neg m e =>
    let x := scaled neg m (e + 320) 0
    let n := x / (one320 : Int)
    let f := (x % (one320 : Int)).toNat
    if f = 0 then .fin false 1 (nearExp n) else odd320 false (exp320 (f * ln2 / one320)) (nearExp n)

def fvLog2 : FV → FV
  | .nan => .nan
  | .inf neg => if neg then .nan else .inf false
  | .fin neg m e =>
    if m = 0 then .inf true
    else if neg then .nan
    else
      let lead := Nat.log2 m
      let p := 2 ^ lead
      let n := e + lead
      if m = p then ofScaled n 0 false
      else
        let l := 2 * atanh320 ((m - p) * one320 / (m + p)) * one320 / ln2
        let v := n * (one320 : Int) + l
        odd320 (decide (v < 0)) v.natAbs 0

def fvRcp (x : FV) : FV := fvDiv (.fin false 1 0) x

def fvRsqrt : FV → FV
  | .nan => .nan
  | .inf neg => if neg then .nan else .fin false 0 0
  | .fin neg m e =>
    if m = 0 then .inf neg
    else if neg then .nan
    else
      let (m1, e1) := if e % 2 = 0 then (m, e) else (2 * m, e - 1)
      let n := 2 ^ 160 / m1
      let r := isqrt n (Nat.log2 n / 2 + 1) 0
      .fin false (2 * r + (if r * r * m1 = 2 ^ 160 then 0 else 1)) (-81 - e1 / 2)

def fvTanh : FV → FV
  | .nan => .nan
  | .inf neg => .fin neg 1 0
  | .fin neg m e =>
    if m = 0 then .fin neg 0 0
    else
      let lead : Int := Nat.log2 m + e
      if lead < -40 then .fin neg (m * 2 ^ 64 - 1) (e - 64)
      else if lead ≥ 6 then .fin neg (2 ^ 64 - 1) (-64)
      else
        let y := m * 2 ^ (e + 321).toNat
        let t := exp320 (y % ln2) * 2 ^ (y / ln2)
        .fin neg (2 * ((t - one320) * 2 ^ 128 / (t + one320)) + 1) (-129)

/-- R151: fn 0 exp2, 1 log2, 2 rcp, 3 rsqrt, 4 tanh. -/
def specFn (fn : BitVec 4) (mode : RMode) (x : BitVec 32) : BitVec 32 :=
  let v := fv32 x
  to32 mode (if fn = 0 then fvExp2 v else if fn = 1 then fvLog2 v else if fn = 2 then fvRcp v
    else if fn = 3 then fvRsqrt v else fvTanh v)

end Sys2Proof.Machine
end

