-- ==== Sys2Proof/Machine/Vector.lean ====
section
/-! DEFINITION. Stash, vector and mask instructions (R130 to R152). -/

namespace Sys2Proof

/-- R134. -/
def PsetSrc.len : PsetSrc → Nat
  | .reg _ => 8
  | .imm _ => 16

end Sys2Proof

namespace Sys2Proof.Machine

/-! ## Pointers (R134, R135) -/

/-- R134. -/
def execPset (m : Mods) (pd : PReg) (v : PsetSrc) (s : State) : Out :=
  issue m v.len .plain s (fun s => .fall (s.setP pd (match v with | .reg r => s.g r | .imm w => w)))

/-- R135: the cursor moves by step_cursor with the pointer's own WRAP. -/
def padv (d : Word) (delta : Word) : Word := setCur d (stepCursor (pWrap d) (pCur d) delta.toInt)
/-- R135. -/
def execPadv (m : Mods) (pd : PReg) (y : Src) (s : State) : Out :=
  issue m y.len .plain s (fun s => .fall (s.setP pd (padv (s.p pd) (s.src y))))

/-! ## Windows (R136 to R140) -/

/-- R139: the cause of a Stash Map fault of SMAP. -/
def smapCause (k : CoreSt) (a v n : Nat) : Option (BitVec 16) :=
  if a % 256 ≠ 0 || n % 256 ≠ 0 || n = 0 || decide (stashSize < a + n) then some 1
  else if v % 256 ≠ 0 then some 2
  else if k.windows.any (fun w => (decide (w.stash < a + n) && decide (a < w.stash + w.len)) ||
      (decide (w.va.toNat < v + n) && decide (v < w.va.toNat + w.len))) then some 3
  else if k.windows.length ≥ 16 then some 4
  else none

/-- R137: a new window with no entry filled; the scratch it covers is lost. -/
def State.addWindow (s : State) (a v n : Word) : State :=
  let k := s.myCore
  let w : Window := { stash := a.toNat, va := v, len := n.toNat, owner := s.cx.id.slot, filled := [] }
  { (s.setCore { k with windows := k.windows ++ [w] }) with
    poison := s.poison.filter (fun p => !(decide (stashPoison k.id a.toNat ≤ p) && decide (p < stashPoison k.id a.toNat + n.toNat))) }

def smapBody (gs gv gl : GReg) (s : State) : Done :=
  match smapCause s.myCore (s.g gs).toNat (s.g gv).toNat (s.g gl).toNat with
  | some c => .raise (s.flt 6 c) s
  | none => .fall (s.addWindow (s.g gs) (s.g gv) (s.g gl))
/-- R137. -/
def execSmap (m : Mods) (gs gv gl : GReg) (s : State) : Out := issue m 8 .plain s (smapBody gs gv gl)

/-- R138: the window that a context owns at a stash start. -/
def State.ownWindow (s : State) (a : Word) : Option Window :=
  s.myCore.windows.find? (fun w => w.stash = a.toNat && w.owner = s.cx.id.slot)
/-- R138, R139 cause 5. -/
def State.withWindow (s : State) (gs : GReg) (f : Window → State) : Done :=
  match s.ownWindow (s.g gs) with
  | none => .raise (s.flt 6 5) s
  | some w => .fall (f w)

/-- R138. -/
def execSunmap (m : Mods) (gs : GReg) (s : State) : Out :=
  issue m 8 .ending s (fun s => s.withWindow gs (fun w => s.unmap s.cx.id.coreId w))
/-- R138. -/
def execSflush (m : Mods) (gs : GReg) (s : State) : Out :=
  issue m 8 .ending s (fun s => s.withWindow gs (fun w => s.flushWindow s.cx.id.coreId w))

/-- R138: the entries of a window are dropped; bytes stored only there take the values that memory held, and words the poison marks. -/
def State.dropEntries (s : State) (w : Window) : State :=
  let mine := fun (e : Nat × (Byte × Bool) × Nat) => e.2.2 = s.winOwner && w.filled.any (fun x => x.2 / 64 = e.1 / 64)
  let k := s.myCore
  let s := s.setCore { k with windows := k.windows.map (fun x => if x.stash = w.stash then { x with filled := [] } else x) }
  { s with
    mem := (s.dirty.filter mine).foldl (fun t e => tset 0 t e.1 e.2.1.1) s.mem
    poison := s.poison ++ (((s.dirty.filter mine).filter (fun e => e.2.1.2)).map (fun e => e.1 / 8 * 8)).eraseDups.filter
      (fun w => !s.poison.contains w)
    dirty := s.dirty.filter (fun e => !mine e) }
/-- R138. -/
def execSinv (m : Mods) (gs : GReg) (s : State) : Out :=
  issue m 8 .plain s (fun s => s.withWindow gs (fun w => s.dropEntries w))

/-! ## Lane operations -/

def mapLanes (f : Lane → Lane) (v : Vector Lane 32) : Vector Lane 32 := v.map f
def zipLanes (f : Lane → Lane → Lane) (v w : Vector Lane 32) : Vector Lane 32 := Vector.zipWith f v w

/-- A masked instruction with one vector source. -/
def vec1 (m : Mods) (ad : AReg) (sa : VSrc) (mc : MReg) (fmt : BitVec 4) (f : State → Lane → Lane) (s : State) : Out :=
  issue m 8 .plain s (fun s => Try.done do
    let mask := s.m mc
    let (v, s) ← s.src1 fmt sa
    pure (.fall (s.laterA ad mask (mapLanes (f s) v))))

/-- A masked instruction with two vector sources. -/
def vec2 (m : Mods) (ad : AReg) (sa sb : VSrc) (mc : MReg) (fmt : BitVec 4)
    (f : State → Vector Lane 32 → Vector Lane 32 → Vector Lane 32) (s : State) : Out :=
  issue m 8 .plain s (fun s => Try.done do
    let mask := s.m mc
    let (v, w, s) ← s.src2 fmt sa sb
    pure (.fall (s.laterA ad mask (f s v w))))

/-- R132: the float operation rounds by RM; the integer operation wraps. -/
def laneOp (fmt : BitVec 4) (rm : BitVec 3) (ff : RMode → Lane → Lane → Lane) (fi : Lane → Lane → Lane) (s : State) :
    Lane → Lane → Lane :=
  if fmtFloat fmt then ff (arithMode rm s.cx.rmode) else fi

/-! ## Loads, stores, moves (R141) -/

/-- R141. -/
def execVlda (m : Mods) (ad : AReg) (p : PReg) (mc : MReg) (fmt : BitVec 4) (_ : BitVec 3) (s : State) : Out :=
  vec1 m ad (.p p) mc fmt (fun _ x => x) s

/-- The low bytes of the active lanes, in lane order. -/
def laneBytes (w : Nat) (mask : BitVec 32) (v : Vector Lane 32) : List (Option Byte) :=
  (List.finRange 32).flatMap (fun l =>
    if mask.getLsbD l.val then (leBytes w v[l].toNat).map some else List.replicate w none)

/-- R141: the whole span is checked; the bytes of active lanes are written. -/
def vstaBody (p : PReg) (ab : AReg) (mc : MReg) (fmt : BitVec 4) (s : State) : Try Done := do
  let mask := s.m mc
  let v := s.a ab
  s.modeOk p
  let (ls, s) ← s.spanAt 1 (stashW fmt) p
  pure (.fall ((writeStash ls (laneBytes (stashW fmt) mask v) s).advance p))
/-- R141. -/
def execVsta (m : Mods) (p : PReg) (ab : AReg) (mc : MReg) (fmt : BitVec 4) (_ : BitVec 3) (s : State) : Out :=
  issue m 8 .plain s (fun s => Try.done (vstaBody p ab mc fmt s))

/-- R141. -/
def execVmova (m : Mods) (ad : AReg) (sa : VSrc) (mc : MReg) (fmt : BitVec 4) (_ : BitVec 3) (s : State) : Out :=
  vec1 m ad sa mc fmt (fun _ x => x) s

/-! ## Arithmetic (R142) -/

/-- R142. -/
def execVadd (m : Mods) (ad : AReg) (sa sb : VSrc) (mc : MReg) (fmt : BitVec 4) (rm : BitVec 3) (s : State) : Out :=
  vec2 m ad sa sb mc fmt (fun s => zipLanes (laneOp fmt rm f32Add (· + ·) s)) s
/-- R142. -/
def execVsub (m : Mods) (ad : AReg) (sa sb : VSrc) (mc : MReg) (fmt : BitVec 4) (rm : BitVec 3) (s : State) : Out :=
  vec2 m ad sa sb mc fmt (fun s => zipLanes (laneOp fmt rm f32Sub (· - ·) s)) s
/-- R142. -/
def execVmul (m : Mods) (ad : AReg) (sa sb : VSrc) (mc : MReg) (fmt : BitVec 4) (rm : BitVec 3) (s : State) : Out :=
  vec2 m ad sa sb mc fmt (fun s => zipLanes (laneOp fmt rm f32Mul (· * ·) s)) s
/-- R142: the product plus the addend, which is `ad` as read at issue; float lanes round once. -/
def execVfma (m : Mods) (ad : AReg) (sa sb : VSrc) (mc : MReg) (fmt : BitVec 4) (rm : BitVec 3) (s : State) : Out :=
  vec2 m ad sa sb mc fmt (fun x v w =>
    let add := x.a ad
    Vector.ofFn (fun l : Fin 32 =>
      if fmtFloat fmt then f32Fma (arithMode rm x.cx.rmode) v[l] w[l] add[l] else v[l] * w[l] + add[l])) s
/-- R142. -/
def execVmin (m : Mods) (ad : AReg) (sa sb : VSrc) (mc : MReg) (fmt : BitVec 4) (rm : BitVec 3) (s : State) : Out :=
  vec2 m ad sa sb mc fmt (fun s => zipLanes (laneOp fmt rm (fun _ => f32Min) minS s)) s
/-- R142. -/
def execVmax (m : Mods) (ad : AReg) (sa sb : VSrc) (mc : MReg) (fmt : BitVec 4) (rm : BitVec 3) (s : State) : Out :=
  vec2 m ad sa sb mc fmt (fun s => zipLanes (laneOp fmt rm (fun _ => f32Max) maxS s)) s
/-- R142: the magnitude, modulo 2 ^ 32. -/
def execVabs (m : Mods) (ad : AReg) (sa : VSrc) (mc : MReg) (fmt : BitVec 4) (_ : BitVec 3) (s : State) : Out :=
  vec1 m ad sa mc fmt (fun _ x => if fmtFloat fmt then f32Abs x else if x.slt 0 then -x else x) s

/-! ## Bits and shifts (R143) -/

/-- R143. -/
def execVand (m : Mods) (ad : AReg) (sa sb : VSrc) (mc : MReg) (fmt : BitVec 4) (_ : BitVec 3) (s : State) : Out :=
  vec2 m ad sa sb mc fmt (fun _ => zipLanes (· &&& ·)) s
/-- R143. -/
def execVor (m : Mods) (ad : AReg) (sa sb : VSrc) (mc : MReg) (fmt : BitVec 4) (_ : BitVec 3) (s : State) : Out :=
  vec2 m ad sa sb mc fmt (fun _ => zipLanes (· ||| ·)) s
/-- R143. -/
def execVxor (m : Mods) (ad : AReg) (sa sb : VSrc) (mc : MReg) (fmt : BitVec 4) (_ : BitVec 3) (s : State) : Out :=
  vec2 m ad sa sb mc fmt (fun _ => zipLanes (· ^^^ ·)) s
/-- R143: shift left by sb[4:0]. -/
def execVshl (m : Mods) (ad : AReg) (sa sb : VSrc) (mc : MReg) (fmt : BitVec 4) (_ : BitVec 3) (s : State) : Out :=
  vec2 m ad sa sb mc fmt (fun _ => zipLanes shlN) s
/-- R143: shift right by sb[4:0], arithmetic for FMT 8, 9 and 10. -/
def execVshr (m : Mods) (ad : AReg) (sa sb : VSrc) (mc : MReg) (fmt : BitVec 4) (_ : BitVec 3) (s : State) : Out :=
  vec2 m ad sa sb mc fmt (fun _ => zipLanes (if fmt = 8 || fmt = 9 || fmt = 10 then sarN else shrN)) s

/-! ## Conversion (R144) -/

/-- n calls of step(): the words returned and the state after. -/
def genSteps : Nat → Word → List Word × Word
  | 0, g => ([], g)
  | n + 1, g => let g' := genStep g; let (ws, e) := genSteps n g'; (g' :: ws, e)

/-- R144: VCVT. SF governs the bits read; under SR step() is called for each of the 32 lanes. -/
def vcvtBody (ad : AReg) (sa : VSrc) (mc : MReg) (rm : BitVec 3) (df sf : BitVec 4) (ov : BitVec 2) (s : State) : Try Done := do
  let mask := s.m mc
  let code := cvtCode rm s.cx.rmode df sf
  let (v, s) ← s.srcBy (rawLanes sf) sf sa
  let (ws, gen) := genSteps 32 s.cx.gen
  let mode := fun (l : Nat) => if code = 4 then RMode.sr (ws.getD l 0) else plainMode code
  let r := Vector.ofFn (fun l : Fin 32 => (convert df sf ov (mode l.val) (v[l].setWidth 64)).setWidth 32)
  let s := if code = 4 then { s with cx := { s.cx with gen := gen } } else s
  pure (.fall (s.laterA ad mask r))
/-- R144. -/
def execVcvt (m : Mods) (ad : AReg) (sa : VSrc) (mc : MReg) (rm : BitVec 3) (df sf : BitVec 4) (ov : BitVec 2) (s : State) : Out :=
  issue m 8 .plain s (fun s => Try.done (vcvtBody ad sa mc rm df sf ov s))

/-! ## Comparison, selection (R145, R146) -/

def maskOf (f : Nat → Bool) : BitVec 32 := BitVec.ofFnLE (fun l : Fin 32 => f l.val)

/-- R145. -/
def laneCond (fmt cond : BitVec 4) (x y : Lane) : Bool := if fmtFloat fmt then f32Cond cond x y else cmpCond cond x y
/-- R145: an inactive lane gives 0. -/
def execVcmp (m : Mods) (md : MReg) (sa sb : VSrc) (mc : MReg) (fmt : BitVec 4) (_ : BitVec 3) (cond : BitVec 4) (s : State) : Out :=
  issue m 8 .plain s (fun s => Try.done do
    let mask := s.m mc
    let (v, w, s) ← s.src2 fmt sa sb
    pure (.fall (s.laterM md (BitVec.ofFnLE (fun l : Fin 32 => mask.getLsbD l.val && laneCond fmt cond v[l] w[l])))))

/-- R146: the mask selects; every lane is written. -/
def execVsel (m : Mods) (ad : AReg) (sa sb : VSrc) (mc : MReg) (fmt : BitVec 4) (_ : BitVec 3) (s : State) : Out :=
  issue m 8 .plain s (fun s => Try.done do
    let sel := s.m mc
    let (v, w, s) ← s.src2 fmt sa sb
    pure (.fall (s.laterA ad (BitVec.allOnes 32) (mergeLanes sel v w))))

/-! ## Reduction (R147) -/

/-- R147: the operation: the codes of R125, with 10 for `.fmin`. -/
def redOp (op : BitVec 4) (x y : Lane) : Lane :=
  if op = 8 then f32Add .rne x y else if op = 9 then f32Max x y else if op = 10 then f32Min x y else intOp op 32 x y
/-- R147: the identities. -/
def redUnit (op : BitVec 4) : Lane :=
  if op = 1 || op = 6 then 0xFFFFFFFF else if op = 4 then 0x7FFFFFFF else if op = 5 then 0x80000000
  else if op = 8 then 0x80000000 else if op = 9 then 0xFF800000 else if op = 10 then 0x7F800000 else 0
/-- One level of the tree: lane l combines with lane l + n. -/
def redLevel (op : BitVec 4) (l : List Lane) : List Lane :=
  let n := l.length / 2
  List.zipWith (redOp op) (l.take n) (l.drop n)
/-- R147: the tree. -/
def redTree (op : BitVec 4) (mask : BitVec 32) (v : Vector Lane 32) : Lane :=
  let l0 := (List.finRange 32).map (fun l => if mask.getLsbD l.val then v[l] else redUnit op)
  let l5 := redLevel op (redLevel op (redLevel op (redLevel op (redLevel op l0))))
  l5.headD 0
/-- R147: a float result and an unsigned result are zero-extended, the others sign-extended. -/
def redWord (op : BitVec 4) (x : Lane) : Word := if 6 ≤ op then x.setWidth 64 else x.signExtend 64
/-- R147. -/
def execVred (m : Mods) (gd : GReg) (sa : VSrc) (mc : MReg) (fmt : BitVec 4) (_ : BitVec 3) (op : BitVec 4) (s : State) : Out :=
  issue m 8 .plain s (fun s => Try.done do
    let mask := s.m mc
    let (v, s) ← s.src1 fmt sa
    pure (.fall (s.laterG gd (redWord op (redTree op mask v)))))

/-! ## Building lanes (R148, R149) -/

/-- R148: lane l takes the lane of sa that sb[l][4:0] names. -/
def permLanes (v w : Vector Lane 32) : Vector Lane 32 :=
  Vector.ofFn (fun l : Fin 32 => v[(w[l].setWidth 5).toFin])
/-- R148. -/
def execVperm (m : Mods) (ad : AReg) (sa sb : VSrc) (mc : MReg) (fmt : BitVec 4) (_ : BitVec 3) (s : State) : Out :=
  vec2 m ad sa sb mc fmt (fun _ => permLanes) s
/-- R148. -/
def execVbcast (m : Mods) (ad : AReg) (ga : GReg) (mc : MReg) (_ : BitVec 3) (s : State) : Out :=
  issue m 8 .plain s (fun s => .fall (s.laterA ad (s.m mc) (Vector.replicate 32 ((s.g ga).setWidth 32))))
/-- R148: the ones of the mask below a lane. -/
def onesBelow (mask : BitVec 32) (l : Nat) : Nat := ((List.range l).filter (fun k => mask.getLsbD k)).length
/-- R148. -/
def execViota (m : Mods) (ad : AReg) (ga : GReg) (mc : MReg) (_ : BitVec 3) (s : State) : Out :=
  issue m 8 .plain s (fun s =>
    let mask := s.m mc
    .fall (s.laterA ad mask (Vector.ofFn (fun l : Fin 32 => (s.g ga).setWidth 32 + BitVec.ofNat 32 (onesBelow mask l.val)))))
/-- R149. -/
def execVextr (m : Mods) (gd : GReg) (aa : AReg) (lane : BitVec 5) (fmt : BitVec 4) (_ : BitVec 3) (s : State) : Out :=
  issue m 8 .plain s (fun s =>
    let x := (s.a aa)[lane.toFin]
    .fall (s.laterG gd (if fmt = 8 then x.signExtend 64 else x.setWidth 64)))
/-- R149. -/
def execVins (m : Mods) (ad : AReg) (ga : GReg) (lane : BitVec 5) (_ : BitVec 4) (_ : BitVec 3) (s : State) : Out :=
  issue m 8 .plain s (fun s =>
    .fall (s.laterA ad (1 <<< lane.toNat) (Vector.replicate 32 ((s.g ga).setWidth 32))))

/-! ## Gather and scatter (R150) -/

/-- The stash addresses of the active lanes, ascending. -/
def laneAddrs (base : Word) (idx : Vector Lane 32) (w : Nat) (mask : BitVec 32) : List (Nat × Nat) :=
  ((List.finRange 32).filter (fun l => mask.getLsbD l.val)).map (fun l =>
    (l.val, (base + idx[l].setWidth 64 * natWord w).toNat))

/-- R150: the checks of the active lanes: alignment, range, other windows. -/
def laneChecks (s : State) (acc : BitVec 2) (w : Nat) : List (Nat × Nat) → Try Unit
  | [] => .ok ()
  | (_, e) :: es =>
    if e % w ≠ 0 then .error (.raise (s.fltAt 4 0 acc (natWord e)) s)
    else if stashSize < e + w then .error (.raise (s.flt 5 0) s)
    else if (windowAt s.myCore.windows e).any (fun x => x.owner ≠ s.cx.id.slot) then
      .error (.raise (s.flt 5 0) s)
    else laneChecks s acc w es

/-- R453: the lines that the lanes touch are translated in ascending address order; nothing is accessed before all are. -/
def laneLines (acc : BitVec 2) (w : Nat) (es : List (Nat × Nat)) (s : State) : Try (List (Nat × List StashLine) × State) := do
  let sorted := sortBy (fun (x y : Nat × Nat) => decide (x.2 ≤ y.2)) es
  let (_, s) ← stashLines acc (sorted.map (fun e => (e.2, w))) s
  let (ls, s) ← stashLines acc (es.map (fun e => (e.2, w))) s
  pure ((es.zip ls).map (fun e => (e.1.1, [e.2])), s)

/-- The lanes are read in ascending order. -/
def gatherLanes (fmt : BitVec 4) : List (Nat × List StashLine) → Vector Lane 32 → State → Vector Lane 32 × State
  | [], v, s => (v, s)
  | (l, ls) :: es, v, s =>
    let (bs, s) := readStash ls s
    gatherLanes fmt es (v.setIfInBounds l (widen fmt (leNat bs))) s

def vgathBody (ad : AReg) (ga : GReg) (ab : AReg) (mc : MReg) (fmt : BitVec 4) (s : State) : Try Done := do
  let mask := s.m mc
  let w := stashW fmt
  let es := laneAddrs (s.g ga) (s.a ab) w mask
  laneChecks s 0 w es
  let (ls, s) ← laneLines 0 w es s
  let (v, s) := gatherLanes fmt ls (Vector.replicate 32 0) s
  pure (.fall (s.laterA ad mask v))
/-- R150. -/
def execVgath (m : Mods) (ad : AReg) (ga : GReg) (ab : AReg) (mc : MReg) (fmt : BitVec 4) (_ : BitVec 3) (s : State) : Out :=
  issue m 8 .plain s (fun s => Try.done (vgathBody ad ga ab mc fmt s))

/-- The lanes are written in ascending order, so the higher of two lanes at one place remains. -/
def scatterLanes (w : Nat) (v : Vector Lane 32) : List (Nat × List StashLine) → State → State
  | [], s => s
  | (l, ls) :: es, s => scatterLanes w v es (writeStash ls ((leBytes w ((v[l]?).getD 0).toNat).map some) s)

def vscatBody (ga : GReg) (ab ac : AReg) (mc : MReg) (fmt : BitVec 4) (s : State) : Try Done := do
  let w := stashW fmt
  let v := s.a ac
  let es := laneAddrs (s.g ga) (s.a ab) w (s.m mc)
  laneChecks s 1 w es
  let (ls, s) ← laneLines 1 w es s
  pure (.fall (scatterLanes w v ls s))
/-- R150: the DST slot holds the data. -/
def execVscat (m : Mods) (ga : GReg) (ab ac : AReg) (mc : MReg) (fmt : BitVec 4) (_ : BitVec 3) (s : State) : Out :=
  issue m 8 .plain s (fun s => Try.done (vscatBody ga ab ac mc fmt s))

/-! ## VSPEC (R151) -/

/-- R151. -/
def execVspec (m : Mods) (ad : AReg) (sa : VSrc) (mc : MReg) (fmt : BitVec 4) (rm : BitVec 3) (fn : BitVec 4) (s : State) : Out :=
  vec1 m ad sa mc fmt (fun s x => specFn fn (arithMode rm s.cx.rmode) x) s

/-! ## Masks (R152) -/

/-- R152: the truth table, lane by lane. -/
def execMkopTt (m : Mods) (md ma mb : MReg) (tt : BitVec 4) (s : State) : Out :=
  issue m 8 .plain s (fun s => .fall (s.laterM md
    (maskOf (fun l => ttBit tt ((s.m ma).getLsbD l) ((s.m mb).getLsbD l)))))
/-- R152. -/
def execMkopReg (m : Mods) (md : MReg) (ga : GReg) (s : State) : Out :=
  issue m 8 .plain s (fun s => .fall (s.laterM md ((s.g ga).setWidth 32)))
/-- R152: 0 the number of ones, 1 the index of the lowest one or 32, 2 the mask itself. -/
def maskQuery (fn : BitVec 2) (x : BitVec 32) : Word :=
  if fn = 0 then natWord (onesOf x) else if fn = 1 then natWord (ctzFrom x 32 0) else x.setWidth 64
/-- R152. -/
def execMkpop (m : Mods) (gd : GReg) (ma : MReg) (fn : BitVec 2) (s : State) : Out :=
  issue m 8 .plain s (fun s => .fall (s.laterG gd (maskQuery fn (s.m ma))))

end Sys2Proof.Machine
end

