-- ==== Sys2Proof/Machine/Matrix.lean ====
section
/-! DEFINITION. Matrix instructions and the matrix engine (R25 to R29, R155 to R166). -/

namespace Sys2Proof.Machine

/-! ## Descriptors (R155, R158) -/

/-- R155: bits of an element: Q8G is 5, Q4G is 6. -/
def tileBits (fmt : BitVec 4) : Nat := if fmt = 5 then 8 else if fmt = 6 then 4 else codeBits fmt
/-- R158: the size that an operand base and a stride must be a multiple of. -/
def tileAlign (fmt : BitVec 4) : Nat := if fmt = 5 || fmt = 6 then 1 else codeBits fmt / 8
/-- Bytes of one row. -/
def rowBytes (fmt : BitVec 4) (cols : Nat) : Nat := (cols * tileBits fmt + 7) / 8

/-- R155: a descriptor of 16 bytes; none where a reserved field is nonzero or FMT is reserved. -/
def tileOf (bs : List Byte) : Option Tile :=
  let w := dwAt bs 0
  if fld w 0 4 > 6 || fld w 16 16 ≠ 0 || dwAt bs 1 ≠ 0 then none
  else some ⟨fld w 0 4, (fld w 4 6).toNat + 1, (fld w 10 6).toNat + 1, (fld w 32 32).toNat⟩

/-- R158 causes 1, 2 and 4 of a descriptor, for the formats that the instruction accepts. -/
def tileCause (ok : BitVec 4 → Bool) (bs : List Byte) : Except (BitVec 16) Tile :=
  match tileOf bs with
  | none => .error 1
  | some t =>
    if !ok t.fmt then .error 2
    else if t.stride < rowBytes t.fmt t.cols || t.stride % tileAlign t.fmt ≠ 0 then .error 4
    else .ok t

/-- R157, R453: a descriptor is aligned, read wherever it is homed (no rule homes it in the package), and checked. -/
def State.readTile (s : State) (ok : BitVec 4 → Bool) (va : Word) : Try (Tile × State) := do
  s.aligned 0 16 va
  let (bs, s) ← s.gather va 16
  match tileCause ok bs with
  | .error c => .error (.raise (s.flt 7 c) s)
  | .ok t => pure (t, s)

/-! ## Pages (R157) -/

/-- The virtual pages of the rows of an operand, with an address in each. -/
def tilePages (base : Word) (stride : Nat) (n rows : Nat) : List Word :=
  (List.range rows).flatMap (fun i => (rangePieces (base + natWord (i * stride)) n).map Prod.fst)

/-- R157: every page is translated at issue and held; a page homed elsewhere is found after the others. -/
def holdPages (acc : BitVec 2) : List Word → List (Nat × Nat) → Bool → State → Try (List (Nat × Nat) × Bool × State)
  | [], ps, away, s => .ok (ps, away, s)
  | va :: vas, ps, away, s =>
    if ps.any (fun p => p.1 = va.toNat / 65536) then holdPages acc vas ps away s
    else match s.access acc false va with
      | .error d => .error d
      | .ok (.hbm pa, s) => holdPages acc vas ((va.toNat / 65536, pa / 65536) :: ps) away s
      | .ok (_, s) => holdPages acc vas ((va.toNat / 65536, 0) :: ps) true s

/-- An operand at issue: alignment, pages, homing. -/
def State.operand (s : State) (acc : BitVec 2) (al : Nat) (base : Word) (stride n rows : Nat) (ps : List (Nat × Nat)) :
    Try (List (Nat × Nat) × State) := do
  s.aligned acc al base
  let (qs, away, s) ← holdPages acc (tilePages base stride n rows) [] false s
  if away then .error (.raise (s.flt 7 5) s) else pure (qs ++ ps, s)

/-- The physical address of a byte of a held page. -/
def heldPa (ps : List (Nat × Nat)) (va : Word) : Nat :=
  match ps.find? (fun p => p.1 = va.toNat / 65536) with
  | some (_, f) => f * 65536 + va.toNat % 65536
  | none => 0
/-- A range of held pages, in pieces. -/
def heldPieces (ps : List (Nat × Nat)) (va : Word) (n : Nat) : List (Word × Nat × Nat) :=
  (rangePieces va n).map (fun p => (p.1, heldPa ps p.1, p.2))

/-! ## Issue (R54, R156) -/

/-- R156: the operation enters the matrix queue, or the instruction holds issue. -/
def State.mxIssue (s : State) (x : TileNo) (tok : Option Tok) (kind : MxKind) (ps : List (Nat × Nat)) : Done :=
  let k := s.myCore
  let op : MxOp := { by_ := s.issuer, x := x, tok := tok, kind := kind, pages := ps, req := s.fresh, upset := [] }
  .fall ({ s with fresh := s.fresh + 1 }.setCore { k with mxq := k.mxq ++ [op] } |>.tokBusy tok)

/-- R54: no free entry, or a busy token. -/
def State.mxHolds (s : State) (tok : Option Tok) : Bool := decide (s.myCore.mxq.length ≥ 2) || s.tokIsBusy tok

/-- R159. -/
def execMxz (m : Mods) (x : TileNo) (s : State) : Out :=
  issue m 8 .plain s (fun s => if s.mxHolds none then .hold s else s.mxIssue x none .zero [])

/-- R160: the pairs of formats. -/
def mulFmts (a b : BitVec 4) : Bool :=
  (a = 1 && b = 1) || (a = 2 && b = 2) || ((a = 3 || a = 4) && (b = 3 || b = 4))

def mxmulBody (x : TileNo) (tok : Option Tok) (ga gb gc : GReg) (da db : BitVec 32) (s : State) : Try Done := do
  if s.mxHolds tok then .error (.hold s) else pure ()
  let pa := s.g ga + da.signExtend 64
  let pb := s.g gb + db.signExtend 64
  let pd := s.g gc
  let (a, s) ← s.readTile (fun f => f ≠ 0 && f ≤ 4) pd
  let (b, s) ← s.readTile (fun f => mulFmts a.fmt f) (pd + 16)
  let (ps, s) ← s.operand 0 (tileAlign a.fmt) pa a.stride (rowBytes a.fmt a.cols) a.rows []
  let (ps, s) ← s.operand 0 (tileAlign b.fmt) pb b.stride (rowBytes b.fmt b.cols) b.rows ps
  if a.cols ≠ b.rows then .error (.raise (s.flt 7 3) s)
  else pure (s.mxIssue x tok (.mul a b pa pb) ps)
/-- R160. -/
def execMxmul (m : Mods) (x : TileNo) (tok : Option Tok) (ga gb gc : GReg) (da db : BitVec 32) (s : State) : Out :=
  issue m 16 .plain s (fun s => Try.done (mxmulBody x tok ga gb gc da db s))

/-- R161: the group size. -/
def groupSize (gs : BitVec 2) : Nat := 32 * 2 ^ gs.toNat
/-- R161: the number of K indices: with GS = 128 the instruction covers 128. -/
def quantK (a : Tile) (gs : BitVec 2) : Nat := if gs = 2 then 128 else a.cols
def quantGroups (a : Tile) (gs : BitVec 2) : Nat := (quantK a gs + groupSize gs - 1) / groupSize gs
/-- Where the K indices from 64 on of A begin. -/
def quantHalf (a : Tile) : Nat := if a.fmt = 5 then 64 else 32
/-- R155, R158 cause 3. -/
def oddQ4 (t : Tile) : Bool := t.fmt = 6 && t.cols % 2 = 1

def mxqBody (x : TileNo) (tok : Option Tok) (ga gb gc gq : GReg) (gs : BitVec 2) (da db : BitVec 32) (s : State) :
    Try Done := do
  if s.mxHolds tok then .error (.hold s) else pure ()
  let pa := s.g ga + da.signExtend 64
  let pb := s.g gb + db.signExtend 64
  let pd := s.g gc
  let pz := s.g gq
  let q := fun (f : BitVec 4) => f = 5 || f = 6
  let (a, s) ← s.readTile q pd
  let (b, s) ← s.readTile q (pd + 16)
  let wide := gs = 2
  let (ps, s) ← s.operand 0 1 pa a.stride (rowBytes a.fmt a.cols) a.rows []
  let (ps, s) ← (if wide then s.operand 0 1 (pa + natWord (quantHalf a)) a.stride (rowBytes a.fmt a.cols) a.rows ps else pure (ps, s))
  let (ps, s) ← s.operand 0 1 pb b.stride (rowBytes b.fmt b.cols) (if wide then 2 * b.rows else b.rows) ps
  let ng := quantGroups a gs
  let (ps, s) ← s.operand 0 4 pz 0 (4 * (a.rows * ng + ng * b.cols)) 1 ps
  if oddQ4 a || oddQ4 b || (if wide then a.cols ≠ 64 || b.rows ≠ 64 else b.rows ≠ a.cols) then .error (.raise (s.flt 7 3) s)
  else pure (s.mxIssue x tok (.quant a b pa pb pz gs) ps)
/-- R161. -/
def execMxq (m : Mods) (x : TileNo) (tok : Option Tok) (ga gb gc gq : GReg) (gs : BitVec 2) (da db : BitVec 32) (s : State) : Out :=
  issue m 16 .plain s (fun s => Try.done (mxqBody x tok ga gb gc gq gs da db s))

/-- R162: rows, columns and stride; the 64-bit form means a whole tile. -/
def shapeOf (fmt : BitVec 4) : Option Shape → Nat × Nat × Nat
  | some h => (h.rowsM1.toNat + 1, h.colsM1.toNat + 1, h.stride.toNat)
  | none => (64, 64, 64 * (codeBits fmt / 8))
def shapeLen : Option Shape → Nat
  | some _ => 16
  | none => 8
/-- R158 cause 4 of a shape. -/
def strideBad (fmt : BitVec 4) (cols stride : Nat) : Bool :=
  decide (stride < rowBytes fmt cols) || stride % tileAlign fmt ≠ 0

/-- The destination or source of MXDRN and MXLDX at issue. -/
def State.shapeOperand (s : State) (acc : BitVec 2) (base : Word) (fmt : BitVec 4) (rows cols stride : Nat) :
    Try (List (Nat × Nat) × State) := do
  s.aligned acc (tileAlign fmt) base
  let (qs, away, s) ← holdPages acc (tilePages base stride (rowBytes fmt cols) rows) [] false s
  if strideBad fmt cols stride then .error (.raise (s.flt 7 4) s)
  else if away then .error (.raise (s.flt 7 5) s)
  else pure (qs, s)

def mxldxBody (x : TileNo) (tok : Option Tok) (ga : GReg) (fmt : BitVec 4) (shape : Option Shape) (s : State) : Try Done := do
  if s.mxHolds tok then .error (.hold s) else pure ()
  let base := s.g ga
  let (rows, cols, stride) := shapeOf fmt shape
  let (ps, s) ← s.shapeOperand 0 base fmt rows cols stride
  pure (s.mxIssue x tok (.load base fmt rows cols stride) ps)
/-- R162. -/
def execMxldx (m : Mods) (x : TileNo) (tok : Option Tok) (ga : GReg) (fmt : BitVec 4) (shape : Option Shape) (s : State) : Out :=
  issue m (shapeLen shape) .plain s (fun s => Try.done (mxldxBody x tok ga fmt shape s))

/-- R163: the generator state after the 4,096 steps of one drain. -/
def genSkip : Nat → Word → Word
  | 0, g => g
  | n + 1, g => genSkip n (genStep g)

/-- R50: the outstanding result gm. -/
def State.drainResult (s : State) (gm : GReg) : State :=
  if gm = 0 then s
  else
    let r : RemAcc :=
      { req := s.fresh, src := s.cx.id, seq := 0, dpkg := s.pkg, ddie := 0, host := false, counted := false, kind := .value gm, opc := 0,
        va := 0, opnd := 0, ctr := none, sys := false, engs := [], sz := 0, poison := false, inRun := true, region := s.cx.region, pctx := s.cx.pctx,
        inv := s.cx.invId, ph := s.cx.phOf }
    { s with cx := { s.cx with rem := s.cx.rem ++ [r] } }

def mxdrnBody (x : TileNo) (tok : Option Tok) (ga gm : GReg) (fmt : BitVec 4) (rm : BitVec 3) (ov : BitVec 2)
    (shape : Option Shape) (s : State) : Try Done := do
  if s.mxHolds tok then .error (.hold s) else pure ()
  let base := s.g ga
  let old := s.g gm
  let (rows, cols, stride) := shapeOf fmt shape
  let (ps, s) ← s.shapeOperand 1 base fmt rows cols stride
  let code := dynCode rm s.cx.rmode
  let gen := s.cx.gen
  let s := if code = 4 then { s with cx := { s.cx with gen := genSkip 4096 gen } } else s
  pure ((s.drainResult gm).mxIssue x tok (.drain base gm old fmt code ov rows cols stride gen) ps)
/-- R163. -/
def execMxdrn (m : Mods) (x : TileNo) (tok : Option Tok) (ga gm : GReg) (fmt : BitVec 4) (rm : BitVec 3) (ov : BitVec 2)
    (shape : Option Shape) (s : State) : Out :=
  issue m (shapeLen shape) .plain s (fun s => Try.done (mxdrnBody x tok ga gm fmt rm ov shape s))

/-! ## Tiles and checksums (R164) -/

def tileKey (x : TileNo) (i j : Nat) : Nat := x.toNat * 4096 + i * 64 + j
def Ctx.elem (c : Ctx) (x : TileNo) (i j : Nat) : Lane := tget 0 c.x (tileKey x i j)
def Ctx.setElem (c : Ctx) (x : TileNo) (i j : Nat) (v : Lane) : Ctx := { c with x := tset 0 c.x (tileKey x i j) v }
/-- Keys of the sums of a row and of a column. -/
def rowKey (x : TileNo) (i : Nat) : Nat := x.toNat * 256 + i
def colKey (x : TileNo) (j : Nat) : Nat := x.toNat * 256 + 64 + j
/-- A finite value in units of 2 ^ -300: every product of two elements is a whole number of them. -/
def exact300 : FV → Int
  | .fin neg m e => scaled neg m (e + 300) 0
  | _ => 0
def FV.finite : FV → Bool
  | .fin _ _ _ => true
  | _ => false

/-- R164: one contribution to the sums of its row and column. -/
def Ctx.addSums (c : Ctx) (x : TileNo) (i j : Nat) (z mag : Int) : Ctx :=
  let add := fun (t : Tbl Int) (k : Nat) (v : Int) => tset 0 t k (tget 0 t k + v)
  { c with sums := add (add (add (add c.sums (rowKey x i) z) (colKey x j) z) (rowKey x i + 128) mag) (colKey x j + 128) mag }
def Ctx.badSums (c : Ctx) (x : TileNo) (i j : Nat) : Ctx := { c with sumBad := rowKey x i :: colKey x j :: c.sumBad }
/-- Contributions of one element. -/
def Ctx.contribute (c : Ctx) (x : TileNo) (i j : Nat) (vs : List FV) : Ctx :=
  let zs := vs.map exact300
  let c := c.addSums x i j (zs.foldl (· + ·) 0) (zs.foldl (fun a z => a + (z.natAbs : Int)) 0)
  if vs.all FV.finite then c else c.badSums x i j

/-- The tile and its sums are cleared. -/
def Ctx.clearTile (c : Ctx) (x : TileNo) : Ctx :=
  { c with
    x := c.x.filter (fun e => e.1 / 4096 ≠ x.toNat)
    sums := c.sums.filter (fun e => e.1 / 256 ≠ x.toNat)
    sumBad := c.sumBad.filter (fun k => k / 256 ≠ x.toNat) }
/-- An element is set, and its sums follow from its value. -/
def Ctx.loadElem (c : Ctx) (x : TileNo) (i j : Nat) (v : Lane) : Ctx := (c.setElem x i j v).contribute x i j [fv32 v]
/-- R164: after a resumption the sums follow from the restored tile. -/
def Ctx.recheck (c : Ctx) : Ctx :=
  c.x.foldl (fun c e => c.contribute (BitVec.ofNat 2 (e.1 / 4096)) (e.1 / 64 % 64) (e.1 % 64) [fv32 e.2])
    { c with sums := [], sumBad := [] }

def idx2 (rows cols : Nat) : List (Nat × Nat) := (List.range rows).flatMap (fun i => (List.range cols).map (fun j => (i, j)))

/-! ## Group sums (R25, R26, R29) -/

/-- R25: a magnitude truncated to the unit 2 ^ u, with its sign, in units. -/
def truncTo (u : Int) : FV → Int
  | .fin neg m e =>
    let k : Int := (if e ≥ u then m * 2 ^ (e - u).toNat else m / 2 ^ (u - e).toNat : Nat)
    if neg then -k else k
  | _ => 0
/-- The exponent of the leading bit of a value that is not zero. -/
def leadExp : FV → Option Int
  | .fin _ m e => if m = 0 then none else some (Nat.log2 m + e)
  | _ => none
def maxExp (ps : List FV) : Option Int :=
  ps.foldl (fun a p => match a, leadExp p with
    | none, x => x
    | some a, some b => some (max a b)
    | some a, none => some a) none

/-- R25, R26: one group of products into one element. -/
def groupAcc (acc : Lane) (ps : List FV) : Lane :=
  let pos := ps.any (fun p => p = .inf false)
  let neg := ps.any (fun p => p = .inf true)
  if ps.any FV.isNan || (pos && neg) then to32 .rne .nan
  else if pos || neg then to32 .rne (fvAdd false (fv32 acc) (.inf neg))
  else match maxExp ps with
    | none => acc
    | some e =>
      let u := e - 30
      let z := ps.foldl (fun a p => a + truncTo u p) 0
      if z = 0 then acc else to32 .rne (fvAdd false (fv32 acc) (ofScaled z u false))

/-- Groups of 32, in ascending order. -/
def groupsOf32 : Nat → List FV → List (List FV)
  | 0, _ => []
  | fuel + 1, ps => if ps.isEmpty then [] else ps.take 32 :: groupsOf32 fuel (ps.drop 32)
def mulAcc (acc : Lane) (ps : List FV) : Lane := (groupsOf32 (ps.length + 1) ps).foldl groupAcc acc

/-- R29: the integer dot of one group. -/
def intDot (ca cb : List Nat) (za zb : Nat) : Int :=
  (List.zipWith (fun a b => ((a : Int) - za) * ((b : Int) - zb)) ca cb).foldl (· + ·) 0
/-- R164: the integer dots of a group, as its rows of codes less their zero points give them, with the soft errors that have struck
them. -/
def groupDots (as bs : List (List Int)) (upset : List ((Nat × Nat) × Int)) : List (List Int) :=
  (as.zip (List.range as.length)).map (fun a => (bs.zip (List.range bs.length)).map (fun b =>
    (List.zipWith (· * ·) a.1 b.1).foldl (· + ·) 0 +
      ((upset.filter (fun e => e.1 = (a.2, b.2))).map Prod.snd).foldl (· + ·) 0))
/-- Sums of lists, place by place. -/
def sumLists : List (List Int) → List Int
  | [] => []
  | [l] => l
  | l :: ls => List.zipWith (· + ·) l (sumLists ls)
/-- R164: the independent checksums of a group: row sums from the sum of B's columns, column sums from the sum of A's rows. -/
def dotChecks (as bs : List (List Int)) : List Int × List Int :=
  let dot := fun (a b : List Int) => (List.zipWith (· * ·) a b).foldl (· + ·) 0
  (as.map (fun a => dot a (sumLists bs)), bs.map (fun b => dot (sumLists as) b))
/-- R165: what the checks of a tile, or of a group of integer dots, find. -/
inductive Check where
  | good
  | fix (i l : Nat)
  | bad
  deriving DecidableEq, Repr
def checkOf (rows cols : List Nat) : Check :=
  match rows, cols with
  | [], [] => .good
  | [i], [l] => .fix i l
  | _, _ => .bad
/-- R164, R165: the check of the dots of a group: any inexact match is a mismatch. -/
def checkDots (as bs : List (List Int)) (d : List (List Int)) : Check :=
  let (rs, cs) := dotChecks as bs
  let sums := fun (ls : List (List Int)) => ls.map (fun l => l.foldl (· + ·) 0)
  let off := fun (x y : List Int) => (List.range x.length).filter (fun k => x.getD k 0 ≠ y.getD k 0)
  checkOf (off (sums d) rs) (off (sumLists d) cs)
/-- R165: the dots of a group after their check: as they are, or with one recomputed from the operands; none where they are not to be
corrected. The flag says that one was. -/
def checkedDots (as bs : List (List Int)) (upset : List ((Nat × Nat) × Int)) : Option (Bool × List (List Int)) :=
  let d := groupDots as bs upset
  match checkDots as bs d with
  | .good => some (false, d)
  | .fix i l => some (true, d.modify i (fun r => r.set l ((List.zipWith (· * ·) (as.getD i []) (bs.getD l [])).foldl (· + ·) 0)))
  | .bad => none
/-- R29: the scaled term of one group. -/
def groupTerm (d : Int) (sa sb : Nat) : FV :=
  fvMul (fvMul (ofScaled d 0 false) (decodeFV (fmtOf 1) sa)) (decodeFV (fmtOf 1) sb)

/-! ## The engine at work (R156, R157) -/

/-- Bytes of a range of held pages. -/
def heldBytes (s : State) (key : BitVec 8) (ps : List (Nat × Nat)) (va : Word) (n : Nat) : List Byte :=
  (heldPieces ps va n).flatMap (fun p => s.bytes key p.2.1 p.2.2)
/-- The first poisoned word of a range. -/
def heldBad (s : State) (ps : List (Nat × Nat)) (va : Word) (n : Nat) : Option (Word × Nat) :=
  (heldPieces ps va n).findSome? (fun (p : Word × Nat × Nat) => (s.badWord p.2.1 p.2.2).map (fun (w : Nat) => (p.1 + intWord ((w : Int) - (p.2.1 : Int)), w)))
def heldRecall (ps : List (Nat × Nat)) (va : Word) (n : Nat) (s : State) : State :=
  (heldPieces ps va n).foldl (fun s p => s.recallAll p.2.1 p.2.2) s

/-- The ranges that an operation reads. -/
def MxOp.reads (op : MxOp) : List (Word × Nat) :=
  let rows := fun (b : Word) (t : Tile) (n : Nat) => (List.range n).map (fun i => (b + natWord (i * t.stride), rowBytes t.fmt t.cols))
  match op.kind with
  | .mul a b pa pb => rows pa a a.rows ++ rows pb b b.rows
  | .quant a b pa pb pz gs =>
    let ng := quantGroups a gs
    rows pa a a.rows ++ (if gs = 2 then rows (pa + natWord (quantHalf a)) a a.rows else []) ++
      rows pb b (if gs = 2 then 2 * b.rows else b.rows) ++ [(pz, 4 * (a.rows * ng + ng * b.cols))]
  | .load src fmt rs cs st => (List.range rs).map (fun i => (src + natWord (i * st), rowBytes fmt cs))
  | _ => []

/-- The elements of one row, as values. -/
def floatRow (fmt : BitVec 4) (cols : Nat) (bs : List Byte) : List FV :=
  let w := codeBits fmt / 8
  (List.range cols).map (fun j => decodeFV (fmtOf fmt) (leNat ((bs.drop (w * j)).take w)))
/-- R27: the codes of one row. -/
def codeRow (fmt : BitVec 4) (cols : Nat) (bs : List Byte) : List Nat :=
  if fmt = 5 then (bs.take cols).map (·.toNat)
  else (List.range cols).map (fun j => (bs.getD (j / 2) 0).toNat / (if j % 2 = 0 then 1 else 16) % 16)
/-- The columns of a list of rows, as arrays. -/
def colsOf {α : Type} (d : α) (cols : Nat) (rows : List (List α)) : Array (List α) :=
  let rs := rows.map List.toArray
  ((List.range cols).map (fun j => rs.map (fun r => r.getD j d))).toArray

/-- R160, R164: MXMUL on the tile of a context. -/
def Ctx.mxMul (c : Ctx) (x : TileNo) (as : List (List FV)) (bs : Array (List FV)) : Ctx :=
  ((as.zip (List.range as.length))).foldl (fun c ai =>
    ((bs.toList.zip (List.range bs.size))).foldl (fun c bj =>
      let ps := List.zipWith fvMul ai.1 bj.1
      (c.setElem x ai.2 bj.2 (mulAcc (c.elem x ai.2 bj.2) ps)).contribute x ai.2 bj.2 ps) c) c

/-- R161: the parameter word of a group: scale and zero point. -/
def paramOf (fmt : BitVec 4) (w : List Byte) : Nat × Nat :=
  let v := leNat w
  (v % 65536, if fmt = 5 then v / 65536 % 256 else v / 65536 % 16)

/-- R164, R165: the integer dots of every group of MXQ, checked: codes of A's rows and B's columns, and the parameter words. -/
def quantDots (fa fb : BitVec 4) (gsz ng : Nat) (as bs : List (List Nat)) (params : Array (List Byte)) (upset : List ((Nat × Nat × Nat) × Int)) :
    Option (Bool × List (List (List Int))) :=
  let m := as.length
  let n := bs.length
  let less := fun (z : Nat) (g : Nat) (cs : List Nat) => ((cs.drop (g * gsz)).take gsz).map (fun c => (c : Int) - z)
  (List.range ng).foldr (fun g r =>
    let ag := (as.zip (List.range m)).map (fun a => less (paramOf fa (params.getD (a.2 * ng + g) [])).2 g a.1)
    let bg := (bs.zip (List.range n)).map (fun b => less (paramOf fb (params.getD (m * ng + g * n + b.2) [])).2 g b.1)
    let hit := (upset.filter (fun e => e.1.1 = g)).map (fun e => (e.1.2, e.2))
    match checkedDots ag bg hit, r with
    | some (f, d), some (fs, ds) => some (f || fs, d :: ds)
    | _, _ => none) (some (false, []))
/-- R29, R164: MXQ on the tile of a context, by its integer dots and the parameter words. -/
def Ctx.mxQuant (c : Ctx) (x : TileNo) (fa fb : BitVec 4) (ng m n : Nat) (ds : List (List (List Int))) (params : Array (List Byte)) : Ctx :=
  let da := (ds.map (fun d => (d.map List.toArray).toArray)).toArray
  (idx2 m n).foldl (fun c ij =>
    (List.range ng).foldl (fun c g =>
      let (sa, _) := paramOf fa (params.getD (ij.1 * ng + g) [])
      let (sb, _) := paramOf fb (params.getD (m * ng + g * n + ij.2) [])
      let t := groupTerm (((da.getD g #[]).getD ij.1 #[]).getD ij.2 0) sa sb
      (c.setElem x ij.1 ij.2 (to32 .rne (fvAdd false (fv32 (c.elem x ij.1 ij.2)) t))).contribute x ij.1 ij.2 [t]) c) c

/-! ### The drain (R163, R165) -/

def Ctx.rowVals (c : Ctx) (x : TileNo) (i : Nat) : List FV := (List.range 64).map (fun j => fv32 (c.elem x i j))
def Ctx.colVals (c : Ctx) (x : TileNo) (j : Nat) : List FV := (List.range 64).map (fun i => fv32 (c.elem x i j))
def sum300 (vs : List FV) : Int := vs.foldl (fun a v => a + exact300 v) 0
/-- R165: whether a row or a column mismatches its checksum. -/
def Ctx.mismatch (c : Ctx) (key : Nat) (vs : List FV) : Bool :=
  vs.all FV.finite && !c.sumBad.contains key &&
    decide (((sum300 vs - tget 0 c.sums key).natAbs : Int) * 1024 > tget 0 c.sums (key + 128))
/-- R165: what the checks of a tile find. -/
def Ctx.check (c : Ctx) (x : TileNo) : Check :=
  checkOf ((List.range 64).filter (fun i => c.mismatch (rowKey x i) (c.rowVals x i)))
    ((List.range 64).filter (fun j => c.mismatch (colKey x j) (c.colVals x j)))
/-- R165: the corrected element. -/
def Ctx.fixElem (c : Ctx) (x : TileNo) (i l : Nat) : Ctx :=
  let others := sum300 ((List.range 64).map (fun j => if j = l then .fin false 0 0 else fv32 (c.elem x i j)))
  c.setElem x i l (to32 .rne (ofScaled (tget 0 c.sums (rowKey x i) - others) (-300) false))

/-- R163: the largest magnitude. -/
def Ctx.amax (c : Ctx) (x : TileNo) (rows cols : Nat) : Lane :=
  (idx2 rows cols).foldl (fun a ij => f32Max a (f32Abs (c.elem x ij.1 ij.2))) 0
/-- R163: the bytes of one row of the destination. -/
def drainRow (c : Ctx) (x : TileNo) (fmt : BitVec 4) (ov : BitVec 2) (mode : Nat → RMode) (cols i : Nat) : List Byte :=
  (List.range cols).flatMap (fun j =>
    leBytes (codeBits fmt / 8) (encodeFV (fmtOf fmt) (ovOf ov) (mode (i * 64 + j)) (fv32 (c.elem x i j))))

/-- R426, R430, R431: a correction is counted; the third by one core within a second asks for a scan. -/
def State.noteFix (s : State) (core : CoreId) : State :=
  let d := s.die core.die
  let s := s.setDie core.die { d with stats := { d.stats with abftcorr := d.stats.abftcorr + 1 } }
  let k := s.core core
  let recent := s.time :: k.fixes.filter (fun t => decide ((s.time - t).toNat < 1000000000))
  if recent.length ≥ 3 then
    let st := (s.die core.die).stats
    (s.setCore { k with fixes := [], wantScan := true }).postHealth 8 0 core st.abftcorr st.abftfail 0
  else s.setCore { k with fixes := recent }
/-- R165, R430: a containment error of the checksums. -/
def State.noteAbft (s : State) (core : CoreId) : State :=
  let d := s.die core.die
  let s := s.setDie core.die { d with stats := { d.stats with abftfail := d.stats.abftfail + 1 } }
  let st := (s.die core.die).stats
  s.postHealth 8 1 core st.abftcorr st.abftfail 0

/-- The context whose tiles an operation works on: the issuing one, on its task context or in its frame, or what it left (R163). -/
def State.tileCtx (s : State) (b : Issuer) : Ctx :=
  if b.isRun (s.ctx b.ctx) then s.ctx b.ctx
  else (s.leftTiles.find? (fun c => c.id = b.ctx && c.invId = b.inv)).getD (s.ctx b.ctx)
def State.onTiles (s : State) (b : Issuer) (f : Ctx → Ctx) : State :=
  let left := fun (c : Ctx) => c.id = b.ctx && c.invId = b.inv
  if !b.isRun (s.ctx b.ctx) && s.leftTiles.any left then { s with leftTiles := s.leftTiles.map (fun c => if left c then f c else c) }
  else s.onIssuer b f
/-- R163: what a freed context left is kept while an operation works on it. -/
def State.dropTiles (s : State) : State :=
  if s.leftTiles.isEmpty then s
  else { s with leftTiles := s.leftTiles.filter (fun c => (s.core c.id.coreId).mxq.any (fun x => x.by_.ctx = c.id && x.by_.inv = c.invId)) }

/-- The outstanding result of a drain is written, or is given up. -/
def Ctx.drained (c : Ctx) (req : Nat) (v : Option RegVal) : Ctx :=
  { c with rem := c.rem.filter (fun r => r.req ≠ req), pend := c.pend ++ v.toList }

/-- R163: the writes of a drain. -/
def State.drainWrites (s : State) (op : MxOp) (c : Ctx) (dst : Word) (fmt : BitVec 4) (ov : BitVec 2) (mode : Nat → RMode)
    (rows cols stride : Nat) : State :=
  (List.range rows).foldl (fun s i =>
    let bs := drainRow c op.x fmt ov mode cols i
    let va := dst + natWord (i * stride)
    (heldPieces op.pages va bs.length).foldl (fun (a : State × List Byte) p =>
      (a.1.engPut op.by_ p.1 p.2.1 (a.2.take p.2.2), a.2.drop p.2.2)) (s, bs) |>.1) s

def State.runDrain (s : State) (op : MxOp) (dst : Word) (gm : GReg) (old : Word) (fmt : BitVec 4) (code : BitVec 3)
    (ov : BitVec 2) (rows cols stride : Nat) (gen : Word) : State :=
  let c := s.tileCtx op.by_
  let core := op.by_.ctx.coreId
  match c.check op.x with
  | .bad =>
    let s := ((s.noteAbft core).onIssuer op.by_ (fun c => c.drained op.req none)).containEng op.by_ 5 0 dst
    s.engFail op.by_ op.tok 6 0 dst
  | r =>
    let s := match r with | .fix i l => (s.noteFix core).onTiles op.by_ (fun c => c.fixElem op.x i l) | _ => s
    let c := s.tileCtx op.by_
    let words := if code = 4 then (genSteps 4096 gen).1.toArray else #[]
    let mode := fun (n : Nat) => if code = 4 then RMode.sr (words.getD n 0) else plainMode code
    let top := f32Max (f32Abs (old.setWidth 32)) (c.amax op.x rows cols)
    let s := s.drainWrites op c dst fmt ov mode rows cols stride
    (s.onIssuer op.by_ (fun c => c.drained op.req (if gm = 0 then none else some (.g gm (top.setWidth 64))))).tokDone op.by_ op.tok

/-- The effect of an operation whose operands are readable. -/
def State.runMx (s : State) (op : MxOp) : State :=
  let key := op.by_.prot.keyslot
  let row := fun (va : Word) (n : Nat) => heldBytes s key op.pages va n
  match op.kind with
  | .zero => s.onTiles op.by_ (fun c => c.clearTile op.x)
  | .mul a b pa pb =>
    let as := (List.range a.rows).map (fun i => floatRow a.fmt a.cols (row (pa + natWord (i * a.stride)) (rowBytes a.fmt a.cols)))
    let bs := (List.range b.rows).map (fun i => floatRow b.fmt b.cols (row (pb + natWord (i * b.stride)) (rowBytes b.fmt b.cols)))
    (s.onTiles op.by_ (fun c => c.mxMul op.x as (colsOf FV.nan b.cols bs))).tokDone op.by_ op.tok
  | .quant a b pa pb pz gs =>
    let wide := gs = 2
    let arow := fun (i : Nat) =>
      codeRow a.fmt a.cols (row (pa + natWord (i * a.stride)) (rowBytes a.fmt a.cols)) ++
        (if wide then codeRow a.fmt a.cols (row (pa + natWord (quantHalf a) + natWord (i * a.stride)) (rowBytes a.fmt a.cols)) else [])
    let bs := (List.range (if wide then 2 * b.rows else b.rows)).map (fun i =>
      codeRow b.fmt b.cols (row (pb + natWord (i * b.stride)) (rowBytes b.fmt b.cols)))
    let ng := quantGroups a gs
    let nw := a.rows * ng + ng * b.cols
    let pbs := row pz (4 * nw)
    let params := ((List.range nw).map (fun k => (pbs.drop (4 * k)).take 4)).toArray
    let core := op.by_.ctx.coreId
    match quantDots a.fmt b.fmt (groupSize gs) ng ((List.range a.rows).map arow) (colsOf 0 b.cols bs).toList params op.upset with
    | some (fixed, ds) =>
      ((if fixed then s.noteFix core else s).onTiles op.by_ (fun c => c.mxQuant op.x a.fmt b.fmt ng a.rows b.cols ds params)).tokDone
        op.by_ op.tok
    | none => ((s.noteAbft core).containEng op.by_ 5 0 pa).engFail op.by_ op.tok 6 0 pa
  | .drain dst gm old fmt code ov rows cols stride gen => s.runDrain op dst gm old fmt code ov rows cols stride gen
  | .load src fmt rows cols stride =>
    let vals := (List.range rows).flatMap (fun i =>
      let bs := row (src + natWord (i * stride)) (rowBytes fmt cols)
      (List.range cols).map (fun j => (i, j, widen fmt (leNat ((bs.drop (codeBits fmt / 8 * j)).take (codeBits fmt / 8))))))
    (s.onTiles op.by_ (fun c => vals.foldl (fun c v => c.loadElem op.x v.1 v.2.1 v.2.2) (c.clearTile op.x))).tokDone op.by_ op.tok

/-- R156, R157, R418: the operation at the head of a core's matrix queue is performed and its entry freed. A poisoned operand
word ends it in error; its tile and the sums of the tile then stay as they were (the spec does not say: log entry 102). -/
def State.mxComplete (s : State) (core : CoreId) : State :=
  let k := s.core core
  match k.mxq with
  | [] => s
  | op :: rest =>
    if !s.forked op.by_ then s else
    let s := s.setCore { k with mxq := rest }
    match op.reads.findSome? (fun r => heldBad s op.pages r.1 r.2) with
    | some (va, w) => ((s.engPoison op.by_ ⟨va, some w, 5, 0⟩).engFail op.by_ op.tok 2 0 va).dropTiles
    | none => ((op.reads.foldl (fun s r => heldRecall op.pages r.1 r.2 s) s).runMx op).dropTiles

/-- R156. -/
def execMatrixOpComplete (core : CoreId) (s : State) : Out := .next (s.mxComplete core).counted

end Sys2Proof.Machine
end

