-- ==== Sys2Proof/Machine/Objects.lean ====
section
/-! DEFINITION. Objects, the issue of invocations, promises (R187 to R202, R243). -/

namespace Sys2Proof.Machine

/-- R169: the precise fault Invalid Name where a test fails. -/
def State.needName (s : State) (ok : Bool) : Try Unit := if ok then .ok () else .error (.raise (s.flt 9 0) s)

/-! ## Questions to agents of other packages -/

/-- Puts a question whose answer the issuing context awaits. -/
def State.questionAt (s : State) (va : Word) (pkg : BitVec 12) (die : BitVec 2) (q : Query) (kind : RemKind) : Try State :=
  if s.mustWait pkg die then .error (.hold s)
  else
    let c := s.cx
    let r : RemAcc :=
      { req := s.fresh, src := c.id, seq := 0, dpkg := pkg, ddie := die, host := false, counted := false, kind := kind, opc := 0, va := va,
        opnd := 0, ctr := none, sys := false, engs := [], sz := 0, poison := false, inRun := kind ≠ .poll && kind ≠ .gather, region := c.region, pctx := c.pctx, inv := s.issuer.inv,
        ph := s.issuer.ph }
    .ok (({ s with fresh := s.fresh + 1, cx := { c with rem := c.rem ++ [r] } }).sendAsk pkg die r.req q)
def State.question (s : State) (pkg : BitVec 12) (die : BitVec 2) (q : Query) (kind : RemKind) : Try State := s.questionAt 0 pkg die q kind

/-- Puts a question about a condition elsewhere, or gives the answer, which is used once. -/
def State.polled (s : State) (pkg : BitVec 12) (die : BitVec 2) (q : Query) : Option (Word × Word) × State :=
  match s.cx.poll with
  | some (_, some a) => (some a, { s with cx := { s.cx with poll := none } })
  | p =>
    if p.any (fun e => s.cx.rem.any (fun r => r.req = e.1)) then (none, s)
    else match s.question pkg die q .poll with
      | .ok s' => (none, { s' with cx := { s'.cx with poll := some (s.fresh, none) } })
      | .error _ => (none, s)

/-! ## Bytes written at issue, wherever they are homed -/

/-- Ordinary stores of single bytes to memory homed elsewhere. -/
def storeAway (pl : Place) (va : Word) : Nat → List Byte → State → Try State
  | _, [], s => .ok s
  | k, b :: bs, s => do
    let s ← s.remote (pl.shift k) (va + natWord k) ⟨3, .store, true, 0, 0, b.setWidth 64, 0, none, 0, false⟩
    storeAway pl va (k + 1) bs s

/-- The pages of a store are translated before anything is written. -/
def storePlaces : List (Word × Nat) → State → Try (List (Word × Place × Nat) × State)
  | [], s => .ok ([], s)
  | (va, n) :: ps, s => do
    let (pl, s) ← s.access 1 false va
    let (rest, s) ← storePlaces ps s
    match pl with
    | .dev _ => .error (.raise (s.fltAt 12 5 1 va) s)
    | pl => pure ((va, pl, n) :: rest, s)
def putPlaces : List (Word × Place × Nat) → List Byte → State → Try State
  | [], _, s => .ok s
  | (va, .hbm pa, n) :: ps, bs, s => putPlaces ps (bs.drop n) (s.writePa s.l1 3 va pa (bs.take n))
  | (va, pl, n) :: ps, bs, s => do
    let s ← storeAway pl va 0 (bs.take n) s
    putPlaces ps (bs.drop n) s
/-- Ordinary stores of bytes wherever they are homed. -/
def State.scatter (s : State) (va : Word) (bs : List Byte) : Try State := do
  let (ps, s) ← storePlaces (rangePieces va bs.length) s
  putPlaces ps bs s

/-! ## Objects (R188 to R190, R243) -/

/-- The first of the least. -/
def leastBy {α : Type} (f : α → Nat) : List α → Option α
  | [] => none
  | x :: xs => match leastBy f xs with
    | some y => if f y < f x then some y else some x
    | none => some x

/-- Cores of a die that are not retired. -/
def State.liveCores (s : State) (die : BitVec 2) : List CoreId :=
  ((List.range 192).map (fun k => (⟨die, BitVec.ofNat 8 k⟩ : CoreId))).filter (fun c => !(s.core c).retired)
/-- Objects homed on a core. -/
def State.homedOn (s : State) (c : CoreId) : Nat := (s.objs.filter (fun o => !o.float && o.home = c)).length
def State.homedIn (s : State) (die : BitVec 2) (cl : Nat) : Nat :=
  (s.objs.filter (fun o => !o.float && o.home.die = die && clusterOf o.home.core = cl)).length

/-- R243: the core with the fewest objects, in the cluster given or in the cluster with the fewest. -/
def State.placeCore (s : State) (die : BitVec 2) (cl : Option Nat) : Option CoreId :=
  let cores := s.liveCores die
  let k := match cl with
    | some k => some k
    | none => leastBy (s.homedIn die) ((List.range 24).filter (fun k => cores.any (fun c => clusterOf c.core = k)))
  match k with
  | some k => leastBy s.homedOn (cores.filter (fun c => clusterOf c.core = k))
  | none => none

/-- R3: entries of an object table. -/
def objCap : Nat := 1048576
def State.objSlot (s : State) (die : BitVec 2) : Option Nat :=
  freeSlot ((s.objs.filter (fun o => nmDie o.name = die)).map (fun o => (nmSlot o.name).toNat)) objCap

/-- R188: where an object can be entered on a die: its slot and its core. -/
def State.objPlace (s : State) (float : Bool) (cl : Option Nat) (die : BitVec 2) : Option (Nat × CoreId) :=
  match s.objSlot die, (if float then some ⟨die, 0⟩ else s.placeCore die cl) with
  | some k, some c => some (k, c)
  | _, _ => none

/-- R188: enters an object. -/
def State.addObj (s : State) (slot : Nat) (home : CoreId) (body : Word) (len : Nat) (cls : Word) (float : Bool)
    (hint : BitVec 2) : Word × State :=
  let name := mkName 1 s.pkg home.die (if float then 0 else home.core) (BitVec.ofNat 24 slot) (s.gen 0 home.die slot)
  let o : Obj := { name := name, body := body, len := len, cls := cls, float := float, hint := hint, pctx := s.cx.pctx,
                   deleted := false, home := home, stubs := [], moved := 0, moving := none, born := home, asked := none }
  (name, { s with objs := s.objs ++ [o] })

def onewBody (gd gbody glen gclass : GReg) (float : Bool) (hint : BitVec 2) (s : State) : Try Done := do
  let body := s.g gbody
  let len := s.g glen
  let cls := s.g gclass
  s.need (decide (len.toNat ≤ 2 ^ 40)) 1
  if body.toNat % 256 = 0 ∧ len.toNat % 256 = 0 ∧ 256 ≤ len.toNat then pure ()
  else .error (.raise (s.fltAt 4 0 0 body) s)
  let (pl, s) ← s.access 0 false body
  s.need (s.rangeHere body len.toNat) 9
  match pl with
  | .hbm pa =>
    let die := if hint = 2 then s.cx.id.die else homeDie pa
    let cl := if hint = 2 then some (clusterOf s.cx.id.core) else none
    let others := dies.filter (fun d => d ≠ die)
    match (s.objPlace float cl die), others.findSome? (s.objPlace float none) with
    | some (k, c), _ => let (n, s) := s.addObj k c body len.toNat cls float hint; pure (.fall (s.laterG gd n))
    | none, some (k, c) => let (n, s) := s.addObj k c body len.toNat cls float hint; pure (.fall (s.laterG gd n))
    | none, none => pure (.fall (s.laterG gd 0))
  | _ => s.operandFault 9
/-- R188. -/
def execOnew (m : Mods) (gd gbody glen gclass : GReg) (float : Bool) (hint : BitVec 2) (s : State) : Out :=
  issue m 8 .plain s (fun s => Try.done (onewBody gd gbody glen gclass float hint s))

/-- R189: an object of this package is deleted. -/
def State.deleteObj (s : State) (n : Word) : State :=
  ({ s with objs := s.objs.map (fun (o : Obj) => if o.name = n then { o with deleted := true } else o) }).objectDone n

/-- Promise and object traffic of the issuing context (R230). -/
def State.sendPrm (s : State) (n : Word) (m : PrmMsg) : Done :=
  if s.mustWait (nmPkg n) (nmDie n) then .hold s
  else .fall (s.sendOrdered (mkPacket s 7 (nmPkg n) (nmDie n) 255 s.cx.id.coreId (s.cx.id.slot.setWidth 4) (.prm m)))

/-- R189. -/
def execOdel (m : Mods) (gn : GReg) (s : State) : Out :=
  issue m 8 .plain s (fun s => Try.done (do
    let n := s.g gn
    s.needName (nameOk s n && isOref n)
    pure (if nmPkg n = s.pkg then .fall (s.deleteObj n) else s.sendPrm n (.odel n))))

/-- R190, R244: the core that an OMOVE asks for; none where the request has no effect. -/
def State.moveTo (s : State) (n near : Word) : Option CoreId :=
  match s.objs.find? (fun o => o.name = n), s.objs.find? (fun o => o.name = near) with
  | some o, some x => if o.float || x.float then none else s.placeCore x.home.die (some (clusterOf x.home.core))
  | _, _ => none
def State.askMove (s : State) (n near : Word) : State :=
  match s.moveTo n near with
  | some c => { s with objs := s.objs.map (fun (o : Obj) => if o.name = n then { o with asked := some c } else o) }.due (.objectMigration n c)
  | none => s
/-- R190. -/
def execOmove (m : Mods) (gn gm : GReg) (s : State) : Out :=
  issue m 8 .plain s (fun s => Try.done (do
    let n := s.g gn
    let near := s.g gm
    s.needName (nameOk s n && isOref n && nameOk s near && isOref near)
    pure (if nmPkg n = s.pkg then .fall (s.askMove n near) else s.sendPrm n (.omove n near))))

/-! ## INVK (R191 to R193, R227) -/

/-- R192: the entries of a residency list; none where a field is wrong. A descriptor with a reserved FMT is such a field, which gives
cause 8; its stride is not checked against its width: DEDUCED (log entry 98). -/
def resEntries : Nat → List Byte → Option (List ResEntry)
  | 0, _ => some []
  | n + 1, bs =>
    if (tileOf (bs.take 16)).isSome && dwAt bs 3 = 0 then
      (resEntries n (bs.drop 32)).map (fun r => ⟨BitVec.ofNat 128 (leNat (bs.take 16)), dwAt bs 2⟩ :: r)
    else none
/-- R192: the count in a list's header; none where it is out of range or a zero field is not zero. -/
def resCount (bs : List Byte) : Option Nat :=
  let n := (dwAt bs 0).toNat
  if n = 0 || decide (16 < n) || dwAt bs 1 ≠ 0 || dwAt bs 2 ≠ 0 || dwAt bs 3 ≠ 0 then none else some n

/-- R192: reads a residency list at issue. -/
def State.readList (s : State) (rlr : GReg) : Try (List ResEntry × State) :=
  if rlr = 0 then .ok ([], s)
  else do
    let va := s.g rlr
    s.aligned 0 32 va
    let (h, s) ← s.gather va 32
    match resCount h with
    | none => s.operandFault 8
    | some n =>
      let (bs, s) ← s.gather (va + 32) (32 * n)
      match resEntries n bs with
      | none => s.operandFault 8
      | some es => pure (es, s)

/-- R3: entries of a promise table. -/
def promiseCap : Nat := 4194304
def State.phSlot (s : State) (die : BitVec 2) : Option Nat :=
  freeSlot ((s.promises.filter (fun p => nmDie p.ph = die)).map (fun p => (nmSlot p.ph).toNat)) promiseCap
/-- A new promise of a die of this package. -/
def State.newPh (s : State) (die : BitVec 2) : Option Word :=
  (s.phSlot die).map (fun k => mkName 2 s.pkg die 0 (BitVec.ofNat 24 k) (s.gen 1 die k))

/-- R191: a grant of a die of another package, held by the core of an agent; the one used last stands first. -/
def State.takeGrant (s : State) (src : CtxId) (sag : BitVec 4) (pkg : BitVec 12) (die : BitVec 2) : Option Word × State :=
  let key := pkg.toNat * 4 + die.toNat
  let k := s.core src.coreId
  let rest := k.grants.filter (fun g => g.1 ≠ key)
  let prm := fun (p : BitVec 12) (d : BitVec 2) (m : PrmMsg) => mkPacket s 7 p d 255 src.coreId sag (.prm m)
  match k.grants.find? (fun g => g.1 = key) with
  | some (_, p :: ps) => (some p, s.setCore { k with grants := (key, ps) :: rest })
  | _ =>
    if k.asked.contains key then (none, s)
    else
      let old := if rest.length ≥ 16 then rest.getLast? else none
      let s := s.setCore { k with asked := key :: k.asked, grants := if rest.length ≥ 16 then rest.dropLast else rest }
      let s := match old with
        | some (_, p :: ps) => s.sendOrdered (prm (nmPkg p) (nmDie p) (.giveBack (p :: ps)))
        | _ => s
      (none, s.sendOrdered (prm pkg die (.ask src s.pkg 0 (.grant die))))

/-- R191: the new promise of an invocation on a name. -/
def State.takePh (s : State) (src : CtxId) (sag : BitVec 4) (n : Word) : Option Word × State :=
  if nmPkg n = s.pkg then (s.newPh (nmDie n), s) else s.takeGrant src sag (nmPkg n) (nmDie n)

/-- Enters a promise of this package. -/
def State.addPromise (s : State) (ph : Word) (l : LaunchId) (inv : Nat) (region : Word) : State :=
  if nmPkg ph ≠ s.pkg then s
  else { s with promises := s.promises ++ [{ ph := ph, st := .pending, conf := false, by_ := none, freed := false, launch := l,
                                             inv := inv, region := region, regs := [], trying := none }] }

/-- The invocation that a packet carries. -/
def packetInv (p : Packet) : Option Inv := match p.payload with | .inv i => some i | _ => none
/-- R226: an invocation that has not started: queued, held or ready. -/
def InvRec.waits (r : InvRec) : Bool := r.stage ≠ .running && r.frame.isEmpty
/-- R228: invocations that a die's store holds, and whether it is full. -/
def storeCap : Nat := 262144
def State.storeFull (s : State) (die : BitVec 2) : Bool := decide (storeCap ≤ (s.invs.filter (fun r => r.die = die && r.waits)).length)
/-- R228: the first home of a target accepts no more invocations. -/
def State.homeFull (s : State) (t : Word) : Bool := nmPkg t = s.pkg && s.storeFull (nmDie t)
/-- R232: an invocation that another context of the issuing context's gang has sent to the same name of another package has not been
accepted there; packets of two agents would not keep their order. -/
def State.othersSend (s : State) (t : Word) : Bool :=
  nmPkg t ≠ s.pkg && s.unacked.any (fun u => !u.acc && (packetInv u.p).any (fun (i : Inv) => i.sender = .inv s.pkg s.issuer.inv && i.sentTo = t) &&
    !(u.p.sdie = s.cx.id.die && u.p.score = s.cx.id.core && u.p.sag = s.cx.id.slot.setWidth 4))

/-- R193, R361: the level of a new invocation of a region whose effective PRIO is p. -/
def newPrio (p own ceil : BitVec 4) : BitVec 4 :=
  let lvl := if 1 ≤ p.toNat ∧ p.toNat ≤ 12 then p - 1 else own
  if lvl.ult ceil then ceil else lvl

/-- R361: where the key of an effective PRIO that another package has told stands among the answers to an instruction: no doubleword
of an address space has it. -/
def prioVa : Word := 0x8000000000000000
/-- R361: the effective PRIO of the region of the issuing context. What no block here supplies is asked of the package that homes the
next block of the chain. -/
def State.regionPrio (s : State) : Try (BitVec 4) :=
  let p := s.effPrio s.cx.prot s.cx.region
  if p ≠ 0 then .ok p
  else match s.awayEnd s.cx.prot s.cx.region with
    | none => .ok 0
    | some (pkg, b) =>
      match s.cx.got.find? (fun e => e.1 = prioVa.toNat / 8) with
      | some (_, v) => .ok (fld v 0 4)
      | none =>
        if s.cx.rem.any (fun r => r.kind = .gather && r.va = prioVa) then .error (.hold s)
        else match s.questionAt prioVa pkg 0 (.prio s.cx.pctx b) .gather with
          | .ok s => .error (.hold s)
          | .error e => .error e

/-- R193: LNUM of the next invocation. -/
def Ctx.nextLnum (c : Ctx) : Word :=
  (c.lnum <<< 16) + ((c.gidx.setWidth 64) <<< 12) + natWord (c.invks % 4096) + 1

/-- R193: the invocation with its stamps. -/
def State.newInv (s : State) (p : BitVec 4) (ph t : Word) (method : BitVec 8) (args : List Word) (resolve : Bool) (gang : BitVec 2)
    (deadline : BitVec 48) (list : List ResEntry) : Inv :=
  let c := s.cx
  { id := s.fresh, ph := ph, target := t, sentTo := t, method := method, args := args, resolve := resolve, gang := gang,
    region := c.region, prio := newPrio p c.prio c.pceil, ceil := c.pceil, deadline := deadline, seed := c.seed,
    lnum := c.nextLnum, pctx := c.pctx, launch := match c.run with | some r => r.i.launch | none => ⟨0, 0, 0⟩,
    sender := .inv s.pkg s.issuer.inv, order := s.fresh, residency := list, arrival := 0, toks := s.release true }

/-- R227: the invocation leaves for its first home. -/
def State.sendInv (s : State) (i : Inv) : State :=
  let c := s.cx
  let s := (s.addPromise i.ph i.launch i.id i.region).runAdd c.pctx c.prot i.region 1
  let s := { s with fresh := s.fresh + 1, cx := { s.cx with invks := s.cx.invks + 1 } }
  s.sendInvTo i c.id.coreId (c.id.slot.setWidth 4)

def invkArgs (s : State) (ga : GReg) (n : Nat) : List Word := (List.range n).map (fun k => s.g (ga + BitVec.ofNat 5 k))

def invkBody (gd gt ga gdl : GReg) (narg : BitVec 3) (resolve : Bool) (gang : BitVec 2) (dl : Bool) (rlr : GReg)
    (method : BitVec 8) (s : State) : Try Done := do
  let t := s.g gt
  s.needName (nameOk s t)
  let (list, s) ← s.readList rlr
  let p ← s.regionPrio
  if s.homeFull t || s.othersSend t || s.mustWait (nmPkg t) (nmDie t) then .error (.hold s) else pure ()
  match s.takePh s.cx.id (s.cx.id.slot.setWidth 4) t with
  | (none, s) => .error (.hold s)
  | (some ph, s) =>
    let d := if dl then fld (s.g gdl) 0 48 else s.cx.deadline
    let i := s.newInv p ph t method (invkArgs s ga narg.toNat) resolve gang d list
    pure (.fall ((s.sendInv i).laterG gd ph))
/-- R191. -/
def execInvk (m : Mods) (gd gt ga gdl : GReg) (narg : BitVec 3) (resolve : Bool) (gang : BitVec 2) (dl : Bool) (rlr : GReg)
    (method : BitVec 8) (s : State) : Out :=
  issue m 16 .plain s (fun s => Try.done (invkBody gd gt ga gdl narg resolve gang dl rlr method s))

/-! ## AWAIT (R197) -/

/-- R197: what AWAIT writes when the chain has ended: gd, qd and the bytes for gbuf. -/
def awaitEnd (conf : Bool) : ChainEnd → Option (Word × Bool × List Byte)
  | .value _ b c => if conf && !c then none else some (wordOf (b.take 8), true, b)
  | .oref n c => if conf && !c then none else some (n, true, [])
  | .broken _ c _ => some (c.setWidth 64, false, [])
  | .pending _ => none
  | .stale => some (5, false, [])

/-- Where a context that waits on a chain is parked. -/
def parkedPh (ph : Word) : ChainEnd → Word
  | .pending p => p
  | _ => ph

/-- R235: this package is told of a promise of another package. -/
def State.watchPh (s : State) (die : BitVec 2) (ph : Word) : State :=
  if nmPkg ph = s.pkg || s.reports.any (fun r => r.1 = ph) then s
  else
    { s with reports := s.reports ++ [(ph, PState.pending, false)] : State }.sendOrdered
      (mkPacket s 7 (nmPkg ph) (nmDie ph) 255 (dieAgent die) 7 (.prm (.register ph die)))

/-- Reports that nothing waits for are forgotten: a later use asks again (R202). -/
def State.pruneReports (s : State) : State :=
  let busy := (s.ctxs ++ s.invs.flatMap (fun r => r.frame)).any (fun c => match c.status with
    | .waiting (.await _ _ _ _ _ _) _ _ _ => true
    | _ => false) || s.invs.any (fun r => r.i.resolve && r.stage = .held)
  if busy then s else { s with reports := [], owing := s.owing.filter (fun o => (s.promise o.1).isSome) }

/-- R197: the results of AWAIT. A gbuf that holds 0 stores nothing, as one that is absent does: DESIGN CHOICE, since "gbuf ≠ 0" may mean the
specifier or the value (log entry 98). -/
def awaitDone (gd : GReg) (qd : QReg) (buf : Word) (r : Word × Bool × List Byte) (s : State) : Try Done := do
  let s ← if buf = 0 then pure s else s.scatter buf r.2.2
  pure (.fall (((s.laterG gd r.1).laterQ qd r.2.1).pruneReports))

def awaitBody (m : Mods) (gd gh gbuf : GReg) (qd : QReg) (conf : Bool) (s : State) : Try Done := do
  let h := s.g gh
  s.needName (nameOk s h)
  if isOref h then pure (.fall ((s.laterG gd h).laterQ qd true))
  else
    let e := s.chainNew h
    match awaitEnd conf e with
    | some r =>
      let ts := chainToks s s.chaseFuel h
      if s.flushesOver ts then awaitDone gd qd (s.g gbuf) r (s.dropFlushes ts)
      else .error (.hold ((s.askFlushes s.cx.id.die ts).waitOn m (.await gd gbuf qd h (s.g gbuf) conf) none 8))
    | none =>
      let p := parkedPh h e
      .error (.hold ((s.watchPh s.cx.id.die p).waitOn m (.await gd gbuf qd p (s.g gbuf) conf) none 8))
/-- R197. -/
def execAwait (m : Mods) (gd gh gbuf : GReg) (qd : QReg) (conf : Bool) (s : State) : Out :=
  issue m 8 .wait s (fun s => Try.done (awaitBody m gd gh gbuf qd conf s))

/-! ## HTEST (R198) -/

/-- R198: the state word. -/
def stateWord : Option (PState × Bool) → Word
  | none => 0x503
  | some (.pending, _) => 0
  | some (.value b, c) => 0#41 ++ BitVec.ofNat 7 b.length ++ 0#8 ++ 0#5 ++ boolBit c ++ 1#2
  | some (.name _, c) => 0#61 ++ boolBit c ++ 2#2
  | some (.broken c _, _) => 0#48 ++ c ++ 0#6 ++ 3#2

/-- R198: the last name reached, as far as this package knows the chain; whether the chain goes on elsewhere. -/
def lastName (s : State) : Nat → Word → Word × Bool
  | 0, n => (n, false)
  | fuel + 1, n =>
    if isOref n then (n, false)
    else if nmPkg n ≠ s.pkg then (n, true)
    else match s.pstate true n with
      | some (.name m, _) => lastName s fuel m
      | _ => (n, false)

/-- R198: the answer of the promise's home: a value, or the name whose home is to be asked. -/
def State.htest (s : State) (ph : Word) (fn : BitVec 2) : Except Word Word :=
  if fn = 0 then .ok (stateWord (s.pstate true ph))
  else if fn = 1 then .ok (match s.pstate true ph with | some (.broken _ o, _) => o | _ => 0)
  else match lastName s s.chaseFuel ph with
    | (n, false) => .ok n
    | (n, true) => .error n

def htestBody (gd gh : GReg) (fn : BitVec 2) (s : State) : Try Done := do
  let h := s.g gh
  s.needName (nameOk s h)
  if isOref h then pure (.fall (s.laterG gd (if fn = 0 then 6 else if fn = 1 then 0 else h)))
  else if nmPkg h ≠ s.pkg then do
    let s ← s.question (nmPkg h) (nmDie h) (.htest h fn) (.value gd)
    pure (.fall s)
  else match s.htest h fn with
    | .ok v => pure (.fall (s.laterG gd v))
    | .error n => do
      let s ← s.question (nmPkg n) (nmDie n) (.htest n fn) (.value gd)
      pure (.fall s)
/-- R198. -/
def execHtest (m : Mods) (gd gh : GReg) (fn : BitVec 2) (s : State) : Out :=
  issue m 8 .plain s (fun s => Try.done (htestBody gd gh fn s))

/-! ## RSLV, HBRK, HFREE (R199 to R202) -/

/-- R428, R429: while the core's list of unconfirmed resolutions is full, issue holds and the core is to be scanned next. -/
def State.listRoom (s : State) : Bool := decide (s.myCore.unconf.length < 32768)
def State.wantScan (s : State) : State := let k := s.myCore; s.setCore { k with wantScan := true }

def rslvBody (ga : GReg) (mode : BitVec 2) (len : BitVec 7) (s : State) : Try Done := do
  let v := s.g ga
  if mode = 2 then s.needName (nameOk s v) else pure ()
  let (st, s) ← (if mode = 0 then pure (PState.value (leBytes len.toNat v.toNat), s)
    else if mode = 1 then do
      let (bs, s) ← s.gather v len.toNat
      pure (PState.value bs, s)
    else pure (PState.name v, s) : Try (PState × State))
  if s.listRoom then pure (.fall (s.noteUnconfirmed.noteFlush.resolveOwn st)) else .error (.hold s.wantScan)
/-- R199. -/
def execRslv (m : Mods) (ga : GReg) (mode : BitVec 2) (len : BitVec 7) (s : State) : Out :=
  issue m 8 .plain s (fun s => Try.done (rslvBody ga mode len s))

/-- R201, R248: breaks a promise of this package; a scan failure also voids a resolution. -/
def State.breakPh (s : State) (ph : Word) (cause : BitVec 8) : State :=
  match s.promise ph with
  | none => s
  | some p =>
    let s := if cause = 4 && (p.trying.isSome || (match p.st with | .value _ => true | .name _ => true | _ => false)) && !p.conf then
        s.setPromise { p with st := .pending, trying := none } else s
    if p.freed && cause ≠ 4 then s else s.settle [⟨ph, p.launch, .broken cause ph, none⟩]
/-- R201. -/
def execHbrk (m : Mods) (gh : GReg) (code : BitVec 8) (s : State) : Out :=
  issue m 8 .plain s (fun s => Try.done (do
    let h := s.g gh
    s.needName (nameOk s h && isPh h)
    pure (if nmPkg h = s.pkg then .fall (s.breakPh h code) else s.sendPrm h (.hbrk h code))))

/-- R202: releases the slot of a promise of this package. -/
def State.releasePh (s : State) (ph : Word) : State :=
  match s.promise ph with
  | none => s
  | some p =>
    if p.freed then s
    else if p.st = .pending then s.setPromise { p with freed := true }
    else s.freeSettled p
/-- R202. -/
def execHfree (m : Mods) (gh : GReg) (s : State) : Out :=
  issue m 8 .plain s (fun s => Try.done (do
    let h := s.g gh
    s.needName (nameOk s h && isPh h)
    pure (if nmPkg h = s.pkg then .fall (s.releasePh h) else s.sendPrm h (.hfree h))))

end Sys2Proof.Machine
end

