-- ==== Sys2Proof/Machine/Regions.lean ====
section
/-! DEFINITION. Regions: RGOPEN, RGCLOSE, RGQRY, RGFAIL, the failure of a region, charges and quotas (R203 to R207, R362,
R363, R429). -/

namespace Sys2Proof.Machine

/-! ## The failure of a region (R207) -/

/-- Regions that a context holds: its present one, those it opened, the inherited one. -/
def Ctx.regions (c : Ctx) : List Word := c.region :: (match c.run with | some r => [r.i.region] | none => []) ++ c.opened
/-- The invocations in flight inside the package. -/
def State.flying (s : State) : List Inv := s.net.filterMap packetInv

/-- Every region of a protection context that something uses, here or where it has gone. -/
def State.usedRegions (s : State) (pctx : BitVec 12) : List Word :=
  ((s.runners.filter (fun c => c.pctx = pctx)).flatMap Ctx.regions ++
    (s.invs.filter (fun r => r.i.pctx = pctx)).map (fun r => r.i.region) ++
    (s.flying.filter (fun i => i.pctx = pctx)).map (fun i => i.region) ++
    (s.entries.filter (fun e => e.pctx = pctx)).map (fun e => e.region) ++
    (s.awayRegions.filter (fun x => x.1 = pctx)).map (fun x => x.2)).eraseDups

/-- R207: the blocks from a region outward to a failed one; none where no ancestor has failed. -/
def upTo (bs : List Word) : List Word → List Word
  | [] => []
  | r :: rs =>
    if bs.contains r then [r]
    else match upTo bs rs with
      | [] => []
      | l => r :: l
/-- R207: the failed regions and their descendants. -/
def State.failed (s : State) (prot : Prot) (pctx : BitVec 12) (bs : List Word) : List Word :=
  (bs ++ (s.usedRegions pctx).flatMap (fun r => upTo bs (s.chain prot r))).eraseDups

/-- Discards invocations in flight, each breaking with the cause given. -/
def State.discardFlying (s : State) (t : Inv → Bool) (cause : BitVec 8) : State :=
  let gone := s.flying.filter t
  let s := { s with net := s.net.filter (fun p => !(packetInv p).any t) }
  let s := gone.foldl (fun s i => s.runAdd i.pctx (s.protOf i.pctx) i.region (-1)) s
  s.settle (gone.map (fun i => breakWork i cause none))

/-- R207: a failure of b, with the regions of the set, becomes pending against a context; a failure of an outer region takes in one of
an inner region. -/
def Ctx.noteFail (set : List Word) (b : Word) (code : BitVec 8) (scan : Bool) (c : Ctx) : Ctx :=
  match c.rgfail with
  | some (b0, _, _) => if b0 ≠ b && set.contains b0 then { c with rgfail := some (b, code, scan) } else c
  | none => { c with rgfail := some (b, code, scan) }

/-- Changes every context, on its task context or in its frame. -/
def State.mapCtxs (s : State) (f : Ctx → Ctx) : State :=
  { s with cx := f s.cx, ctxs := s.ctxs.map f, invs := s.invs.map (fun (r : InvRec) => { r with frame := r.frame.map f }) }

/-- R429: what a scan failure records in a block besides STATE and FCODE. -/
def scanInfo : Word := FaultRec.info ⟨17, 9, 0, false, false, false, 0⟩
def State.scanFail (s : State) (prot : Prot) (r b : Word) (scan : Bool) : State :=
  if scan then (s.setBlk prot r 10 b).setBlk prot r 11 scanInfo else s

/-- R207: the regions of the set have failed with b: what is queued or held for them here goes, and the failure becomes pending against
the contexts that hold them. -/
def State.failHere (s : State) (pctx : BitVec 12) (set : List Word) (b : Word) (code : BitVec 8) (scan : Bool) : State :=
  let s := s.dropRegions pctx set
  let hit := fun (i : Inv) => i.pctx = pctx && set.contains i.region
  let s := (s.discardAll ((s.invs.filter (fun r => hit r.i && r.waits)).map (fun r => (r, 1, none)))).discardFlying hit 1
  s.mapCtxs (fun c =>
    if c.status ≠ .free && c.pctx = pctx && c.regions.any set.contains then c.noteFail set b code scan else c)
/-- R207: the other packages are told of the failed regions that have gone there. -/
def State.tellFailed (s : State) (pctx : BitVec 12) (set : List Word) (b : Word) (code : BitVec 8) (scan : Bool) : State :=
  let gone := set.filter (fun r => s.awayRegions.contains (pctx, r))
  if gone.isEmpty then s else s.tellPods (.failed pctx gone b code scan)

/-- R207, R363, R429: a region fails with its descendants. `kind` is that of its region record. -/
def State.failRegion (s : State) (prot : Prot) (pctx : BitVec 12) (b : Word) (code : BitVec 8) (kind : BitVec 2) (scan : Bool) :
    State :=
  let set := s.failed prot pctx [b]
  let s := set.foldl (fun s r => (s.setBlkFail prot r 2 code).scanFail prot r b scan) s
  let s := s.postStatus prot pctx b (regionRec kind code b b s.time)
  (s.failHere pctx set b code scan).tellFailed pctx set b code scan
/-- R207: regions of another package have failed with b: their descendants here fail with them. -/
def State.failAway (s : State) (pctx : BitVec 12) (bs : List Word) (b : Word) (code : BitVec 8) (scan : Bool) : State :=
  let prot := s.protOf pctx
  let set := s.failed prot pctx bs
  let inner := set.filter (fun r => !bs.contains r)
  let s := inner.foldl (fun s r => (s.setBlkFail prot r 2 code).scanFail prot r b scan) s
  (s.failHere pctx set b code scan).tellFailed pctx inner b code scan

/-! ## Budgets (R361, R362) -/

/-- The invocations that run in the package, and those of other packages whose regions lie here. -/
def State.runs (s : State) : List (BitVec 12 × Word) :=
  ((s.allCtxs.filterMap (fun c => c.run.map (fun r => r.i))).eraseDups).map (fun i => (i.pctx, i.region)) ++ s.awayRuns
/-- R362: MAXRUN of a region. -/
def State.maxRun (s : State) (prot : Prot) (b : Word) : Nat := (fld (s.blk prot b 2) 16 16).toNat
/-- R362: whether the budgets of a region and its ancestors, as far as their blocks lie here, allow one more. -/
def State.mayStart (s : State) (pctx : BitVec 12) (region : Word) : Bool :=
  let prot := s.protOf pctx
  (s.chain prot region).all (fun a =>
    s.maxRun prot a = 0 || decide ((s.runs.filter (fun i => i.1 = pctx && (s.chain prot i.2).contains a)).length < s.maxRun prot a))
/-- R361: the first block of a chain that lies in another package, and that package. -/
def State.awayBlock (s : State) (pctx : BitVec 12) (region : Word) : Option (BitVec 12 × Word) :=
  s.awayEnd (s.protOf pctx) region

/-! ## Charges (R363) -/

/-- Whether the issuing context is the one of its invocation whose time is charged. -/
def State.charges (s : State) : Bool :=
  !s.ctxs.any (fun c => c.status ≠ .free && c.invId = s.cx.invId && c.gidx.ult s.cx.gidx)

/-- R363: a charge to one region; a quota that is reached fails it. -/
def chargeRegions (pctx : BitVec 12) (prot : Prot) (ns : Word) : List Word → State → State
  | [], s => s
  | r :: rs, s =>
    match s.blkAway prot r with
    | some p => s.account p pctx r 0 ns false
    | none =>
    let used := s.blk prot r 9 + ns
    let s := s.setBlk prot r 9 used
    let quota := s.blk prot r 3
    chargeRegions pctx prot ns rs
      (if quota ≠ 0 && quota.ule used && s.blkState prot r ≠ 2 then s.failRegion prot pctx r 0xFF 2 false else s)

/-- R363: the issuing context's time since the last charge is charged to its region and every ancestor. -/
def State.charge (s : State) : State :=
  match s.cx.run with
  | none => s
  | some r =>
    let ns := s.time - r.charged
    let s := { s with cx := { s.cx with run := some { r with charged := s.time } } }
    if ns ≠ 0 && s.charges then chargeRegions s.cx.pctx s.cx.prot ns (s.chain s.cx.prot s.cx.region) s else s

/-! ## The instructions -/

/-- R203: a block is aligned to 128 and homed in the issuing package; its contents are checked before its homing (R453). -/
def State.blockAt (s : State) (b : Word) (check : State → Try Unit) : Try State := do
  s.aligned 1 128 b
  let (pl, s) ← s.access 1 false b
  match pl with
  | .hbm _ =>
    check s
    pure s
  | _ => s.operandFault 9

/-- R204: the fields that RGOPEN writes. -/
def State.openBlock (s : State) (b gh : Word) : State :=
  let p := s.cx.prot
  ((((((s.setBlk p b 0 s.cx.region).setBlk p b 1 gh).setBlk p b 7 1).setBlk p b 8 0).setBlk p b 9 0).setBlk p b 10 0).setBlk p b 11 0

def rgopenBody (gb gh : GReg) (s : State) : Try Done := do
  let b := s.g gb
  let h := s.g gh
  let s ← s.blockAt b (fun s => s.need (s.blkState s.cx.prot b ≠ 1) 6)
  s.need (decide (s.cx.opened.length < 64)) 7
  let s := s.charge.openBlock b h
  pure (.fall { s with cx := { s.cx with region := b, opened := b :: s.cx.opened } })
/-- R204. -/
def execRgopen (m : Mods) (gb gh : GReg) (s : State) : Out := issue m 8 .plain s (fun s => Try.done (rgopenBody gb gh s))

/-- R205. -/
def rgcloseBody (gb : GReg) (s : State) : Try Done := do
  let b := s.g gb
  s.need (s.cx.opened.head? = some b) 6
  let s ← s.blockAt b (fun _ => .ok ())
  let s := s.charge.closeRegion b
  pure (.fall { s with cx := { s.cx with region := s.blkParent s.cx.prot b, opened := s.cx.opened.drop 1 } })
/-- R205. -/
def execRgclose (m : Mods) (gb : GReg) (s : State) : Out := issue m 8 .plain s (fun s => Try.done (rgcloseBody gb s))

/-- R206: the doubleword that FUNC reads. -/
def rgqryOff (fn : BitVec 2) : Nat := if fn = 0 then 56 else if fn = 1 then 64 else if fn = 2 then 72 else 88

def rgqryBody (gd gb : GReg) (fn : BitVec 2) (s : State) : Try Done := do
  let b := s.g gb
  let off := rgqryOff fn
  let va := b + natWord off
  s.aligned 0 128 b
  let (pl, s) ← s.access 0 true b
  match pl with
  | .hbm pa =>
    match s.badWord (pa + off) 8 with
    | none => pure (.fall (s.laterG gd (wordOf (s.homeBytes s.cx.prot.keyslot (pa + off) 8))))
    | some w => pure (.fall (((s.ueRecord w).contain 1 0 false va).laterG gd 0))
  | .dev pa => pure (.fall (s.laterG gd (s.readReg (pa + off))))
  | pl => do
    let s ← s.remote (pl.shift off) va ⟨2, .load gd 3 false, false, 3, 0, 0, 0, none, 0, true⟩
    pure (.fall s)
/-- R206. -/
def execRgqry (m : Mods) (gd gb : GReg) (fn : BitVec 2) (s : State) : Out :=
  issue m 8 .plain s (fun s => Try.done (rgqryBody gd gb fn s))

def rgfailBody (gb : GReg) (code : BitVec 8) (s : State) : Try Done := do
  let b := s.g gb
  let s ← s.blockAt b (fun _ => .ok ())
  pure (.fall (s.failRegion s.cx.prot s.cx.pctx b code 1 false))
/-- R207. -/
def execRgfail (m : Mods) (gb : GReg) (code : BitVec 8) (s : State) : Out :=
  issue m 8 .plain s (fun s => Try.done (rgfailBody gb code s))

end Sys2Proof.Machine
end

