-- ==== Sys2Proof/Machine/Phasers.lean ====
section
/-! DEFINITION. Phasers (R209 to R214, R333) and counters (R215 to R219). -/

namespace Sys2Proof.Machine

/-! ## Ids -/

/-- R209: the id of a phaser. -/
def phId (pkg : BitVec 12) (die : BitVec 2) (idx : BitVec 12) (gen : BitVec 16) : Word := (0#22 ++ gen ++ pkg ++ die ++ idx)
/-- R172 cause 5. -/
def phOk (s : State) (id : Word) : Bool := fld id 42 22 = 0 && s.present (phPkg id)

/-! ## At the phaser's die -/

/-- R214: whether a SIG or SW member is in debug halt: of this package, or by what another has told. -/
def State.haltedMember (s : State) (p : Phaser) : Bool :=
  p.members.any (fun m => m.mode ≠ 1 &&
    (if m.who.pkg = s.pkg then s.runners.any (fun c => c.invId = m.who.inv && c.gidx = m.who.lane && c.status.halted) else m.halted))

/-- R214: a timed wait on a phaser goes on with the time that it had left. -/
def Ctx.thaw (id now since : Word) (c : Ctx) : Ctx :=
  match c.status with
  | .waiting (.phase qd gs x ph) (some d) sw len =>
    if x = id then { c with status := .waiting (.phase qd gs x ph) (some (d + (now - since))) sw len } else c
  | _ => c

/-- R113, R214: the phasers of other packages hear of members that have gone into debug halt, or have left it. -/
def State.tellHalts (s : State) : State :=
  (s.runners.filter (fun c => !c.joined.isEmpty && c.status.halted ≠ c.toldHalt)).foldl (fun s c =>
    let s := c.joined.foldl (fun s j => s.sendOrdered (mkPacket s 7 (phPkg j.1) (phDie j.1) 255 c.id.coreId (c.id.slot.setWidth 4)
      (.prm (.ask c.id s.pkg 0 (.phhalt j.1 ⟨s.pkg, c.invId, c.gidx⟩ c.status.halted))))) s
    s.mapCtxs (fun x => if x.id = c.id && x.invId = c.invId then { x with toldHalt := c.status.halted } else x)) s
/-- R214: brings the freezing of timers up to date after something has changed. -/
def State.freeze (s : State) : State :=
  s.phasers.foldl (fun s p =>
    match p.frozen, s.haltedMember p with
    | none, true => s.setPhaser { p with frozen := some s.time }
    | some t, false => (s.setPhaser { p with frozen := none, stood := p.stood + (s.time - t) }).mapCtxs (Ctx.thaw p.id s.time t)
    | _, _ => s) s.tellHalts

/-- R209: a phaser of a die; 0 where none is free. -/
def State.newPhaser (s : State) (die : BitVec 2) (l : LaunchId) : Word × State :=
  match freeSlot ((s.phasers.filter (fun p => phDie p.id = die)).map (fun p => (fld p.id 0 12).toNat)) 4096 with
  | none => (0, s)
  | some k =>
    let id := phId s.pkg die (BitVec.ofNat 12 k) (s.gen 2 die k)
    let p : Phaser := { id := id, launch := l, phase := 0, short := false, used := false, members := [], shorts := [], frozen := none, stood := 0 }
    (id, { s with phasers := s.phasers ++ [p] })

/-- R210: a registration, or a change of mode, from the next phase on. -/
def Phaser.register (p : Phaser) (who : Party) (mode : BitVec 2) (region : Word) : Phaser :=
  if p.members.any (fun m => m.who = who) then
    { p with members := p.members.map (fun m => if m.who = who then { m with next := some mode, region := region } else m) }
  else
    let m : Member := { who := who, mode := mode, next := none, since := p.phase + 1, arr := p.phase + 1, region := region, halted := false }
    { p with used := true, members := p.members ++ [m] }
def State.phReg (s : State) (id : Word) (who : Party) (mode : BitVec 2) (region : Word) : State :=
  match s.phaser id with
  | none => s
  | some p => (s.setPhaser ((p.register who mode region).settle 4)).freeze

/-- R211. -/
def State.phDrop (s : State) (id : Word) (who : Party) : State :=
  match s.phaser id with
  | none => s
  | some p => ((s.setPhaser ((p.drop (fun m => m.who = who)).settle 4)).freeEmptyPhasers).freeze

/-- R212: the phase at which a member arrives next. -/
def Phaser.nextArrival (p : Phaser) (m : Member) : Nat := max m.arr p.phase
/-- R212: an arrival; none where it must wait for the phaser. -/
def State.phArr (s : State) (id : Word) (who : Party) : Option State :=
  match s.phaser id with
  | none => some s
  | some p => match p.members.find? (fun m => m.who = who && m.mode ≠ 1) with
    | none => some s
    | some m =>
      let a := p.nextArrival m
      if a ≥ p.phase + 2 then none
      else
        let p := { p with members := p.members.map (fun (x : Member) => if x.who = who then { x with arr := a + 1 } else x) }
        some (s.setPhaser (p.settle 4))

/-- R214: the phase that a wait waits for. -/
def Phaser.waitFor (p : Phaser) (who : Party) : Nat :=
  match p.members.find? (fun m => m.who = who && m.mode ≠ 1) with
  | some m => if m.arr > m.since then m.arr - 1 else p.phase
  | none => p.phase

/-- R213, R214: the state of a phase: none where it is still to complete; else 0, or 1 SHORT, or 3 for a phaser that is freed. A phase
that the drop of the last member completes frees the phaser too, and a context that waits for it is given 3: DESIGN CHOICE between R213's
SHORT and the table's freed phaser (log entry 98). -/
def State.phState (s : State) (id : Word) (k : Nat) : Option Word :=
  match s.phaser id with
  | none => some 3
  | some p =>
    if p.phase > k then some (if p.shorts.contains k then 1 else 0)
    else if p.phase = k && !p.short && (p.members.filter (fun m => m.expected k)).isEmpty then some 0
    else none

/-- R113, R214: a member of another package has gone into debug halt, or has left it. -/
def State.phHalt (s : State) (id : Word) (who : Party) (on : Bool) : State :=
  match s.phaser id with
  | none => s
  | some p => (s.setPhaser { p with members := p.members.map (fun (m : Member) => if m.who = who then { m with halted := on } else m) }).freeze
/-- R214: what a wait in another package is told of phase k: how long the timers have stood still; and whether the phase is settled
(bit 2), with what outcome (bits 1:0), whether the timers stand still (bit 3), and k (from bit 8). -/
def State.phAnswer (s : State) (id : Word) (k : Nat) : Word × Word :=
  let p := s.phaser id
  let still := (p.bind (fun x => x.frozen)).elim 0 (fun t => s.time - t)
  let out := match s.phState id k with | some c => 4 + c.toNat % 4 | none => 0
  (p.elim 0 (fun x => x.stood) + still, natWord (out + (if (p.bind (fun x => x.frozen)).isSome then 8 else 0) + 256 * k))

/-! ## The instructions -/

def State.phNeed (s : State) (id : Word) : Try Unit := s.need (phOk s id) 5
def phLocal (s : State) (id : Word) : Bool := phPkg id = s.pkg

/-- R210. -/
def execPhreg (m : Mods) (gph : GReg) (mode : BitVec 2) (s : State) : Out :=
  issue m 8 .plain s (fun s => Try.done (do
    let id := s.g gph
    s.phNeed id
    if phLocal s id then pure (.fall (s.phReg id s.party mode s.cx.region))
    else if s.mustWait (phPkg id) (phDie id) then .error (.hold s)
    else do
      let c := s.cx
      let s := { s with cx := { c with joined := (id, c.region) :: c.joined.filter (fun j => j.1 ≠ id) } }
      pure (.fall (s.sendAsk (phPkg id) (phDie id) 0 (.phreg id s.party mode c.region)))))

/-- R211. -/
def execPhdrop (m : Mods) (gph : GReg) (s : State) : Out :=
  issue m 8 .plain s (fun s => Try.done (do
    let id := s.g gph
    s.phNeed id
    if phLocal s id then pure (.fall (s.phDrop id s.party))
    else if s.mustWait (phPkg id) (phDie id) then .error (.hold s)
    else do
      let s := { s with cx := { s.cx with joined := s.cx.joined.filter (fun j => j.1 ≠ id) } }
      pure (.fall (s.sendAsk (phPkg id) (phDie id) 0 (.phdrop id s.party)))))

/-- R212, R333: an arrival takes effect once the earlier counted accesses are acknowledged; the context holds issue until then, and
until a phaser of another package has answered that it is made. -/
def State.arrive (s : State) (id : Word) : Try State :=
  if s.cx.owes 3 then .error (.hold { s with cx := { s.cx with status := .posted true true } })
  else if phLocal s id then
    match s.phArr id s.party with
    | some s => .ok s
    | none => .error (.hold s)
  else match s.polled (phPkg id) (phDie id) (.pharr id s.party) with
    | (some _, s) => .ok s
    | (none, s) => .error (.hold s)

/-- R212. -/
def execPharr (m : Mods) (gph : GReg) (s : State) : Out :=
  issue m 8 .plain s (fun s => Try.done (do
    let id := s.g gph
    s.phNeed id
    let s ← s.arrive id
    pure (.fall s)))

/-- R214: the results of a wait. -/
def State.phDone (s : State) (qd : QReg) (gs : GReg) (code : Word) : State := (s.laterQ qd (code = 0)).laterG gs code

/-- R171: the absolute time of a timeout; 0 is none. -/
def State.deadlineIn (s : State) (ns : Word) : Option Word := if ns = 0 then none else some (s.time + ns)

/-- R214: a timeout that begins while the timers of the phaser are frozen. -/
def State.phDeadline (s : State) (id : Word) (ns : Word) : Option Word :=
  if ns = 0 then none
  else match (s.phaser id).bind (fun p => p.frozen) with
    | some t => some (t + ns)
    | none => some (s.time + ns)

/-- R214: waits for the phase, whose number is asked for where the phaser is in another package. -/
def State.phWait (s : State) (m : Mods) (qd : QReg) (id ns : Word) (gs : GReg) : Try Done :=
  if phLocal s id then
    match s.phaser id with
    | none => .ok (.fall (s.phDone qd gs 3))
    | some p =>
      let k := p.waitFor s.party
      match s.phState id k with
      | some c => .ok (.fall (s.phDone qd gs c))
      | none => .error (.hold (s.waitOn m (.phase qd gs id (some k)) (s.phDeadline id ns) 8))
  else .error (.hold (s.waitOn m (.phase qd gs id none) (s.deadlineIn ns) 8))

/-- R214. -/
def execPhwait (m : Mods) (qd : QReg) (gph gto gs : GReg) (s : State) : Out :=
  issue m 8 .wait s (fun s => Try.done (do
    let id := s.g gph
    s.phNeed id
    s.phWait m qd id (if gto = 0 then 0 else s.g gto) gs))

/-- R214: PHAW is PHARR followed by PHWAIT; its arrival is made once. -/
def execPhaw (m : Mods) (qd : QReg) (gph gto gs : GReg) (s : State) : Out :=
  issue m 8 .wait s (fun s => Try.done (do
    let id := s.g gph
    s.phNeed id
    let s ← if s.cx.arrived then pure s else s.arrive id
    let s := { s with cx := { s.cx with arrived := true } }
    s.phWait m qd id (if gto = 0 then 0 else s.g gto) gs))

/-- R209. -/
def execPhnew (m : Mods) (gd : GReg) (s : State) : Out :=
  issue m 8 .plain s (fun s =>
    let (id, s) := s.newPhaser s.cx.id.die (match s.cx.run with | some r => r.i.launch | none => ⟨0, 0, 0⟩)
    .fall (s.laterG gd id))

/-! ## Counters (R217 to R219) -/

def State.ctrNeed (s : State) (c : Word) : Try Unit := s.need (ctrOk s s.cx.prot c) 3

/-- R217: the amount of a raise: 48 bits. -/
def raiseAmount (v : Word) : BitVec 48 := fld v 0 48
/-- R217, R271: the raise is a release of its scope; the context goes on. -/
def State.ctAdd (s : State) (c : Word) (amt : BitVec 48) (scope : BitVec 2) : State :=
  let s := s.fenceWrite scope
  if s.raiseNow c scope then s.raise c amt s.cx.id.coreId (s.cx.id.slot.setWidth 4)
  else s.raiseLater 0 (amt.setWidth 64) c scope 0

/-- R217. -/
def execCtadd (m : Mods) (gc : GReg) (v : Src) (scope : BitVec 2) (s : State) : Out :=
  issue m v.len .plain s (fun s => Try.done (do
    let c := s.g gc
    let amt := match v with | .reg r => raiseAmount (s.g r) | .imm x => x.setWidth 48
    s.ctrNeed c
    pure (if s.mustWait (ctPkg c) (ctDie c) then .hold s else .fall (s.ctAdd c amt scope))))

/-- R218. -/
def execCtrd (m : Mods) (gd gc : GReg) (s : State) : Out :=
  issue m 8 .plain s (fun s => Try.done (do
    let c := s.g gc
    s.ctrNeed c
    if ctPkg c = s.pkg then pure (.fall (s.laterG gd ((s.cell (ctDie c) (ctIndex c)).setWidth 64)))
    else do
      let s ← s.question (ctPkg c) (ctDie c) (.ctrd c) (.value gd)
      pure (.fall s)))

def CtTime_len : CtTime → Nat
  | .reg _ => 8
  | .imm _ => 16
def State.ctTime (s : State) : CtTime → Word
  | .reg g => s.g g
  | .imm v => v

/-- R219. -/
def execCtwait (m : Mods) (qd : QReg) (gc gt : GReg) (tmo : CtTime) (s : State) : Out :=
  issue m (CtTime_len tmo) .wait s (fun s => Try.done (do
    let c := s.g gc
    let t := raiseAmount (s.g gt)
    s.ctrNeed c
    if ctPkg c = s.pkg && reached (s.cell (ctDie c) (ctIndex c)) t then pure (.fall (s.laterQ qd true))
    else .error (.hold (s.waitOn m (.counter qd c t) (s.deadlineIn (s.ctTime tmo)) (CtTime_len tmo)))))

end Sys2Proof.Machine
end

