-- ==== Sys2Proof/Machine/Rennet.lean ====
section
/-! DEFINITION. The Rennet unit: TRPOST, TRCAN, triggered operations (R220 to R223, R309 to R319). -/

namespace Sys2Proof.Machine

/-! ## Entries -/

/-- R221: the id of an entry. -/
def entryId (pkg : BitVec 12) (die : BitVec 2) (idx : BitVec 14) (gen : BitVec 16) : Word := (0#20 ++ gen ++ pkg ++ die ++ idx)
def enPkg (id : Word) : BitVec 12 := fld id 16 12
def enDie (id : Word) : BitVec 2 := fld id 14 2
/-- R172 cause 5. -/
def entryOk (s : State) (id : Word) : Bool := fld id 44 20 = 0 && s.present (enPkg id)

/-- R3: entries of a Rennet table. -/
def entryCap : Nat := 16384
def State.entrySlots (s : State) (die : BitVec 2) : List Nat :=
  (s.entries.filter (fun e => enDie e.id = die)).map (fun e => (fld e.id 0 14).toNat)
def State.freeEntries (s : State) (die : BitVec 2) : Nat := entryCap - (s.entrySlots die).length

/-- What an entry records of its poster (R221). -/
structure Poster where
  region : Word
  pctx   : BitVec 12
  prot   : Prot
  prio   : BitVec 4
  ceil   : BitVec 4
  seed   : Word
  launch : LaunchId
  deriving DecidableEq, Repr

def State.poster (s : State) : Poster :=
  let c := s.cx
  { region := c.region, pctx := c.pctx, prot := c.prot, prio := c.prio, ceil := c.pceil, seed := c.seed,
    launch := match c.run with | some r => r.i.launch | none => ⟨0, 0, 0⟩ }

/-- R221: an entry that arrives fires at once at every threshold that its counter has reached. -/
def State.armed (s : State) (die : BitVec 2) (e : Entry) : State :=
  if reached (s.cell die (ctIndex e.trig)) e.thr then s.fireDue die (ctIndex e.trig) (e.thr - 1) [e.id] else s

/-- An entry put into a free slot of a die's table; 0 where there is none. -/
def State.addEntry (s : State) (die : BitVec 2) (p : Poster) (trig : Word) (thr : BitVec 48) (oper : BitVec 8) (comp : Word)
    (rearm : BitVec 48) (args : List Word) (coll : Option (BitVec 8)) : Word × State :=
  match freeSlot (s.entrySlots die) entryCap with
  | none => (0, s)
  | some k =>
    let id := entryId s.pkg die (BitVec.ofNat 14 k) (s.gen 3 die k)
    let e : Entry :=
      { id := id, trig := trig, thr := thr, oper := oper, comp := comp, rearm := rearm, args := args, region := p.region,
        pctx := p.pctx, prot := p.prot, prio := p.prio, ceil := p.ceil, seed := p.seed, launch := p.launch, fired := false,
        order := s.fresh, coll := coll }
    let s := { s with fresh := s.fresh + 1, entries := s.entries ++ [e] }
    (id, if e.watches s.pkg die (ctIndex trig) then s.armed die e else s)

/-- R220, R221: posts a descriptor of 16 doublewords on a die of this package. -/
def State.trPost (s : State) (p : Poster) (d : List Word) : Word × State :=
  let w := fun n => d.getD n 0
  let oper : BitVec 8 := fld (w 1) 48 8
  if !ctrOk s p.prot (w 0) || oper = 0 || decide (5 < oper.toNat) then (0, s)
  else s.addEntry (ctDie (w 0)) p (w 0) (fld (w 1) 0 48) oper (w 2) (fld (w 3) 0 48) d none

/-- R223, R318: removes an armed entry of the launch; whether it did. -/
def State.trCan (s : State) (id : Word) (l : LaunchId) : Bool × State :=
  match s.entries.find? (fun e => e.id = id) with
  | none => (false, s)
  | some e =>
    if e.fired || e.launch ≠ l || e.coll.isSome then (false, s)
    else (true, ({ s with entries := s.entries.filter (fun x => x.id ≠ id) }).bumpGen 3 (enDie id) (fld id 0 14).toNat)

/-- R313: no TRCAN on a cell is applied while a raise of it is under way. -/
def State.trBusy (s : State) (id : Word) : Bool :=
  s.entries.any (fun e => e.id = id && s.raisingCell (ctDie e.trig) (ctIndex e.trig))

/-- R220: reads a descriptor of 128 bytes. -/
def State.readDesc (s : State) (va : Word) : Try (List Word × State) := do
  s.aligned 0 128 va
  let (bs, s) ← s.load homed9 va 128
  pure ((List.range 16).map (dwAt bs), s)

def trpostBody (gd gdesc : GReg) (s : State) : Try Done := do
  let (d, s) ← s.readDesc (s.g gdesc)
  let trig := d.getD 0 0
  let p := s.poster
  if ctrOk s p.prot trig && ctPkg trig ≠ s.pkg then do
    let s ← s.question (ctPkg trig) (ctDie trig) (.trpost d p.region p.pctx p.prio p.ceil p.seed p.launch) (.value gd)
    pure (.fall (s.noteAway (ctPkg trig) p.pctx p.region))
  else
    let (id, s) := s.trPost p d
    pure (.fall (s.laterG gd id))
/-- R221. -/
def execTrpost (m : Mods) (gd gdesc : GReg) (s : State) : Out :=
  issue m 8 .plain s (fun s => Try.done (trpostBody gd gdesc s))

/-- R223. -/
def execTrcan (m : Mods) (qd : QReg) (ge : GReg) (s : State) : Out :=
  issue m 8 .plain s (fun s => Try.done (do
    let id := s.g ge
    s.need (entryOk s id) 5
    let l := s.poster.launch
    if enPkg id = s.pkg then
      if s.trBusy id then .error (.hold s) else pure ()
      let (ok, s) := s.trCan id l
      pure (.fall (s.laterQ qd ok))
    else do
      let s ← s.question (enPkg id) (enDie id) (.trcan id l) (.flag qd)
      pure (.fall s)))

/-! ## Firings (R314 to R316, R222) -/

def State.setFiring (s : State) (f : Firing) : State := { s with firings := s.firings.map (fun x => if x.id = f.id then f else x) }
/-- The agent of the die whose unit runs the operation. -/
def Firing.agent (f : Firing) : CtxId := ⟨f.die, 255, 0⟩
/-- What an operation carries of its poster. -/
def Firing.issuer (f : Firing) : Issuer :=
  { ctx := f.agent, inv := 0, pctx := f.e.pctx, prot := f.e.prot, user := true, region := f.e.region, ph := 0,
    launch := f.e.launch, fork := [] }
/-- The n-th doubleword of the descriptor. -/
def Firing.w (f : Firing) (n : Nat) : Word := f.e.args.getD n 0

/-- R314: whether the operation needs a copy channel. -/
def Firing.channel (f : Firing) : Bool := f.e.oper = 1 || f.e.oper = 2 || f.e.oper = 3
/-- R314: a free channel of 32. -/
def State.channelFree (s : State) (die : BitVec 2) : Bool :=
  decide ((s.firings.filter (fun f => f.die = die && f.begun && f.channel)).length < 32)

/-- R316: a descriptor's reserved fields. -/
def Firing.reserved (f : Firing) : Bool := fld (f.w 1) 56 8 ≠ 0 || fld (f.w 3) 48 16 ≠ 0

/-- R312: the single firing of an entry starts, and the entry is free. -/
def State.freeFired (s : State) (id : Word) : State :=
  if s.entries.any (fun e => e.id = id && e.fired) then
    ({ s with entries := s.entries.filter (fun e => e.id ≠ id) }).bumpGen 3 (enDie id) (fld id 0 14).toNat
  else s

/-- The operation's accesses are done. -/
def State.fireDone (s : State) (f : Firing) (err : BitVec 8) (prog : Nat) : State :=
  s.setFiring { f with begun := true, stall := none, fin := some (err, prog) }

/-- R315, R316: the mode of a triggered copy; none where CPY would reject it. -/
def Firing.mode (f : Firing) : Option CpyMode :=
  let w7 := f.w 7
  let m : CpyMode := ⟨none, f.e.oper = 2, fld w7 7 4, fld w7 11 4, w7.getLsbD 15⟩
  let n := (f.w 6).toNat
  let el := codeBits m.fmt / 8
  if fld w7 0 6 ≠ 0 || fld w7 16 48 ≠ 0 || w7.getLsbD 6 ≠ m.rd || !cpyModeOk m || (m.det && f.w 8 = 0) || decide (2 ^ 40 ≤ n) ||
      (m.det && decide (65536 < n)) ||
      (m.rd && !((f.w 4).toNat % el = 0 && (f.w 5).toNat % el = 0 && n % el = 0)) then none
  else some m

/-- R315: a triggered copy. -/
def State.fireCopy (s : State) (f : Firing) : State :=
  match f.mode with
  | none => s.fireDone f 9 0
  | some m =>
    if m.det && !ctrOk s f.e.prot (f.w 8) then s.fireDone f 4 0
    else
      let n := (f.w 6).toNat
      let c : Copy :=
        { id := f.id, by_ := f.issuer, tok := none, trig := some f.e.id, dst := f.w 4, src := f.w 5, rowb := n,
          rows := if n = 0 then 0 else 1, dstr := 0, sstr := 0, rd := m.rd, rop := m.rop, fmt := m.fmt, det := m.det,
          ctr := if f.w 8 = 0 then none else some (f.w 8), pos := 0, landed := 0, begun := true, stopped := false, stall := none,
          onEntry := none, unacked := 0, buf := [], whole := none, applied := false, asked := false, err := 0, bad := none }
      (s.setFiring { f with begun := true }) |> fun s => { s with copies := s.copies ++ [c] }

/-- R316: an operation that meets a recoverable fault waits for the pager; any other fault ends it. One that meets a page under migration has
not begun, and is tried again (R399). -/
def State.fireFault (s : State) (f : Firing) (e : EngErr) : State :=
  match e with
  | .fault x => if x.recoverable && f.e.prot.hasFq && !f.refused then s.setFiring { f with begun := true, stall := some x }
    else s.fireDone f 1 0
  | .poison w => (s.ueWord (dieAgent f.die) w).fireDone f 2 0
  | .away _ => s.fireDone f 1 0
  | .mig => s

/-- Sends an ordered packet of the unit, and remembers it. -/
def State.fireSend (s : State) (f : Firing) (p : Packet) : State :=
  let seq := tget 0 (s.core ⟨p.sdie, p.score⟩).seq (seriesKey p.sag p.dpkg p.ddie)
  if p.dpkg = s.pkg then (s.setFiring { f with begun := true, stall := none }).send { p with seq := BitVec.ofNat 32 f.id }
  else (s.setFiring { f with begun := true, stall := none, sent := some (p.dpkg, p.ddie, seq) }).sendOrdered p

/-- R315: a triggered send. The inline payload stands from w8 on. At its home it waits for a migration (R399). -/
def State.fireBytes (s : State) (f : Firing) : State :=
  let n := (f.w 5).toNat
  if n = 0 || decide (64 < n) then s.fireDone f 9 0
  else
    let bs := ((List.range 8).flatMap (fun k => wordBytes (f.w (8 + k)))).take n
    let pkt := fun (pkg : BitVec 12) (va : Word) =>
      { mkPacket s 8 pkg f.die 255 (dieAgent f.die) 6 (.copyData f.id 0 f.e.pctx false 0 0 bs) with
        addr := va, aux := f.w 6, plen := BitVec.ofNat 13 n, ndf := 1 }
    match engPlace s f.e.prot true 1 (f.w 4) with
    | .error .mig => s.fireSend f (pkt s.pkg (f.w 4))
    | .error e => s.fireFault f e
    | .ok (.hbm _) => s.fireSend f (pkt s.pkg (f.w 4))
    | .ok pl => match pl.awayAt (f.w 4) with
      | some (pkg, va) => s.fireSend f (pkt pkg va)
      | none => s.fireDone f 1 0

/-- R315: the store of a triggered invocation's PH. -/
def State.storePh (s : State) (f : Firing) (ph : Word) : State × Option EngErr :=
  let va := f.w 15
  if va = 0 then (s, none)
  else match engWrite s f.e.prot true va (wordBytes ph) with
    | (s', some (.away pl)) => match pl.awayAt va with
      | some (pkg, a) =>
        let q : MemReq := { va := a, sz := 3, opc := 0, opnd := ph, swp := 0, pctx := f.e.pctx, user := true, poison := false,
                            src := f.agent, inv := 0, region := f.e.region, ph := 0 }
        (s.sendOrdered { mkPacket s 3 pkg f.die 255 (dieAgent f.die) 6 (.mem q) with addr := a }, none)
      | none => (s', some (.away pl))
    | r => r

/-- R315: the region of a triggered invocation. -/
def Firing.region (f : Firing) : Word := if f.w 14 = 0 then f.e.region else f.w 14
/-- R361: its effective PRIO, where it is known. -/
def Firing.prio (f : Firing) (s : State) : Option (BitVec 4) :=
  let p := s.effPrio f.e.prot f.region
  if p ≠ 0 || (s.awayEnd f.e.prot f.region).isNone then some p else f.lvl.bind (fun x => x)
/-- R361: the package that homes the next block of its chain is asked. -/
def State.firePrio (s : State) (f : Firing) : State :=
  match s.awayEnd f.e.prot f.region with
  | some (p, b) =>
    if f.lvl.isSome then s
    else (s.setFiring { f with lvl := some none }).tellPkg p (.ask f.agent s.pkg f.id (.prio f.e.pctx b))
  | none => s

/-- R315: a triggered invocation with its stamps. -/
def Firing.newInv (f : Firing) (s : State) (p : BitVec 4) (ph : Word) : Inv :=
  let w5 := f.w 5
  let region := f.region
  { id := s.fresh, ph := ph, target := f.w 4, sentTo := f.w 4, method := fld w5 0 8,
    args := (List.range (fld w5 8 3).toNat).map (fun k => f.w (8 + k)), resolve := w5.getLsbD 11, gang := 0, region := region,
    prio := newPrio p f.e.prio f.e.ceil, ceil := f.e.ceil, deadline := fld (f.w 6) 0 48, seed := f.e.seed,
    lnum := f.w 7, pctx := f.e.pctx, launch := f.e.launch, sender := .rennet s.pkg f.die, order := s.fresh, residency := [],
    arrival := 0, toks := [] }

/-- R315: a triggered invocation; it waits while no promise slot is free. -/
def State.fireInv (s0 : State) (f : Firing) : State :=
  let s := s0
  let w5 := f.w 5
  if !nameOk s (f.w 4) || fld w5 12 52 ≠ 0 || decide (6 < (fld w5 8 3).toNat) then s.fireDone f 9 0
  else match f.prio s with
  | none => s.firePrio f
  | some p => match s.takePh f.agent 6 (f.w 4) with
    | (none, s) => s
    | (some ph, s) => match s.storePh f ph with
      | (_, some e) => s0.fireFault f e
      | (s, none) =>
        let i := f.newInv s p ph
        let s := (s.addPromise ph i.launch i.id i.region).runAdd f.e.pctx f.e.prot i.region 1
        (({ s with fresh := s.fresh + 1 }).noteAway (nmPkg i.target) i.pctx i.region).fireSend { f with made := i.id } (invPacket s i (dieAgent f.die) 6)

/-- R315: a triggered counter add. -/
def State.fireAdd (s : State) (f : Firing) : State :=
  let c := f.w 4
  if !ctrOk s f.e.prot c then s.fireDone f 9 0
  else
    let amt : BitVec 48 := fld (f.w 5) 0 48
    if ctPkg c = s.pkg then (s.raiseLocal (ctDie c) (ctIndex c) amt).fireDone f 0 0
    else s.fireSend f { mkPacket s 6 (ctPkg c) (ctDie c) 255 (dieAgent f.die) 6 (.bytes (leBytes 6 amt.toNat)) with
      aux := c &&& 0xFFFFFFFF, plen := 6 }

/-- R315: a firing of a program's entry starts its operation. -/
def State.fireOne (s : State) (f : Firing) : State :=
  let s := s.freeFired f.e.id
  if f.reserved then s.fireDone f 9 0
  else if f.e.oper = 1 || f.e.oper = 2 then s.fireCopy f
  else if f.e.oper = 3 then s.fireBytes f
  else if f.e.oper = 4 then s.fireInv f
  else s.fireAdd f

/-- R222: a triggered operation ends: COMP is raised, or a TYPE 19 record posted. -/
def State.trigEnd (s : State) (b : Issuer) (entry comp : Word) (err : BitVec 8) (prog : Nat) : State :=
  if err ≠ 0 then s.logEng b err entry prog
  else if comp = 0 then s
  else if ctrOk s b.prot comp then s.raise comp 1 (dieAgent b.ctx.die) 6
  else s.logEng b 4 entry prog

/-- R315: COMP is raised when the operation's accesses are done. -/
def execTriggeredOpComplete (op : Nat) (s : State) : Out :=
  .next (State.counted (match s.firings.find? (fun f => f.id = op) with
    | none => s
    | some f => match f.fin with
      | none => s
      | some (err, prog) =>
        ({ s with firings := s.firings.filter (fun x => x.id ≠ op) }).trigEnd f.issuer f.e.id f.e.comp err prog))

/-- R310: the Vat of a die applies a raise. -/
def execCounterRaise (die : BitVec 2) (idx : BitVec 16) (amount : BitVec 48) (s : State) : Out :=
  .next (s.raiseLocal die idx amount).counted

end Sys2Proof.Machine
end

