-- ==== Sys2Proof/Machine/Side.lean ====
section
/-! DEFINITION. Side information: SIADV, SIRET, the side-information table and the holdings view (R225, R294 to R299). -/

namespace Sys2Proof.Machine

/-! ## The table of a die (R294 to R296) -/

def sideCap : Nat := 65536
def sideValid (l : List SideInfo) : Nat := (l.filter (fun e => e.valid)).length
/-- R294: an entry replaces an older one of the same block; none where the table is full. -/
def sideAdd (l : List SideInfo) (e : SideInfo) : Option (List SideInfo) :=
  let rest := l.filter (fun x => x.bid ≠ e.bid && x.valid)
  if rest.length < sideCap then some (rest ++ [e]) else none
def State.setSide (s : State) (d : BitVec 2) (l : List SideInfo) : State := s.setDie d { s.die d with side := l }

/-- R303: the entry of a block, whatever its VALID bit. -/
def sideFind (l : List SideInfo) (bid : BitVec 48) : Option SideInfo := l.find? (fun e => e.bid = bid)

/-- R296: EXPIRY holds TIME[35:20]. -/
def expiryOf (t : Word) : Word := (fld t 20 16).setWidth 64
def expired (e now : Word) : Bool := decide (((fld now 20 16) - (fld e 0 16)).toNat < 2 ^ 15)

/-! ## Notices (R297, R299) -/

/-- R297: every die of the package, and of each package with a direct link. -/
def State.noticeDies (s : State) : List (BitVec 12 × BitVec 2) :=
  (s.pkg :: s.pods.filter Config.linked).flatMap (fun p => dies.map (fun d => (p, d)))
/-- R297, R298: notices about blocks that a die holds go to the switches of other dies. -/
def State.noticesTo (s : State) (to_ : List (BitVec 12 × BitVec 2)) (type : BitVec 8) (die : BitVec 2) (first : BitVec 48) (n : Nat) (gen : BitVec 16) : State :=
  if n = 0 then s else to_.foldl (fun s t => s.sendBulk (mkPacket s type t.1 t.2 255 (dieAgent die) 7 (.notice s.pkg die first n gen))) s
def State.notices (s : State) (type : BitVec 8) (die : BitVec 2) (first : BitVec 48) (n : Nat) (gen : BitVec 16) : State :=
  s.noticesTo s.noticeDies type die first n gen

def holdCap : Nat := 16384
/-- R299: a record of the switch's belief; the oldest makes room. A record of a notice, which has no expiry, outlives a later one of the same
die, block and generation. -/
def holdAdd (l : List Holding) (h : Holding) : List Holding :=
  let same := fun (x : Holding) => x.rpkg = h.rpkg && x.rdie = h.rdie && x.bid = h.bid && x.gen = h.gen
  let h := if l.any (fun x => same x && x.at_ = 0) then { h with at_ := 0 } else h
  let l := l.filter (fun x => !same x)
  (if l.length < holdCap then l else l.drop 1) ++ [h]
def bids (first : BitVec 48) (n : Nat) : List (BitVec 48) := (List.range n).map (fun k => first + BitVec.ofNat 48 k)

/-- R299: a holding notice and a withdrawal at a die's switch. -/
def State.noteHoldings (s : State) (at_ : BitVec 2) (rpkg : BitVec 12) (rdie : BitVec 2) (first : BitVec 48) (n : Nat) (gen : BitVec 16) : State :=
  let d := s.die at_
  s.setDie at_ { d with holdings := (bids first n).foldl (fun l b => holdAdd l ⟨rpkg, rdie, b, gen, 0⟩) d.holdings }
def State.dropHoldings (s : State) (at_ : BitVec 2) (rpkg : BitVec 12) (rdie : BitVec 2) (first : BitVec 48) (n : Nat) : State :=
  let d := s.die at_
  s.setDie at_ { d with holdings := d.holdings.filter (fun h => !(h.rpkg = rpkg && h.rdie = rdie && decide ((h.bid - first).toNat < n))) }

/-- R299: records whose time has come are removed; a record of a notice has none. -/
def execHoldingsExpiry (die : BitVec 2) (s : State) : Out :=
  let d := s.die die
  .next (s.setDie die { d with holdings := d.holdings.filter (fun h => h.at_ = 0 || s.time.ult h.at_) }).counted

/-- R296: a retention entry is cleared when its time has come. -/
def execRetentionExpiry (die : BitVec 2) (bid : BitVec 48) (s : State) : Out :=
  let d := s.die die
  .next (s.setDie die { d with side := d.side.map (fun (e : SideInfo) =>
    if e.bid = bid && e.orig && expired e.expiry s.time then { e with valid := false } else e) }).counted

/-! ## SIADV and SIRET (R225) -/

/-- R225: the fields of an advertisement record. -/
structure Advert where
  first : BitVec 48
  n     : Nat
  addr  : Word
  gen   : BitVec 16
  deriving DecidableEq, Repr
def advertOf (bs : List Byte) : Advert :=
  ⟨fld (dwAt bs 0) 0 48, (fld (dwAt bs 0) 48 16).toNat, dwAt bs 1, fld (dwAt bs 2) 0 16⟩

/-- R225 cause 9: the blocks translate to HBM homed on the issuing die. -/
def advertPages : List Word → Bool → State → Try (Bool × State)
  | [], ok, s => .ok (ok, s)
  | va :: vas, ok, s =>
    match s.access 0 false va with
    | .error d => .error d
    | .ok (.hbm pa, s) => advertPages vas (ok && homeDie pa = s.cx.id.die) s
    | .ok (_, s) => advertPages vas false s

def State.advert (s : State) (grec : GReg) : Try (Advert × State) := do
  let va := s.g grec
  s.aligned 0 32 va
  let (bs, s) ← s.gather va 32
  let a := advertOf bs
  if a.n = 0 then pure (a, s)
  else do
    let (ok, s) ← advertPages ((rangePieces a.addr (4096 * a.n)).map Prod.fst) true s
    s.need (ok && a.addr.toNat % 4096 = 0) 9
    pure (a, s)

/-- Where a block of a record lies. -/
def State.advertPa (s : State) (a : Advert) (k : Nat) : Nat :=
  match (s.xlate s.cx.id.coreId s.cx.pctx s.cx.prot.keyslot (!s.cx.priv) false 0 (a.addr + natWord (4096 * k))).1 with
  | .ok (.hbm pa) _ => pa
  | _ => 0

/-- R225: enters blocks in ascending order while the table has room; how many were entered. -/
def enterBlocks (s : State) (a : Advert) : Nat → Nat → List SideInfo → Nat × List SideInfo
  | 0, k, l => (k, l)
  | fuel + 1, k, l =>
    match sideAdd l { bid := a.first + BitVec.ofNat 48 k, gen := a.gen, pa := s.advertPa a k, valid := true, orig := false, expiry := 0 } with
    | some l => enterBlocks s a fuel (k + 1) l
    | none => (k, l)

/-- R225. -/
def execSiadv (m : Mods) (gd grec : GReg) (s : State) : Out :=
  issue m 8 .plain s (fun s => Try.done (do
    let (a, s) ← s.advert grec
    let die := s.cx.id.die
    let (n, l) := enterBlocks s a a.n 0 (s.die die).side
    pure (.fall (((s.setSide die l).notices 0x34 die a.first n a.gen).laterG gd (natWord n)))))

/-- Whether an entry is one that a SIRET of the record withdraws. -/
def Advert.holds (a : Advert) (e : SideInfo) : Bool := e.valid && !e.orig && decide ((e.bid - a.first).toNat < a.n)
/-- R297: the runs of consecutive blocks among those withdrawn. -/
def runsOf : List (BitVec 48) → List (BitVec 48 × Nat)
  | [] => []
  | b :: bs => match runsOf bs with
    | (f, n) :: rs => if f = b + 1 then (b, n + 1) :: rs else (b, 1) :: (f, n) :: rs
    | [] => [(b, 1)]

/-- R225. -/
def execSiret (m : Mods) (gd grec : GReg) (s : State) : Out :=
  issue m 8 .plain s (fun s => Try.done (do
    let (a, s) ← s.advert grec
    let die := s.cx.id.die
    let d := (s.die die).side
    let gone := sortBy (fun (x y : BitVec 48) => decide ((x - a.first).toNat ≤ (y - a.first).toNat))
      ((d.filter a.holds).map (fun e => e.bid))
    let s := s.setSide die (d.map (fun (e : SideInfo) => if a.holds e then { e with valid := false } else e))
    let s := (runsOf gone).foldl (fun s r => s.notices 0x35 die r.1 r.2 a.gen) s
    pure (.fall (s.laterG gd (natWord gone.length)))))

end Sys2Proof.Machine
end

