-- ==== Sys2Proof/Machine/Coll.lean ====
section
/-! DEFINITION. Collectives (R224, R320 to R332): COLL, the movement of chunks, errors. -/

namespace Sys2Proof.Machine

/-! ## Shape (R324 to R327) -/

def ceilDiv (a b : Nat) : Nat := (a + b - 1) / b
/-- Bytes of an element. -/
def Coll.elem (c : Coll) : Nat := codeBits c.dtype / 8
def Coll.n (c : Coll) : Nat := c.ranks.length
def Coll.blockBytes (c : Coll) : Nat := c.count * c.elem
/-- R324: chunks of a block. -/
def Coll.per (c : Coll) : Nat := ceilDiv c.blockBytes c.chunk
def Coll.reduces (c : Coll) : Bool := c.oper = 0 || c.oper = 1 || c.oper = 5
def Coll.ring (c : Coll) : Bool := c.algo = 1
def Coll.tree (c : Coll) : Bool := c.algo = 2
def Coll.direct (c : Coll) : Bool := c.algo = 3 || c.algo = 4
/-- R324: chunks per rank. -/
def Coll.chunks (c : Coll) (r : Nat) : Nat :=
  if c.oper = 6 then 0 else if c.oper = 2 || c.oper = 3 then c.n * c.per
  else if c.oper = 5 then (if r = c.root then c.per else 0) else c.per
/-- R324: L. -/
def Coll.total (c : Coll) : Nat := if c.reduces then c.n else 1

/-- The bytes of a chunk. -/
def Coll.len (c : Coll) (i : Nat) : Nat := min c.chunk (c.blockBytes - i * c.chunk)
/-- Every chunk that some rank sends or receives: block and chunk within it. For all-to-all block s × N + d goes from s to d. -/
def Coll.items (c : Coll) : List (Nat × Nat) :=
  let bs := if c.oper = 6 then 0 else if c.oper = 3 then c.n * c.n else if c.oper = 1 || c.oper = 2 then c.n else 1
  (List.range bs).flatMap (fun b => (List.range c.per).map (fun i => (b, i)))
/-- R324: where a chunk stands in SRC and DST, and its landing counter. -/
def Coll.srcOff (c : Coll) (b i : Nat) : Nat :=
  (if c.oper = 1 then b * c.blockBytes else if c.oper = 3 then b % c.n * c.blockBytes else 0) + i * c.chunk
def Coll.dstOff (c : Coll) (b i : Nat) : Nat :=
  (if c.oper = 2 then b * c.blockBytes else if c.oper = 3 then b / c.n * c.blockBytes else 0) + i * c.chunk
def Coll.landIdx (c : Coll) (b i : Nat) : Nat :=
  if c.oper = 2 then b * c.per + i else if c.oper = 3 then b / c.n * c.per + i else i
/-- Whether a rank receives the final value of a chunk. -/
def Coll.needs (c : Coll) (r b : Nat) : Bool :=
  if c.oper = 1 then b = r else if c.oper = 3 then b % c.n = r else if c.oper = 5 then r = c.root else true
/-- The rank at which a chunk that is copied starts. -/
def Coll.origin (c : Coll) (b : Nat) : Nat := if c.oper = 2 then b else if c.oper = 3 then b / c.n else c.root

/-- R328: every rank reduces for itself. -/
def Coll.allOwn (c : Coll) : Bool := c.oper = 0 && c.direct
/-- R328: contributions go straight to their owner. -/
def Coll.straight (c : Coll) : Bool := c.direct || c.det
/-- R328: the rank that completes the reduction of a chunk. -/
def Coll.owner (c : Coll) (b i : Nat) : Nat :=
  if c.oper = 5 then c.root else if c.det then i % c.n else if c.oper = 1 && !c.tree then b else if c.ring then i % c.n else 0
/-- R328: with DET, the owner of a chunk of a reduce-scatter may not be the rank that receives it: it keeps the reduction beside its DST, and
distributes it (log entry 44). -/
def Coll.aside (c : Coll) (b i : Nat) : Bool := c.oper = 1 && c.det && c.owner b i ≠ b
def Coll.owns (c : Coll) (r b i : Nat) : Bool := c.allOwn || c.owner b i = r

/-- R325: positions in the tree; ROOT is 0 for operations that have none. -/
def Coll.treeRoot (c : Coll) : Nat := if c.oper = 4 || c.oper = 5 then c.root else 0
def Coll.pos (c : Coll) (r : Nat) : Nat := (r + c.n - c.treeRoot) % c.n
def Coll.rankAt (c : Coll) (p : Nat) : Nat := (p + c.treeRoot) % c.n
/-- Positions of the tree below a position, that position included: whether p lies there. -/
def below (q : Nat) : Nat → Nat → Bool
  | 0, p => p = q
  | fuel + 1, p => p = q || (p ≠ 0 && below q fuel ((p - 1) / 2))
def Coll.kids (c : Coll) (p : Nat) : List Nat := [2 * p + 1, 2 * p + 2].filter (fun q => decide (q < c.n))

/-- R325: where a partial goes from a rank; none at the owner. -/
def Coll.parent (c : Coll) (r b i : Nat) : Option Nat :=
  if c.owner b i = r then none
  else if c.ring then some ((r + 1) % c.n)
  else some (c.rankAt ((c.pos r - 1) / 2))
/-- R325: the ranks whose partials a rank combines into its own, in position order. -/
def Coll.children (c : Coll) (r b i : Nat) : List Nat :=
  if c.ring then (if decide (c.n ≤ 1) || (c.owner b i + 1) % c.n = r then [] else [(r + c.n - 1) % c.n])
  else (c.kids (c.pos r)).map c.rankAt

/-- R325: where a final value goes on from a rank, having come from `prev` (itself at its origin). -/
def Coll.nextHops (c : Coll) (r prev o b : Nat) : List Nat :=
  let all := List.range c.n
  if c.direct then (if r = o then all.filter (fun d => d ≠ o && c.needs d b) else [])
  else if c.ring then
    let ahead := (all.map (fun k => (r + 1 + k) % c.n)).takeWhile (fun d => d ≠ o)
    if ahead.any (fun d => c.needs d b) then [(r + 1) % c.n] else []
  else
    let p := c.pos r
    let down := (c.kids p).filter (fun q => all.any (fun d => c.needs d b && below q c.n (c.pos d)))
    let up := if p = 0 || all.all (fun d => !c.needs d b || below p c.n (c.pos d)) then [] else [(p - 1) / 2]
    ((up ++ down).map c.rankAt).filter (fun x => x ≠ prev || r = o)
/-- The neighbour through which a final value reaches a rank. -/
def Coll.prevHop (c : Coll) (r o : Nat) : Nat :=
  if r = o then r else if c.direct then o
  else if c.ring then (r + c.n - 1) % c.n
  else
    let p := c.pos r
    match (c.kids p).find? (fun q => below q c.n (c.pos o)) with
    | some q => c.rankAt q
    | none => c.rankAt ((p - 1) / 2)

/-- Where the final value of a chunk starts to be passed on. -/
def Coll.finalFrom (c : Coll) (b i : Nat) : Nat := if c.reduces then c.owner b i else c.origin b
/-- Whether a final value passes a rank on its way. -/
def Coll.passes (c : Coll) (r b i : Nat) : Bool :=
  let o := c.finalFrom b i
  (c.nextHops (c.prevHop r o) (c.prevHop (c.prevHop r o) o) o b).contains r
/-- Packets that a rank sends for one chunk. -/
def Coll.sendsFor (c : Coll) (r : Nat) (x : Nat × Nat) : Nat :=
  let (b, i) := x
  let up := if !c.reduces then 0
    else if c.straight then ((List.range c.n).filter (fun d => d ≠ r && c.owns d b i)).length
    else (match c.parent r b i with | some _ => 1 | none => 0)
  let o := c.finalFrom b i
  let reached := r = o || c.needs r b || !c.direct
  let fwd := if c.allOwn || !reached then 0
    else if r ≠ o && !(c.passes r b i) then 0
    else (c.nextHops r (c.prevHop r o) o b).length
  up + fwd
/-- The packets that a rank sends in all. -/
def Coll.sendsOf (c : Coll) (r : Nat) : Nat := (c.items.map (c.sendsFor r)).foldl (· + ·) 0

/-- R323 step 2: the ranks that a rank receives from. -/
def Coll.receives (c : Coll) (r : Nat) : List Nat :=
  let others := (List.range c.n).filter (fun d => d ≠ r)
  let ringP := [(r + c.n - 1) % c.n].filter (fun d => d ≠ r)
  let treeP := ((c.kids (c.pos r)).map c.rankAt) ++ (if c.pos r = 0 then [] else [c.rankAt ((c.pos r - 1) / 2)])
  if c.oper = 6 then List.range c.n
  else if c.direct || (c.det && c.reduces) then
    (if c.oper = 4 then others.filter (fun d => d = c.root) else if c.oper = 5 && r ≠ c.root then [] else others)
  else if c.ring then ringP else treeP
/-- The ranks whose ready messages a rank waits for before it can be done. -/
def Coll.awaits (c : Coll) : List Nat := (List.range c.n).filter (fun d => (c.receives d).contains c.rank)

/-! ## COLL (R224, R321, R322) -/

/-- R326. -/
def autoAlgo (oper : BitVec 4) (det : Bool) (n per chunk : Nat) (packages : Nat) : BitVec 4 :=
  if oper = 6 || oper = 4 || oper = 5 then 2
  else if oper = 0 || oper = 1 then
    (if det || decide (n ≤ 8) then 3 else if decide (4 * n ≤ per) then 1 else 2)
  else if oper = 3 && decide (chunk = 4096) && decide (1 < packages) then 4
  else if decide (n ≤ 8) then 3 else 1

/-- R327. -/
def Coll.entriesNeeded (c : Coll) : Nat :=
  if c.oper = 6 then 2
  else if c.direct then 2 + c.chunks c.rank
  else if c.ring then 2 + (if c.reduces then 2 else 1) * (c.n - 1) * ceilDiv c.per c.n
  else 2 + 2 * c.per

/-- R320: the ranks of a group; none where the entry cannot be used. -/
def State.groupRanks (s : State) (g : BitVec 16) : Option (List (BitVec 12 × BitVec 2)) :=
  if s.regs.grplen.toNat ≤ g.toNat then none
  else
    let bs := s.bytes 0 (s.regs.grptab.toNat + 64 * g.toNat) 64
    let n := (fld (dwAt bs 0) 0 16).toNat
    if !(dwAt bs 0).getLsbD 32 || n = 0 || decide (4096 < n) then none
    else some ((List.range n).map (fun k =>
      let w := wordOf (s.bytes 0 ((dwAt bs 1).toNat + 8 * k) 8)
      (fld w 0 12, fld w 12 2)))

/-- R322: status 1 but for ROOT. -/
def blockBad (w : Nat → Word) (det : Bool) : Bool :=
  let w0 := w 0
  let oper : BitVec 4 := fld w0 0 4
  let algo : BitVec 4 := fld w0 4 4
  let dtype : BitVec 4 := fld w0 12 4
  let rop : BitVec 4 := fld w0 16 4
  let chunk := (w 4).toNat
  let el := codeBits dtype / 8
  let reduces := oper = 0 || oper = 1 || oper = 5
  fld w0 10 2 ≠ 0 || fld w0 20 12 ≠ 0 || fld (w 8) 48 16 ≠ 0 || fld (w 9) 24 40 ≠ 0 ||
    (List.range 6).any (fun k => w (10 + k) ≠ 0) ||
    decide (6 < oper.toNat) || decide (4 < algo.toNat) || !(dtype = 0 || dtype = 1 || dtype = 2 || dtype = 8) ||
    (reduces && !(redOk rop dtype || (rop = 12 && dtype = 8))) || chunk = 0 || decide (chunk % 256 ≠ 0) ||
    (det && decide ((if rop = 12 then 32768 else 65536) < chunk)) ||
    decide ((w 1).toNat % el ≠ 0) || decide ((w 2).toNat % el ≠ 0) ||
    (algo = 4 && (!(oper = 2 || oper = 3) || decide (chunk ≠ 4096)))

/-- The collective of a parameter block. -/
def State.collOf (s : State) (blk : Word) (w : Nat → Word) (det strict : Bool) (ranks : List (BitVec 12 × BitVec 2))
    (rank : Nat) : Coll :=
  let w0 := w 0
  let die := s.cx.id.die
  let group : BitVec 16 := fld w0 32 16
  let p := s.poster
  let c : Coll :=
    { slot := 0, die := die, core := s.cx.id.core, blk := blk, oper := fld w0 0 4, algo := fld w0 4 4, det := det, strict := strict,
      dtype := fld w0 12 4, rop := fld w0 16 4, group := group, root := (fld w0 48 16).toNat, src := w 1, dst := w 2,
      count := (w 3).toNat, chunk := (w 4).toNat, land := w 6, doneC := w 7, rank := rank,
      k := tget 0 s.collNo (group.toNat * 4 + die.toNat), ranks := ranks, ready := [], peers := [], start := 0, started := false, bases := [], inq := [],
      out := [], flight := [], parts := [], landed := 0, sends := 0, err := 0, region := p.region, pctx := p.pctx,
      prot := p.prot, launch := p.launch, stall := none, onEntry := none, refused := false }
  let pkgs := (ranks.map Prod.fst).eraseDups.length
  if c.algo = 0 then { c with algo := autoAlgo c.oper det c.n c.per c.chunk pkgs } else c

/-- R322: the status, and the collective where it is 0. -/
def State.collStatus (s : State) (blk : Word) (w : Nat → Word) (det strict : Bool) : Word × Option Coll :=
  if blockBad w det then (1, none)
  else match s.groupRanks (fld (w 0) 32 16) with
    | none => (3, none)
    | some ranks =>
      let me := (s.pkg, s.cx.id.die)
      let c := s.collOf blk w det strict ranks (ranks.idxOf me)
      if c.algo = 4 && decide (65536 < c.chunks c.rank) then (1, none)
      else if !ranks.contains me then (3, none)
      else
        let ok := fun (x : Word) => ctrOk s s.cx.prot x && ctPkg x = s.pkg
        if (c.oper = 4 || c.oper = 5) && decide (c.n ≤ c.root) then (1, none)
        else if !(ok (w 5) && ok (w 6) && ok (w 7)) || decide (65536 < (ctIndex c.land).toNat + c.chunks c.rank) then (4, none)
        else
          let mine := s.colls.filter (fun x => x.die = c.die)
          match freeSlot (mine.map (fun x => x.slot.toNat)) 256 with
          | none => (2, none)
          | some k =>
            if decide (s.freeEntries c.die < c.entriesNeeded) || decide (16 ≤ (mine.filter (fun x => x.group = c.group)).length) then
              (2, none)
            else (0, some { c with slot := BitVec.ofNat 8 k })

/-- R224: DECF and ERR are cleared. -/
def State.clearBlock (s : State) (blk : Word) : State := s.devPut s.cx.prot (blk + 72) [0, 0, 0]

def State.setColl (s : State) (c : Coll) : State :=
  { s with colls := s.colls.map (fun x => if x.die = c.die && x.slot = c.slot then c else x) }
def State.coll (s : State) (die : BitVec 2) (slot : BitVec 8) : Option Coll := s.colls.find? (fun c => c.die = die && c.slot = slot)
/-- R321: the collective of a group and number that a die takes part in. -/
def State.collBy (s : State) (die : BitVec 2) (group : BitVec 16) (k : Nat) : Option Coll :=
  s.colls.find? (fun c => c.die = die && c.group = group && c.k = k && c.err = 0)

/-- R293, R323: a ready message is noted. -/
def Coll.addReady (c : Coll) (e : Early) : Coll :=
  { c with ready := e.rank :: c.ready, peers := ⟨e.rank, e.dst, e.land, e.pctx⟩ :: c.peers.filter (fun p => p.rank ≠ e.rank) }
/-- R323: what has come for the collective before it was issued. -/
def State.pullEarly (s : State) (c : Coll) : State :=
  let d := s.die c.die
  let mine := d.early.filter (fun e => e.group = c.group && e.k = c.k)
  let errs := d.earlyErr.filter (fun e => e.1 = c.group && e.2.1 = c.k)
  let bad := mine.any (fun e => e.nrank ≠ c.n)
  let s := s.setDie c.die { d with early := d.early.filter (fun e => !(e.group = c.group && e.k = c.k))
                                   earlyErr := d.earlyErr.filter (fun e => !(e.1 = c.group && e.2.1 = c.k)) }
  let s := s.setColl (mine.foldl Coll.addReady c)
  match errs with
  | e :: _ => s.due (.collectiveAbort c.die c.slot e.2.2)
  | [] => if bad then s.due (.collectiveAbort c.die c.slot 5) else s

/-- R224: the entries of a collective: the start entry, and those that hold its steps and its end. -/
def State.postColl (s : State) (c : Coll) (start : Word) (sthr : BitVec 48) : State :=
  let s := s.clearBlock c.blk
  let d := s.die c.die
  let s := s.setDie c.die { d with dead := d.dead.filter (fun t => t ≠ c.tag) }
  let s := { s with colls := s.colls ++ [c], collNo := tset 0 s.collNo (c.group.toNat * 4 + c.die.toNat) (c.k + 1) }
  let s := s.pullEarly c
  let s := (List.range (c.entriesNeeded - 1)).foldl (fun s _ =>
    (s.addEntry c.die s.poster c.land 0 6 0 0 [1] (some c.slot)).2) s
  let (id, s) := s.addEntry c.die s.poster start sthr 6 0 0 [0] (some c.slot)
  match s.coll c.die c.slot with
  | some x => s.setColl { x with start := id }
  | none => s

def collBody (gd gblk : GReg) (det strict : Bool) (s : State) : Try Done := do
  let blk := s.g gblk
  let (d, s) ← s.readDesc blk
  let w := fun n => d.getD n 0
  match s.collStatus blk w (det || (w 0).getLsbD 8) (strict || (w 0).getLsbD 9) with
  | (0, some c) => pure (.fall ((s.postColl c (w 5) (fld (w 8) 0 48)).laterG gd 0))
  | (st, _) => pure (.fall (s.laterG gd st))
/-- R224. -/
def execColl (m : Mods) (gd gblk : GReg) (det strict : Bool) (s : State) : Out :=
  issue m 8 .plain s (fun s => Try.done (collBody gd gblk det strict s))

/-! ## The end of a collective (R323 step 5, R327, R332) -/

/-- The entries of a collective that satisfy a test are removed. -/
def State.dropSteps (s : State) (c : Coll) (t : Entry → Bool) : State :=
  let mine := fun (e : Entry) => enDie e.id = c.die && e.coll = some c.slot && t e
  let gone := s.entries.filter mine
  gone.foldl (fun s e => s.bumpGen 3 c.die (fld e.id 0 14).toNat) { s with entries := s.entries.filter (fun e => !mine e) }
/-- R327: step entries that have fired for the last time: one for each chunk that has landed, or, in a ring or tree, one for each movement of
a chunk. One entry stays for the end (log entry 114). -/
def Coll.stepsOver (c : Coll) : Nat :=
  min (c.entriesNeeded - 2) (if c.direct then c.landed else c.landed + c.sends)
/-- R327: they are freed. -/
def State.freeSteps (s : State) (c : Coll) : State :=
  let steps := s.entries.filter (fun e => enDie e.id = c.die && e.coll = some c.slot && e.id ≠ c.start)
  let gone := (steps.take (steps.length - (c.entriesNeeded - 1 - c.stepsOver))).map (fun e => e.id)
  if gone.isEmpty then s else s.dropSteps c (fun e => gone.contains e.id)
/-- The collective's entries that have not fired are removed, and its slot is free; where its start firing is still queued, when that has
completed. -/
def State.closeColl (s : State) (c : Coll) (err : BitVec 8) : State :=
  let s := s.dropSteps c (fun e => !e.fired)
  let others := s.colls.filter (fun x => !(x.die = c.die && x.slot = c.slot))
  if s.firings.any (fun f => f.e.id = c.start && !f.begun) then
    { s with colls := others ++ [{ c with err := if err = 0 then 1 else err, inq := [], out := [], flight := [], stall := none, onEntry := none }] }
  else { s with colls := others }

def blockId (pkg : BitVec 12) (tag : BitVec 20) (idx : Nat) : BitVec 48 := pkg ++ tag ++ BitVec.ofNat 16 idx
/-- R298: where the collective's declarations go: the dies of its ranks. -/
def Coll.places (c : Coll) : List (BitVec 12 × BitVec 2) := c.ranks.eraseDups
/-- R298: the declarations of a die of this package are withdrawn. -/
def State.undeclareAt (s : State) (c : Coll) (die : BitVec 2) : State :=
  let l := (s.die die).side
  let mine := fun (e : SideInfo) => e.valid && !e.orig && bidTag e.bid = c.tag
  let gone := sortBy (fun (x y : BitVec 48) => decide (x.toNat ≤ y.toNat)) ((l.filter mine).map (fun e => e.bid))
  if gone.isEmpty then s
  else
    let s := s.setSide die (l.map (fun (e : SideInfo) => if mine e then { e with valid := false } else e))
    (runsOf gone).foldl (fun s r => s.noticesTo c.places 0x35 die r.1 r.2 0) s
/-- R298: the declarations of the collective are withdrawn. -/
def State.undeclare (s : State) (c : Coll) : State :=
  if c.algo ≠ 4 then s else dies.foldl (fun s d => s.undeclareAt c d) s

/-- DONE is raised by 1. -/
def State.raiseDone (s : State) (c : Coll) : State := s.raise c.doneC 1 (dieAgent c.die) 6

/-- R332: what a rank does at an error, its own or another's. -/
def State.abortColl (s : State) (c : Coll) (err : BitVec 8) : State :=
  let old := match s.devRead c.prot (c.blk + 74) 1 with | some [b] => b | _ => 0
  let s := if old = 0 then s.devPut c.prot (c.blk + 74) [err] else s
  let d := s.die c.die
  let s := s.setDie c.die { d with dead := d.dead ++ [c.tag] }
  let s := ((s.closeColl c err).undeclare c).raiseDone c
  s.postElog c.prot c.pctx c.region (errRec 20 err 0 s.pkg (dieAgent c.die) 6 c.blk (c.group.setWidth 64) 0)

/-- Where a rank is. -/
def Coll.at_ (c : Coll) (r : Nat) : BitVec 12 × BitVec 2 := c.ranks.getD r (0, 0)
/-- R332: the abort message. -/
def State.tellAbort (s : State) (c : Coll) (err : BitVec 8) : State :=
  (List.range c.n).foldl (fun s r =>
    if r = c.rank then s
    else s.sendOrdered (mkPacket s 6 (c.at_ r).1 (c.at_ r).2 255 (dieAgent c.die) 6 (.abort c.group c.k err))) s
/-- R332: an error detected at this rank. -/
def State.collError (s : State) (c : Coll) (err : BitVec 8) : State := (s.tellAbort c err).abortColl c err

/-- R332. -/
def execCollectiveAbort (die : BitVec 2) (slot : BitVec 8) (err : BitVec 8) (s : State) : Out :=
  .next (State.counted (match s.coll die slot with
    | some c => if c.err = 0 then s.collError c err else s
    | none => s))

/-! ## Movement (R323, R325, R328 to R331) -/

/-- R323 step 1, 2: the start. -/
def Coll.firstMsgs (c : Coll) (fresh : Nat) (pkg : BitVec 12) : List CollMsg :=
  let r := c.rank
  let msg := fun (b i dest : Nat) (final : Bool) =>
    ({ id := 0, dest := dest, b := b, i := i, src := r, final := final, data := none, defer := false, seq := 0, at_ := 0,
       from_ := (pkg, c.die) } : CollMsg)
  let l := c.items.flatMap (fun x =>
    if c.reduces then
      (if c.straight then ((List.range c.n).filter (fun d => c.owns d x.1 x.2)).map (fun d => msg x.1 x.2 d false)
       else [msg x.1 x.2 r false])
    else if c.origin x.1 = r then
      (if c.needs r x.1 then [msg x.1 x.2 r true] else []) ++ (c.nextHops r r r x.1).map (fun d => msg x.1 x.2 d true)
    else [])
  (l.zip (List.range l.length)).map (fun e => { e.1 with id := fresh + e.2 })

/-- The landing cell of a chunk. -/
def Coll.cell (c : Coll) (b i : Nat) : BitVec 16 := ctIndex c.land + BitVec.ofNat 16 (c.landIdx b i)
def State.landCell (s : State) (c : Coll) (b i : Nat) : BitVec 32 := (s.cell (ctDie c.land) (c.cell b i)).setWidth 32

/-- R294, R298: a rank declares that it holds a block: an entry on the die that homes the copy, and notices to the ranks' dies. -/
def State.declare (s : State) (c : Coll) (bid : BitVec 48) (va : Word) : State :=
  match (s.xlateDev c.prot true false 0 va).pa with
  | none => s
  | some pa =>
    let die := homeDie pa
    let d := s.die die
    match (if pa % 4096 = 0 then sideAdd d.side { bid := bid, gen := d.rgen, pa := pa, valid := true, orig := false, expiry := 0 } else none) with
    | none => s
    | some l => (s.setDie die { d with side := l, rgen := d.rgen + 1 }).noticesTo c.places 0x34 die bid 1 d.rgen
def State.declareSrc (s : State) (c : Coll) : State :=
  if c.algo ≠ 4 then s
  else (c.items.filter (fun x => c.origin x.1 = c.rank && c.len x.2 = 4096)).foldl (fun s x =>
    s.declare c (blockId s.pkg c.tag (c.landIdx x.1 x.2)) (c.src + natWord (c.srcOff x.1 x.2))) s

/-- R323 step 2: the ready messages of a rank. -/
def State.tellReady (s : State) (c : Coll) : State :=
  (c.receives c.rank).foldl (fun s r =>
    if r = c.rank then s
    else s.sendOrdered (mkPacket s 6 (c.at_ r).1 (c.at_ r).2 255 (dieAgent c.die) 6 (.ready c.group c.k c.rank c.n c.dst (ctIndex c.land) c.pctx))) s

/-- R323: the start entry has fired. -/
def State.startColl (s : State) (c : Coll) : State :=
  let msgs := c.firstMsgs s.fresh s.pkg
  let own := msgs.filter (fun m => m.dest = c.rank)
  let c := { c with
    started := true
    bases := (List.range (c.chunks c.rank)).map (fun k => (s.cell (ctDie c.land) (ctIndex c.land + BitVec.ofNat 16 k)).setWidth 32)
    inq := own
    out := msgs.filter (fun m => m.dest ≠ c.rank)
    ready := if (c.receives c.rank).contains c.rank then c.rank :: c.ready else c.ready }
  let s := ({ s with fresh := s.fresh + msgs.length }).setColl c
  (s.declareSrc c).tellReady c

/-- R328: a contribution is combined with what stands; ROP 12 saturates. -/
def collReduce (rop dtype : BitVec 4) (d x : List Byte) : List Byte :=
  if rop = 12 then
    (List.range (d.length / 4)).flatMap (fun k =>
      leBytes 4 ((addSat (BitVec.ofNat 32 (leNat ((d.drop (4 * k)).take 4))) (BitVec.ofNat 32 (leNat ((x.drop (4 * k)).take 4)))).toNat))
  else reduceBytes rop dtype (codeBits dtype / 8) d.length d x

/-- R330: exact sums of s32 elements. -/
def elems32 (bs : List Byte) : List Int := (List.range (bs.length / 4)).map (fun k => (BitVec.ofNat 32 (leNat ((bs.drop (4 * k)).take 4))).toInt)
def addSums (a b : List Int) : List Int := if a.isEmpty then b else a.zipWith (· + ·) b
def sumBytes (l : List Int) : List Byte := l.flatMap (fun v => leBytes 4 (clampS 32 v).toNat)

/-- What a step of a collective comes to. -/
inductive CollRes where
  | ok (s : State) (c : Coll)
  | stop (e : EngErr)
  | err (code : BitVec 8)
  | defer (s : State) (c : Coll)

def Coll.part (c : Coll) (b i : Nat) : CollPart :=
  match c.parts.find? (fun p => p.b = b && p.i = i) with
  | some p => p
  | none => ⟨b, i, 0, [], [], [], [], []⟩
def Coll.setPart (c : Coll) (p : CollPart) : Coll :=
  { c with parts := p :: c.parts.filter (fun x => !(x.b = p.b && x.i = p.i)) }

/-- R323 step 4: raises a landing counter. -/
def State.landRaise (s : State) (c : Coll) (b i n : Nat) : State :=
  s.raiseLocal (ctDie c.land) (c.cell b i) (BitVec.ofNat 48 n)

/-- R325: a final value at this rank: written where it is needed, and passed on. -/
def State.collFinal (s : State) (c : Coll) (b i prev : Nat) (bs : List Byte) (write : Bool) : CollRes :=
  let r := c.rank
  let o := c.finalFrom b i
  let va := c.dst + natWord (c.dstOff b i)
  let fwd := (c.nextHops r prev o b).map (fun d =>
    ({ id := 0, dest := d, b := b, i := i, src := o, final := true, data := some bs, defer := false, seq := 0, at_ := 0,
       from_ := (s.pkg, c.die) } : CollMsg))
  let fwd := (fwd.zip (List.range fwd.length)).map (fun e => { e.1 with id := s.fresh + e.2 })
  let go := fun (s : State) (c : Coll) =>
    CollRes.ok { s with fresh := s.fresh + fwd.length } { c with out := c.out ++ (if r = o && !c.reduces then [] else fwd) }
  if write && c.needs r b then
    match engWrite s c.prot true va bs with
    | (_, some e) => .stop e
    | (s, none) =>
      go (s.landRaise c b i c.total) { c with landed := c.landed + 1 }
  else go s c

/-- R328: the reduction of a contribution into what stands at an owner that does not receive the result. -/
def CollPart.fold (p : CollPart) (c : Coll) (bs : List Byte) : List Byte :=
  if p.n = 0 then bs else collReduce c.rop c.dtype p.acc bs
/-- R328: a contribution is applied: to DST, where the first replaces, or beside it. `exact` keeps R330's sums. -/
def State.collApply (s : State) (c : Coll) (b i src : Nat) (bs : List Byte) : CollRes :=
  let p := c.part b i
  let va := c.dst + natWord (c.dstOff b i)
  let last := p.n + 1 = c.n
  let exact := c.rop = 12 && c.det
  let sums := if exact then addSums p.sums (elems32 bs) else []
  let q := { p with n := p.n + 1, sums := sums, seen := p.seen ++ [src] }
  if c.aside b i then
    let acc := if exact then sumBytes sums else p.fold c bs
    let c := c.setPart { q with acc := if last then [] else acc }
    if last then s.collFinal c b i c.rank acc false else .ok s c
  else
    let w := if exact then (if last then engWrite s c.prot true va (sumBytes sums) else (s, none))
      else if p.n = 0 then engWrite s c.prot true va bs
      else match engRead s c.prot true va bs.length with
        | .ok old => engWrite s c.prot true va (collReduce c.rop c.dtype old bs)
        | .error e => (s, some e)
    match w with
    | (_, some e) => .stop e
    | (s, none) =>
      let c := c.setPart q
      let s := s.landRaise c b i 1
      if last then
        let c := { c with landed := c.landed + 1 }
        if c.allOwn || c.direct then .ok s c
        else match engRead s c.prot true va bs.length with
          | .ok v => s.collFinal c b i c.rank v false
          | .error e => .stop e
      else .ok s c

/-- R329: how many contributions of a chunk come before that of a source: by the landing counter of the owner, or by the number of those applied
where the owner does not receive the result. -/
def State.collTurn (s : State) (c : Coll) (p : CollPart) (src : Nat) : BitVec 32 :=
  if c.aside p.b p.i then BitVec.ofNat 32 src - BitVec.ofNat 32 p.n
  else (c.bases.getD (c.landIdx p.b p.i) 0 + BitVec.ofNat 32 src) - s.landCell c p.b p.i
/-- R329: whether a contribution that is d places from its turn can be staged. -/
def State.collStages (s : State) (c : Coll) (p : CollPart) (d : BitVec 32) : Bool :=
  d ≤ 3 && decide (p.held.length < 3) && decide (s.staged (ctDie c.land) < slotCap)

/-- R329: staged contributions whose turn has come. -/
def applyStaged : Nat → Nat → Nat → State → Coll → CollRes
  | 0, _, _, s, c => .ok s c
  | fuel + 1, b, i, s, c =>
    let p := c.part b i
    match p.held.find? (fun h => h.1 = p.n) with
    | none => .ok s c
    | some (r, bs) =>
      match s.collApply (c.setPart { p with held := p.held.filter (fun h => h.1 ≠ r), seen := p.seen.filter (fun x => x ≠ r) }) b i r bs with
      | .ok s c => applyStaged fuel b i s c
      | x => x

/-- R329: a contribution of a source rank at its owner. One that has been applied or staged is discarded. -/
def State.collOrdered (s : State) (c : Coll) (m : CollMsg) (bs : List Byte) : CollRes :=
  let p := c.part m.b m.i
  let d := s.collTurn c p m.src
  if p.seen.contains m.src then .ok s c
  else if d = 0 then
    match s.collApply c m.b m.i m.src bs with
    | .ok s c => applyStaged 3 m.b m.i s c
    | x => x
  else if s.collStages c p d then .ok s (c.setPart { p with held := p.held ++ [(m.src, bs)], seen := p.seen ++ [m.src] })
  else if d.toNat ≤ 2 ^ 31 then .defer s (c.setPart { p with kept := if p.kept.contains m.src then p.kept else p.kept ++ [m.src] })
  else .err 2

/-- R325: partials combine: the rank's own, then its children's in position order. -/
def foldParts (c : Coll) (own : Nat) (held : List (Nat × List Byte)) : List Nat → List Byte → List Byte
  | [], acc => acc
  | k :: ks, acc => match held.find? (fun h => h.1 = k && h.1 ≠ own) with
    | some h => foldParts c own held ks (collReduce c.rop c.dtype acc h.2)
    | none => foldParts c own held ks acc

/-- R325: a partial that arrives at a rank of a ring or tree. -/
def State.collPartial (s : State) (c : Coll) (m : CollMsg) (bs : List Byte) : CollRes :=
  let p := c.part m.b m.i
  let p := { p with held := p.held ++ [(m.src, bs)] }
  let kids := c.children c.rank m.b m.i
  if (c.rank :: kids).all (fun k => p.held.any (fun h => h.1 = k)) then
    let own := match p.held.find? (fun h => h.1 = c.rank) with | some h => h.2 | none => []
    let v := foldParts c c.rank p.held kids own
    let c := c.setPart { p with held := [], n := c.n }
    match c.parent c.rank m.b m.i with
    | none => s.collFinal c m.b m.i c.rank v true
    | some d =>
      let x : CollMsg := { id := s.fresh, dest := d, b := m.b, i := m.i, src := c.rank, final := false, data := some v,
                           defer := false, seq := 0, at_ := 0, from_ := (s.pkg, c.die) }
      .ok { s with fresh := s.fresh + 1 } { c with out := c.out ++ [x] }
  else .ok s (c.setPart p)

/-- The bytes of a message; the rank's own are read from SRC. -/
def State.collBytes (s : State) (c : Coll) (m : CollMsg) : Except EngErr (List Byte) :=
  match m.data with
  | some bs => .ok bs
  | none => engRead s c.prot true (c.src + natWord (c.srcOff m.b m.i)) (c.len m.i)

/-- Deals with a message at this rank. -/
def State.collTake (s : State) (c : Coll) (m : CollMsg) : CollRes :=
  match s.collBytes c m with
  | .error e => .stop e
  | .ok bs =>
    let s := if m.data.isNone then s.markRead c.prot (c.src + natWord (c.srcOff m.b m.i)) bs.length else s
    if m.final then s.collFinal c m.b m.i (if m.data.isNone then c.rank else c.prevHop c.rank (c.finalFrom m.b m.i)) bs true
    else if c.det then s.collOrdered c m bs
    else if c.direct then s.collApply c m.b m.i m.src bs
    else s.collPartial c m bs

/-- The acknowledgement of a collective's packet (R329). -/
def State.collBack (s : State) (c : Coll) (m : CollMsg) (defer resume : Bool) : State :=
  if m.data.isNone then s
  else
    let p := { mkPacket s 0x20 s.pkg c.die 255 (dieAgent m.from_.2) 6 .none with spkg := m.from_.1, seq := m.seq }
    s.reply p { mkPacket s 0x30 m.from_.1 m.from_.2 255 (dieAgent c.die) 6
      (.collBack defer resume (c.landIdx m.b m.i) (c.slot.setWidth 16) c.group c.k m.seq) with ndf := 1 }

/-- R329: whether a recorded source can be accepted now. -/
def State.resumable (s : State) (c : Coll) (p : CollPart) (r : Nat) : Bool :=
  let d := s.collTurn c p r
  d = 0 || s.collStages c p d
/-- R329: whether one of a collective's recorded sources can. -/
def State.resumes (s : State) (c : Coll) : Bool := c.parts.any (fun p => p.kept.any (s.resumable c p))
/-- R329: RESUME to the recorded sources that can be accepted; a deferred contribution of the rank itself comes again. -/
def resumeAll (c : Coll) : List CollPart → State → Coll → State × Coll
  | [], s, c' => (s, c')
  | p :: ps, s, c' =>
    let now := p.kept.filter (s.resumable c p)
    let s := now.foldl (fun s r =>
      if r = c.rank then s
      else s.send { mkPacket s 0x30 (c.at_ r).1 (c.at_ r).2 255 (dieAgent c.die) 6
        (.collBack false true (c.landIdx p.b p.i) (c.slot.setWidth 16) c.group c.k 0) with ndf := 1 }) s
    let own := if now.contains c.rank then
        [({ id := s.fresh, dest := c.rank, b := p.b, i := p.i, src := c.rank, final := false, data := none, defer := false, seq := 0,
            at_ := 0, from_ := (s.pkg, c.die) } : CollMsg)] else []
    let s := { s with fresh := s.fresh + own.length }
    resumeAll c ps s { (c'.setPart { p with kept := p.kept.filter (fun r => !now.contains r) }) with inq := c'.inq ++ own }

/-- R316, R332, R399: what stops a step: the pager is asked, a migration is waited for, or the collective takes error 6. -/
def State.collStop (s : State) (c : Coll) : EngErr → State
  | .fault f => if f.recoverable && c.prot.hasFq && !c.refused then s.setColl { c with stall := some f } else s.collError c 6
  | .poison w => (s.ueWord (dieAgent c.die) w).collError c 6
  | .away _ => s.collError c 6
  | .mig => s

/-- A message that has come is dealt with. -/
def State.collInq (s : State) (c : Coll) (m : CollMsg) (rest : List CollMsg) : State :=
  match s.collTake { c with inq := rest, refused := false } m with
  | .ok s c =>
    let s := s.collBack c m false false
    (s.setColl c).freeSteps c
  | .defer s c => (s.collBack c m true false).setColl c
  | .err e => s.collError c e
  | .stop e => s.collStop c e

/-- R299: a block packet with RET = 1 enters or passes a switch. -/
def State.seeBlock (s : State) (die : BitVec 2) (sdie : BitVec 2) (bid : BitVec 48) (rgen : BitVec 16) (ret : Bool) : State :=
  if ret then
    let d := s.die die
    s.setDie die { d with holdings := holdAdd d.holdings ⟨bid.extractLsb' 36 12, sdie, bid, rgen, s.time + 1500000⟩ }
  else s
/-- R284, R299: a block packet at the switch of a die joins the egress queue of its port, which stands at the switch of the port's die. -/
def State.queueEgress (s : State) (die : BitVec 2) (p : Packet) (bid : BitVec 48) (rgen : BitVec 16) (ret : Bool) : State :=
  let port := s.portTo die p.dpkg p.ddie
  let s := (s.seeBlock die p.sdie bid rgen ret).seeBlock (portDie port) p.sdie bid rgen ret
  let d := s.die (portDie port)
  s.setDie (portDie port) { d with egress := d.egress ++ [(port, p)] }
/-- R296: a copy of a block that is sent is retained at the die that homes it, where its table has room: the generation. -/
def State.retain (s : State) (bid : BitVec 48) (pa : Nat) : Option (BitVec 16) × State :=
  let die := homeDie pa
  let d := s.die die
  match (if pa % 4096 = 0 then
      sideAdd d.side { bid := bid, gen := d.rgen, pa := pa, valid := true, orig := true, expiry := expiryOf (s.time + 2000000) } else none) with
  | some l => (some d.rgen, s.setDie die { d with side := l, rgen := d.rgen + 1 })
  | none => (none, s)
/-- R293, R331: a chunk as a block packet: toward another package it is queued at an egress port. A last chunk that is shorter than a block is filled
up with zeros, which its receiver does not write (log entry 111). -/
def State.queueBlock (s : State) (c : Coll) (m : CollMsg) (bs : List Byte) : State :=
  let idx := c.landIdx m.b m.i
  let (pkg, die) := c.at_ m.dest
  let peer := (c.peers.find? (fun p => p.rank = m.dest)).getD ⟨m.dest, c.dst, ctIndex c.land, c.pctx⟩
  let bid := blockId s.pkg c.tag idx
  let (gen, s) := match (s.xlateDev c.prot true false 0 (c.src + natWord (c.srcOff m.b m.i))).pa with
    | some pa => if bs.length = 4096 then s.retain bid pa else (none, s)
    | none => (none, s)
  let p := { mkPacket s 0x23 pkg die 255 (dieAgent c.die) 6
      (.block bid (gen.getD 0) gen.isSome c.strict (peer.land + BitVec.ofNat 16 idx) (c.slot.setWidth 16) peer.pctx none bs) with
    ndf := 64, plen := 4096, fh := hintOf c.dtype, addr := peer.dst + natWord (c.dstOff m.b m.i) }
  if pkg = s.pkg then s.sendBulk p else s.queueEgress c.die p bid (gen.getD 0) gen.isSome

/-- R323 step 3: a message leaves. -/
def State.collSend (s : State) (c : Coll) (m : CollMsg) : State :=
  match s.collBytes c m with
  | .error e => s.collStop c e
  | .ok bs =>
    let s := if m.data.isNone then s.markRead c.prot (c.src + natWord (c.srcOff m.b m.i)) bs.length else s
    let (pkg, die) := c.at_ m.dest
    let core := s.core (dieAgent c.die)
    let seq := if pkg = s.pkg then BitVec.ofNat 32 m.id else tget 0 core.seq (2 ^ 20 + seriesKey 6 pkg die)
    let s := s.freeSteps { c with sends := c.sends + 1 }
    let m := { m with data := some bs, seq := seq, at_ := s.time }
    let c := { c with out := c.out.filter (fun x => x.id ≠ m.id), flight := c.flight ++ [m], sends := c.sends + 1 }
    if c.algo = 4 && m.final then (s.setColl c).queueBlock c m bs
    else
      let con : Contrib := { die := die, idx := 0, exp := 0, det := c.det, dst := 0, pctx := c.pctx, rop := c.rop, fmt := c.dtype,
                             bytes := bs, rowb := bs.length, dstr := 0, copy := none,
                             coll := some ⟨c.group, c.k, m.b, m.i, m.src, m.final⟩, launch := c.launch }
      (s.setColl c).sendBulk { mkPacket s 0x20 pkg die 255 (dieAgent c.die) 6 (.contrib con) with
        seq := seq, plen := BitVec.ofNat 13 bs.length }

/-- A message that may leave now: its destination is ready. -/
def Coll.sendable (c : Coll) : Option CollMsg := c.out.find? (fun m => c.ready.contains m.dest && !m.defer)
/-- R323 step 5: everything has landed, has been read, and is acknowledged. -/
def Coll.complete (c : Coll) : Bool :=
  c.started && decide (c.landed = c.chunks c.rank) && c.inq.isEmpty && c.out.isEmpty && c.flight.isEmpty &&
    decide (c.sendsOf c.rank ≤ c.sends) && (if c.oper = 6 then List.range c.n else c.awaits).all c.ready.contains
/-- Whether the collective can go on. -/
def State.collGoes (s : State) (c : Coll) : Bool :=
  c.started && c.err = 0 && c.stall.isNone && c.onEntry.isNone && (!c.inq.isEmpty || c.sendable.isSome || c.complete || s.resumes c)

/-- R323: the next step of a collective, and its end. -/
def State.collStep (s : State) (c : Coll) : State :=
  if s.resumes c then let (s, c) := resumeAll c c.parts s c; s.setColl c
  else match c.inq with
    | m :: rest => s.collInq c m rest
    | [] => match c.sendable with
      | some m => s.collSend c m
      | none => if c.complete then ((s.closeColl c 0).undeclare c).raiseDone c else s

/-- R323. -/
def execCollectiveDone (die : BitVec 2) (slot : BitVec 8) (s : State) : Out :=
  .next (State.counted (match s.coll die slot with
    | some c =>
      match c.stall, c.onEntry with
      | some f, none =>
        if s.fqRoom c.prot then
          let (n, s) := s.postEntry c.prot f s.pkg (dieAgent die) 6 (.coll die slot) 0
          s.setColl { c with stall := none, onEntry := some n }
        else s
      | _, _ => if s.collGoes c then s.collStep c else s
    | none => s))

/-- R329: a source that has heard nothing for 1 ms sends again. -/
def execDetResendTimeout (die : BitVec 2) (slot : BitVec 8) (s : State) : Out :=
  .next (State.counted (match s.coll die slot with
    | some c =>
      let late := fun (m : CollMsg) => m.defer && (m.at_ + 1000000).ule s.time
      s.setColl { c with
        flight := c.flight.filter (fun m => !late m)
        out := c.out ++ (c.flight.filter late).map (fun (m : CollMsg) => { m with defer := false })
        sends := c.sends - (c.flight.filter late).length }
    | none => s))

/-! ## What arrives (R323, R329, R332) -/

/-- R321, R323: a ready message. -/
def State.collReady (s : State) (die : BitVec 2) (e : Early) : State :=
  match s.collBy die e.group e.k with
  | some c => if e.nrank ≠ c.n then s.collError c 5 else s.setColl (c.addReady e)
  | none =>
    if e.k < tget 0 s.collNo (e.group.toNat * 4 + die.toNat) then s
    else let d := s.die die; s.setDie die { d with early := d.early ++ [e] }
/-- R332: an abort message. -/
def State.collAborted (s : State) (die : BitVec 2) (group : BitVec 16) (k : Nat) (err : BitVec 8) : State :=
  match s.collBy die group k with
  | some c => s.abortColl c err
  | none =>
    if k < tget 0 s.collNo (group.toNat * 4 + die.toNat) then s
    else let d := s.die die; s.setDie die { d with earlyErr := d.earlyErr ++ [(group, k, err)] }

/-- Data of a collective that has arrived from a die. A collective that is over acknowledges it. -/
def State.collData (s : State) (die : BitVec 2) (t : CollTag) (bs : List Byte) (from_ : BitVec 12 × BitVec 2) (seq : BitVec 32) :
    State :=
  match s.collBy die t.group t.k with
  | some c =>
    let m : CollMsg := { id := s.fresh, dest := c.rank, b := t.b, i := t.i, src := t.rank, final := t.final, data := some bs,
                         defer := false, seq := seq, at_ := 0, from_ := from_ }
    ({ s with fresh := s.fresh + 1 }).setColl { c with inq := c.inq ++ [m] }
  | none => s.send { mkPacket s 0x30 from_.1 from_.2 255 (dieAgent die) 6 (.collBack false false 0 0 t.group t.k seq) with ndf := 1 }

/-- R329: an acknowledgement, a deferral or a RESUME. -/
def State.collAck (s : State) (die : BitVec 2) (group : BitVec 16) (k : Nat) (from_ : BitVec 12 × BitVec 2) (defer resume : Bool)
    (chunk : Nat) (seq : BitVec 32) : State :=
  match s.collBy die group k with
  | none => s
  | some c =>
    let mine := fun (m : CollMsg) => c.at_ m.dest = from_ && m.seq = seq
    if resume then
      let hit := fun (m : CollMsg) => m.defer && c.at_ m.dest = from_ && c.landIdx m.b m.i = chunk
      s.setColl { c with
        flight := c.flight.filter (fun m => !hit m)
        out := c.out ++ (c.flight.filter hit).map (fun (m : CollMsg) => { m with defer := false })
        sends := c.sends - (c.flight.filter hit).length }
    else if defer then
      s.setColl { c with flight := c.flight.map (fun (m : CollMsg) => if mine m then { m with defer := true, at_ := s.time } else m) }
    else s.setColl { c with flight := c.flight.filter (fun m => !mine m) }

/-- R306, R323: a block has landed at its rank: the collective counts the chunk, and in an all-gather declares it. -/
def State.blockLanded (s : State) (die : BitVec 2) (bid : BitVec 48) (addr : Word) : State :=
  match s.blockColl die bid with
  | none => s
  | some c =>
    match c.items.find? (fun x => c.landIdx x.1 x.2 = (bid.extractLsb' 0 16).toNat && c.needs c.rank x.1 &&
        (c.at_ (c.origin x.1)).1 = bid.extractLsb' 36 12) with
    | none => s
    | some x =>
      let c := { c with landed := c.landed + 1 }
      let s := (s.setColl c).freeSteps c
      if c.oper = 2 && c.len x.2 = 4096 then s.declare c bid addr else s
/-- R302, R307, R323: the sender of a block learns that it has reached its receiver. -/
def State.blockDone (s : State) (die : BitVec 2) (bid : BitVec 48) (at_ : BitVec 12 × BitVec 2) : State :=
  match s.blockColl die bid with
  | none => s
  | some c => s.setColl { c with flight := c.flight.filter (fun m =>
      !(c.at_ m.dest = at_ && blockId s.pkg c.tag (c.landIdx m.b m.i) = bid && m.final)) }

/-! ## Firings start (R314, R315) -/

/-- R224, R323: the start entry of a collective has fired. Where the collective has been aborted since, the firing completes: it sends the ready
messages, and the slot is free (R332, log entry 114). -/
def State.fireColl (s : State) (f : Firing) (slot : BitVec 8) : State :=
  let known := s.entries.any (fun e => e.id = f.e.id && e.fired)
  let s := ({ s with firings := s.firings.filter (fun x => x.id ≠ f.id) }).freeFired f.e.id
  match s.coll f.die slot with
  | some c =>
    if c.start ≠ f.e.id || !known || c.started then s
    else if c.err ≠ 0 then ({ s with colls := s.colls.filter (fun x => !(x.die = c.die && x.slot = c.slot)) }).tellReady c
    else s.startColl c
  | none => s

/-- R316: a firing that waits for the pager is posted; it starts again when it is answered. -/
def State.postFiring (s : State) (f : Firing) : Option State :=
  match f.stall with
  | none => none
  | some x =>
    if s.fqRoom f.e.prot then
      let (n, s) := s.postEntry f.e.prot x s.pkg (dieAgent f.die) 6 (.trig f.id) 0
      some (s.setFiring { f with begun := false, stall := none, onEntry := some n })
    else none

/-- R314: the first firing of a die in queue order starts. A copy, reduction or send waits for a channel. -/
def State.startFiring (s : State) (die : BitVec 2) : State :=
  match s.firings.find? (fun f => f.die = die && !f.begun && f.onEntry.isNone) with
  | none => s
  | some f => match f.e.coll with
    | some slot => s.fireColl f slot
    | none => if f.channel && !s.channelFree die then s else s.fireOne f
/-- R314. -/
def execTriggerFiring (die : BitVec 2) (s : State) : Out :=
  .next (State.counted ((match s.firings.findSome? (fun (f : Firing) => if f.die = die then s.postFiring f else none) with
    | some s => s
    | none => s.startFiring die).vatGo die))

end Sys2Proof.Machine
end

