-- ==== Sys2Proof/Machine/Waits.lean ====
section
/-! DEFINITION. The events of one context: late results (R48), the ends of waits (R67, R171), walks (R378, R380, R399), the
posting of faults (R386), charges (R363). -/

namespace Sys2Proof.Machine

/-- A parked context becomes ready; a follower of an undissolved gang follows its leader again. -/
def State.wake (s : State) : State :=
  { s with cx := { s.cx with status := if s.cx.inGang && s.cx.gidx ≠ 0 then .follow else .ready } }

/-- The leader of the issuing context's gang; the context itself where it is in none. -/
def Ctx.leader (c : Ctx) : CtxId := if c.inGang then (c.gangIds.head?).getD c.id else c.id

/-- The run of the issuing context, or of its gang, is over. -/
def State.endLeaderRun (s : State) : State := s.withCtx s.cx.leader State.endRun

/-! ## Late results (R48) -/

/-- R48: the i-th outstanding result of a context is written. -/
def Ctx.writeOne (n i : Nat) (c : Ctx) : Ctx :=
  match c.pend[i]? with
  | some v => { commitOne n i v c with pend := c.pend.eraseIdx i }
  | none => c
/-- R48. -/
def execVClassResultWrite (c : CtxId) (i : Nat) (s : State) : Out :=
  .next (s.withCtx c (fun s => { s with cx := s.cx.writeOne s.issued i })).counted

/-! ## Walks -/

/-- What stops a walk for an instruction. -/
inductive WalkStop where
  | fault (f : FaultRec)
  | poison (pa : Nat)
  /-- R399: the page is being migrated. -/
  | migrating
  deriving DecidableEq, Repr

/-- R398: whether a walk's update tells the die that holds the frame of a page used from elsewhere. -/
def tellsPager (old new : Word) : Bool :=
  pteAcnt new = 15 && pteAcnt old ≠ 15 && pteLdie new ≠ homeDie (ptePaF new)
/-- R398: the notice. -/
def State.tellPager (s : State) (pctx : BitVec 12) (va old new : Word) : State :=
  if tellsPager old new then
    let d := s.die (homeDie (ptePaF new))
    s.setDie (homeDie (ptePaF new)) { d with notify := d.notify ++ [(pctx, va &&& ~~~0xFFFF)] }
  else s

/-- R380, R381: the update of the leaf, and the installation; where the leaf has changed, the walk is made again. -/
def State.install (s : State) (va e : Word) (lvl ptePa : Nat) (write : Bool) : State :=
  let c := s.cx
  let key := c.prot.keyslot
  let new := walkUpd s.pkg e lvl write c.id.die
  let t : TlbE := { pctx := c.pctx, vpn := va.toNat % 2 ^ 55 / 2 ^ lvlShift lvl, lvl := lvl, pte := new, ptePa := ptePa }
  if new = e then s.tlbAdd c.id.coreId t
  else match s.pteCas key ptePa e new with
    | some s => (s.tellPager c.pctx va e new).tlbAdd c.id.coreId t
    | none => s

/-- R378: a walk for an access of the issuing context. -/
def State.walkFor (s : State) (va : Word) (acc : BitVec 2) : State × Option WalkStop :=
  match walk s s.cx.prot va with
  | .fault k => (s, some (.fault (s.fltAt 11 k acc va)))
  | .poison pa => (s, some (.poison pa))
  | .leaf e lvl ptePa =>
    if pteMig e then (s, some .migrating)
    else (s.install va e lvl ptePa ((acc = 1 || acc = 3) && (permCause e acc (!s.cx.priv) true).isNone), none)

/-- Whether a status holds the issue of its core (R53). -/
def Status.holdsCore : Status → Bool
  | .running => true
  | .blocked => true
  | .walking _ _ => true
  | _ => false
/-- R53, R59: whether a run, or an instruction that holds issue, has a core: a gang's has the cores of all its members. -/
def Ctx.holds (c : Ctx) (core : CoreId) : Bool := c.status.holdsCore && c.cores.contains core
def State.coreHeld (s : State) (core : CoreId) : Bool := s.allCtxs.any (fun c => c.holds core)
/-- Whether another context holds issue on a core of the issuing context. -/
def State.coreBusy (s : State) : Bool :=
  s.ctxs.any (fun c => s.cx.cores.any c.holds && !s.cx.gangIds.contains c.id)

/-- A precise fault of the issuing context, or of a member of its gang, outside issue. -/
def State.faultAside (s : State) (f : FaultRec) : State :=
  if s.cx.inGang then
    { s with cx := { s.cx with fault := some f, status := if s.cx.gidx = 0 then s.cx.status else .follow } }.endLeaderRun
  else
    let s := { s with cx := { s.cx with fault := some f } }
    if s.cx.awaits then s.endRun else s.passOne

/-- R418 cause 4: the access does not proceed; a containment error is pending, and the run is over. -/
def State.walkPoison (s : State) (va : Word) (acc : BitVec 2) (pa : Nat) : State :=
  let s := (s.ueRecord pa).contain 4 acc false va
  let s := if s.cx.inGang && s.cx.gidx ≠ 0 then { s with cx := { s.cx with status := .follow } } else s
  s.endLeaderRun

/-- What a walk that stops comes to. -/
def State.walkStopped (s : State) (va : Word) (acc : BitVec 2) : WalkStop → State
  | .fault f => s.faultAside f
  | .poison pa => s.walkPoison va acc pa
  | .migrating =>
    let s := s.endLeaderRun
    { s with cx := { s.cx with status := .onMig va } }

/-- R52: the walk for which the issuing context holds issue is over. -/
def State.walkDone (s : State) (va : Word) (acc : BitVec 2) : State :=
  match s.walkFor va acc with
  | (s, none) =>
    if s.cx.inGang && s.cx.gidx ≠ 0 then { s with cx := { s.cx with status := .follow } }
    else { s with cx := { s.cx with status := if s.coreBusy then .ready else .running } }
  | (s, some w) => s.walkStopped va acc w

/-- R399: the page is no longer being migrated: the context goes on from its switch point. -/
def State.migDone (s : State) : State :=
  if s.cx.inGang && s.cx.gidx ≠ 0 then { s with cx := { s.cx with status := .follow } } else s.endRun
/-- Whether a page is still being migrated. -/
def State.migrating (s : State) (va : Word) : Bool :=
  match walk s s.cx.prot va with
  | .leaf e _ _ => pteMig e
  | _ => false

/-- R378. -/
def execTlbWalkComplete (c : CtxId) (va : Word) (acc : BitVec 2) (s : State) : Out :=
  .next (s.withCtx c (fun s =>
    match s.cx.status with
    | .walking v a => if v = va ∧ a = acc then s.walkDone va acc else s
    | .onMig v => if v = va ∧ !s.migrating va then s.migDone else s
    | _ => s)).counted

/-! ## Waits (R67, R171) -/

/-- R67: the counts named are zero. -/
def execPostedCountWaitEnd (c : CtxId) (s : State) : Out :=
  .next (s.withCtx c (fun s =>
    match s.cx.status with
    | .posted pod host => if (pod && decide (s.cx.postedPod ≠ 0)) || (host && decide (s.cx.postedHost ≠ 0)) then s else s.wake
    | _ => s)).counted

/-- R171: the waiting instruction issues, with the results that it is to write. A member of a gang has then issued the
leader's instruction. -/
def State.waitOver (s : State) (sw : Bool) (len : Nat) : State :=
  if s.cx.inGang then
    let id := s.cx.id
    let s := s.withdraw.wake
    s.withCtx s.cx.leader (fun s => { s with cx := { s.cx with gdone := s.cx.gdone ++ [id] } })
  else
    let s := s.withdraw.retire len sw
    if s.cx.status = .running then { s with cx := { s.cx with status := .ready } } else s

/-- The end of a wait as its instruction would have ended. -/
def State.waitEnds (s : State) (sw : Bool) (len : Nat) : Done → State
  | .fall s => s.waitOver sw len
  | .raise f s => s.faultAside f
  | .hold s' => match s'.cx.status with
    | .walking va acc => match s.walkFor va acc with
      | (s, none) => s
      | (s, some w) => s.walkStopped va acc w
    | _ => s'
  | .jump _ s => s
  | .gone s => s

/-- R219, R310: a wait on a counter: it is over when the counter has reached the threshold, or a raise has reached it since. One of another
package answers when that is so. -/
def State.counterWait (s : State) (qd : QReg) (c : Word) (thr : BitVec 48) (sw : Bool) (len : Nat) : State :=
  if ctPkg c = s.pkg then
    if reached (s.cell (ctDie c) (ctIndex c)) thr || s.cx.poll.isSome then (s.laterQ qd true).waitOver sw len else s
  else match s.polled (ctPkg c) (ctDie c) (.ctwait c thr) with
    | (some _, s) => (s.laterQ qd true).waitOver sw len
    | (none, s) => s

/-- R214: what a phaser of another package has answered: the phase is settled, or the time is up and the timers run, or the wait
goes on, with a deadline later by the time for which the timers stood still. -/
def State.phaseHeard (s : State) (qd : QReg) (gs : GReg) (id : Word) (ph : Option Nat) (d : Option Word) (sw : Bool) (len : Nat)
    (stood aux : Word) : State :=
  let d := if ph.isSome then d.map (fun t => t + (stood - s.cx.thawed)) else d
  if aux.getLsbD 2 then (s.phDone qd gs (aux &&& 3)).waitOver sw len
  else if !aux.getLsbD 3 && d.any (fun t => t.ule s.time) then (s.phDone qd gs 2).waitOver sw len
  else { s with cx := { s.cx with thawed := stood, status := .waiting (.phase qd gs id (some (ph.getD (aux.toNat / 256)))) d sw len } }
/-- R214: a wait on a phase. A phaser of another package is asked. -/
def State.phaseWait (s : State) (qd : QReg) (gs : GReg) (id : Word) (ph : Option Nat) (d : Option Word) (sw : Bool) (len : Nat) :
    State :=
  if phLocal s id then
    match ph with
    | some k => match s.phState id k with
      | some c => (s.phDone qd gs c).waitOver sw len
      | none => s
    | none => s
  else match s.polled (phPkg id) (phDie id) (.phase id s.party ph) with
    | (none, s) => s
    | (some (v, aux), s) => s.phaseHeard qd gs id ph d sw len v aux

/-- R197: a wait on a chain of names. -/
def State.awaitWait (s : State) (gd gbuf : GReg) (qd : QReg) (ph buf : Word) (conf : Bool) (d : Option Word) (sw : Bool)
    (len : Nat) : State :=
  let e := s.chainParked ph
  match awaitEnd conf e with
  | some r =>
    let ts := chainToks s s.chaseFuel ph
    if s.flushesOver ts then s.waitEnds sw len (Try.done (awaitDone gd qd buf r (s.dropFlushes ts))) else s.askFlushes s.cx.id.die ts
  | none =>
    let p := parkedPh ph e
    let s := s.watchPh s.cx.id.die p
    { s with cx := { s.cx with status := .waiting (.await gd gbuf qd p buf conf) d sw len } }

/-- R171: the condition of a waiting instruction is tested. -/
def State.testWait (s : State) : State :=
  match s.cx.status with
  | .waiting (.tokens qd mask ge) _ sw len =>
    if s.cx.toksQuiet mask then (s.twaitDone qd mask ge).waitOver sw len else s
  | .waiting (.await gd gbuf qd ph buf conf) d sw len => s.awaitWait gd gbuf qd ph buf conf d sw len
  | .waiting (.counter qd c thr) _ sw len => s.counterWait qd c thr sw len
  | .waiting (.phase qd gs id ph) d sw len => s.phaseWait qd gs id ph d sw len
  | _ => s

/-- R171. -/
def execWaitConditionMet (c : CtxId) (s : State) : Out := .next (s.withCtx c State.testWait).counted

/-- R214: whether the timers of a phaser stand still. -/
def State.frozenPh (s : State) (id : Word) : Bool := ((s.phaser id).bind (fun p => p.frozen)).isSome

/-- R171: the results of a wait whose time has run out. The answers of a phaser of another package tell that themselves. -/
def State.timeOut (s : State) : State :=
  match s.cx.status with
  | .waiting (.counter qd _ _) (some d) sw len => if d.ule s.time then (s.laterQ qd false).waitOver sw len else s
  | .waiting (.phase qd gs id _) (some d) sw len =>
    if d.ule s.time && phLocal s id && !s.frozenPh id then (s.phDone qd gs 2).waitOver sw len else s
  | _ => s

/-- R171, R214: a condition that holds when the time runs out counts as met. -/
def execWaitTimeout (c : CtxId) (s : State) : Out :=
  .next (s.withCtx c (fun s =>
    let s' := s.testWait
    match s'.cx.status with
    | .waiting _ _ _ _ => s'.timeOut
    | _ => s')).counted

/-! ## Recoverable faults (R386, R387) -/

/-- R389: a fault that no pager answers for. -/
def State.unanswered (s : State) (f : FaultRec) : State :=
  s.each s.cx.gangIds (fun s => ({ s with cx := { s.cx with status := .ready } }).takeException f)

/-- R386: whether the faulting access is allowed now; the translation is then installed. -/
def State.walkAgain (s : State) (f : FaultRec) : State × Bool :=
  match walk s s.cx.prot f.va with
  | .leaf e lvl ptePa =>
    if (permCause e f.acc (!s.cx.priv) (decide (f.cause ≠ 5 || f.cls ≠ 12))).isNone then
      if pteMig e then ({ s with cx := { s.cx with status := .onMig f.va } }, false)
      else ((s.tlbDrop s.cx.id.coreId (tlbHit s.cx.pctx f.va)).install f.va e lvl ptePa (f.acc = 1 || f.acc = 3), true)
    else (s, false)
  | _ => (s, false)

/-- R386. -/
def State.postFault (s : State) : State :=
  match s.cx.status with
  | .faulted f =>
    match s.walkAgain f with
    | (s, true) => s.wake
    | (s, false) =>
      match s.cx.status with
      | .faulted f =>
        if !s.cx.prot.hasFq then s.unanswered f
        else if s.fqRoom s.cx.prot then
          let (n, s) := s.postEntry s.cx.prot f s.pkg s.cx.id.coreId (s.cx.id.slot.setWidth 4) (.ctx s.cx.id) s.issuer.inv
          { s with cx := { s.cx with status := .onEntry f n } }
        else s
      | _ => s
  | _ => s

/-- R386. -/
def execFaultEntryPost (c : CtxId) (s : State) : Out := .next (s.withCtx c State.postFault).counted

/-! ## Charges (R363) -/

/-- R363. -/
def execQuotaCharge (c : CtxId) (s : State) : Out :=
  .next (s.withCtx c (fun s => if s.cx.status = .free then s else s.charge)).counted

end Sys2Proof.Machine
end

