-- ==== Sys2Proof/Machine/Landing.lean ====
section
/-! DEFINITION. Accesses that arrive from other packages and from hosts, and their landing (R261 to R263, R379, R390, R401);
triggered sends, bulk writes and bulk reads. -/

namespace Sys2Proof.Machine

/-! ## The home walk (R379, R390) -/

/-- What a home walk comes to. -/
inductive HomeRes where
  | hbm (pa : Nat)
  | dev (pa : Nat)
  | fault (f : FaultRec)
  /-- R399: the page is being migrated. -/
  | wait
  deriving DecidableEq, Repr

def landFault (cls : BitVec 8) (cause : BitVec 16) (acc : BitVec 2) (user : Bool) (va : Word) : FaultRec :=
  { cls := cls, cause := cause, acc := acc, land := true, eng := false, priv := !user, va := va }

/-- R379, R382: a home walk. The home leaf is HBM of this package or a device-register page here. -/
def homeWalk (s : State) (prot : Prot) (user dw : Bool) (acc : BitVec 2) (va : Word) : HomeRes :=
  if !canonical va then .fault (landFault 10 1 acc user va)
  else match walk s prot va with
    | .fault c => .fault (landFault 11 c acc user va)
    | .poison _ => .fault (landFault 17 4 acc user va)
    | .leaf e lvl _ =>
      match permCause e acc user dw with
      | some c => .fault (landFault 12 c acc user va)
      | none =>
        if pteMig e then .wait
        else match placeOf s e lvl va with
          | .hbm pa => .hbm pa
          | .dev pa => .dev pa
          | _ => .fault (landFault 11 4 acc user va)

/-- R263: the accesses that wait here for a landing fault, and those behind them. -/
def State.heldPackets (s : State) : List Packet :=
  s.fq.filterMap (fun e => match e.who with | .landing p => some p | _ => none) ++ s.net.filter (fun p => p.spkg ≠ s.pkg)
def sameSource (p q : Packet) : Bool :=
  p.spkg = q.spkg && p.sdie = q.sdie && p.score = q.score && p.sag = q.sag && p.ddie = q.ddie
/-- R263: whether an earlier access of the same context to the same page is held. -/
def State.heldBefore (s : State) (p : Packet) : Bool :=
  s.heldPackets.any (fun q => sameSource p q && accessType q.type && q.addr.toNat / 65536 = p.addr.toNat / 65536 && q.seq ≠ p.seq &&
    seqLe q.seq p.seq)

/-- An accepted packet waits and is tried again. -/
def State.tryAgain (s : State) (p : Packet) : State := { s.holdSeq p with net := s.net ++ [p] }

/-- R390: a landing fault: the pager is asked, or the landing fails. -/
def State.landStop (s : State) (p : Packet) (prot : Prot) (inv : Nat) (f : FaultRec) : State :=
  let s := match s.badPte prot f.va with
    | some pa => if f.cls = 17 then s.ueAt (dieAgent p.ddie) pa else s
    | none => s
  if f.recoverable && prot.hasFq then
    if s.fqRoom prot then ((s.holdSeq p).postEntry prot f p.spkg ⟨p.sdie, p.score⟩ p.sag (.landing p) inv).2
    else s.tryAgain p
  else s.landFail p f.info

/-! ## Accesses of contexts (R261) -/

/-- The bytes that a store carries. -/
def memBytes (r : MemReq) : List Byte := leBytes (2 ^ r.sz.toNat) r.opnd.toNat
/-- R286: the reply to a load or an atomic, with the acknowledgement of its series; further failures take one more each. -/
def State.rpl (s : State) (p : Packet) (r : MemReq) (val : Word) (poison ok : Bool) : State :=
  let put := fun (s : State) (aseq pseq : BitVec 32) (f : Option (BitVec 32 × Word)) =>
    s.reply p (backTo s p 0x10 (.reply r.src r.inv p.seq val poison ok aseq pseq (f.map Prod.fst) ((f.map Prod.snd).getD 0)))
  if p.spkg = s.pkg then put s 0 0 none
  else
    let (ns, s) := (s.unholdSeq p).ackParts p
    let aseq := (s.rxGet (rxKeyOf p)).next - 1
    match ns with
    | [] => put s aseq aseq none
    | n :: rest => (put s aseq n.1 n.2).sendAcks p rest

/-- R126 to R128: an atomic or a reduction at its home. -/
def State.homeAtomic (s : State) (p : Packet) (r : MemReq) (key : BitVec 8) (pa : Nat) : State :=
  let n := 2 ^ r.sz.toNat
  let s := s.recallAll pa n
  match s.badWord pa n with
  | some w =>
    -- the word is poisoned, and stays so in either mode; only an AMO in LOG mode consumes it (R418)
    if p.type = 4 then (if r.poison then s else s.ueAt (dieAgent p.ddie) w).rpl p r 0 true (!r.poison)
    else s.landed p (some (if r.poison then 1 else 0))
  | none =>
    let old := wordOf (s.bytes key pa n)
    let (ok, new) := atomic r.opc r.sz old r.opnd r.swp
    let s := if ok then (s.putHome key pa (leBytes n new.toNat)).noteStore else s
    if p.type = 4 then s.rpl p r old false ok else s.landed p none

/-- An access of HBM at its home. -/
def State.homeMem (s : State) (p : Packet) (r : MemReq) (key : BitVec 8) (pa : Nat) : State :=
  let n := 2 ^ r.sz.toNat
  if p.type = 2 then
    let s := s.recallAll pa n
    match s.badWord pa n with
    | some w => (s.ueAt (dieAgent p.ddie) w).rpl p r 0 true true
    | none => s.rpl p r (wordOf (s.bytes key pa n)) false true
  else if p.type = 3 then ((s.putHome key pa (memBytes r)).noteStore).landed p (mergeInfo (s.mergeEdges pa (pa + n - 1)))
  else s.homeAtomic p r key pa
/-- An access of a device register at its home. -/
def State.homeDev (s : State) (p : Packet) (r : MemReq) (pa : Nat) : State :=
  if p.type = 2 then s.rpl p r (s.readReg pa) false true
  else (s.due (.registerWrite pa r.opnd)).landed p none

def accOf (t : BitVec 8) : BitVec 2 := if t = 2 then 0 else if t = 3 then 1 else 3

/-- R401: a host's access names a package physical address. -/
def State.hostMem (s : State) (p : Packet) (r : MemReq) : State :=
  let pa := r.va.toNat % 2 ^ 46
  let fail := fun (s : State) => (if p.type = 2 then s.rpl p r 0 false false else s).landFail p 0
  if isHbm (pa + 7) then s.homeMem p r (s.protOf r.pctx).keyslot pa
  else if regExists pa && r.sz = 3 && decide (pa % 8 = 0) && (p.type = 2 || p.type = 3) then s.homeDev p r pa
  else fail s

/-- R261, R263: an accepted access is performed, or is held. -/
def State.performMem (s : State) (p : Packet) (r : MemReq) : State :=
  if p.sag = 8 then s.hostMem p r
  else if s.heldBefore p then s.tryAgain p
  else
    let prot := s.protOf r.pctx
    let acc := accOf p.type
    match homeWalk s prot r.user (r.sz = 3 && (p.type = 2 || p.type = 3)) acc r.va with
    | .fault f => s.landStop p prot r.inv f
    | .wait => s.tryAgain p
    | .hbm pa => (s.markUsed prot r.va (acc ≠ 0)).homeMem p r prot.keyslot pa
    | .dev pa => (s.markUsed prot r.va (acc ≠ 0)).homeDev p r pa

/-! ## Ranges -/

/-- The places of a range at its home. -/
def homePieces (s : State) (prot : Prot) (acc : BitVec 2) : List (Word × Nat) → Except (Option FaultRec) (List (Nat × Nat))
  | [] => .ok []
  | (va, n) :: ps =>
    match homeWalk s prot true false acc va with
    | .fault f => .error (some { f with eng := true })
    | .wait => .error none
    | .dev _ => .error (some (landFault 12 5 acc true va))
    | .hbm pa => match homePieces s prot acc ps with
      | .ok r => .ok ((pa, n) :: r)
      | .error e => .error e
/-- The places of a range; a host names physical addresses. -/
def State.placesOf (s : State) (p : Packet) (prot : Prot) (acc : BitVec 2) (n : Nat) :
    Except (Option FaultRec) (List (Nat × Nat)) :=
  if p.sag = 8 then
    let pa := p.addr.toNat % 2 ^ 46
    if isHbm (pa + n) then .ok [(pa, n)] else .error (some (landFault 11 4 acc true p.addr))
  else homePieces s prot acc (rangePieces p.addr n)

def putPieces (key : BitVec 8) : List (Nat × Nat) → List Byte → State → State
  | [], _, s => s
  | (pa, n) :: ps, bs, s => putPieces key ps (bs.drop n) (s.putHome key pa (bs.take n))
def piecesBytes (s : State) (key : BitVec 8) (ps : List (Nat × Nat)) : List Byte := ps.flatMap (fun p => s.bytes key p.1 p.2)
def State.markRange (s : State) (prot : Prot) (va : Word) (n : Nat) (write : Bool) : State :=
  (rangePieces va n).foldl (fun s p => s.markUsed prot p.1 write) s

/-- R421: the merges that a write to the places of a range makes. -/
def placeEdges (s : State) (ps : List (Nat × Nat)) : Nat :=
  match ps, ps.getLast? with
  | a :: _, some b => if ps.length ≤ 1 then s.mergeEdges a.1 (b.1 + b.2 - 1)
      else s.mergeEdges a.1 (a.1 + a.2 - 1) % 2 + s.mergeEdges b.1 (b.1 + b.2 - 1) / 2 * 2 +
        (if b.2 < 8 then s.mergeEdges b.1 (b.1 + b.2 - 1) % 2 * 2 else 0)
  | _, _ => 0

/-- The first poisoned word of the places of a range, and its distance from the start of the range. -/
def badPlace (s : State) : Nat → List (Nat × Nat) → Option (Nat × Int)
  | _, [] => none
  | off, (pa, n) :: ps =>
    match s.badWord pa n with
    | some w => some (w, (off : Int) + ((w : Int) - pa))
    | none => badPlace s (off + n) ps
/-- R417: a bulk packet whose access has met a poisoned word: the word is reported here, and the packet has failed. -/
def State.bulkPoison (s : State) (p : Packet) (w : Nat × Int) : State :=
  (s.ueAt (dieAgent p.ddie) w.1).bulkAck p (some (poisonInfo p.addr (p.addr + intWord w.2)))
/-- The same for a contribution. -/
def State.conPoison (s : State) (p : Packet) (con : Contrib) (w : BadWord) : State :=
  (s.ueWord (dieAgent p.ddie) w).bulkAck p (some (poisonInfo con.dst w.va))

/-- What stops a range. -/
def State.rangeStop (s : State) (p : Packet) (prot : Prot) : Option FaultRec → State
  | some f => s.landStop p prot 0 f
  | none => s.tryAgain p

/-- R315, R316: a triggered send lands, and its counter is raised; the operation of a send from another package learns of an invalid counter by
FSEQ (log entry 113). -/
def State.performSend (s : State) (p : Packet) (id : Nat) (pctx : BitVec 12) (bs : List Byte) : State :=
  let prot := s.protOf pctx
  let fin := fun (s : State) (err : BitVec 8) =>
    if p.spkg = s.pkg then
      { s with firings := s.firings.map (fun (f : Firing) => if f.id = id then { f with fin := some (err, 0) } else f) }
    else if err = 0 then s else s.landed p (some (causeInfo err))
  match s.placesOf p prot 1 bs.length with
  | .error e => s.rangeStop p prot e
  | .ok ps =>
    let s := ((putPieces prot.keyslot ps bs (s.markRange prot p.addr bs.length true)).noteStore).unholdSeq p
    if p.aux = 0 then fin s 0
    else if ctrOk s prot p.aux then fin (s.raise p.aux 1 (dieAgent p.ddie) 7) 0
    else fin s 4

/-- R270: a bulk write lands. -/
def State.performCopy (s : State) (p : Packet) (pctx : BitVec 12) (rd : Bool) (rop fmt : BitVec 4) (bs : List Byte) : State :=
  let prot := s.protOf pctx
  match s.placesOf p prot (copyAcc rd) bs.length with
  | .error e => s.rangeStop p prot e
  | .ok ps =>
    let s := s.markRange prot p.addr bs.length true
    let s := ps.foldl (fun s q => s.recallAll q.1 q.2) s
    match (if rd then badPlace s 0 ps else none) with
    | some w => s.bulkPoison p w
    | none =>
      let new := if rd then reduceBytes rop fmt (redBytes fmt) bs.length (piecesBytes s prot.keyslot ps) bs else bs
      ((putPieces prot.keyslot ps new s).noteStore).bulkAck p (if rd then none else mergeInfo (placeEdges s ps))

/-- R270, R417: a bulk read is answered with data, or with the failure that poison gives. -/
def State.performRead (s : State) (p : Packet) (id off n : Nat) (pctx : BitVec 12) : State :=
  let prot := s.protOf pctx
  match s.placesOf p prot 0 n with
  | .error e => s.rangeStop p prot e
  | .ok ps =>
    let s := ps.foldl (fun s q => s.recallAll q.1 q.2) (s.markRange prot p.addr n false)
    match badPlace s 0 ps with
    | some w => s.bulkPoison p w
    | none => (s.unholdSeq p).reply p { backTo s p 0x22 (.copyData id off pctx false 0 0 (piecesBytes s prot.keyslot ps)) with
      addr := p.addr, fh := p.fh }

/-- R177: the rows of a contribution that another die has ordered. -/
def State.performRows (s : State) (p : Packet) (con : Contrib) : State :=
  match s.applyCon con with
  | (s, none) => s.noteStore.bulkAck p none
  | (_, some (.fault f)) => s.landStop p (s.protOf con.pctx) 0 { f with land := true }
  | (_, some (.poison w)) => s.conPoison p con w
  | (_, some (.away _)) => s.bulkAck p (some (landFault 11 4 3 true con.dst).info)
  | (_, some .mig) => s.tryAgain p

/-- R177: an ordered contribution. One that is kept at its source is not accepted. -/
def State.performDet (s : State) (p : Packet) (con : Contrib) : Option State :=
  match s.landCon ⟨con, some (p.spkg, p.sdie, p.score, p.seq)⟩ with
  | (_, .kept) => none
  | (_, .late) => some (s.bulkAck p (some (causeInfo 5)))
  | (_, .failed (.fault f)) => some (s.landStop p (s.protOf con.pctx) 0 { f with land := true })
  | (_, .failed (.poison w)) => some (s.conPoison p con w)
  | (_, .failed (.away _)) => some (s.bulkAck p (some (landFault 11 4 3 true con.dst).info))
  | (_, .failed .mig) => some (s.tryAgain p)
  | (s, _) => some s

/-- R341: a row joins those that wait for their turn. -/
def State.addLandRow (s : State) (p : Packet) (r : Row) : State :=
  let x : LandRow := { id := s.fresh, row := r, seq := p.seq, die := p.ddie, src := (p.spkg, p.sdie, p.score), slot := none, writes := [],
                       onEntry := none, refused := false }
  { s with fresh := s.fresh + 1, landRows := s.landRows ++ [x] }

/-! ## Blocks (R293, R306) -/

/-- What a block packet carries. -/
structure BlockParts where
  bid    : BitVec 48
  rgen   : BitVec 16
  ret    : Bool
  strict : Bool
  cidx   : BitVec 16
  cslot  : BitVec 16
  pctx   : BitVec 12
  coded  : Option (BitVec 32 × Nat)
  bytes  : List Byte
  deriving Inhabited
def blockParts (p : Packet) : Option BlockParts :=
  match p.payload with
  | .block bid rgen ret strict cidx cslot pctx coded b => some ⟨bid, rgen, ret, strict, cidx, cslot, pctx, coded, b⟩
  | _ => none
/-- R303, R307: the acknowledgement of a block: DACK to the coding die, or BACK, which carries its fields but no data. -/
def State.ackBlock (s : State) (p : Packet) (b : BlockParts) : State :=
  let s := s.unholdSeq p
  match b.coded with
  | some (cseq, k) => s.sendBulk (mkPacket s 0x31 p.spkg p.sdie 255 (dieAgent p.ddie) 7 (.dack cseq k))
  | none => s.send { mkPacket s 0x30 p.spkg p.sdie p.score (dieAgent p.ddie) 6 (.block b.bid 0 false false b.cidx b.cslot 0 none []) with
      addr := p.addr, aux := p.sag.setWidth 64, ndf := 1 }
/-- R306: the pairs of block and address that a die has landed. -/
def landedCap : Nat := 16384
def State.pairLanded (s : State) (die : BitVec 2) (bid : BitVec 48) (addr : Word) : Bool :=
  (s.die die).landed.any (fun l => l.bid = bid && l.addr = addr)
def State.notePair (s : State) (die : BitVec 2) (l : Landed) : State :=
  let d := s.die die
  s.setDie die { d with landed := (if d.landed.length < landedCap then d.landed else d.landed.drop 1) ++ [l] }
/-- R306: a block reaches its receiver: it is written once for each pair of block and address, and its counter is raised. After an abort
nothing more lands (R332). -/
def State.performBlock (s : State) (p : Packet) (b : BlockParts) : State :=
  if s.pairLanded p.ddie b.bid p.addr || (s.die p.ddie).dead.contains (bidTag b.bid) then s.ackBlock p b
  else
    let prot := s.protOf b.pctx
    match s.placesOf p prot 1 b.bytes.length with
    | .error e => s.rangeStop p prot e
    | .ok ps =>
      let s := (putPieces prot.keyslot ps b.bytes (s.markRange prot p.addr b.bytes.length true)).noteStore
      let s := (s.notePair p.ddie ⟨b.bid, b.cidx, p.addr, s.time⟩)
      let at_ := match s.blockColl p.ddie b.bid with | some c => ctDie c.land | none => p.ddie
      ((s.blockLanded p.ddie b.bid p.addr).raiseLocal at_ b.cidx 1).ackBlock p b

/-- A bulk write by its payload; none where it is not accepted. -/
def State.performBulk (s : State) (p : Packet) : Option State :=
  match p.payload with
  | .copyData _ _ pctx rd rop fmt bs => some (s.performCopy p pctx rd rop fmt bs)
  | .row r => some (s.addLandRow p r)
  | .block _ _ _ _ _ _ _ _ _ => some ((blockParts p).elim s (s.performBlock p))
  | .contrib con => match con.coll with
    | some t => some (s.collData p.ddie t con.bytes (p.spkg, p.sdie) p.seq)
    | none => if con.det then s.performDet p con else some (s.performRows p con)
  | _ => some (s.bulkAck p none)

/-! ## Arrival -/

/-- R282. -/
def execMalformedPacket (die : BitVec 2) (_ : Packet) (s : State) : Out := .next (s.malformed die).counted

/-- R442, R448: in quarantine and in recovery, and after ERASE, the package performs nothing for others. -/
def State.shut (s : State) : Bool := s.regs.state = 2 || s.regs.state = 3 || s.regs.state = 4
/-- R448: the failed acknowledgement of a packet that is not performed; it names a failed delivery. -/
def State.refusePacket (s : State) (p : Packet) : State :=
  let w := FaultRec.info ⟨18, 0, accOf p.type, true, false, false, 0⟩
  if bulkType p.type then s.bulkAck p (some w)
  else
    let s := s.landed p (some w)
    match p.payload with
    | .prm (.retire l _) => s.tellPkg l.pkg (.retired l 0)
    | _ => s

/-- R390: a package holds at most 4,096 accesses at landing faults; beyond that its dies accept none that needs a home walk. -/
def landCap : Nat := 4096
def State.landFull (s : State) (p : Packet) : Bool :=
  p.spkg ≠ s.pkg && (accessType p.type || p.type = 8 || (decide (0x20 ≤ p.type.toNat) && decide (p.type.toNat ≤ 0x23))) &&
    decide (landCap ≤ s.heldPackets.length)
/-- R286: a packet of an ordered type. Landing is acceptance for one that is not an access. -/
def State.arriveOrdered (s : State) (p : Packet) (ok : Bool) (f : State → State) : State :=
  s.routed p ok (fun s =>
    if s.landFull p then s.noteHeld p
    else match s.accept p with
      | .error s => s
      | .ok s => if s.shut then s.refusePacket p else if accessType p.type then f s else (f s).ackSeries p)
/-- R288: a packet of a bulk type. One that is not accepted is held back by flow control (R290). -/
def State.arriveBulk (s : State) (p : Packet) (ok : Bool) (f : State → Option State) : State :=
  s.routed p ok (fun s =>
    if s.landFull p then s.noteHeld p
    else match s.accept p with
      | .error s => s
      | .ok s1 => if s1.shut then s1.refusePacket p else (f s1).getD (s.noteHeld p))

def memReqOf (p : Packet) : Option MemReq := match p.payload with | .mem r => some r | _ => none
/-- An access of that type. -/
def State.memPacket (s : State) (p : Packet) (type : BitVec 8) : State :=
  s.arriveOrdered p (p.type = type && (memReqOf p).isSome) (fun s => match (memReqOf p) with | some r => s.performMem p r | none => s)

/-- R261. -/
def execRld (p : Packet) (s : State) : Out := .next (s.memPacket p 2).counted
/-- R262. -/
def execRst (p : Packet) (s : State) : Out := .next (s.memPacket p 3).counted
/-- R126. -/
def execRamo (p : Packet) (s : State) : Out := .next (s.memPacket p 4).counted
/-- R127. -/
def execRred (p : Packet) (s : State) : Out := .next (s.memPacket p 5).counted

/-- What a SEND carries. -/
def sendParts (p : Packet) : Option (Nat × BitVec 12 × List Byte) :=
  match p.payload with | .copyData id _ pctx _ _ _ bs => some (id, pctx, bs) | _ => none
/-- R315. -/
def execSend (p : Packet) (s : State) : Out :=
  .next (s.arriveOrdered p (p.type = 8 && (sendParts p).isSome) (fun s => match sendParts p with
    | some (id, pctx, bs) => s.performSend p id pctx bs
    | none => s)).counted

/-- R270. -/
def execBwr (p : Packet) (s : State) : Out := .next (s.arriveBulk p (p.type = 0x20) (fun s => s.performBulk p)).counted

/-- What a bulk read asks for. -/
def readParts (p : Packet) : Option (Nat × Nat × Nat × BitVec 12) :=
  match p.payload with | .readReq id off n pctx => some (id, off, n, pctx) | _ => none
/-- R282. -/
def execBrd (p : Packet) (s : State) : Out :=
  .next (s.arriveBulk p (p.type = 0x21 && (readParts p).isSome) (fun s => match readParts p with
    | some (id, off, n, pctx) => some (s.performRead p id off n pctx)
    | none => some s)).counted

end Sys2Proof.Machine
end

