-- ==== Sys2Proof/Machine/Packets.lean ====
section
/-! DEFINITION. What comes back to the source of packets: replies and acknowledgements (R123, R124, R128, R263, R286, R289),
bulk answers (R175, R288, R342), resends and failures (R290); counter raises and promise traffic (R230, R235, R245, R309). -/

namespace Sys2Proof.Machine

/-! ## Accesses of contexts that are answered -/

/-- Every outstanding access of the package. -/
def Ctx.hasRem (c : Ctx) (req : Nat) : Bool := c.rem.any (fun r => r.req = req)
/-- Changes the context that an access belongs to, wherever it is (R289). -/
def State.onRem (s : State) (r : RemAcc) (f : Ctx → Ctx) : State := s.mapCtxs (fun c => if c.hasRem r.req then f c else c)
def State.dropRem (s : State) (r : RemAcc) : State :=
  let s := s.mapCtxs (fun c => if c.hasRem r.req then { c with rem := c.rem.filter (fun x => x.req ≠ r.req) } else c)
  { s with orphans := s.orphans.filter (fun x => x.req ≠ r.req) }
def State.remAlive (s : State) (r : RemAcc) : Bool := s.runners.any (fun c => c.hasRem r.req)

/-- An error log record about an access (R423). -/
def State.logRem (s : State) (r : RemAcc) (type code : BitVec 8) (opnd : Word) : State :=
  s.postElog (s.protOf r.pctx) r.pctx r.region (errRec type code r.sz s.pkg r.src.coreId (r.src.slot.setWidth 4) r.va opnd r.ph)

/-- R419: an error of an access: pending against its invocation, or logged where that has ended. -/
def State.remError (s : State) (r : RemAcc) (cls : BitVec 8) (cause : BitVec 16) (acc : BitVec 2) : State :=
  if s.remAlive r then s.onRem r (fun c => { c with errs := c.errs ++ [⟨cls, cause, acc, false, false, c.priv, r.va⟩] })
  else s.logRem r 22 (cause.setWidth 8) (FaultRec.info ⟨cls, cause, acc, false, false, false, r.va⟩)
/-- R419: the same for a poisoned word, with the word's address. -/
def State.remPoison (s : State) (r : RemAcc) (cause : BitVec 16) (acc : BitVec 2) : State :=
  s.remError { r with va := r.va &&& ~~~7 } 17 cause acc
/-- R383: the kind of access. -/
def RemAcc.acc (r : RemAcc) : BitVec 2 :=
  match r.kind with
  | .store => 1
  | .amo _ _ _ => 3
  | .red => 3
  | .count => r.opc.setWidth 2
  | _ => 0

/-- R124: the raise of the counter that an access names. -/
def State.remRaise (s : State) (r : RemAcc) (amt : BitVec 48) : State :=
  match r.ctr with
  | none => s
  | some c =>
    if ctrOk s (s.protOf r.pctx) c then s.raise c amt r.src.coreId (r.src.slot.setWidth 4)
    else s.remError r 17 8 r.acc

/-- R124, R217: accesses that the raise of one covers, issued before it by the same invocation, are still outstanding. -/
def countedBefore (r : RemAcc) : List RemAcc → Bool
  | [] => false
  | x :: xs =>
    if x.req = r.req then false
    else (RemAcc.before (r.ctr.getD 0) r.sys x && x.inv = r.inv && x.src = r.src) || countedBefore r xs
/-- R124, R217, R271: the first raise whose time has come: its covered accesses are acknowledged, and no engine operation that it
covers reads any more. -/
def State.nextRaise (s : State) : Option RemAcc :=
  s.rems.find? (fun r => r.kind = .count && !countedBefore r s.rems && !s.stillReads r.engs)
def State.raiseReady (s : State) : Bool := s.nextRaise.isSome
def releaseRaises : Nat → State → State
  | 0, s => s
  | fuel + 1, s =>
    match s.nextRaise with
    | none => s
    | some r => releaseRaises fuel ((s.dropRem r).remRaise r (r.opnd.setWidth 48))
def State.raisesDue (s : State) : State := releaseRaises (s.rems.filter (fun r => r.kind = .count)).length s

/-- An access that is done with: its counter is raised, once the accesses that the raise covers are acknowledged. -/
def State.remFinish (s : State) (r : RemAcc) : State :=
  if r.ctr.isSome && (countedBefore r s.rems || s.stillReads r.engs) then
    let wait := fun (x : RemAcc) =>
      if x.req = r.req then { x with kind := .count, counted := false, inRun := false, opnd := 1, opc := r.acc.setWidth 4 } else x
    let s := s.mapCtxs (fun c => if c.hasRem r.req then { c with rem := c.rem.map wait } else c)
    ({ s with orphans := s.orphans.map wait }).raisesDue
  else ((s.remRaise r 1).dropRem r).raisesDue

/-- A result is written later (R48). -/
def Ctx.later (c : Ctx) (v : RegVal) : Ctx :=
  match v with
  | .g r _ => if r = 0 then c else { c with pend := c.pend ++ [v] }
  | .q r _ => if r = 0 then c else { c with pend := c.pend ++ [v] }
  | _ => { c with pend := c.pend ++ [v] }

/-- A doubleword of code has come (log entry 15). -/
def State.addCode (s : State) (r : RemAcc) (v : Word) : State :=
  s.onRem r (fun c => { c with code := (r.va, wordBytes v) :: c.code.filter (fun x => x.1 ≠ r.va) })

/-- R250: the read-only cache of the core takes up bytes homed elsewhere (log entry 99). -/
def State.roTake (s : State) (r : RemAcc) (v : Word) : State :=
  s.setCore ((s.core r.src.coreId).roAdd
    { slots := [0, 1, 2, 3], pctx := r.pctx, va := r.va.toNat, bytes := leBytes (szBytes r.sz) v.toNat, bad := [] })
/-- The values of an answer reach their registers. -/
def State.remValue (s : State) (r : RemAcc) (v aux : Word) : State :=
  match r.kind with
  | .load gd sz sx => s.onRem r (fun c => c.later (.g gd (extend sz sx v)))
  | .ldro gd sz sx => (s.roTake r v).onRem r (fun c => c.later (.g gd (extend sz sx v)))
  | .amo gd qs _ => s.onRem r (fun c => (c.later (.g gd v)).later (.q qs (aux ≠ 0)))
  | .value gd => s.onRem r (fun c => c.later (.g gd v))
  | .flag qd => s.onRem r (fun c => c.later (.q qd (v ≠ 0)))
  | .gather => s.onRem r (fun c => { c with got := tput c.got (r.va.toNat / 8) v })
  | .poll => s.onRem r (fun c => { c with poll := c.poll.map (fun q => if q.1 = r.req then (q.1, some (v, aux)) else q) })
  | .fetch => s.addCode r v
  | _ => s

/-- R418 cause 2: code that cannot be had: the instruction does not issue, and the run is over. -/
def State.remCode (s : State) (r : RemAcc) (cause : BitVec 16) : State :=
  (s.remError r 17 cause 2).onRem r (fun c => { c with status := .atSwitch })

/-- R128, R263: an access that has failed. `w` is FLTINFO of the home walk, or a read error (0, and 1 in POISON mode). -/
def State.remFail (s : State) (r : RemAcc) (w : Word) : State :=
  let cls := fld w 0 8
  let landing := fun (s : State) => s.logRem r 21 cls w
  match r.kind with
  | .store =>
    (if isMerge w then (mergedWords w r.va (leBytes (szBytes r.sz) r.opnd.toNat)).foldl (fun s e => s.logRem { r with va := e.1 } 17 0 e.2) s
     else (landing s).remError r 17 7 1).remFinish r
  | .load gd _ _ | .ldro gd _ _ => (((landing s).remError r 17 7 0).onRem r (fun c => c.later (.g gd 0))).dropRem r
  | .gather => (((landing s).remError r 17 7 0).remValue r 0 0).dropRem r
  | .fetch => ((landing s).remCode r 7).dropRem r
  | .amo gd qs _ =>
    let s := landing s
    (if r.poison then s.onRem r (fun c => (c.later (.g gd 0)).later (.q qs false)) else s.remError r 17 7 3).remFinish r
  | .red =>
    let code := r.opc.setWidth 8
    let s := if w.toNat > 1 then landing s else s
    (if r.poison then (if w.toNat ≤ 1 then s.logRem r 18 code r.opnd else s)
     else (s.logRem r 16 code r.opnd).onRem r (fun c => { c with alog := true })).remFinish r
  | _ => s.dropRem r

/-- The source agent of an answer: its core, and its context. -/
def Packet.toSlot (p : Packet) : BitVec 4 := p.aux.setWidth 4

/-- Packets that an answer concerns: those of its series. -/
def ofSeries (p : Packet) (u : Unacked) : Bool :=
  u.p.sdie = p.ddie && u.p.score = p.dep && u.p.sag = p.aux.setWidth 4 && u.p.dpkg = p.spkg && u.p.ddie = p.sdie

/-- R290: the interval after which a packet is first sent again, 20 µs, and the longest interval, 1 ms, in nanoseconds. -/
def firstGap : Nat := 20000
def lastGap : Nat := 1000000
/-- R286, R288: two packets of one series. -/
def Unacked.fellow (u v : Unacked) : Bool := fellows u.p v.p
/-- R290: the time since a HOLD that it covers; a further one is due within 1 ms. -/
def Unacked.covered (u : Unacked) (now : Word) : Nat := u.held.elim 0 (fun t => min lastGap (now - t).toNat)
/-- R290: how long ago a packet was first sent, not counting the time covered by HOLD. -/
def Unacked.age (u : Unacked) (now : Word) : Nat := (now - u.at_).toNat - u.covered now
/-- R290: HOLD restarts the timers of a stream, the resend interval too. -/
def Unacked.heldAt (u : Unacked) (now : Word) : Unacked :=
  { u with at_ := u.at_ + natWord (u.covered now), since := now, gap := firstGap, held := some now }
/-- R290: a packet whose resend interval has passed: it is not accepted, or its landing is acknowledged and its reply has not come. -/
def Unacked.overdue (u : Unacked) (now : Word) : Bool := (!u.acc || u.landed) && decide (u.gap ≤ (now - u.since).toNat)
/-- R287, R290: progress on the streams of packets that are acknowledged starts the timers of the others of those streams again, and packets that
were kept back leave. -/
def State.progress (s : State) (done : List Unacked) : State :=
  ({ s with unacked := s.unacked.map (fun (u : Unacked) =>
      if !u.acc && done.any (fun v => v.fellow u) then { u with since := s.time, gap := firstGap } else u) } : State).drainBacklog
/-- R286, R288, R290: acknowledged packets are kept no longer. -/
def State.letGo (s : State) (hit : Unacked → Bool) : State :=
  ({ s with unacked := s.unacked.filter (fun u => !hit u) } : State).progress (s.unacked.filter hit)

/-- R286: a reply. -/
def State.takeReply (s : State) (p : Packet) (src : CtxId) (seq : BitVec 32) (val : Word) (poison ok : Bool) : State :=
  let s := s.letGo (fun u => ofSeries p u && u.p.seq = seq && accessType u.p.type)
  match s.rems.find? (fun r => r.src = src && r.seq = seq && r.dpkg = p.spkg && r.ddie = p.sdie &&
      (match r.kind with | .load _ _ _ | .ldro _ _ _ | .amo _ _ _ | .gather | .fetch => true | _ => false)) with
  | none => s
  | some r =>
    match r.kind with
    | .amo gd qs _ =>
      if poison then
        (if ok then s.remPoison r 6 3
         else (s.logRem r 18 (r.opc.setWidth 8) r.opnd).onRem r (fun c => (c.later (.g gd 0)).later (.q qs false))).remFinish r
      else (s.remValue r val (bit ok)).remFinish r
    | .fetch => if poison || !ok then (s.remCode r (if poison then 2 else 7)).dropRem r else (s.remValue r val 0).dropRem r
    | k =>
      let s := if poison then s.remPoison r 1 0 else if ok then s else s.remError r 17 7 0
      if poison || !ok then
        match k with
        | .load gd _ _ | .ldro gd _ _ => (s.onRem r (fun c => c.later (.g gd 0))).dropRem r
        | _ => (s.remValue r 0 0).dropRem r
      else (s.remValue r val 0).dropRem r

/-- R315, R316: triggered operations whose packet has been acknowledged, and that whose packet has failed. -/
def State.ackFirings (s : State) (p : Packet) (pseq : BitVec 32) (fail : Option (BitVec 32 × Word)) : State :=
  if p.dep = 255 && p.aux.setWidth 4 = (6 : BitVec 4) then
    { s with firings := s.firings.map (fun (f : Firing) => match f.sent with
        | some (pkg, die, seq) => if pkg = p.spkg && die = p.sdie && f.die = p.ddie && f.fin.isNone then
            (match fail with
             | some (q, w) => if q = seq then { f with fin := some (bulkCause w, 0) } else if seqLe seq pseq then { f with fin := some (0, 0) } else f
             | none => if seqLe seq pseq then { f with fin := some (0, 0) } else f) else f
        | none => f) }
  else s

/-- R286: a cumulative acknowledgement. -/
def State.takeAck (s : State) (p : Packet) (aseq pseq : BitVec 32) (fseq : Option (BitVec 32)) (info : Word) : State :=
  let upTo := fun (q : BitVec 32) (u : Unacked) => ofSeries p u && !bulkType u.p.type && seqLe u.p.seq q
  let news := s.unacked.filter (fun u => upTo aseq u && !u.acc)
  let s := ({ s with unacked := (s.unacked.filter (fun u => !(upTo aseq u && u.p.type ≠ 2 && u.p.type ≠ 4))).map (fun (u : Unacked) =>
      if upTo pseq u && !u.landed then { u with acc := true, landed := true, since := s.time, gap := firstGap }
      else if upTo aseq u then { u with acc := true } else u) } : State).progress news
  let s := s.ackFirings p pseq (fseq.map (fun q => (q, info)))
  let mine := fun (r : RemAcc) => r.src.die = p.ddie && r.src.core = p.dep && r.src.slot.setWidth 4 = (p.aux.setWidth 4 : BitVec 4) &&
    r.dpkg = p.spkg && r.ddie = p.sdie && r.kind ≠ .count
  let s := match fseq with
    | some q => match s.rems.find? (fun r => mine r && r.seq = q) with
      | some r => (s.letGo (fun u => ofSeries p u && u.p.seq = q && accessType u.p.type)).remFail r info
      | none => s
    | none => s
  (s.rems.filter (fun r => mine r && seqLe r.seq pseq && (r.kind = .store || r.kind = .red))).foldl State.remFinish s

/-- R286: a reply, which acknowledges its series too. -/
def execRpl (p : Packet) (s : State) : Out :=
  .next (State.counted (match p.payload with
    | .reply src _ seq val poison ok aseq pseq fseq info =>
      s.routed p (p.type = 0x10) (fun s => (s.takeReply p src seq val poison ok).takeAck p aseq pseq fseq info)
    | _ => s.malformed (s.inDie p)))

/-- R286. -/
def execAck (p : Packet) (s : State) : Out :=
  .next (State.counted (match p.payload with
    | .ack aseq pseq fseq info => s.routed p (p.type = 0x11) (fun s => s.takeAck p aseq pseq fseq info)
    | _ => s.malformed (s.inDie p)))

/-! ## Bulk answers -/

/-- R175: a copy hears of one packet: so many bytes have been written at their homes, or an error. -/
def State.copyHears (s : State) (id n : Nat) (err : BitVec 8) (bad : Option BadWord) : State :=
  { s with copies := s.copies.map (fun (c : Copy) => if c.id = id then
      { c with unacked := c.unacked - 1, landed := if err = 0 then c.landed + n else c.landed, err := if c.err = 0 then err else c.err,
               bad := if c.err = 0 then bad else c.bad }
    else c) }
/-- R418: the poisoned word of a row's source that lies in another package. -/
def State.rowBad (s : State) (r : FlightRow) : Option BadWord → State
  | some w => s.engPoison r.by_ w
  | none => s

/-- R194: a word of a method table homed in another package has come, or cannot be had. -/
def State.tableData (s : State) (id k : Nat) (w : Word) : State :=
  { s with invs := s.invs.map (fun (r : InvRec) =>
      if r.i.id = id && r.asked then { r with got := r.got ++ [(k, w)], asked := false } else r) }
def State.tableLost (s : State) (id : Nat) : State :=
  s.discardAll ((s.invs.filter (fun r => r.i.id = id && r.asked)).map (fun r => (r, 6, none)))
/-- R192: bytes of a launch's residency list homed elsewhere have come, or cannot be had (R355). -/
def State.listData (s : State) (id off : Nat) (bs : List Byte) : State :=
  { s with launches := s.launches.map (fun (l : Launch) =>
      if l.asked = some id then { l with list := l.list ++ [(off, bs)], asked := none } else l) }
def State.listLost (s : State) (id : Nat) : State :=
  { s with launches := s.launches.map (fun (l : Launch) => if l.asked = some id then { l with refused := some 5, asked := none } else l) }

/-- R407: a transmit entry of host memory has come, or cannot be had and is asked for again. -/
def State.txData (s : State) (e : Nat) (bs : List Byte) : State :=
  let k : BitVec 2 := BitVec.ofNat 2 e
  { s with ports := s.ports.set k.toFin { s.ports[k.toFin] with txAsked := false, txBuf := some bs } }.due (.ethernetTransmit k)
def State.txLost (s : State) : State := { s with ports := s.ports.map (fun (p : Port) => { p with txAsked := false }) }

/-- R421: the home of a copy's destination reports a merge. -/
def State.bulkMerged (s : State) (q : Packet) (id : Nat) (w : Word) (bs : List Byte) : State :=
  match s.copies.find? (fun c => c.id = id) with
  | some c => (mergedWords w q.addr bs).foldl (fun s e => s.postElog c.by_.prot c.by_.pctx c.by_.region
      (errRec 17 0 3 s.pkg c.by_.ctx.coreId 5 e.1 e.2 c.by_.ph)) s
  | none => s
/-- What a bulk packet of this package comes to. -/
def State.bulkResult (s : State) (q : Packet) (fail : Option Word) : State :=
  let err := match fail with | some w => bulkCause w | none => 0
  let bad := fun (acc : BitVec 2) => fail.bind (bulkBad acc q.addr)
  match q.payload with
  | .copyData id off _ _ _ _ bs =>
    if id = 0 then s.lateRaised off
    else match fail.filter isMerge with
      | some w => (s.bulkMerged q id w bs).copyHears id bs.length 0 none
      | none => s.copyHears id bs.length err (bad 3)
  | .readReq id _ _ _ =>
    if err = 0 then s
    else if id = 0 then s.txLost
    else match s.rows.find? (fun r => r.id = id && r.stage = .asked) with
      | some r => ((s.rowBad r (bad 0)).setRow (r.fail s err).drop).rowGap r
      | none => ((s.copyHears id 0 err (bad 0)).tableLost id).listLost id
  | .contrib con =>
    if con.coll.isSome then s
    else if con.det then
      { s with copies := s.copies.map (fun (c : Copy) => if some c.id = con.copy then
          (match fail with
           | none => { c with pos := c.total, landed := c.total, unacked := 0, applied := true }
           | some w => c.failed 3 q.addr w) else c) }
    else match con.copy with
      | some n => s.awayDone con.die n fail
      | none => s
  | .block bid _ _ _ _ _ _ _ _ => match fail, s.blockColl q.sdie bid with
    | some _, some c => s.collError c 6
    | _, _ => s
  | _ => s

/-- R288: a bulk packet is acknowledged. -/
def State.bulkAcked (s : State) (p : Packet) (seq : BitVec 32) (fail : Option Word) : State :=
  let hit := fun (u : Unacked) => ofSeries p u && bulkType u.p.type && u.p.seq = seq
  (s.unacked.filter hit).foldl (fun s u => s.bulkResult u.p fail) (s.letGo hit)

/-- R342: the answer to a row. -/
def State.rowAnswered (s : State) (p : Packet) (res : BitVec 2) (dlseq : BitVec 32) (didx : BitVec 4) (redir : Bool) : State :=
  let row := fun (u : Unacked) => match u.p.payload with
    | .row r => u.p.sdie = p.ddie && u.p.score = p.dep && u.p.dpkg = p.spkg && r.dlseq = dlseq && r.didx = didx && r.redir = redir &&
        natWord r.sender = p.aux
    | _ => false
  let s := s.letGo row
  match s.rows.find? (fun r => r.stage = .sent && r.core = ⟨p.ddie, p.dep⟩ && r.pkg = p.spkg && r.dlseq = dlseq && r.didx = didx &&
      r.redir = redir && natWord (if r.redir then coreNum r.core else r.by_.inv) = p.aux) with
  | some r => s.rowAnswer r res
  | none => s

/-- R296, R307: a retention entry is cleared, on the die that has it. -/
def State.releaseBlock (s : State) (bid : BitVec 48) : State :=
  dies.foldl (fun s die => s.setSide die ((s.die die).side.map (fun (e : SideInfo) => if e.bid = bid && e.orig then { e with valid := false } else e))) s
/-- R307: a block that this package has sent is at its receiver: the retention entry is cleared if it is the origin, the packet is kept no longer, and
the collective knows. -/
def State.blockReleased (s : State) (bid : BitVec 48) (at_ : BitVec 12 × BitVec 2) (addr : Word) : State :=
  let s := s.letGo (fun u => u.p.type = 0x23 && u.p.sag = 6 && u.p.dpkg = at_.1 && u.p.ddie = at_.2 && u.p.addr = addr &&
    (blockParts u.p).any (fun b => b.bid = bid))
  let s := dies.foldl (fun s d => s.blockDone d bid at_) s
  if bid.extractLsb' 36 12 = s.pkg then s.releaseBlock bid else s

/-- R302, R307: every component of a coded packet is answered: the copies are freed. Each block that has reached its receiver is released at its
origin; one that failed under STRICT is not (R304). The packet itself is kept no longer. -/
def State.freeCoded (s : State) (die : BitVec 2) (x : Coded) : State :=
  let d := s.die die
  let s := (s.setDie die { d with coded := d.coded.filter (fun c => c.cseq ≠ x.cseq) }).letGo (fun u => u.p.type = 0x24 && u.p.sdie = die &&
    (match u.p.payload with | .coded c _ _ _ => c = x.cseq | _ => false))
  (((List.range x.comps.length).filter (fun k => !x.void.contains k)).filterMap (fun k => x.comps[k]?)).foldl (fun s c =>
    let origin : BitVec 12 := c.bid.extractLsb' 36 12
    if origin = s.pkg then s.blockReleased c.bid (c.dpkg, c.ddie) c.daddr
    else
      let home := match d.holdings.find? (fun h => h.bid = c.bid && h.rpkg = origin) with
        | some h => h.rdie
        | none => c.sdie
      s.sendBulk { mkPacket s 0x33 origin home 255 (dieAgent die) 7 (.bid c.bid c.dpkg c.ddie) with addr := c.daddr }) s
/-- R302: a component of a coded packet is answered. -/
def State.codedDone (s : State) (die : BitVec 2) (cseq : BitVec 32) (k : Nat) (void : Bool) : State :=
  let d := s.die die
  match d.coded.find? (fun c => c.cseq = cseq) with
  | none => s
  | some x =>
    if x.done.contains k || decide (x.comps.length ≤ k) then s
    else
      let x := { x with done := k :: x.done, void := if void then k :: x.void else x.void }
      if x.done.length < x.comps.length then s.setDie die { d with coded := d.coded.map (fun c => if c.cseq = cseq then x else c) }
      else s.freeCoded die x

/-- R307: a block packet is acknowledged by BACK: to its sender, or to a switch that sent a fallback (R305). -/
def State.blockAcked (s : State) (p : Packet) (bid : BitVec 48) : State :=
  if p.aux.setWidth 4 = (7 : BitVec 4) then
    let s := s.letGo (fun u => u.p.type = 0x23 && u.p.sag = 7 && u.p.sdie = p.ddie && u.p.dpkg = p.spkg && u.p.ddie = p.sdie && u.p.addr = p.addr &&
      (blockParts u.p).any (fun b => b.bid = bid))
    let fell := (s.die p.ddie).coded.flatMap (fun x =>
      ((List.range x.comps.length).filter (fun k => match x.comps[k]? with
        | some c => c.bid = bid && c.daddr = p.addr && c.dpkg = p.spkg && c.ddie = p.sdie
        | none => false)).map (fun k => (x.cseq, k)))
    fell.foldl (fun s e => s.codedDone p.ddie e.1 e.2 false) s
  else s.blockReleased bid (p.spkg, p.sdie) p.addr

/-- R307, R342, R329, R175: what a BACK tells. -/
def State.takeBack (s : State) (p : Packet) : State :=
  match p.payload with
  | .ack seq _ none _ => s.bulkAcked p seq none
  | .ack seq _ (some _) w => s.bulkAcked p seq (some w)
  | .answer res dlseq didx redir _ => s.rowAnswered p res dlseq didx redir
  | .collBack defer resume chunk _ group k seq =>
    let s := if resume then s
      else s.letGo (fun u =>
        u.p.sdie = p.ddie && u.p.score = 255 && u.p.dpkg = p.spkg && u.p.ddie = p.sdie && u.p.type = 0x20 && u.p.seq = seq &&
          (match u.p.payload with | .contrib con => con.coll.isSome | _ => false))
    s.collAck p.ddie group k (p.spkg, p.sdie) defer resume chunk seq
  | .block bid _ _ _ _ _ _ _ _ => s.blockAcked p bid
  | _ => s.malformed (s.inDie p)
/-- R307. -/
def execBack (p : Packet) (s : State) : Out :=
  .next (State.counted (s.routed p (p.type = 0x30) (fun s => s.takeBack p)))

/-- R270: data that a copy or a row has asked for. -/
def State.takeData (s : State) (p : Packet) (id off : Nat) (bs : List Byte) : State :=
  let s := s.letGo (fun u => match u.p.payload with
    | .readReq i o _ _ => i = id && o = off
    | _ => false)
  match s.copies.find? (fun c => c.id = id) with
  | some c =>
    if c.err ≠ 0 then s.copyHears id 0 0 none
    else if c.det || decide (c.pos ≤ off) then s.setCopy { c with unacked := c.unacked - 1, asked := false, buf := c.buf ++ [(off, bs)] }
    else
      let dst := c.dstAt off
      match engPlace s c.by_.prot c.by_.user (copyAcc c.rd) dst with
      | .ok (.hbm pa) =>
        match (if c.rd then s.engBad 3 dst pa bs.length else none) with
        | some w => s.copyHears id 0 2 (some w)
        | none => ((s.markUsed c.by_.prot dst true).copyWrite c dst pa bs).copyHears id bs.length 0 none
      | .ok pl => match pl.awayAt dst with
        | some (pkg, va) => s.sendBulk (copyPut s c pkg va off bs)
        | none => s.copyHears id 0 1 none
      | .error (.fault f) =>
        if f.recoverable && c.by_.prot.hasFq then
          let s := if c.stall.isNone && c.onEntry.isNone then s.setCopy { c with stall := some f } else s
          { s with net := s.net ++ [p] }
        else s.copyHears id 0 1 none
      | .error (.poison w) => s.copyHears id 0 2 (some w)
      | .error (.away _) => s.copyHears id 0 1 none
      | .error .mig => { s with net := s.net ++ [p] }
  | none => match s.rows.find? (fun r => r.id = id && r.stage = .asked) with
    | some r => s.setRow { r with stage := .send, buf := r.buf ++ [(off, bs)] }
    | none => if id = 0 then s.txData off bs else (s.tableData id off (wordOf bs)).listData id off bs
/-- R282. -/
def execBrdd (p : Packet) (s : State) : Out :=
  .next (State.counted (match p.payload with
    | .copyData id off _ _ _ _ bs => s.routed p (p.type = 0x22) (fun s => s.takeData p id off bs)
    | _ => s.malformed (s.inDie p)))

/-! ## Counters and promise traffic -/

/-- R309, R323, R332: a raise, or a message of a collective. -/
def State.performCtr (s : State) (p : Packet) : State :=
  match p.payload with
  | .bytes bs => s.raiseLocal p.ddie (ctIndex p.aux) (BitVec.ofNat 48 (leNat bs))
  | .ready g k rank n dst land pctx => s.collReady p.ddie ⟨g, k, n, rank, dst, land, pctx⟩
  | .abort g k err => s.collAborted p.ddie g k err
  | _ => s
def ctrPayload (p : Packet) : Bool := match p.payload with | .bytes _ => true | .ready _ _ _ _ _ _ _ => true | .abort _ _ _ => true | _ => false
/-- R309. -/
def execCtr (p : Packet) (s : State) : Out :=
  .next (s.arriveOrdered p (p.type = 6 && ctrPayload p) (fun s => s.performCtr p)).counted

/-- R191: a promise slot of a die is granted. -/
def State.grantPh (s : State) (die : BitVec 2) : Option (Word × State) :=
  (s.newPh die).map (fun ph => (ph, s.addPromise ph ⟨0, 0, 0⟩ 0 0))

/-- A question that cannot be answered yet waits. -/
def State.askLater (s : State) (p : Packet) : State := { s with net := s.net ++ [p] }

/-- R231: what an argument that ends at an object of this package breaks with; 0 where it stands. -/
def State.orefCause (s : State) (n : Word) : BitVec 8 :=
  match s.objs.find? (fun o => o.name = n) with
  | none => 5
  | some o => if o.deleted then 7 else 0

/-- R200: another package asks where a chain leads. -/
def State.takeChase (s : State) (p : Packet) (ph at_ : Word) : State :=
  let tell := fun (c : Bool) => s.sendOrdered (mkPacket s 7 (nmPkg ph) (nmDie ph) 255 (dieAgent p.ddie) 7 (.prm (.chased ph c)))
  match loopFrom s ph s.chaseFuel at_ with
  | .open_ => tell false
  | .closed => tell true
  | .goes n => s.askChain p.ddie ph n
  | .waits => s.askLater p
/-- R200: the chain of a promise has been followed to its end: the promise resolves, or breaks. -/
def State.takeChased (s : State) (ph : Word) (cycle : Bool) : State :=
  match s.promise ph with
  | none => s
  | some p => match p.trying with
    | none => s
    | some n => let (s, ws) := s.settleAs p (if cycle then .broken 3 ph else .name n); s.settle ws

/-- R191, R198, R210 to R214, R218, R221, R223: a question of an agent of another package. -/
def State.takeAsk (s : State) (p : Packet) (src : CtxId) (pkg : BitVec 12) (req : Nat) (q : Query) : State :=
  let ans := fun (s : State) (v a : Word) => s.answerTo p.ddie src pkg req v a
  match q with
  | .htest ph fn => match s.htest ph fn with
    | .ok v => ans s v 0
    | .error n => s.sendOrdered (mkPacket s 7 (nmPkg n) (nmDie n) 255 (dieAgent p.ddie) 7 (.prm (.ask src pkg req (.htest n fn))))
  | .ctrd c => ans s ((s.cell (ctDie c) (ctIndex c)).setWidth 64) 0
  | .trpost d region pctx prio ceil seed launch =>
    let (id, s) := s.trPost ⟨region, pctx, s.protOf pctx, prio, ceil, seed, launch⟩ d
    ans s id 0
  | .trcan id launch => if s.trBusy id then s.askLater p else let (ok, s) := s.trCan id launch; ans s (bit ok) 0
  | .phreg id who mode region => s.phReg id who mode region
  | .phdrop id who => s.phDrop id who
  | .pharr id who => match s.phArr id who with
    | some s => ans s 0 0
    | none => s.askLater p
  | .phhalt id who on => s.phHalt id who on
  | .ctwait c thr =>
    if reached (s.cell (ctDie c) (ctIndex c)) thr then ans s 1 0
    else { s with ctWaits := s.ctWaits ++ [⟨src, pkg, req, c, thr⟩] }
  | .unwait n => { s with ctWaits := s.ctWaits.filter (fun w => !(w.src = src && w.pkg = pkg && w.req = n)) }
  | .phase id who k =>
    let k := k.getD ((s.phaser id).elim 0 (fun x => x.waitFor who))
    let (v, a) := s.phAnswer id k
    ans s v a
  | .oref n => ans s ((s.orefCause n).setWidth 64) 0
  | .grant die => match s.grantPh die with
    | some (ph, s) => ans s ph 0
    | none => s.askLater p
  | .start pctx region first =>
    if s.mayStart pctx region then
      let s := { s with awayRuns := s.awayRuns ++ [(pctx, region)] }
      match s.awayBlock pctx region with
      | some (x, b) => s.tellPkg x (.ask src pkg req (.start pctx b first))
      | none => s.tellPkg pkg (.leave req pctx first)
    else s.askLater p
  | .prio pctx region =>
    let l := s.effPrio (s.protOf pctx) region
    match (if l = 0 then s.awayBlock pctx region else none) with
    | some (x, b) => s.tellPkg x (.ask src pkg req (.prio pctx b))
    | none => ans s (l.setWidth 64) 0
  | .flush inv wm loads =>
    if s.rems.any (fun x => x.inv = inv && decide (x.req < wm) && x.dpkg = pkg && x.released loads) then s.askLater p else ans s 1 0

/-- The answer to a question. A grant is kept by the core that asked. -/
def State.takeAnswer (s : State) (src : CtxId) (req : Nat) (val aux : Word) : State :=
  if req = 0 then
    let key := (nmPkg val).toNat * 4 + (nmDie val).toNat
    let k := s.core src.coreId
    let old := match k.grants.find? (fun g => g.1 = key) with | some g => g.2 | none => []
    s.setCore { k with grants := (key, old ++ [val]) :: k.grants.filter (fun g => g.1 ≠ key), asked := k.asked.filter (fun x => x ≠ key) }
  else match s.rems.find? (fun r => r.req = req) with
    | some r => (s.remValue r val aux).dropRem r
    | none =>
      { s with firings := s.firings.map (fun (f : Firing) => if f.id = req && f.lvl = some none then { f with lvl := some (some (fld val 0 4)) } else f)
               invs := s.invs.map (fun (r : InvRec) => { r with orefs := r.orefs.map (fun o => if o.2.1 = req then (o.1, req, some (fld val 0 8)) else o) })
               flushes := s.flushes.map (fun f => if f.1 = req then (req, f.2.1, true) else f) }
/-- R361: leave to start an invocation has come. One that is gone gives it back. -/
def State.takeLeave (s : State) (inv : Nat) (pctx : BitVec 12) (first : BitVec 12 × Word) : State :=
  if s.invs.any (fun r => r.i.id = inv && r.leave = some false) then
    { s with invs := s.invs.map (fun (r : InvRec) => if r.i.id = inv && r.leave = some false then { r with leave := some true } else r) }
  else s.account first.1 pctx first.2 0 0 true

/-- R235: a die of another package is told of a promise, now and when it changes. -/
def State.takeRegister (s : State) (pkg : BitVec 12) (ph : Word) (die : BitVec 2) : State :=
  let tell := fun (s : State) (st : PState) (c : Bool) =>
    s.sendOrdered (mkPacket s 7 pkg die 255 (dieAgent (nmDie ph)) 7 (.prm (.report ph st c (s.toksOf ph))))
  match s.promise ph with
  | none => tell s (.broken 5 0) true
  | some p =>
    if p.freed then tell s (.broken 5 0) true
    else
      let s := s.setPromise { p with regs := if p.regs.contains (pkg, die) then p.regs else p.regs ++ [(pkg, die)] }
      if p.st = .pending then s else tell s p.st p.conf

/-- R245: a report: what is held here for the promise learns of a break. -/
def State.takeReport (s : State) (ph : Word) (st : PState) (c : Bool) (ts : List FlushTok) : State :=
  let s := if s.reports.any (fun r => r.1 = ph) then s.setToks ph ts else s
  let s := { s with reports := s.reports.map (fun r => if r.1 = ph then (ph, st, c) else r) }
  match st with
  | .broken cause o =>
    let stale := cause = 5 && o = 0
    s.discardAll ((s.heldOn ph).map (fun r => if stale then (r, 5, none) else (r, 2, some o)))
  | _ => s

/-- R191: unused slots of a grant come back. -/
def State.takeBackSlots (s : State) (names : List Word) : State :=
  { s with promises := s.promises.filter (fun p => !(names.contains p.ph && p.st = .pending)) }

/-- R428: a resolution made in another package is confirmed. -/
def State.confirmPh (s : State) (ph : Word) : State :=
  match s.promise ph with
  | some p =>
    let p := { p with conf := true }
    (s.setPromise p).report p
  | none => { s with reports := s.reports.map (fun r => if r.1 = ph && nmPkg ph = s.pkg then (ph, r.2.1, true) else r) }

/-- R358: the result of a launch, made in another package. -/
def State.rootResult (s : State) (l : LaunchId) (st : PState) : State := s.settle [⟨0, l, st, none⟩]

/-- R361: what another package reports of a region of this one. -/
def State.takeAccount (s : State) (pctx : BitVec 12) (region run ns : Word) (ended : Bool) : State :=
  let prot := s.protOf pctx
  let s := if run = 0 then s else s.runAdd pctx prot region run
  let s := if ns = 0 then s else chargeRegions pctx prot ns (s.chain prot region) s
  if ended then ({ s with awayRuns := s.awayRuns.erase (pctx, region) }).endLeave pctx prot region else s
/-- R364, R422: a record of an invocation of another package. -/
def State.takeRecord (s : State) (pctx : BitVec 12) (region : Word) (elog : Bool) (bs : List Byte) : State :=
  let prot := s.protOf pctx
  if elog then s.postElog prot pctx region bs else s.postStatus prot pctx region bs
/-- R429, R420: a region of this package fails for what another package has found. -/
def State.takeFail (s : State) (pctx : BitVec 12) (region : Word) (scan : Bool) : State :=
  let prot := s.protOf pctx
  if scan && s.blkState prot region ≠ 1 then s else s.failRegion prot pctx region 17 (if scan then 3 else 1) scan
/-- R199, R359: a resolution made in another package, with its release. -/
def State.takeResolve (s : State) (ph : Word) (st : PState) (ts : List FlushTok) : State :=
  let s := if (s.promise ph).any (fun p => p.st = .pending && p.trying.isNone) then s.setToks ph ts else s
  s.settle [⟨ph, ⟨0, 0, 0⟩, st, none⟩]

/-- R358: a launch of another package retires. Its record here is that of this package's part. -/
def foreignLaunch (l : LaunchId) : Launch := { (default : Launch) with id := l, res := .value [] }
def State.takeRetire (s : State) (l : LaunchId) (step : Nat) : State :=
  let s := if s.launches.any (fun x => x.id = l) then s else { s with launches := s.launches ++ [foreignLaunch l] }
  { s with launches := s.launches.map (fun (x : Launch) => if x.id = l then { x with step := step, out := [l.pkg] } else x) }
/-- R358, R360: another package has taken a step of the retirement. -/
def State.takeRetired (s : State) (pkg : BitVec 12) (l : LaunchId) (n : Nat) : State :=
  { s with launches := s.launches.map (fun (x : Launch) =>
      if x.id = l then { x with out := x.out.filter (fun p => p ≠ pkg), discarded := x.discarded + n } else x) }

/-- R304: a decode fault is counted in DECF of the parameter block of the collective of a slot. -/
def State.addDecf (s : State) (die : BitVec 2) (cslot : BitVec 16) : State :=
  match s.coll die (cslot.setWidth 8) with
  | some x => match s.devRead x.prot (x.blk + 72) 2 with
    | some bs => s.devPut x.prot (x.blk + 72) (leBytes 2 (leNat bs + 1))
    | none => s
  | none => s

def State.performPrm (s : State) (p : Packet) : PrmMsg → State
  | .ask src pkg req q => s.takeAsk p src pkg req q
  | .answer src req val aux => s.takeAnswer src req val aux
  | .resolve ph st _ _ ts => s.takeResolve ph st ts
  | .hbrk ph cause => s.breakPh ph cause
  | .hfree ph => s.releasePh ph
  | .giveBack names => s.takeBackSlots names
  | .register ph die => s.takeRegister p.spkg ph die
  | .report ph st c ts => s.takeReport ph st c ts
  | .confirm ph => s.confirmPh ph
  | .chase ph at_ => s.takeChase p ph at_
  | .chased ph cycle => s.takeChased ph cycle
  | .root l st => s.rootResult l st
  | .account pctx region run ns ended => s.takeAccount pctx region run ns ended
  | .leave inv pctx first => s.takeLeave inv pctx first
  | .record pctx region elog bs => s.takeRecord pctx region elog bs
  | .unwound pctx region cls va info => s.baseUnwound (s.protOf pctx) pctx region cls va info
  | .fail pctx region scan => s.takeFail pctx region scan
  | .failed pctx bs b code scan => s.failAway pctx bs b code scan
  | .dropped pctx bs => s.dropRegions pctx bs
  | .decf die cslot => s.addDecf die cslot
  | .rowLost inv va => s.rowFails inv va
  | .retire l step => s.takeRetire l step
  | .retired l n => s.takeRetired p.spkg l n
  | .odel n => s.deleteObj n
  | .omove n near => s.askMove n near
def prmOf (p : Packet) : Option PrmMsg := match p.payload with | .prm m => some m | _ => none
/-- R230. -/
def execPrm (p : Packet) (s : State) : Out :=
  .next (s.arriveOrdered p (p.type = 7 && (prmOf p).isSome) (fun s => match prmOf p with
    | some m => s.performPrm p m
    | none => s)).counted

/-! ## Packets that wait here (R390) -/

/-- R263, R390: an accepted packet that was held is tried again. -/
def execLandingFault (p : Packet) (s : State) : Out :=
  .next (State.counted (match p.payload with
    | .mem r => s.performMem p r
    | .prm m => s.performPrm p m
    | .readReq id off n pctx => s.performRead p id off n pctx
    | .copyData id off pctx _ _ _ bs =>
      if p.type = 8 then s.performSend p id pctx bs
      else if p.type = 0x22 then s.takeData p id off bs
      else (s.performBulk p).getD s
    | _ => (s.performBulk p).getD s))

/-! ## Resends and failures (R287, R290) -/

/-- The packets of a stream that are not accepted, and the requests whose reply has not come. -/
def State.stream (s : State) (src : CoreId) (sag : BitVec 4) (dpkg : BitVec 12) (ddie : BitVec 2) : List Unacked :=
  s.unacked.filter (fun u => u.p.sdie = src.die && u.p.score = src.core && u.p.sag = sag && u.p.dpkg = dpkg && u.p.ddie = ddie)
/-- R290: the packets of a stream that are sent again: every one not accepted when one of them is overdue, and each one whose reply is. -/
def State.again (s : State) (us : List Unacked) (u : Unacked) : Bool :=
  us.any (fun v => v = u) && (if u.acc then u.overdue s.time else us.any (fun v => !v.acc && v.overdue s.time && v.fellow u))
/-- R290: a stream makes no progress for its interval: its packets are sent again in SEQ order, and the interval doubles. -/
def execResendTimeout (src : CoreId) (sag : BitVec 4) (dpkg : BitVec 12) (ddie : BitVec 2) (s : State) : Out :=
  let us := s.stream src sag dpkg ddie
  .next (State.counted (
    { s with
      outbox := s.outbox ++ (us.filter (s.again us)).map (fun u => u.p)
      unacked := s.unacked.map (fun (u : Unacked) =>
        if s.again us u then { u with since := s.time, gap := min (2 * u.gap) lastGap } else u) }))

/-- R290: the destination holds a stream: its timers start again. -/
def execHold (p : Packet) (s : State) : Out :=
  .next (State.counted (s.routed p (p.type = 0x37) (fun s =>
    { s with unacked := s.unacked.map (fun (u : Unacked) => if ofSeries p u then u.heldAt s.time else u) })))
/-- R290: HOLD is sent for the stream of a packet that is held back or waits at a landing fault. One that is held back stays at its
source, which sends it again; where it is held back once more, the 10 µs begin anew. -/
def execHoldTimer (p : Packet) (s : State) : Out :=
  .next (State.counted (
    let r := s.rxGet (rxKeyOf p)
    if r.holding.isNone && r.heldSeq.isEmpty then s
    else (s.rxSet (rxKeyOf p) { r with holding := none, heldAt := s.time }).send (backTo s p 0x37 .none)))

/-- R287: the window of a source is dropped after 10 ms of silence. -/
def execDuplicateWindowDrop (die : BitVec 2) (spkg : BitVec 12) (sdie : BitVec 2) (score : BitVec 8) (sag : BitVec 4) (s : State) : Out :=
  let drop := fun (s : State) (k : Nat) =>
    let r := s.rxGet k
    if r.heldSeq.isEmpty && decide (10000000 ≤ (s.time - r.last).toNat) then s.rxSet k { r with window := [] } else s
  .next (drop (drop s (rxKey false spkg sdie score sag die)) (rxKey true spkg sdie score sag die)).counted

/-- R290: the context that sent a packet. -/
def senderCtx (p : Packet) : CtxId := ⟨p.sdie, p.score, p.sag.setWidth 2⟩
/-- R290, R419: Fabric Delivery against the sender: the invocation that sent the packet, wherever it is, or the error log of its region when it has ended;
for a Rennet unit or a work queue, the error log of the entry's or root's region. -/
def State.sendLost (s : State) (p : Packet) (who : Option Sent) : State :=
  let f : FaultRec := ⟨18, 0, 0, false, false, false, p.addr⟩
  let log := fun (s : State) (pctx : BitVec 12) (region ph : Word) =>
    s.postElog (s.protOf pctx) pctx region (errRec 22 0 0 s.pkg ⟨p.sdie, p.score⟩ p.sag p.addr f.info ph)
  match who with
  | some w =>
    let mine := fun (c : Ctx) => c.gidx = w.lane && c.run.any (fun r => r.i.id = w.inv)
    if s.runners.any mine then s.mapCtxs (fun c => if mine c then { c with errs := c.errs ++ [{ f with priv := c.priv }] } else c)
    else log s w.pctx w.region w.ph
  | none => match s.firings.find? (fun x => x.sent = some (p.dpkg, p.ddie, p.seq) && x.die = p.sdie) with
    | some x => (log s x.e.pctx x.e.region 0).setFiring { x with fin := some (8, 0) }
    | none => match packetInv p with
      | some i => if i.ph = 0 then log s i.pctx i.region 0 else s
      | none => s

/-- R290: a bulk packet that is lost. -/
def State.bulkLost (s : State) (q : Packet) : State :=
  match q.payload with
  | .row r =>
    match s.rows.find? (fun x => x.stage = .sent && x.core = ⟨q.sdie, q.score⟩ && x.pkg = q.dpkg && x.dlseq = r.dlseq && x.didx = r.didx &&
        x.redir = r.redir && (if x.redir then coreNum x.core else x.by_.inv) = r.sender) with
    | some x => s.setRow (x.fail s 8).drop
    | none => s
  | .contrib con => match con.coll with
    | some t => match s.collBy q.sdie t.group t.k with
      | some c => s.collError c 3
      | none => s
    | none => s.bulkResult q (some (causeInfo 8))
  | .block bid _ _ _ _ _ _ _ _ => match s.blockColl q.sdie bid with
    | some c => if q.sag = 6 then s.collError c 3 else s
    | none => s
  | _ => s.bulkResult q (some (causeInfo 8))

/-- R332: a message of a collective is lost. -/
def State.collLost (s : State) (die : BitVec 2) (g : BitVec 16) (k : Nat) : State :=
  match s.collBy die g k with
  | some c => s.collError c 3
  | none => s
/-- R290: a packet that is not accepted 5 ms after its first sending has failed. -/
def State.lost (s : State) (u : Unacked) : State :=
  let p := u.p
  let s := ({ s with unacked := s.unacked.filter (fun x => x ≠ u) } : State).drainBacklog
  if bulkType p.type then s.bulkLost p
  else
    let s := s.postHealth 6 p.type ⟨p.sdie, p.score⟩ (0#50 ++ p.ddie ++ p.dpkg) (p.seq.setWidth 64) (p.sag.setWidth 64)
    if accessType p.type then
      match s.rems.find? (fun r => r.src = senderCtx p && r.seq = p.seq && r.dpkg = p.dpkg && r.ddie = p.ddie && r.kind ≠ .count) with
      | some r => s.remFail r (FaultRec.info ⟨18, 0, accOf p.type, true, false, false, r.va⟩)
      | none => s
    else match prmOf p with
      | some (.ask _ _ req _) => match s.rems.find? (fun r => r.req = req) with
        | some r => (s.sendLost p u.who).dropRem r
        | none => s.sendLost p u.who
      | some (.retire l _) => (s.sendLost p u.who).takeRetired p.dpkg l 0
      | some _ => s.sendLost p u.who
      | none => match p.payload with
        | .ready g k _ _ _ _ _ => s.collLost p.sdie g k
        | .abort g k _ => s.collLost p.sdie g k
        | _ => s.sendLost p u.who
/-- R290. -/
def execDeliveryFailure (p : Packet) (s : State) : Out :=
  .next (State.counted (match s.unacked.find? (fun u => u.p = p && !u.acc && decide (5000000 ≤ u.age s.time)) with
    | some u => s.lost u
    | none => s))

/-! ## Blocks (R293 to R307) -/

/-- R293, R300, R306: a block packet arrives, or joins the egress queue on its way to another package. -/
def execBlk (p : Packet) (s : State) : Out :=
  .next (State.counted (match blockParts p with
    | none => s.malformed (s.inDie p)
    | some b =>
      if !((p.spkg = s.pkg || headerOk p) && p.type = 0x23) then s.malformed (s.inDie p)
      else if p.dpkg ≠ s.pkg then
        (if p.hlv = 3 then s.malformed (s.inDie p) else s.queueEgress (s.inDie p) { p with hlv := p.hlv + 1 } b.bid b.rgen b.ret)
      else
        let s := s.seeBlock (s.inDie p) p.sdie b.bid b.rgen b.ret
        if s.landFull p then s.noteHeld p
        else match s.accept p with
          | .error s => if s.pairLanded p.ddie b.bid p.addr then s.ackBlock p b else s
          | .ok s => if s.shut then s.refusePacket p else s.performBlock p b))

/-- R299: the generation that the view holds for a receiver and a block: the newest (log entry 112). -/
def viewGen (l : List Holding) (pkg : BitVec 12) (die : BitVec 2) (bid : BitVec 48) : Option (BitVec 16) :=
  ((l.filter (fun h => h.rpkg = pkg && h.rdie = die && h.bid = bid)).getLast?).map (fun h => h.gen)
/-- R299: the records of a switch that have not expired. -/
def State.view (s : State) (die : BitVec 2) : List Holding := (s.die die).holdings.filter (fun h => h.at_ = 0 || s.time.ult h.at_)
/-- R300: whether a candidate joins the members. -/
def joins (view : List Holding) (ms : List (Packet × BlockParts)) (c : Packet × BlockParts) : Bool :=
  decide (ms.length < 4) && ms.all (fun m => c.2.bid ≠ m.2.bid && (viewGen view m.1.dpkg m.1.ddie c.2.bid).isSome &&
    (viewGen view c.1.dpkg c.1.ddie m.2.bid).isSome)
def pickMembers (view : List Holding) (ms : List (Packet × BlockParts)) : List (Packet × BlockParts) → List (Packet × BlockParts)
  | [] => ms
  | c :: cs => pickMembers view (if joins view ms c then ms ++ [c] else ms) cs

/-- The XOR of two blocks; what one lacks counts as zeros. -/
def xorBytes : List Byte → List Byte → List Byte
  | a :: as, b :: bs => (a ^^^ b) :: xorBytes as bs
  | as, [] => as
  | [], bs => bs
/-- R301: the descriptor of a member. -/
def componentOf (view : List Holding) (ms : List (Packet × BlockParts)) (m : Packet × BlockParts) : Component :=
  { bid := m.2.bid, dpkg := m.1.dpkg, ddie := m.1.ddie, daddr := m.1.addr, cidx := m.2.cidx,
    hg := (ms.filter (fun o => o.2.bid ≠ m.2.bid)).map (fun o => (viewGen view m.1.dpkg m.1.ddie o.2.bid).getD 0),
    spkg := m.1.spkg, sdie := m.1.sdie, cslot := m.2.cslot, strict := m.2.strict, pctx := m.2.pctx, len := m.2.bytes.length }

/-- A block packet leaves uncoded: its sender numbers it, a switch on its way does not. -/
def State.sendBlock (s : State) (p : Packet) : State := if p.spkg = s.pkg then s.sendBulk p else { s with outbox := s.outbox ++ [p] }

/-- R302: blocks that a coding buffer holds. -/
def codingCap : Nat := 2048
/-- R300, R301: a port forms one coded packet of the members, or sends the head uncoded. A fallback is never coded again (R305). -/
def State.formCoded (s : State) (die : BitVec 2) (port : BitVec 6) : State :=
  let d := s.die die
  let view := s.view die
  let queue := (d.egress.filter (fun e => e.1 = port)).filterMap (fun e => (blockParts e.2).map (fun b => (e.2, b)))
  match queue with
  | [] => s
  | h :: cs =>
    let ms := if h.1.sag = 7 then [h] else pickMembers view [h] ((cs.take 31).filter (fun m => m.1.sag ≠ 7))
    let used := (d.coded.map (fun c => c.comps.length)).foldl (· + ·) 0
    if 2 ≤ ms.length ∧ used + ms.length ≤ codingCap then
      let comps := ms.map (componentOf view ms)
      let data := ms.foldl (fun a m => xorBytes a m.2.bytes) (zeros 4096)
      let keep : Coded := { cseq := d.cseq, comps := comps, blocks := ms.map (fun m => m.2.bytes), done := [], at_ := s.time, fell := [], void := [] }
      let s := s.setDie die { d with
        egress := d.egress.filter (fun e => !(e.1 = port && ms.any (fun m => m.1 = e.2)))
        coded := d.coded ++ [keep]
        cseq := d.cseq + 1
        stats := { d.stats with codedpkt := d.stats.codedpkt + 1, codedcmp := d.stats.codedcmp + natWord ms.length } }
      s.sendBulk { mkPacket s 0x24 h.1.dpkg h.1.ddie 255 (dieAgent die) 7 (.coded keep.cseq comps (List.range comps.length) data) with ndf := 64, plen := 4096 }
    else
      (s.setDie die { d with egress := d.egress.erase (port, h.1) }).sendBlock h.1
/-- R300. -/
def execCodedPacketForm (die : BitVec 2) (port : BitVec 6) (s : State) : Out := .next (s.formCoded die port).counted

/-- R303: the block of a component, where every other one is held with the generation expected: the copies are read under read leases. The
reads and the recheck are one action here, and an entry that a recall of the reads evicts (R295) is no longer held. -/
def decodeOthers (die : BitVec 2) : List (BitVec 48 × BitVec 16) → List Byte → State → Option (List Byte) × State
  | [], acc, s => (some acc, s)
  | (bid, gen) :: rest, acc, s =>
    let held := fun (s : State) => (sideFind (s.die die).side bid).filter (fun e => e.valid && e.gen = gen)
    match held s with
    | none => (none, s)
    | some e =>
      let s := s.recallAll e.pa 4096
      match held s with
      | none => (none, s)
      | some e => decodeOthers die rest (xorBytes acc ((List.range 4096).map (fun k => s.byte (e.pa + k)))) s

/-- R303, R304: one component is decoded, or meets a decode fault, which the die of the port counts. -/
def State.decodeOne (s : State) (p : Packet) (cseq : BitVec 32) (comps : List Component) (data : List Byte) (k : Nat) (c : Component) : State :=
  let others := (comps.filter (fun o => o.bid ≠ c.bid)).map (fun o => o.bid)
  match decodeOthers c.ddie (others.zip c.hg) data s with
  | (some bs, s) =>
    let q := { p with type := 0x23, coded := false, dpkg := c.dpkg, ddie := c.ddie, addr := c.daddr,
                      payload := .block c.bid 0 false c.strict c.cidx c.cslot c.pctx (some (cseq, k)) (bs.take c.len) }
    (blockParts q).elim s (s.performBlock q)
  | (none, s) =>
    let d := s.die (s.inDie p)
    let s := s.setDie (s.inDie p) { d with stats := { d.stats with decfault := d.stats.decfault + 1 } }
    s.sendBulk (mkPacket s 0x32 p.spkg p.sdie 255 (dieAgent c.ddie) 7 (.dack cseq k))
/-- R288, R303: a coded packet that has come before: its blocks that have landed are acknowledged again. -/
def State.decodeAgain (s : State) (p : Packet) (cseq : BitVec 32) (k : Nat) (c : Component) : State :=
  if s.pairLanded c.ddie c.bid c.daddr then s.sendBulk (mkPacket s 0x31 p.spkg p.sdie 255 (dieAgent c.ddie) 7 (.dack cseq k)) else s

/-- R303: packets that a port's decode buffer holds, and those in it: decoded blocks that wait to land. -/
def decodeCap : Nat := 64
def State.decoding (s : State) (via : BitVec 6) : Nat :=
  ((s.heldPackets.filter (fun q => q.via = via)).filterMap (fun q => (blockParts q).bind (fun b => b.coded.map (fun x => (q.spkg, q.sdie, x.1))))).eraseDups.length
/-- R285: a coded packet goes on toward the receivers in other packages: one copy for each port by which it leaves. -/
def State.replicate (s : State) (p : Packet) (cseq : BitVec 32) (comps : List Component) (rest : List Nat) (data : List Byte) : State :=
  let out := fun (k : Nat) => (comps[k]?).elim 0 (fun c => s.portTo (s.inDie p) c.dpkg c.ddie)
  ((rest.map out).eraseDups).foldl (fun s l => s.transit { p with payload := .coded cseq comps (rest.filter (fun k => out k = l)) data }) s
/-- R303: the port decodes every component for its package; a packet that finds the decode buffer full is not taken (R283, R290). -/
def State.takeCoded (s : State) (p : Packet) (cseq : BitVec 32) (comps : List Component) (goes : List Nat) (data : List Byte) : State :=
  let here := (goes.filterMap (fun k => (comps[k]?).map (fun c => (k, c)))).filter (fun e => e.2.dpkg = s.pkg)
  let rest := goes.filter (fun k => (comps[k]?).any (fun c => c.dpkg ≠ s.pkg))
  let s := s.replicate p cseq comps rest data
  if here.isEmpty then s
  else
    let q := { p with seq := cseq, sag := 9, ddie := s.inDie p }
    if decide (decodeCap ≤ s.decoding p.via) then s.noteHeld p
    else match s.accept q with
      | .error s => here.foldl (fun s e => s.decodeAgain p cseq e.1 e.2) s
      | .ok s => if s.shut then s else here.foldl (fun s e => s.decodeOne p cseq comps data e.1 e.2) s
/-- R285, R303. -/
def execCblk (p : Packet) (s : State) : Out :=
  .next (State.counted (match p.payload with
    | .coded cseq comps goes data =>
      if (p.spkg = s.pkg || headerOk p) && p.type = 0x24 then s.takeCoded p cseq comps goes data else s.malformed (s.inDie p)
    | _ => s.malformed (s.inDie p)))

def dackParts (p : Packet) : Option (BitVec 32 × Nat) := match p.payload with | .dack c k => some (c, k) | _ => none
/-- R288: a bulk packet that is applied and acknowledged at once. -/
def State.bulkPacket (s : State) (p : Packet) (ok : Bool) (f : State → State) : State :=
  s.arriveBulk p ok (fun s => some (if p.spkg = s.pkg then f s else (f s).bulkAck p none))
/-- R302. -/
def execDack (p : Packet) (s : State) : Out :=
  .next (State.counted (s.bulkPacket p (p.type = 0x31 && (dackParts p).isSome) (fun s =>
    (dackParts p).elim s (fun e => s.codedDone p.ddie e.1 e.2 false))))

/-- R302, R304, R305: the block of a component is sent uncoded by the switch, once. -/
def State.fallback (s : State) (die : BitVec 2) (x : Coded) (k : Nat) : State :=
  match x.comps[k]?, x.blocks[k]? with
  | some c, some bs =>
    if x.fell.contains k then s
    else
      let d := s.die die
      let s := s.setDie die { d with stats := { d.stats with fallback := d.stats.fallback + 1 }
                                     coded := d.coded.map (fun y => if y.cseq = x.cseq then { y with fell := k :: y.fell } else y) }
      s.sendBulk { mkPacket s 0x23 c.dpkg c.ddie 255 (dieAgent die) 7 (.block c.bid 0 false c.strict c.cidx c.cslot c.pctx none bs) with
        ndf := 64, plen := 4096, addr := c.daddr }
  | _, _ => s

/-- R304: a decode fault is counted in DECF of the collective's parameter block, here or in the package that sent the block. -/
def State.countDecf (s : State) (c : Component) : State :=
  if c.spkg = s.pkg then s.addDecf c.sdie c.cslot else s.tellPkg c.spkg (.decf c.sdie c.cslot)

/-- R304: a decode fault at a receiver. -/
def State.takeDnak (s : State) (die : BitVec 2) (cseq : BitVec 32) (k : Nat) : State :=
  match (s.die die).coded.find? (fun x => x.cseq = cseq) with
  | none => s
  | some x => match x.comps[k]? with
    | none => s
    | some c =>
      if x.done.contains k then s
      else
        let s := s.countDecf c
        if c.strict then
          (s.sendBulk (mkPacket s 0x36 c.spkg c.sdie 255 (dieAgent die) 7 (.block c.bid 0 false true c.cidx c.cslot 0 none []))).codedDone die cseq k true
        else s.fallback die x k
/-- R304. -/
def execDnak (p : Packet) (s : State) : Out :=
  .next (State.counted (s.bulkPacket p (p.type = 0x32 && (dackParts p).isSome) (fun s =>
    (dackParts p).elim s (fun e => s.takeDnak p.ddie e.1 e.2))))

/-- R302: whether a component of a coded packet has waited 1 ms for its acknowledgement, and is not yet sent again. -/
def Coded.late (x : Coded) (k : Nat) (now : Word) : Bool :=
  !x.done.contains k && !x.fell.contains k && decide (1000000 ≤ (now - x.at_).toNat)
/-- R302: no acknowledgement of a component for 1 ms. -/
def execCodedFallbackTimeout (die : BitVec 2) (cseq : BitVec 32) (comp : Nat) (s : State) : Out :=
  .next (State.counted (match (s.die die).coded.find? (fun x => x.cseq = cseq && x.late comp s.time) with
    | some x => s.fallback die x comp
    | none => s))

def relParts (p : Packet) : Option (BitVec 48 × BitVec 12 × BitVec 2) := match p.payload with | .bid b k d => some (b, k, d) | _ => none
/-- R307: a retained block is released. -/
def execRel (p : Packet) (s : State) : Out :=
  .next (State.counted (s.bulkPacket p (p.type = 0x33 && (relParts p).isSome) (fun s =>
    (relParts p).elim s (fun e => s.blockReleased e.1 e.2 p.addr))))

/-- What a notice says. -/
def noticeParts (p : Packet) : Option (BitVec 12 × BitVec 2 × BitVec 48 × Nat × BitVec 16) :=
  match p.payload with | .notice k d first n gen => some (k, d, first, n, gen) | _ => none
/-- R299: a holding notice. -/
def execHnot (p : Packet) (s : State) : Out :=
  .next (State.counted (s.bulkPacket p (p.type = 0x34 && (noticeParts p).isSome) (fun s =>
    (noticeParts p).elim s (fun e => s.noteHoldings p.ddie e.1 e.2.1 e.2.2.1 e.2.2.2.1 e.2.2.2.2))))
/-- R299: a withdrawal. -/
def execHwd (p : Packet) (s : State) : Out :=
  .next (State.counted (s.bulkPacket p (p.type = 0x35 && (noticeParts p).isSome) (fun s =>
    (noticeParts p).elim s (fun e => s.dropHoldings p.ddie e.1 e.2.1 e.2.2.1 e.2.2.2.1))))

/-- R304, R332: a strict decode error. -/
def execCerr (p : Packet) (s : State) : Out :=
  .next (State.counted (s.bulkPacket p (p.type = 0x36 && (blockParts p).isSome) (fun s =>
    match (blockParts p).bind (fun b => (s.blockColl p.ddie b.bid).filter (fun c => c.slot.setWidth 16 = b.cslot)) with
    | some c => s.collError c 1
    | none => s)))

/-- R306: pairs that landed more than 10 ms ago are forgotten. -/
def execLandedPairExpiry (die : BitVec 2) (s : State) : Out :=
  let d := s.die die
  .next (s.setDie die { d with landed := d.landed.filter (fun l => decide ((s.time - l.at_).toNat < 10000000)) }).counted

end Sys2Proof.Machine
end

