-- ==== Sys2Proof/Machine/Invs.lean ====
section
/-! DEFINITION. Invocations in the store (R194, R226 to R244), the choice of the next run (R53), pre-emption and resumption
(R366 to R370), switch points (R50, R51). -/

namespace Sys2Proof.Machine

def State.setInv (s : State) (r : InvRec) : State := { s with invs := s.invs.map (fun x => if x.i.id = r.i.id then r else x) }
def State.invOf (s : State) (id : Nat) : Option InvRec := s.invs.find? (fun r => r.i.id = id)

/-! ## Arrival (R226, R227, R230, R231, R246) -/

def State.enterStore (s : State) (i : Inv) (die : BitVec 2) (stage : Stage) (obj : Option Word) (core : Option CoreId) : State :=
  let r : InvRec :=
    { i := { i with arrival := s.fresh }, die := die, stage := stage, obj := obj, core := core,
      place := core.map (fun c => (c.die, clusterOf c.core)), entry := none, tiles := i.residency.isEmpty, frame := [], windows := [],
      drained := false, from_ := none, onEntry := none, regd := false, order := 0, turn := none, pins := [], orefs := [], got := [], asked := false, leave := none }
  { s with fresh := s.fresh + 1, invs := s.invs ++ [r] }

/-- R231: an invocation that has not entered the store is discarded. -/
def State.dropArrival (s : State) (i : Inv) (cause : BitVec 8) (origin : Option Word) : State :=
  (s.runAdd i.pctx (s.protOf i.pctx) i.region (-1)).settle [breakWork i cause origin]

/-- R226: an invocation arrives at a home of its target. -/
def State.arriveInv (s : State) (die : BitVec 2) (i : Inv) : State :=
  if isOref i.target then
    match s.objs.find? (fun o => o.name = i.target) with
    | none => s.dropArrival i 5 none
    | some o =>
      if o.deleted then s.dropArrival i 7 none
      else if o.float then s.enterStore i die .held (some o.name) none
      else s.enterStore i o.home.die .held (some o.name) (some o.home)
  else match s.promise i.target with
    | none => s.dropArrival i 5 none
    | some p =>
      if p.freed then s.dropArrival i 5 none
      else match p.st with
        | .pending => s.enterStore i die (.queued i.target) none none
        | .name n =>
          if s.present (nmPkg n) then s.sendInvTo { i with target := n, toks := (i.toks ++ s.toksOf i.target).eraseDups } (dieAgent die) 7
          else s.dropArrival i 5 none
        | .value _ => s.dropArrival i 6 none
        | .broken _ o => s.dropArrival i 2 (some o)

/-! ## Becoming ready (R194, R235) -/

/-- What a `.resolve` argument comes to. -/
inductive ArgRes where
  | ok (w : Word)
  | wait (ph : Word)
  | bad (cause : BitVec 8) (origin : Option Word)
  deriving DecidableEq, Repr

/-- R231: an argument that ends at an object of another package: its package is asked whether it stands there. -/
def InvRec.orefRes (r : InvRec) (n : Word) : ArgRes :=
  match r.orefs.find? (fun o => o.1 = n) with
  | some (_, _, some c) => if c = 0 then .ok n else .bad c none
  | _ => .wait n
/-- R194, R231, R246: an argument whose KIND is 10. -/
def argRes (s : State) (r : InvRec) (a : Word) : ArgRes :=
  if !isPh a then .ok a
  else if !nameOk s a then .bad 5 none
  else match (if r.regd then s.chainEnd a else s.chainNew a) with
    | .value _ b _ => .ok (wordOf (b.take 8))
    | .oref n _ =>
      if !s.present (nmPkg n) then .bad 5 none
      else if nmPkg n ≠ s.pkg then r.orefRes n
      else match s.objs.find? (fun o => o.name = n) with
        | none => .bad 5 none
        | some o => if o.deleted then .bad 7 none else .ok n
    | .broken _ _ o => .bad 2 (some o)
    | .pending p => .wait p
    | .stale => .bad 5 none

def ArgRes.word : ArgRes → Word
  | .ok w => w
  | _ => 0
def ArgRes.waitsAt : ArgRes → Option Word
  | .wait p => some p
  | _ => none
def ArgRes.breaks : ArgRes → Option (BitVec 8 × Option Word)
  | .bad c o => some (c, o)
  | _ => none

/-- R231, R235: whether an invocation has still to register with a name that an argument of its waits for. -/
def State.unwatched (s : State) (r : InvRec) (w : Word) : Bool :=
  if isOref w then !r.orefs.any (fun o => o.1 = w) else nmPkg w ≠ s.pkg && !s.reports.any (fun x => x.1 = w)
/-- R235: an invocation registers with the home of a name: a promise, or an object of another package. -/
def State.watchArg (s : State) (inv : Nat) (w : Word) : State :=
  match s.invs.find? (fun r => r.i.id = inv) with
  | none => s
  | some r =>
    if !isOref w then s.watchPh r.die w
    else if !s.unwatched r w then s
    else
      let s' := s.setInv { r with orefs := r.orefs ++ [(w, s.fresh, none)] }
      { s' with fresh := s.fresh + 1 }.tellPkg (nmPkg w) (.ask ⟨r.die, 255, 0⟩ s.pkg s.fresh (.oref w))
/-- What the arguments of an invocation come to. -/
def State.argsOf (s : State) (r : InvRec) : List ArgRes := r.i.args.map (argRes s r)

/-- R235 condition 2: the arguments are resolved, or the invocation registers with the homes of those it waits for, or it is
discarded. Answers whether they are resolved. -/
def State.resolveArgs (s : State) (r : InvRec) : State × Option InvRec :=
  if !r.i.resolve then (s, some r)
  else
    let rs := s.argsOf r
    match rs.findSome? ArgRes.breaks with
    | some (c, o) => (s.discardAll [(r, c, o)], none)
    | none =>
      if rs.all (fun x => x.waitsAt.isNone) then
        let ts := r.i.args.flatMap (fun a => if isPh a then chainToks s s.chaseFuel a else [])
        let r := { r with i := { r.i with args := rs.map ArgRes.word, resolve := false, toks := (r.i.toks ++ ts).eraseDups } }
        (s.setInv r, some r)
      else ((rs.filterMap ArgRes.waitsAt).foldl (fun s p => s.watchArg r.i.id p) (s.setInv { r with regd := true }), none)

/-- What a read of a method table comes to. -/
inductive TabRes where
  | word (w : Word)
  | wait (s : State)
  | bad (s : State)

/-- R194: a doubleword of the method table. -/
def State.tableWord (s : State) (r : InvRec) (cls : Word) (k : Nat) : TabRes :=
  let prot := s.protOf r.i.pctx
  let va := cls + natWord (8 * k)
  match engRead s prot true va 8 with
  | .ok bs => .word (wordOf bs)
  | .error (.fault f) =>
    if f.recoverable && prot.hasFq then
      if s.fqRoom prot then
        let (n, s) := s.postEntry prot f s.pkg (dieAgent r.die) 7 (.method r.i.id) r.i.id
        .wait (s.setInv { r with onEntry := some n })
      else .wait s
    else .bad s
  | .error (.poison w) => .bad (s.ueWord (dieAgent r.die) w)
  | .error .mig => .wait s
  | .error (.away pl) =>
    match r.got.find? (fun e => e.1 = k) with
    | some e => .word e.2
    | none =>
      if r.asked then .wait s
      else match pl.awayAt va with
        | some (pkg, a) =>
          .wait ((s.setInv { r with asked := true }).sendBulk { mkPacket s 0x21 pkg r.die 255 (dieAgent r.die) 7
            (.readReq r.i.id k 8 r.i.pctx) with addr := a, plen := 8 })
        | none => .bad s

/-- R187, R194: NMETH of a method table's first doubleword; none where it is malformed. -/
def nmeth (w : Word) : Option Nat := if w = 0 || decide (256 < w.toNat) then none else some w.toNat

/-- R194: the method entry; the invocation is discarded where there is none. -/
def State.findEntry (s : State) (r : InvRec) : State × Option InvRec :=
  match r.entry with
  | some _ => (s, some r)
  | none =>
    let bad := fun (s : State) => (s.discardAll [(r, 6, none)], none)
    match s.objs.find? (fun o => some o.name = r.obj) with
    | none => bad s
    | some o =>
      if r.i.gang ≠ 0 && !o.float then bad s
      else match s.tableWord r o.cls 0 with
        | .wait s => (s, none)
        | .bad s => bad s
        | .word w => match nmeth w with
          | none => bad s
          | some n =>
            if n ≤ r.i.method.toNat then bad s
            else match s.tableWord r o.cls (r.i.method.toNat + 1) with
              | .wait s => (s, none)
              | .bad s => bad s
              | .word e =>
                let r := { r with entry := some e }
                (s.setInv r, some r)

/-- R232: an invocation issued earlier by the same sender to the same name has not started. -/
def earlier (r : InvRec) (i : Inv) : Bool := i.sender = r.i.sender && i.sentTo = r.i.sentTo && decide (i.order < r.i.order)
def State.heldBack (s : State) (r : InvRec) : Bool :=
  s.invs.any (fun x => earlier r x.i && x.waits) || s.flying.any (earlier r)

/-- R361, R362: whether an invocation may start as far as its regions' budgets go; a block of another package gives leave. -/
def State.mayRun (s : State) (r : InvRec) : Bool :=
  s.mayStart r.i.pctx r.i.region && (s.awayBlock r.i.pctx r.i.region = none || r.leave = some true)
/-- R361: leave is asked for. -/
def State.askLeave (s : State) (r : InvRec) : State :=
  match s.awayBlock r.i.pctx r.i.region with
  | some (p, b) =>
    if r.leave.isSome then s
    else (s.setInv { r with leave := some false }).sendOrdered
      (mkPacket s 7 p 0 255 (dieAgent r.die) 7 (.prm (.ask ⟨r.die, 255, 0⟩ s.pkg r.i.id (.start r.i.pctx b (p, b)))))
  | none => s

/-- R235 conditions 1, 2 and 4. -/
def State.otherwiseReady (s : State) (r : InvRec) : Bool :=
  r.stage = .held && r.entry.isSome && !r.i.resolve && !s.heldBack r

/-- R233: every INVK that a pre-empted invocation has issued has reached its first home. -/
def State.sentOut (s : State) (r : InvRec) : Bool :=
  let mine := fun (i : Inv) => i.sender = .inv s.pkg r.i.id && i.target = i.sentTo
  !s.flying.any mine && !s.unacked.any (fun u => !u.acc && (packetInv u.p).any mine)

/-- R237: the moment at which an invocation becomes otherwise ready gives it its place among the lists of its cluster. -/
def State.takeTurn (s : State) (r : InvRec) : State × InvRec :=
  if r.turn.isNone && s.otherwiseReady r then
    let r := { r with turn := some s.fresh }
    (({ s with fresh := s.fresh + 1 }).setInv r, r)
  else (s, r)
/-- R235, R369: the invocation becomes ready, if it can. -/
def State.makeReady (s : State) (r : InvRec) : State :=
  if r.stage = .preempted then
    if r.tiles && s.sentOut r then s.setInv { r with stage := .ready } else s
  else if r.stage ≠ .held || r.onEntry.isSome then s
  else match s.resolveArgs r with
    | (s, none) => s
    | (s, some r) => match s.findEntry r with
      | (s, none) => s
      | (s, some r) =>
        let (s, r) := s.takeTurn r
        if s.otherwiseReady r && r.tiles && r.place.isSome then
          (if !s.flushesOver r.i.toks then s.askFlushes r.die r.i.toks
           else if s.mayRun r then (s.dropFlushes r.i.toks).setInv { r with i := { r.i with toks := [] }, stage := .ready }
           else s.askLeave r)
        else s
/-- R235. -/
def execInvocationReady (inv : Nat) (s : State) : Out :=
  .next (State.counted (match s.invOf inv with
    | some r => s.makeReady r
    | none => s))

/-! ## Residency (R237) -/

/-- The lines of a tile: its rows, each of its bytes. -/
def ResEntry.lines (e : ResEntry) : List Nat :=
  match tileOf (leBytes 16 e.desc.toNat) with
  | none => []
  | some t => ((List.range t.rows).flatMap (fun i =>
      let a := e.base.toNat + i * t.stride
      let n := rowBytes t.fmt t.cols
      (List.range ((a + n - 1) / 256 - a / 256 + 1)).map (fun k => a / 256 + k))).eraseDups
/-- R237: lines that a cluster pins in each of its 8 slices: 12 ways of 1,024 sets (log entry 20). -/
def pinCap : Nat := 12 * 1024
/-- R274, R393: where a tile loader's own walk puts a line; none where it fails, or on a page that the loader leaves alone. -/
def State.loaderLine (s : State) (prot : Prot) (line : Nat) : Option (Nat × Nat) :=
  let va := natWord (256 * line)
  match walk s prot va with
  | .leaf e lvl _ =>
    if pteNospec e then none
    else match placeOf s e lvl va with
      | .hbm pa => some (line, pa / 256)
      | _ => none
  | _ => none
/-- The lines that the loaders push for an invocation. -/
def State.loaderLines (s : State) (r : InvRec) : List (Nat × Nat) :=
  ((r.i.residency.flatMap ResEntry.lines).eraseDups).filterMap (s.loaderLine (s.protOf r.i.pctx))
/-- The physical lines pinned in a cluster; one that two lists name is pinned once. -/
def State.pinned (s : State) (p : BitVec 2 × Nat) : List Nat :=
  (s.invs.filter (fun r => r.place = some p && r.tiles)).flatMap (fun r => r.pins.map (fun l => l.2))
/-- R237: whether lines fit beside those that a cluster has pinned: a line of home slice k goes to slice k mod 8 of the cluster. -/
def State.pinsFit (s : State) (p : BitVec 2 × Nat) (ls : List (Nat × Nat)) : Bool :=
  let all := (s.pinned p ++ ls.map (fun l => l.2)).eraseDups
  (List.range 8).all (fun k => decide ((all.filter (fun l => (homeSlice (256 * l)).toNat % 8 = k)).length ≤ pinCap))
/-! ### Ranges of pages (R395, R396) -/

/-- A range of pages in a protection context: none for every one. -/
structure ShootRange where
  pctx : Option (BitVec 12)
  lo   : Nat
  hi   : Nat
  deriving DecidableEq, Repr
/-- R395: the range of a translation control block; SDNP = 0 means every address. -/
def Tcb.range (t : Tcb) : ShootRange :=
  let lo := t.sdva.toNat % 2 ^ 55 / 65536 * 65536
  { pctx := if t.allctx then none else some t.sdctx, lo := if t.sdnp = 0 then 0 else lo,
    hi := if t.sdnp = 0 then 2 ^ 55 else lo + 65536 * t.sdnp.toNat }
def ShootRange.ctx (r : ShootRange) (c : BitVec 12) : Bool := match r.pctx with | none => true | some x => x = c
/-- Whether n bytes of a context meet the range. -/
def ShootRange.hits (r : ShootRange) (c : BitVec 12) (va n : Nat) : Bool :=
  r.ctx c && decide (va % 2 ^ 55 < r.hi) && decide (r.lo < va % 2 ^ 55 + n)
def ShootRange.tlb (r : ShootRange) (e : TlbE) : Bool := r.hits e.pctx (e.vpn * 2 ^ lvlShift e.lvl) (2 ^ lvlShift e.lvl)
/-- The 64 KiB page of an address in a context. -/
def pageRange (pctx : BitVec 12) (va : Word) : ShootRange :=
  let lo := va.toNat % 2 ^ 55 / 65536 * 65536
  ⟨some pctx, lo, lo + 65536⟩
/-- The lines of an invocation's tiles in the range, as addresses, and those that are pinned. -/
def ShootRange.asks (r : ShootRange) (x : InvRec) : List Nat :=
  ((x.i.residency.flatMap ResEntry.lines).map (fun l => 256 * l)).filter (fun a => r.hits x.i.pctx a 256)
def ShootRange.pins (r : ShootRange) (x : InvRec) : List Nat :=
  (x.pins.map (fun l => 256 * l.1)).filter (fun a => r.hits x.i.pctx a 256)
/-- R396: a pin requested in the range of a shootdown under way waits; R399: so does one on a page that is being moved. -/
def State.shooting (s : State) (r : InvRec) : Bool :=
  dies.any (fun d => let x := s.die d
    (x.tcb.go && !(x.tcb.range.asks r).isEmpty) ||
      (match x.mig with | some m => !((pageRange m.pctx m.va).asks r).isEmpty | none => false))

/-- R397: whether an invocation that an urgent shootdown has stopped has been answered. -/
def State.repinnable (s : State) (r : InvRec) : Bool := !s.fq.any (fun e => e.inv = r.i.id && e.ofPins)
/-- Whether an invocation waits for its tiles. -/
def State.wantsTiles (s : State) (r : InvRec) : Bool :=
  !r.tiles && r.place.isSome && r.turn.isSome &&
    (r.stage = .preempted || (r.stage = .running && s.repinnable r) || s.otherwiseReady r)

/-- R138, R369: the windows of a frame are established again, their entries unfilled. -/
def State.mapBack (s : State) (f : CtxId → CtxId) (w : CtxId × Window) : State :=
  let id := f w.1
  let k := s.core id.coreId
  s.setCore { k with windows := k.windows ++ [{ w.2 with owner := id.slot, filled := [] }] }
/-- R140: whether the range of a saved window is free on a core. -/
def State.rangeFree (s : State) (c : CoreId) (w : Window) : Bool :=
  !(s.core c).windows.any (fun x => decide (x.stash < w.stash + w.len) && decide (w.stash < x.stash + x.len))

/-- R397: an invocation that an urgent shootdown stopped has its pins again: its windows are mapped and its copies go on. -/
def State.repin (s : State) (r : InvRec) : State :=
  let s := r.windows.foldl (fun s w => s.mapBack id w) (s.setInv { r with tiles := true, pins := s.loaderLines r, windows := [] })
  { s with copies := s.copies.map (fun (c : Copy) => if c.trig.isNone && c.by_.inv = r.i.id then { c with stopped := false } else c) }
/-- R237: whether the list of an invocation is the next of its cluster, and fits. -/
def State.listTurn (s : State) (r : InvRec) (p : BitVec 2 × Nat) : Bool :=
  s.wantsTiles r && !s.shooting r &&
    !s.invs.any (fun x => x.place = some p && s.wantsTiles x && decide (x.turn.getD 0 < r.turn.getD 0)) && s.pinsFit p (s.loaderLines r)
/-- R237: the lists of a cluster are served in order; one that does not fit waits. -/
def State.loadTiles (s : State) (r : InvRec) : State :=
  match r.place with
  | none => s
  | some p =>
    if s.listTurn r p then
      (if r.stage = .running then
        (if r.windows.all (fun w => s.rangeFree w.1.coreId w.2) then s.repin r else s)
      else s.setInv { r with tiles := true, pins := s.loaderLines r })
    else s
/-- R237. -/
def execTileResidencyLoaded (inv : Nat) (s : State) : Out :=
  .next (State.counted (match s.invOf inv with
    | some r => s.loadTiles r
    | none => s))

/-! ## Cores, clusters and free contexts (R58, R240, R241) -/

def slots : List (BitVec 2) := [0, 1, 2, 3]
/-- Whether a core takes invocations: it is not retired or being drained for its scan (R427, R433). -/
def State.takes (s : State) (c : CoreId) : Bool := let k := s.core c; !k.retired && !k.drain
/-- R427: a core whose last pass ended 9.9 ms ago takes no new invocation until it has been scanned. -/
def State.overdue (s : State) (c : CoreId) : Bool := decide (9900000 ≤ (s.time - (s.core c).scanned).toNat)
/-- The free task contexts of a core. -/
def State.freeSlots (s : State) (c : CoreId) : List CtxId :=
  if s.takes c then (slots.map (fun t => (⟨c.die, c.core, t⟩ : CtxId))).filter (fun id => (s.ctx id).status = .free) else []
def clusterCores (die : BitVec 2) (cl : Nat) : List CoreId := (List.range 8).map (fun k => ⟨die, BitVec.ofNat 8 (8 * cl + k)⟩)
/-- R58: the members of a gang by its size code. -/
def gangSize (g : BitVec 2) : Nat := if g = 0 then 1 else 2 ^ g.toNat
/-- R58: the aligned groups of a cluster. -/
def groups (die : BitVec 2) (cl : Nat) (g : BitVec 2) : List (List CoreId) :=
  (List.range (8 / gangSize g)).map (fun k => ((clusterCores die cl).drop (k * gangSize g)).take (gangSize g))
/-- The sets of cores on which an invocation may run. -/
def coreSets (r : InvRec) : List (List CoreId) :=
  match r.core, r.place with
  | some c, _ => [[c]]
  | none, some (d, k) => groups d k r.i.gang
  | none, none => []

/-- R368: after its scan a core takes no new invocation while one that was drained from it has not gone on. -/
def State.owed (s : State) (c : CoreId) : Bool := s.invs.any (fun r => r.from_ = some c)
/-- R140, R369: whether the windows of a member fit on a core. -/
def State.windowsFit (s : State) (r : InvRec) (k : Nat) (c : CoreId) : Bool :=
  match r.frame[k]? with
  | none => true
  | some f =>
    let mine := (r.windows.filter (fun w => w.1 = f.id)).map (fun w => w.2)
    mine.all (s.rangeFree c)
/-- The free contexts of a set of cores, one for each; which of a core's is not stated. -/
def State.pickCtxs (s : State) (r : InvRec) (cs : List CoreId) : Option (List CtxId) :=
  let one := fun (k : Nat) (c : CoreId) =>
    let free := s.freeSlots c
    if free.isEmpty || !s.windowsFit r k c || (r.frame.isEmpty && (s.owed c || s.overdue c)) then none
    else free[Config.choice (s.issued + k) free.length % free.length]?
  let ids := (cs.zip (List.range cs.length)).map (fun e => one e.2 e.1)
  if ids.isEmpty || ids.any (fun x => x.isNone) then none else some (ids.filterMap id)
/-- Where an invocation may start now. -/
def State.options (s : State) (r : InvRec) : List (List CtxId) := (coreSets r).filterMap (s.pickCtxs r)

/-- R241: the free contexts of a cluster; for a gang, the aligned groups whose every member is free are counted, and not the contexts in
them: DEDUCED from "counting for a gang only aligned groups" (log entry 98). -/
def State.room (s : State) (die : BitVec 2) (cl : Nat) (g : BitVec 2) : Nat :=
  if g = 0 then ((clusterCores die cl).map (fun c => (s.freeSlots c).length)).foldl (· + ·) 0
  else ((groups die cl g).filter (fun cs => cs.all (fun c => !(s.freeSlots c).isEmpty))).length
/-- R242: the surplus of a cluster. -/
def State.surplus (s : State) (die : BitVec 2) (cl : Nat) : Int :=
  ((s.invs.filter (fun r => r.stage = .ready && r.core.isNone && r.frame.isEmpty && r.place = some (die, cl))).length : Int) - s.room die cl 0
/-- R241: the clusters at which an invocation may run, the table die's first. -/
def State.eligible (s : State) (die : BitVec 2) (g : BitVec 2) : List (BitVec 2 × Nat) :=
  ((die :: dies.filter (fun d => d ≠ die)).flatMap (fun d => (List.range 24).map (fun k => (d, k)))).filter (fun p =>
    (groups p.1 p.2 g).any (fun cs => cs.all (fun c => !(s.core c).retired)))

/-- R241: the cluster of a floating invocation. -/
def State.chooseCluster (s : State) (r : InvRec) : Option (BitVec 2 × Nat) :=
  let es := s.eligible r.die r.i.gang
  let most := (es.map (fun p => s.room p.1 p.2 r.i.gang)).foldl max 0
  if most = 0 then leastBy (fun p => (s.surplus p.1 p.2 + 1000000).toNat) es
  else es.find? (fun p => s.room p.1 p.2 r.i.gang = most)
/-- One that has been pre-empted is placed anew where every core of its cluster has been retired (R433). -/
def State.placeFloat (s : State) (r : InvRec) : State :=
  if ((s.otherwiseReady r && r.turn.isSome) || r.stage = .preempted) && r.place.isNone then
    match s.chooseCluster r with
    | some p => ({ s with fresh := s.fresh + 1 }).setInv { r with place := some p, order := s.fresh }
    | none => s
  else s
/-- R241. -/
def execFloatingPlacement (inv : Nat) (s : State) : Out :=
  .next (State.counted (match s.invOf inv with
    | some r => s.placeFloat r
    | none => s))

/-! ## Load levelling (R242) -/

/-- R242: the neighbour with the lowest surplus. One whose cores are all retired, or that has no aligned group for a gang, is not left
out: DESIGN CHOICE, the rule excludes none (log entry 98). -/
def neighbour (sur : Nat → Int) (k : Nat) : Option Nat :=
  leastBy (fun j => (sur j + 1000000).toNat) ((if k = 0 then [] else [k - 1]) ++ (if k = 23 then [] else [k + 1]))
/-- Invocations that a cluster may ship, the most recently placed first. -/
def State.shippable (s : State) (die : BitVec 2) (cl : Nat) : List InvRec :=
  sortBy (fun (a b : InvRec) => decide (b.order ≤ a.order)) (s.invs.filter (fun r =>
    r.core.isNone && r.frame.isEmpty && r.place = some (die, cl) && (r.stage = .ready || r.stage = .held) &&
      (r.i.residency.isEmpty || !r.tiles)))
/-- R242: one cluster ships to its neighbour; what it may ship to is not narrowed (see `neighbour`). -/
def State.shipFrom (s : State) (die : BitVec 2) (sur : Nat → Int) (k : Nat) : State :=
  if sur k ≤ 0 then s
  else match neighbour sur k with
    | none => s
    | some j =>
      if sur j < sur k - 1 then
        let n := min 8 ((sur k - sur j) / 2).toNat
        (((s.shippable die k).take n)).foldl (fun s r =>
          ({ s with fresh := s.fresh + 1 }).setInv { r with place := some (die, j), order := s.fresh }) s
      else s
/-- R242: every 2 µs, from the surpluses of one moment. -/
def State.level (s : State) (die : BitVec 2) : State :=
  let d := s.die die
  if decide ((s.time - d.levelled).toNat < 2000) then s
  else
    let surs := (List.range 24).map (s.surplus die)
    let s := (List.range 24).foldl (fun s k => s.shipFrom die (fun j => surs.getD j 0) k) s
    let d := s.die die
    s.setDie die { d with levelled := s.time }
/-- R242. -/
def execLoadLevelling (die : BitVec 2) (s : State) : Out := .next (s.level die).counted

/-! ## Migration of objects (R244) -/

/-- Whether an invocation of an object is running, parked or pre-empted (R236). -/
def State.busyObj (s : State) (name : Word) : Bool := s.invs.any (fun r => r.obj = some name && !r.waits)

/-- R243: where the placement engine's own migrations keep an object: on its die, or in its cluster. An OMOVE, and the retirement of its
core (R433), may take it anywhere in the package. -/
def State.keeps (s : State) (o : Obj) (c : CoreId) : Bool :=
  o.asked = some c || (s.core o.home).retired || o.hint = 0 ||
    (c.die = o.born.die && (o.hint = 1 || clusterOf c.core = clusterOf o.born.core))
/-- R243, R244: whether the placement engine or an OMOVE may move an object to a core. -/
def State.mayMove (s : State) (o : Obj) (c : CoreId) : Bool :=
  !o.float && !o.deleted && o.home ≠ c && !(s.core c).retired && decide (c.core.toNat < 192) && s.keeps o c &&
    (o.moved = 0 || decide (1000000 ≤ (s.time - o.moved).toNat))
/-- Whether a move has to wait: while an invocation of the object runs or is pre-empted. From a retired core (R433) one that is
pre-empted goes along, since it could not resume there. -/
def State.staysFor (s : State) (o : Obj) : Bool :=
  if (s.core o.home).retired then s.invs.any (fun r => r.obj = some o.name && r.stage = .running) else s.busyObj o.name
/-- R244 steps 2 and 3: what O holds goes to N in arrival order, and O's slot becomes a stub. The arrival stamps of R238 stay, as they do
for a float that its dispatcher places on another die: DESIGN CHOICE, the rule does not say whether such an arrival is a new one (log
entry 98). -/
def State.finishMove (s : State) (o : Obj) (c : CoreId) : State :=
  let o' : Obj := { o with home := c, stubs := o.stubs ++ [o.home], moved := s.time, moving := none, asked := none }
  let go := fun (r : InvRec) => if r.obj = some o.name && r.stage ≠ .running then
      { r with stage := if r.waits then .held else .preempted, die := c.die, core := some c, place := some (c.die, clusterOf c.core),
               tiles := r.i.residency.isEmpty, pins := [], from_ := none }
    else r
  { s with objs := s.objs.map (fun x => if x.name = o.name then o' else x), invs := s.invs.map go }
def State.moveObj (s : State) (name : Word) (c : CoreId) : State :=
  match s.objs.find? (fun o => o.name = name) with
  | none => s
  | some o => match o.moving with
    | some c' => if s.staysFor o then s else s.finishMove o c'
    | none =>
      if !s.mayMove o c then { s with objs := s.objs.map (fun (x : Obj) => if x.name = name then { x with asked := none } else x) }
      else if s.staysFor o then
        { s with objs := s.objs.map (fun (x : Obj) => if x.name = name then { x with moving := some c } else x) }
      else s.finishMove o c
/-- R244. -/
def execObjectMigration (name : Word) (core : CoreId) (s : State) : Out := .next (s.moveObj name core).counted

/-! ## Start (R195, R239) -/

/-- R238: the deadline key; a deadline of 0 comes after every other. -/
def deadlineKey (d now : BitVec 48) : Int := if d = 0 then 2 ^ 60 else (d - now).toInt

def lookupWord (l : List (GReg × Word)) (r : GReg) : Word := ((l.find? (fun e => e.1 = r)).map (fun e => e.2)).getD 0
/-- R195: the general registers at the start. -/
def startRegs (i : Inv) : Vector Word 32 :=
  let l : List (GReg × Word) := (((List.range 6).zip i.args).map (fun e => (BitVec.ofNat 5 (e.1 + 1), e.2))) ++ [(7, i.target), (8, i.ph)]
  Vector.ofFn (fun k : Fin 32 => lookupWord l (BitVec.ofNat 5 k.val))

/-- R195, R239, R350: a context at the start of an invocation. -/
def startCtx (r : InvRec) (prot : Prot) (id : CtxId) (gang : Option Gang) (lane : BitVec 3) (now : Word) (late : Bool) : Ctx :=
  let i := r.i
  { Ctx.blank id with
    status := if lane = 0 then .ready else .follow
    pc := r.entry.getD 0, g := startRegs i, seed := i.seed, lnum := i.lnum, gen := genInit i.seed i.lnum lane, region := i.region,
    deadline := i.deadline, prio := i.prio, gang := gang, gidx := lane, late := late, pctx := i.pctx, pceil := i.ceil,
    dbgen := prot.dbg, prot := prot,
    run := some { i := i, method := i.method, start := now.toNat, lateOf := late, charged := now } }

/-- R266: cached bytes that a context may no longer read. -/
def RoLine.without (slot : BitVec 2) (l : RoLine) : Option RoLine :=
  let l := { l with slots := l.slots.filter (fun x => x ≠ slot) }
  if l.slots.isEmpty then none else some l
/-- R46, R195, R370: a task context is taken up: the scratch of its core becomes unspecified, and the read-only cache holds
nothing for it. -/
def State.takeUp (s : State) (c : Ctx) : State :=
  let k := s.core c.id.coreId
  let s := s.setCore { k with stash := [], era := s.fresh, ro := k.ro.filterMap (RoLine.without c.id.slot) }
  ({ s with fresh := s.fresh + 1 }).setCtx c

/-- R58: the gang of an invocation on its contexts. -/
def gangOf (g : BitVec 2) (ids : List CtxId) : Option Gang := if g = 0 then none else some ⟨ids, g, true, false⟩

/-- R239: the late record at the start. -/
def State.lateAtStart (s : State) (i : Inv) : State :=
  if isLate i.deadline (s.time.setWidth 48) then
    s.postStatus (s.protOf i.pctx) i.pctx i.region (lateRec 1 i.prio i.method i.ph i.deadline s.time)
  else s

/-- A new invocation starts on its contexts, all together. -/
def State.startInv (s : State) (r : InvRec) (ids : List CtxId) : State :=
  let i := r.i
  let late := isLate i.deadline (s.time.setWidth 48)
  let s := s.lateAtStart i
  let prot := s.protOf i.pctx
  let s := s.setInv { r with stage := .running }
  (ids.zip (List.range ids.length)).foldl (fun s e =>
    s.takeUp (startCtx r prot e.1 (gangOf i.gang ids) (BitVec.ofNat 3 e.2) s.time late)) s

/-! ## Resumption (R369) -/

/-- The new name of a context of a frame. -/
def renamed (old new_ : List CtxId) (id : CtxId) : CtxId := ((old.zip new_).find? (fun e => e.1 = id)).elim id (fun e => e.2)

/-- R164, R369: a context restored from its frame. -/
def Ctx.restored (c : Ctx) (f : CtxId → CtxId) (now : Word) : Ctx :=
  { c.recheck with
    id := f c.id
    gang := c.gang.map (fun g => { g with members := g.members.map f })
    gdone := c.gdone.map f
    run := c.run.map (fun r => { r with charged := now }) }

/-- R369: the operations of an invocation go on with it. -/
def State.adopt (s : State) (inv : Nat) (f : CtxId → CtxId) : State :=
  let who := fun (b : Issuer) => if b.inv = inv then { b with ctx := f b.ctx } else b
  { s with
    copies := s.copies.map (fun (c : Copy) => if c.trig.isNone && c.by_.inv = inv then { c with by_ := who c.by_, stopped := false } else c)
    rows := s.rows.map (fun (r : FlightRow) => { r with by_ := who r.by_ })
    copyq := s.copyq.map (fun (q : QueuedOp) => if q.inv = inv then { q with ctx := f q.ctx } else q)
    fq := s.fq.map (fun (e : FqEntry) => match e.who with
      | .ctx c => if e.inv = inv then { e with who := .ctx (f c) } else e
      | _ => e) }

/-- A pre-empted invocation resumes on its contexts. -/
def State.resumeInv (s : State) (r : InvRec) (ids : List CtxId) : State :=
  let f := renamed (r.frame.map (fun c => c.id)) ids
  let s := s.setInv { r with stage := .running, frame := [], windows := [], drained := false, from_ := none }
  let s := r.frame.foldl (fun s c => s.takeUp (c.restored f s.time)) s
  (r.windows.foldl (fun s w => s.mapBack f w) s).adopt r.i.id f

/-! ## The dispatcher's choice (R236, R238) -/

/-- R236: the earliest-arrived ready invocation of an object, where none of the object runs. -/
def State.candidate (s : State) (r : InvRec) : Bool :=
  match r.core, r.obj with
  | some _, some n =>
    !(r.frame.isEmpty && s.busyObj n) &&
      !s.objs.any (fun o => o.name = n && o.moving.isSome && r.frame.isEmpty) &&
      !s.invs.any (fun x => x.obj = some n && x.stage = .ready && decide (x.i.arrival < r.i.arrival) && x.frame.isEmpty && r.frame.isEmpty)
  | _, _ => true

/-- R238: the order of the choice. -/
def before (now : BitVec 48) (a b : InvRec) : Bool :=
  let ka := deadlineKey a.i.deadline now
  let kb := deadlineKey b.i.deadline now
  if a.i.prio ≠ b.i.prio then a.i.prio.ult b.i.prio
  else if ka ≠ kb then decide (ka < kb) else decide (a.i.arrival ≤ b.i.arrival)
/-- The ready invocations of a die that may start, in the order of choice. -/
def State.readyOn (s : State) (die : BitVec 2) : List InvRec :=
  sortBy (before (s.time.setWidth 48)) (s.invs.filter (fun r =>
    r.stage = .ready && (r.place.map (fun p => p.1)) = some die && s.candidate r &&
      (!r.frame.isEmpty || (s.mayRun r && !s.heldBack r))))
/-- The invocation that a die's dispatcher chooses, with the contexts it is to have. -/
def State.chosen (s : State) (die : BitVec 2) : Option (InvRec × List CtxId) :=
  (s.readyOn die).findSome? (fun r =>
    let os := s.options r
    (os[Config.choice s.issued os.length % os.length]?).map (fun o => (r, o)))
/-- Starts or resumes an invocation. -/
def State.putOn (s : State) (r : InvRec) (ids : List CtxId) : State := if r.frame.isEmpty then s.startInv r ids else s.resumeInv r ids

/-! ## The victim (R366) -/

/-- R366: how much a running invocation is favoured: the more, the likelier it is the victim. -/
structure Occupant where
  inv   : Nat
  prio  : BitVec 4
  key   : Int
  start : Nat
  deriving DecidableEq, Repr

def Occupant.lessFavoured (a b : Occupant) : Bool :=
  if a.prio ≠ b.prio then b.prio.ult a.prio
  else if a.key ≠ b.key then decide (b.key < a.key) else decide (b.start ≤ a.start)
def worst : List Occupant → Option Occupant
  | [] => none
  | o :: os => match worst os with
    | some x => if o.lessFavoured x then some o else some x
    | none => some o

/-- R366: a pre-emption of the core is under way. -/
def State.evicts (s : State) (c : CoreId) : Bool := s.allCtxs.any (fun x => x.id.coreId = c && x.victim.isSome)
/-- R366: whether an invocation that runs may be pre-empted for another. -/
def State.mayEvict (s : State) (r : InvRec) (inv : Nat) : Bool :=
  let cs := s.allCtxs.filter (fun c => c.invId = inv && c.status ≠ .free)
  cs.all (fun c => r.i.prio.ult c.prio && !c.priv && !c.status.halted && c.status ≠ .halting && !s.evicts c.id.coreId) &&
    (match s.invOf inv with | some v => r.obj = none || v.obj ≠ r.obj | none => false)
/-- R366: the least favoured candidate of a core; none while a pre-emption of the core is under way. -/
def State.evictable (s : State) (r : InvRec) (c : CoreId) : Option Occupant :=
  let cs := s.allCtxs.filter (fun x => x.id.coreId = c && x.status ≠ .free)
  if !s.takes c then none
  else worst ((cs.filter (fun x => s.mayEvict r x.invId)).map (fun x =>
    ⟨x.invId, x.prio, deadlineKey x.deadline (s.time.setWidth 48), match x.run with | some y => y.start | none => 0⟩))
/-- R366: the occupants that would go for a set of cores; none where one may not. -/
def State.evictSet (s : State) (r : InvRec) : List CoreId → Option (List Occupant)
  | [] => some []
  | c :: cs =>
    match (if (s.freeSlots c).isEmpty then (s.evictable r c).map (fun o => [o]) else some []), s.evictSet r cs with
    | some a, some b => some (a ++ b)
    | _, _ => none
def mostFavoured (os : List Occupant) : Option Occupant :=
  match os with
  | [] => none
  | o :: os => some (os.foldl (fun a b => if a.lessFavoured b then b else a) o)
/-- R368: the frames of a die in use, dispatcher's or drain frames; one for each context. -/
def State.framesUsed (s : State) (die : BitVec 2) (drained : Bool) : Nat :=
  ((s.invs.filter (fun r => r.drained = drained && (r.place.map (fun p => p.1)) = some die)).map (fun r => r.frame.length)).foldl (· + ·) 0
/-- R368: the frames of a die that are free for the dispatcher. -/
def State.frameRoom (s : State) (die : BitVec 2) : Nat := 4096 - s.framesUsed die false
/-- R366: the victims of a ready invocation; none where victims of its own are still on their way to a frame. -/
def State.victims (s : State) (r : InvRec) : List Occupant :=
  if s.allCtxs.any (fun c => c.victim = some r.i.id) then []
  else
    let sets := (coreSets r).filterMap (s.evictSet r)
    let ranked := sets.filterMap (fun os => (mostFavoured os).map (fun o => (o, os)))
    match worst (ranked.map (fun e => e.1)) with
    | none => []
    | some o => match ranked.find? (fun e => e.1 = o) with
      | some e => e.2
      | none => []
/-- R366, R368: the contexts that victims take with them, and those already chosen on the die, find frames. -/
def State.framesFor (s : State) (die : BitVec 2) (os : List Occupant) : Bool :=
  decide ((s.allCtxs.filter (fun c => c.status ≠ .free && (os.any (fun o => o.inv = c.invId) || (c.victim.isSome && c.id.die = die)))).length ≤
    s.frameRoom die)
/-- R366, R368: whether a ready invocation of a die pre-empts now. -/
def State.preempts (s : State) (die : BitVec 2) (r : InvRec) : Bool := let os := s.victims r; !os.isEmpty && s.framesFor die os
def State.markVictims (s : State) (r : InvRec) (os : List Occupant) : State :=
  let hit := fun (c : Ctx) => if c.status ≠ .free && os.any (fun o => o.inv = c.invId) then { c with victim := some r.i.id } else c
  { s with cx := hit s.cx, ctxs := s.ctxs.map hit }

/-- R238, R366: the dispatcher of a die starts the invocation that it chooses, or chooses a victim. -/
def State.dispatch (s : State) (die : BitVec 2) : State :=
  match s.chosen die with
  | some (r, ids) => s.putOn r ids
  | none =>
    match (s.readyOn die).find? (s.preempts die) with
    | some r => s.markVictims r (s.victims r)
    | none => s
/-- R238. -/
def execDispatchChoice (die : BitVec 2) (s : State) : Out := .next (s.dispatch die).counted
/-- R369: a pre-empted invocation that is ready is the dispatcher's choice. -/
def execInvocationResume (inv : Nat) (s : State) : Out :=
  .next (State.counted (match (s.invOf inv).bind (fun r => r.place) with
    | none => s
    | some (die, _) => match s.chosen die with
      | some (r, ids) => if r.i.id = inv && !r.frame.isEmpty then s.putOn r ids else s
      | none => s))

/-! ## Pre-emption (R367, R368) -/

/-- Whether a context is parked where it can be pre-empted. -/
def Status.parked : Status → Bool
  | .ready => true
  | .follow => true
  | .posted _ _ => true
  | .waiting _ _ _ _ => true
  | .faulted _ => true
  | .onEntry _ _ => true
  | .onMig _ => true
  | .refused _ => true
  | .debug _ _ _ => true
  | _ => false
/-- R367 step 2: the matrix operations of an invocation complete. -/
def finishMx (core : CoreId) (inv : Nat) : Nat → State → State
  | 0, s => s
  | fuel + 1, s => if (s.core core).mxq.any (fun o => o.by_.inv = inv) then finishMx core inv fuel (s.mxComplete core) else s
/-- R367 step 3: the copies of an invocation stop. -/
def State.stopCopies (s : State) (inv : Nat) : State :=
  { s with copies := s.copies.map (fun (c : Copy) => if c.trig.isNone && c.by_.inv = inv then { c with stopped := true } else c) }
/-- R268, R367: the matrix operations of an invocation can complete. -/
def State.mxReady (s : State) (inv : Nat) : Bool := s.cores.all (fun k => k.mxq.all (fun o => o.by_.inv ≠ inv || s.forked o.by_))
/-- The contexts of an invocation. -/
def State.ctxsOf (s : State) (inv : Nat) : List CtxId :=
  (sortBy (fun (a b : Ctx) => decide (a.gidx.toNat ≤ b.gidx.toNat)) (s.allCtxs.filter (fun c => c.status ≠ .free && c.invId = inv))).map (fun c => c.id)
/-- R367 steps 2 to 4: the matrix operations of an invocation complete, its copies stop, its windows are written back and
removed. Gives the windows. -/
def State.stopWork (s : State) (inv : Nat) (ids : List CtxId) : State × List (CtxId × Window) :=
  let s := ids.foldl (fun s id => finishMx id.coreId inv ((s.core id.coreId).mxq.length + 1) s) s
  let s := s.stopCopies inv
  let s := ids.foldl (fun s id => s.beginNext id.coreId) s
  let ws := ids.flatMap (fun id => ((s.core id.coreId).windows.filter (fun w => w.owner = id.slot)).map (fun w => (id, w)))
  (s.each ids (fun s => s.dropWindows s.cx.id), ws)
/-- R367: whether every context of the issuing context's invocation is parked, and its matrix operations can complete. -/
def State.allParked (s : State) : Bool :=
  (s.ctxsOf s.cx.invId).all (fun id => (s.ctx id).status.parked) && s.mxReady s.cx.invId
/-- R367: steps 1 to 6 for an invocation whose contexts are parked. -/
def State.preempt (s : State) (inv : Nat) (drain : Option CoreId) : State :=
  let ids := s.ctxsOf inv
  let s := s.each ids (fun s => s.withdraw.charge.flushAll false)
  let (s, ws) := s.stopWork inv ids
  let frame := ids.map (fun id => { s.ctx id with victim := none, unpin := false, code := [], wrote := (coreNum id.coreId :: (s.ctx id).wrote).eraseDups })
  let s := s.each ids (fun s => { s with cx := Ctx.blank s.cx.id })
  match s.invOf inv with
  | none => s
  | some r =>
    let s' : State := { s with fresh := s.fresh + 1 }
    s'.setInv { r with
      stage := .preempted, frame := frame, windows := r.windows ++ ws, tiles := r.i.residency.isEmpty, pins := [], turn := some s.fresh,
      drained := drain.any (fun c => decide (s.frameRoom c.die < ids.length)), from_ := drain }

/-! ## The drain before a scan (R427, R368) -/

/-- R427: a core of the issuing context's gang that is being drained; not while the invocation is at supervisor level (R372). -/
def State.draining (s : State) : Option CoreId :=
  let ids := s.cx.gangIds
  if ids.any (fun id => (s.ctx id).priv) then none else (ids.map (fun id => id.coreId)).find? (fun c => (s.core c).drain)
/-- R368: whether frames are free for an invocation's contexts. -/
def State.drainFits (s : State) (c : CoreId) (n : Nat) : Bool :=
  decide (n ≤ s.frameRoom c.die) || decide (s.framesUsed c.die true + n ≤ 8)
/-- R427: the issuing context's invocation is drained, once all its contexts are parked. -/
def State.tryDrain (s : State) (c : CoreId) : State :=
  if s.allParked then s.preempt s.cx.invId (some c) else s
/-- Whether a drain is to take the issuing context now. -/
def State.drainNow (s : State) : Option CoreId := s.draining.filter (fun c => s.drainFits c (s.ctxsOf s.cx.invId).length)

/-! ## An urgent shootdown's stop (R397) -/

/-- R397: the first address of an invocation's list that a shootdown under way covers. -/
def State.pinnedVa (s : State) (r : InvRec) : Word :=
  natWord (((dies.flatMap (fun d => let t := (s.die d).tcb; if t.go then t.range.pins r else [])).head?).getD 0)
/-- R397: the contexts of an invocation are no longer to be stopped. -/
def State.stopped (s : State) (ids : List CtxId) : State := s.each ids (fun s => { s with cx := { s.cx with unpin := false } })
/-- R397: steps 2 to 5 of R367 for the issuing context's invocation, whose contexts are parked; its entry is posted for its first
context, which takes the fault of R389 at once where its protection context has no queue. -/
def State.stopPinned (s : State) (r : InvRec) : State :=
  let ids := s.ctxsOf r.i.id
  let lead := ids.headD s.cx.id
  let c := s.ctx lead
  let f : FaultRec := ⟨11, 6, 0, false, false, c.priv, s.pinnedVa r⟩
  if !r.tiles then s.stopped ids
  else if c.prot.hasFq && !s.fqRoom c.prot then s
  else
    let (s, ws) := (s.stopped ids).stopWork r.i.id ids
    let s := s.setInv { r with tiles := false, pins := [], windows := r.windows ++ ws }
    if c.prot.hasFq then
      let (n, s) := s.postEntry c.prot f s.pkg lead.coreId (lead.slot.setWidth 4) (.ctx lead) r.i.id
      s.withCtx lead (fun s => if s.cx.status = .ready then { s with cx := { s.cx with status := .onEntry f n } } else s)
    else s.each ids (fun s => ({ s with cx := { s.cx with status := .ready } }).takeException f)
def State.tryUnpin (s : State) : State :=
  let ids := s.ctxsOf s.cx.invId
  if !s.allParked then s
  else match s.invOf s.cx.invId with
    | none => s.stopped ids
    | some r => s.stopPinned r

/-- R367: the pre-emption of the issuing context's invocation, once all its contexts are parked. -/
def State.tryPreempt (s : State) : State :=
  let inv := s.cx.invId
  if s.allParked then s.preempt inv none else s

/-! ## Switch points (R50, R53) -/

/-- What is to be delivered to a context, or to its gang. -/
def Ctx.owesDelivery (c : Ctx) : Bool := !c.errs.isEmpty || c.rgfail.isSome
def State.pending (s : State) : Bool := s.retiring || s.cx.gangIds.any (fun id => (s.ctx id).owesDelivery)

/-- R397: whether a running invocation has lost its pins. -/
def State.unpinned (s : State) (inv : Nat) : Bool := s.invs.any (fun r => r.i.id = inv && r.stage = .running && !r.tiles)
/-- R53: a context that may be given the next run: ready, and not about to be pre-empted or stopped. A gang is ready as a whole. -/
def State.mayIssue (s : State) (c : Ctx) : Bool :=
  c.status = .ready && c.victim.isNone && !c.unpin && !s.unpinned c.invId &&
    !(c.inGang && c.gangIds.any (fun id => (s.ctx id).status.holdsGang))
/-- R53 step 3: the contexts among which a core's next run is chosen. A gang, by its leader, stands on the core of each member. -/
def State.waitingOn (s : State) (core : CoreId) : List Ctx := s.allCtxs.filter (fun c => s.mayIssue c && c.cores.contains core)
/-- The slot of a context, or of its gang's member, on a core. -/
def Ctx.slotOn (c : Ctx) (core : CoreId) : BitVec 2 :=
  match c.gangIds.find? (fun id => id.coreId = core) with
  | some id => id.slot
  | none => c.id.slot
/-- R111: a context that has yielded is taken only where no other is ready. -/
def State.choices (s : State) (core : CoreId) : List Ctx :=
  let all := s.waitingOn core
  let keen := all.filter (fun c => !c.yielded)
  if keen.isEmpty then all else keen
/-- R53: the lowest PRIO; ties go round-robin. -/
def State.nextOn (s : State) (core : CoreId) : Option Ctx :=
  let last := (s.core core).last
  leastBy (fun (c : Ctx) => c.prio.toNat * 4 + (c.slotOn core - last - 1).toNat) (s.choices core)
/-- R59: whether the chosen context can begin: no run has a core of its gang, and none of those cores has a ready context with a lower
PRIO. A core whose choice is a gang that cannot begin waits for it (log entry 97). -/
def State.canBegin (s : State) (c : Ctx) : Bool :=
  c.cores.all (fun k => !s.coreHeld k && (s.choices k).all (fun x => decide (c.prio.toNat ≤ x.prio.toNat)))
/-- R53: the context that takes a free core. -/
def State.nextRun (s : State) (core : CoreId) : Option CtxId := ((s.nextOn core).filter s.canBegin).map (fun c => c.id)
/-- A core takes up a run of the issuing context. -/
def State.takeCore (s : State) (id : CtxId) : State :=
  let k := s.core id.coreId
  let here := (s.cx.pctx, s.cx.region)
  s.setCore { k with last := id.slot, ran := if k.ran.contains here then k.ran else here :: k.ran }
/-- The run of a context, or of its gang, begins. -/
def State.beginRun (s : State) (id : CtxId) : State :=
  let s := s.focus id
  let cores := s.cx.cores
  let rested := fun (c : Ctx) => if cores.contains c.id.coreId then { c with yielded := false } else c
  let s := { s with cx := rested s.cx, ctxs := s.ctxs.map rested }
  let s := s.cx.gangIds.foldl State.takeCore s
  { s with cx := { s.cx with status := .running, code := [] } }
/-- R53: a free core of the issuing context takes up its next run. -/
def State.chooseRun (s : State) : State :=
  match s.cx.cores.findSome? (fun k => if s.coreHeld k then none else s.nextRun k) with
  | some id => s.beginRun id
  | none => s

/-- Whether HALT completes (R112). -/
def State.haltable (s : State) : Bool := s.cx.gangIds.all (fun id => (s.focus id).canHalt)
/-- R358, R419: whether something ends an invocation that waits in HALT before its HALT completes. -/
def State.cutsHalt (s : State) : Bool := s.cx.gangIds.any (fun id => (s.ctx id).owesDelivery) || (s.retiring && !s.haltable)
/-- The switch point of the issuing context: results are written, what is pending is delivered, a victim is pre-empted, and the
next run is chosen. -/
def State.switchOver (s : State) : State :=
  match s.cx.status with
  | .free => s.chooseRun
  | .running => s
  | .blocked => s
  | .walking _ _ => s
  | .follow => s
  | .ended => s
  | .atSwitch => s.passSwitch
  | .halting => if s.cutsHalt && !s.cx.awaits then s.passSwitch else s.haltOn
  | st =>
    if s.pending && (s.cx.gidx = 0 || !s.cx.inGang) then s.passSwitch
    else if s.cx.victim.isSome then s.tryPreempt
    else if s.cx.unpin then s.tryUnpin
    else match s.drainNow with
    | some c => s.tryDrain c
    | none => match st with
      | .refused f => s.unanswered f
      | .ready => if s.cx.haltReq && s.cx.dbgen then
          { s with cx := { s.cx with haltReq := false, status := .debug 0 s.cx.pc false } } else s.chooseRun
      | _ => s
/-- R50. -/
def execSwitchPoint (s : State) : Out := .next (s.charge.switchOver.freeze).counted
/-- R51: after 512 instructions the run ends as if the last one were marked. -/
def execForcedSwitchPoint (s : State) : Out :=
  .next (State.counted (if 512 ≤ s.cx.runLen then (s.endRun.charge.switchOver).freeze else s))

end Sys2Proof.Machine
end

