-- ==== Sys2Proof/Machine/Launch.lean ====
section
/-! DEFINITION. Launches (R353 to R360), the arrival of invocations (R227), shootdowns and page migration (R395 to R399), leases
(R252, R253), the debug page (R373). -/

namespace Sys2Proof.Machine

/-! ## The queue table (R353) -/

/-- R353: the address of a queue's entry. -/
def State.queueAt (s : State) (q : BitVec 13) : Nat := s.regs.wqtab.toNat + 2048 * 128 * (q.toNat / 2048) + 128 * (q.toNat % 2048)
def queueDie (q : BitVec 13) : BitVec 2 := fld q 11 2
/-- A queue's entry, read under the host-management key. -/
structure Queue where
  en     : Bool
  pceil  : BitVec 4
  mout   : Nat
  ctx    : BitVec 12
  seed   : Word
  rpool  : Word
  rtmpl  : Word
  cring  : Word
  crlen  : Nat
  cons   : BitVec 32
  rcvd   : BitVec 32
  fin    : BitVec 32
  deriving DecidableEq, Repr
def queueOf (bs : List Byte) : Queue :=
  let w := dwAt bs 0
  { en := w.getLsbD 0, pceil := fld w 2 4, mout := (fld w 8 8).toNat + 1, ctx := fld w 16 12, seed := dwAt bs 1, rpool := dwAt bs 2,
    rtmpl := dwAt bs 3, cring := dwAt bs 4, crlen := (fld (dwAt bs 5) 0 16).toNat, cons := fld (dwAt bs 5) 32 32,
    rcvd := fld (dwAt bs 6) 0 32, fin := fld (dwAt bs 6) 32 32 }
def State.queue (s : State) (q : BitVec 13) : Queue := queueOf (s.bytes 0 (s.queueAt q) 128)
def State.setRcvd (s : State) (q : BitVec 13) (v : BitVec 32) : State := s.putHome 0 (s.queueAt q + 48) (leBytes 4 v.toNat)
def State.setFin (s : State) (q : BitVec 13) (v : BitVec 32) : State := s.putHome 0 (s.queueAt q + 52) (leBytes 4 v.toNat)

/-! ## Acceptance (R354, R355) -/

/-- R354: the fields of a launch record. -/
def launchOf (id : LaunchId) (bs : List Byte) : Launch :=
  let w := dwAt bs 7
  { id := id, target := dwAt bs 0, args := (List.range 6).map (fun k => dwAt bs (k + 1)), method := fld w 0 8, prio := fld w 8 4,
    gang := fld w 12 2, rl := w.getLsbD 14, deadline := fld w 16 48, running := false, block := 0, slot := 0, res := .pending,
    refused := none, ending := false, discarded := 0, flush := [], cut := false, freed := false, out := [], step := 0, list := [],
    asked := none, checked := false }

/-- R192: bytes of a launch's residency list that lie elsewhere, or on a page under migration, whose home waits (R399): the package, the
address there, the place in the list, how many. -/
abbrev ListAsk := BitVec 12 × Word × Nat × Nat
/-- The pieces of a launch's residency list; what is to be asked for, or none where they cannot be read. -/
def State.listBytes (s : State) (prot : Prot) (l : Launch) : List (Word × Nat) → Except (Option ListAsk) (List Byte)
  | [] => .ok []
  | (va, n) :: ps =>
    let off := (va - l.args.getD 5 0).toNat
    let here : Except (Option ListAsk) (List Byte) := match engRead s prot true va n with
      | .ok bs => .ok bs
      | .error (.away pl) => match l.list.find? (fun e => e.1 = off) with
        | some e => .ok e.2
        | none => .error ((pl.awayAt va).map (fun a => (a.1, a.2, off, n)))
      | .error .mig => match l.list.find? (fun e => e.1 = off) with
        | some e => .ok e.2
        | none => .error (some (s.pkg, va, off, n))
      | .error _ => .error none
    match here with
    | .error e => .error e
    | .ok bs => (s.listBytes prot l ps).map (fun cs => bs ++ cs)
/-- R192: the residency list of a launch. -/
def State.readLaunchList (s : State) (prot : Prot) (l : Launch) : Except (Option ListAsk) (List ResEntry) :=
  if !l.rl then .ok []
  else
    let va := l.args.getD 5 0
    if va.toNat % 32 ≠ 0 then .error none
    else match s.listBytes prot l (rangePieces va 32) with
      | .error e => .error e
      | .ok h => match resCount h with
        | none => .error none
        | some n => match s.listBytes prot l (rangePieces (va + 32) (32 * n)) with
          | .error e => .error e
          | .ok bs => match resEntries n bs with
            | some es => .ok es
            | none => .error none
def State.launchList (s : State) (prot : Prot) (l : Launch) : List ResEntry :=
  match s.readLaunchList prot l with | .ok es => es | .error _ => []

/-- R355 cause 6: a range translates to memory of the package, with the permissions named. -/
def State.homedHere (s : State) (prot : Prot) (write : Bool) (va : Word) (n : Nat) : Bool :=
  (rangePieces va n).all (fun p =>
    (s.xlateDev prot false false 0 p.1).pa.isSome && (!write || (s.xlateDev prot false false 1 p.1).pa.isSome))
def State.poolsOk (s : State) (prot : Prot) (q : Queue) : Bool :=
  s.homedHere prot true q.rpool (128 * q.mout) && s.homedHere prot false q.rtmpl 128

/-- R350, R444: whether launches may name a protection context: it is VALID, and its key slot holds a key. -/
def State.ctxValid (s : State) (pctx : BitVec 12) : Bool := let e := s.protEntry pctx; e.1 && s.keys.contains e.2.keyslot
/-- R356: the checks that are made again at the start. -/
def State.startChecks (s : State) (q : Queue) (l : Launch) : Option (BitVec 8) :=
  let prot := s.protOf q.ctx
  if !s.ctxValid q.ctx then some 2
  else match s.readLaunchList prot l with
    | .error none => some 5
    | _ => if !s.poolsOk prot q then some 6 else none
/-- R192, R355: what a launch needs of a residency list homed elsewhere before it can be checked. -/
def State.launchAsk (s : State) (q : Queue) (l : Launch) : Option ListAsk :=
  if !s.ctxValid q.ctx then none
  else match s.readLaunchList (s.protOf q.ctx) l with
    | .error a => a
    | .ok _ => none
/-- R355: the first check that fails. -/
def State.launchCause (s : State) (q : Queue) (l : Launch) (reserved : Bool) : Option (BitVec 8) :=
  if !q.en then some 1
  else if !s.ctxValid q.ctx then some 2
  else if !(nameOk s l.target && isOref l.target) then some 3
  else if decide (11 < l.prio.toNat) || reserved then some 4
  else if (s.launchAsk q l).isSome then none
  else s.startChecks q l

def State.setLaunch (s : State) (l : Launch) : State := { s with launches := s.launches.map (fun x => if x.id = l.id then l else x) }
/-- R192: the next part of a residency list homed elsewhere is asked for. -/
def State.askList (s : State) (l : Launch) (pctx : BitVec 12) (a : ListAsk) : State :=
  if l.asked.isSome then s
  else
    let die := queueDie l.id.q
    (({ s with fresh := s.fresh + 1 }).setLaunch { l with asked := some s.fresh }).sendBulk
      { mkPacket s 0x21 a.1 0 255 (dieAgent die) 7 (.readReq s.fresh a.2.2.1 a.2.2.2 pctx) with addr := a.2.1, plen := BitVec.ofNat 13 a.2.2.2 }
/-- R355: the residency list of a launch that has not been checked is asked for, or, once it has come, checked. -/
def State.checkList (s : State) (q : Queue) (l : Launch) : State :=
  match s.launchAsk q l with
  | some a => s.askList l q.ctx a
  | none => s.setLaunch { l with checked := true, refused := s.startChecks q l }

/-- R354: an accepted launch message. -/
def State.takeLaunch (s : State) (q : BitVec 13) (bs : List Byte) : State :=
  let e := s.queue q
  let l := launchOf ⟨s.pkg, q, e.rcvd⟩ bs
  let l := { l with refused := s.launchCause e l ((dwAt bs 7).getLsbD 15) }
  let l := { l with checked := l.refused.isSome || (s.launchAsk e l).isNone }
  let s := { s.setRcvd q (e.rcvd + 1) with launches := s.launches ++ [l] }
  if l.checked then s else s.checkList e l

/-- R354: a packet that is a launch message, with its queue and record. -/
def launchParts (p : Packet) : Option (BitVec 13 × List Byte) :=
  match p.payload with
  | .bytes bs => if p.dep = 255 && p.sag = 8 && p.ndf = 1 && decide (p.addr.toNat < 8192) && bs.length = 64 &&
      queueDie (p.addr.setWidth 13) = p.ddie then some (p.addr.setWidth 13, bs) else none
  | _ => none
/-- R354: flow control holds a message back while the completion ring could overflow. -/
def State.ringFull (s : State) (q : BitVec 13) : Bool :=
  let e := s.queue q
  decide (e.crlen ≤ (e.rcvd - e.cons).toNat)

/-- R227: an invocation of another package gets a number of this one, and its promise is filled in. -/
def State.newcomer (s : State) (p : Packet) (i : Inv) : Inv × State :=
  if p.spkg = s.pkg then (i, s)
  else
    let i := { i with id := s.fresh }
    let s := { s with fresh := s.fresh + 1 }
    (i, match s.promise i.ph with
      | some x => s.setPromise { x with launch := i.launch, inv := i.id, region := i.region }
      | none => s)
/-- R315: a triggered invocation has been accepted at its first home. -/
def State.madeIn (s : State) (i : Inv) : State :=
  if i.target = i.sentTo then
    { s with firings := s.firings.map (fun (f : Firing) => if f.begun && f.made = i.id && f.fin.isNone then { f with fin := some (0, 0) } else f) }
  else s
/-- R358: an invocation of a launch that is being retired is discarded. -/
def State.ended (s : State) (l : LaunchId) : Bool := s.launches.any (fun x => x.id = l && x.ending)
def State.takeInv (s : State) (p : Packet) (i : Inv) : State :=
  let (i, s) := s.newcomer p i
  let s := s.madeIn i
  if s.ended i.launch then
    { s.runAdd i.pctx (s.protOf i.pctx) i.region (-1) with
      launches := s.launches.map (fun (x : Launch) => if x.id = i.launch then { x with discarded := x.discarded + 1 } else x) }
  else s.arriveInv p.ddie i
/-- R227, R228, R354; R441: a launch message is held while STATE = 0 or its ring is full, an invocation while the die's store is full. -/
def execInv (p : Packet) (s : State) : Out :=
  .next (State.counted (match launchParts p with
    | some (q, bs) => s.routed p (p.type = 1) (fun s =>
        if s.ringFull q || s.regs.state = 0 then s.noteHeld p else s.arriveOrdered p true (fun s => s.takeLaunch q bs))
    | none => s.routed p (p.type = 1 && p.dep ≠ 255 && (packetInv p).isSome) (fun s =>
        if s.storeFull p.ddie then s.noteHeld p
        else s.arriveOrdered p true (fun s => (packetInv p).elim s (s.takeInv p)))))

/-! ## Start (R356) -/

/-- The first launch of a queue that waits, in SEQ order. -/
def State.waitingLaunch (s : State) (q : BitVec 13) : Option Launch :=
  s.launches.find? (fun l => l.id.pkg = s.pkg && l.id.q = q && !l.running && l.refused.isNone)
/-- R355: a launch whose list is still to be checked, where no part of it is on its way. -/
def State.unchecked (s : State) (q : BitVec 13) : Option Launch :=
  s.launches.find? (fun l => l.id.pkg = s.pkg && l.id.q = q && !l.checked && l.refused.isNone && l.asked.isNone)
def State.runningLaunches (s : State) (q : BitVec 13) : List Launch :=
  s.launches.filter (fun l => l.id.pkg = s.pkg && l.id.q = q && l.running)

/-- R356 step 1: the root region block. -/
def State.rootBlock (s : State) (prot : Prot) (b tmpl : Word) : State :=
  let w := fun n => s.blk prot tmpl n
  let put := fun (s : State) (n : Nat) (v : Word) => s.setBlk prot b n v
  let d2 := putFld (putFld (s.blk prot b 2) 0 (fld (w 2) 0 4)) 16 (fld (w 2) 16 16)
  [(0, 0), (1, 0), (2, d2), (3, w 3), (4, w 4), (5, putFld (s.blk prot b 5) 0 (fld (w 5) 0 16)), (6, w 6), (7, 1), (8, 0), (9, 0), (10, 0),
    (11, 0)].foldl (fun s e => put s e.1 e.2) s
/-- R356 step 2: the root invocation. -/
def rootInv (s : State) (q : Queue) (l : Launch) (block : Word) (list : List ResEntry) : Inv :=
  { id := s.fresh, ph := 0, target := l.target, sentTo := l.target, method := l.method, args := l.args, resolve := false, gang := l.gang,
    region := block, prio := newPrio (s.effPrio (s.protOf q.ctx) block) l.prio q.pceil, ceil := q.pceil, deadline := l.deadline, seed := q.seed,
    lnum := natWord (l.id.q.toNat * 2 ^ 32 + l.id.seq.toNat), pctx := q.ctx, launch := l.id, sender := .queue s.pkg l.id.q.toNat,
    order := s.fresh, residency := list, arrival := 0, toks := [] }
/-- R227: the root invocation leaves; R231: a package that is not present. -/
def State.sendRoot (s : State) (i : Inv) (die : BitVec 2) : State :=
  let s := ({ s with fresh := s.fresh + 1 }).runAdd i.pctx (s.protOf i.pctx) i.region 1
  if s.present (nmPkg i.target) then s.sendInvTo i (dieAgent die) 7 else s.dropArrival i 5 none
/-- R355, R356: a launch is checked, or the first launch that waits starts, or is refused. -/
def State.startLaunch (s : State) (q : BitVec 13) : State :=
  let e := s.queue q
  let running := s.runningLaunches q
  match s.unchecked q, s.waitingLaunch q with
  | some l, _ => s.checkList e l
  | none, none => s
  | none, some l =>
    if e.mout ≤ running.length || !l.checked then s
    else match s.launchAsk e l with
    | some a => s.askList l e.ctx a
    | none => match s.startChecks e l with
      | some c => s.setLaunch { l with refused := some c }
      | none =>
        let prot := s.protOf e.ctx
        let slot := (freeSlot (running.map (fun x => x.slot)) e.mout).getD 0
        let b := e.rpool + natWord (128 * slot)
        let s := (s.rootBlock prot b e.rtmpl).setLaunch { l with running := true, block := b, slot := slot }
        s.sendRoot (rootInv s e l b (s.launchList prot l)) (queueDie q)
/-- R356. -/
def execLaunchStart (q : BitVec 13) (s : State) : Out := .next (s.startLaunch q).counted

/-! ## The end of a launch (R358 to R360) -/

/-- The invocations of a launch that wait here, or have been pre-empted. -/
def State.idleInvs (s : State) (l : LaunchId) : List InvRec := s.invs.filter (fun r => r.i.launch = l && r.stage ≠ .running)
/-- The running invocations of a launch. -/
def State.runsOf (s : State) (l : LaunchId) : List Nat :=
  ((s.allCtxs.filterMap (fun c => c.run)).filter (fun r => r.i.launch = l)).map (fun r => r.i.id) |>.eraseDups
/-- R358 step 1 for an invocation in a frame: its regions are closed, its memberships dropped, its copies end. -/
def State.endFrame (s : State) (r : InvRec) : State :=
  let s := r.frame.foldl (fun s c => c.opened.foldl (fun s b =>
    if s.blkState c.prot b = 1 then s.setBlkState c.prot b 0 else s) s) s
  let s := s.dropMembers (fun m => m.who.pkg = s.pkg && m.who.inv = r.i.id)
  let s := s.uncover (fun b => b.inv = r.i.id)
  { s with copies := s.copies.filter (fun c => !(c.trig.isNone && c.by_.inv = r.i.id)), orphans := s.orphans ++ r.frame.flatMap (fun c => c.rem) }
/-- R358 step 1: what waits or is in flight is discarded and counted; what runs ends at its next switch point, and is counted then
(R360). -/
def State.beginRetire (s : State) (l : LaunchId) : State :=
  let idle := s.idleInvs l
  let flying := (s.flying.filter (fun i => i.launch = l)).length
  let n := idle.length + flying
  let s := idle.foldl (fun s r => (if r.frame.isEmpty then s else s.endFrame r).dropInv r) s
  let s := (s.flying.filter (fun i => i.launch = l)).foldl (fun s i => s.runAdd i.pctx (s.protOf i.pctx) i.region (-1)) s
  let s := { s with net := s.net.filter (fun p => !(packetInv p).any (fun (i : Inv) => i.launch = l)) }
  { s with launches := s.launches.map (fun (x : Launch) => if x.id = l then { x with ending := true, discarded := x.discarded + n } else x) }
/-- R358 steps 2 and 3: the entries of the launch are removed; its promises, phasers and landing slots are freed. -/
def State.cutLaunch (s : State) (l : LaunchId) : State := s.dropTriggers (fun e => e.launch = l)
def State.freeLaunch (s : State) (l : LaunchId) : State :=
  let s := ((s.promises.filter (fun p => p.launch = l)).map (fun p => p.ph)).foldl State.freePromise s
  let gone := s.phasers.filter (fun p => p.launch = l)
  let s := gone.foldl (fun s p => s.bumpGen 2 (phDie p.id) (fld p.id 0 12).toNat) { s with phasers := s.phasers.filter (fun p => p.launch ≠ l) }
  dies.foldl (fun s d => let x := s.die d; s.setDie d { x with held := x.held.filter (fun h => h.con.launch ≠ l) }) s
/-- R358 step 1 is over: nothing of the launch runs here or is on its way from here. -/
def State.quiet (s : State) (l : LaunchId) : Bool :=
  (s.runsOf l).isEmpty && !s.flying.any (fun i => i.launch = l) &&
    !s.unacked.any (fun u => !u.acc && (packetInv u.p).any (fun i => i.launch = l))
/-- R358: the present step is over here; step 2 is once the firings already queued have completed. -/
def State.stepOver (s : State) (x : Launch) : Bool := s.quiet x.id && !(x.cut && s.firings.any (fun f => f.e.launch = x.id))
/-- R358 step 4: the root invocation's host-class accesses are done. -/
def State.flushed (s : State) (l : Launch) : Bool := !s.rems.any (fun r => l.flush.contains r.req)
def State.updLaunch (s : State) (l : LaunchId) (f : Launch → Launch) : State :=
  { s with launches := s.launches.map (fun (x : Launch) => if x.id = l then f x else x) }
/-- R358: the other packages of the pod take a step as well, each in the part of the launch that it holds. -/
def State.askStep (s : State) (l : LaunchId) (step : Nat) : State :=
  (s.updLaunch l (fun x => { x with out := s.pods.filter (fun p => p ≠ s.pkg) })).tellPods (.retire l step)

/-- R358: the next part of the retirement of a launch of this package. -/
def State.retireHere (s : State) (x : Launch) : State :=
  if x.res = .pending || x.refused.isSome || x.freed then s
  else if !x.ending then (s.beginRetire x.id).askStep x.id 1
  else if !x.out.isEmpty || !s.stepOver x then s
  else if !x.cut then ((s.cutLaunch x.id).updLaunch x.id (fun x => { x with cut := true })).askStep x.id 2
  else ((s.freeLaunch x.id).updLaunch x.id (fun x => { x with freed := true })).askStep x.id 3
/-- R358: the next part of the retirement of a launch of another package: a step that it has asked for, or the answer. The last answer
also waits for the host-class accesses that are outstanding when the launch is freed, those of its root among them (R359). -/
def State.retireAway (s : State) (x : Launch) : State :=
  if !x.ending then s.beginRetire x.id
  else if !x.cut && decide (2 ≤ x.step) then (s.cutLaunch x.id).updLaunch x.id (fun x => { x with cut := true })
  else if !x.freed && decide (3 ≤ x.step) then
    (s.freeLaunch x.id).updLaunch x.id (fun x => { x with freed := true, flush := (s.orphans.filter (fun r => r.host)).map (fun r => r.req) })
  else if x.out.isEmpty || !s.stepOver x || !s.flushed x then s
  else
    let s := if x.freed then { s with launches := s.launches.filter (fun y => y.id ≠ x.id) }
      else s.updLaunch x.id (fun x => { x with out := [], discarded := 0 })
    s.tellPkg x.id.pkg (.retired x.id x.discarded)
def State.retire_ (s : State) (l : LaunchId) : State :=
  match s.launches.find? (fun x => x.id = l) with
  | none => s
  | some x => if l.pkg = s.pkg then s.retireHere x else s.retireAway x
/-- R358. -/
def execLaunchRetirement (l : LaunchId) (s : State) : Out := .next (s.retire_ l).counted

/-- R360: STATUS, CAUSE, LEN and VALUE. -/
def resultFields : PState → BitVec 2 × BitVec 8 × Nat × Word
  | .value b => (0, 0, b.length, wordOf (b.take 8))
  | .name n => (1, 0, 0, n)
  | .broken c _ => (2, c, 0, 0)
  | .pending => (2, 0, 0, 0)
/-- R360: a completion record of 32 bytes. -/
def completionRec (seq : BitVec 32) (crlen : Nat) (refused : Option (BitVec 8)) (res : PState) (discarded : Nat) (time : Word) : List Byte :=
  let (st, cause, len, val) := match refused with
    | some c => ((3 : BitVec 2), c, 0, 0)
    | none => resultFields res
  let ph : BitVec 1 := BitVec.ofNat 1 (1 + seq.toNat / crlen)
  wordBytes (ph ++ 0#8 ++ BitVec.ofNat 7 len ++ cause ++ 0#6 ++ st ++ seq) ++ wordBytes val ++
    leBytes 4 (min discarded (2 ^ 32 - 1)) ++ zeros 4 ++ wordBytes time
/-- R358 step 5, R360: the record is written whole, FIN rises, and the block is free. -/
def State.postCompletion (s : State) (l : Launch) : State :=
  let q := s.queue l.id.q
  let rec_ := completionRec l.id.seq q.crlen l.refused l.res l.discarded s.time
  let at_ := q.cring + natWord (32 * (l.id.seq.toNat % q.crlen))
  let die := queueDie l.id.q
  let s := if gpaPkg q.cring = s.pkg then (s.putHome 0 (at_.toNat % 2 ^ 46) rec_).noteStore
    else s.hostPut 1033 die at_ rec_
  { s.setFin l.id.q (q.fin + 1) with launches := s.launches.filter (fun x => x.id ≠ l.id) }
/-- R360. -/
def execCompletionRecordPost (l : LaunchId) (s : State) : Out :=
  .next (State.counted (match s.launches.find? (fun x => x.id = l) with
    | some x => if l.pkg = s.pkg && (x.refused.isSome || (x.freed && x.out.isEmpty && s.flushed x)) then s.postCompletion x else s
    | none => s))

/-! ## Leases (R136, R252, R274) -/

/-- R252: the home slice evicts a line and recalls every lease on it. -/
def execLeaseRecall (pa : Nat) (s : State) : Out := .next (s.writeBack (fun a _ => a / 256 = pa / 256)).counted
/-- R136, R253: a dirty sector is written back when the device chooses. -/
def execDeviceWriteback (pa : Nat) (s : State) : Out := .next (s.writeBack (fun a _ => a / 64 = pa / 64)).counted
/-- R274: a prefetch takes a copy under a read lease, only through a translation that is held, and never of a NOSPEC page. -/
def State.prefetch (s : State) (c : CtxId) (va : Word) : State :=
  let x := s.ctx c
  if !canonical va || x.status = .free then s
  else match s.tlbFind c.coreId x.pctx va with
    | none => s
    | some e =>
      if pteNospec e.pte || (permCause e.pte 0 (!x.priv) false).isSome then s
      else match placeOf s e.pte e.lvl va with
        | .hbm pa => s.recallRange (coreNum c.coreId) pa 1
        | _ => s
/-- R274. -/
def execHardwarePrefetch (c : CtxId) (va : Word) (s : State) : Out := .next (s.prefetch c va).counted

/-! ## Shootdowns (R396, R397) -/

/-- R396 step 3: the dirty sectors of a window's entries in the range are written back, and the entries dropped. -/
def State.shootWindow (s : State) (r : ShootRange) (k : CoreSt) (w : Window) : State :=
  let c := s.ctx ⟨k.id.die, k.id.core, w.owner⟩
  let hit := fun (e : Nat × Nat) => r.hits c.pctx (w.va.toNat + 64 * e.1) 64
  let gone := w.filled.filter hit
  if gone.isEmpty then s
  else
    let s := s.writeBack (fun a o => o = coreNum k.id + 1000 && gone.any (fun e => e.2 / 64 = a / 64))
    let k := s.core k.id
    s.setCore { k with windows := k.windows.map (fun (x : Window) =>
      if x.stash = w.stash then { x with filled := x.filled.filter (fun e => !hit e) } else x) }
/-- R396 steps 1 to 4. An engine translates each element again. -/
def State.shoot (s : State) (r : ShootRange) : State :=
  let s := { s with cores := s.cores.map (fun (k : CoreSt) => { k with
    tlb := k.tlb.filter (fun e => !r.tlb e)
    ro := k.ro.filter (fun l => !r.hits l.pctx l.va l.bytes.length) }) }
  let s := s.mapCtxs (fun c => { c with code := c.code.filter (fun l => !r.hits c.pctx l.1.toNat 8) })
  let s := dies.foldl (fun s d => let x := s.die d; s.setDie d { x with ctlb := x.ctlb.filter (fun e => !r.tlb e.2) }) s
  s.cores.foldl (fun s k => k.windows.foldl (fun s w => s.shootWindow r k w) s) s

/-- R396 step 5: whether a residency pin remains on the range. -/
def State.pinsOn (s : State) (r : ShootRange) : Bool := s.invs.any (fun x => x.tiles && !(r.pins x).isEmpty)
/-- R157, R396 step 5: whether a matrix translation hold remains on the range. -/
def State.holdsOn (s : State) (r : ShootRange) : Bool :=
  s.cores.any (fun k => k.mxq.any (fun o => o.pages.any (fun p => r.hits o.by_.pctx (65536 * p.1) 65536)))
/-- R397: the invocations that hold pins on the range are to be stopped. -/
def State.urge (s : State) (r : ShootRange) : State :=
  let ids := (s.invs.filter (fun x => x.tiles && x.stage = .running && !(r.pins x).isEmpty)).map (fun x => x.i.id)
  let hit := fun (c : Ctx) => if c.status ≠ .free && ids.contains c.invId then { c with unpin := true } else c
  { s with
    cx := hit s.cx
    ctxs := s.ctxs.map hit
    -- pins of an invocation that does not run are given up at once
    invs := s.invs.map (fun x => if x.tiles && x.stage ≠ .running && !(r.pins x).isEmpty then
      { x with tiles := false, pins := [], stage := if x.stage = .ready then (if x.frame.isEmpty then .held else .preempted) else x.stage } else x) }

/-- R396: a shootdown starts. -/
def execShootdownGo (die : BitVec 2) (s : State) : Out :=
  .next (State.counted (let t := (s.die die).tcb; if t.go then s.shoot t.range else s))
/-- R397: an urgent shootdown starts. -/
def execShootdownUrgent (die : BitVec 2) (s : State) : Out :=
  .next (State.counted (let t := (s.die die).tcb; if t.go then (s.shoot t.range).urge t.range else s))

/-- R395: stores that were held are performed, in issue order; one that starts another shootdown holds those behind it. -/
def State.heldStores (s : State) : State :=
  s.heldWrites.foldl (fun s w => s.writeReg w.1 w.2) { s with heldWrites := [] }
/-- R396 steps 5 and 6; R397: residency pins are not awaited. -/
def State.finishShoot (s : State) (die : BitVec 2) : State :=
  let x := s.die die
  let t := x.tcb
  if !t.go || s.holdsOn t.range || (!t.urgent && s.pinsOn t.range) then s
  else
    let s := s.setDie die { x with tcb := { t with go := false, sddone := t.sddone + 1 } }
    (if t.sdctr = 0 then s else s.raise t.sdctr 1 (dieAgent die) 7).heldStores
/-- R396. -/
def execShootdownComplete (die : BitVec 2) (s : State) : Out := .next (s.finishShoot die).counted

/-! ## Page migration (R398, R399) -/

/-- R398: the first frame of the list that lies on a die: its index and the frame. -/
def State.freeFrame (s : State) (t : Tcb) (ldie : BitVec 2) : Option (Nat × Nat) :=
  (List.range t.pglen.toNat).findSome? (fun k =>
    let f := (wordOf (s.bytes 0 (t.pgpool.toNat + 8 * k) 8)).toNat
    if f ≠ 0 && f % 65536 = 0 && isHbm f && homeDie f = ldie then some (k, f) else none)
/-- R398, R399 steps 1 and 2: the pager takes up a notice. -/
def State.beginMig (s : State) (die : BitVec 2) (pctx : BitVec 12) (va : Word) : State :=
  let d := s.die die
  let s := s.setDie die { d with notify := d.notify.erase (pctx, va) }
  if !d.notify.contains (pctx, va) || !d.tcb.migen then s
  else match walk s (s.protOf pctx) va with
    | .leaf e lvl ptePa =>
      if lvl ≠ 3 || ptePkg e ≠ s.pkg || pteDev e || pteMig e || homeDie (ptePaF e) ≠ die then s
      else match s.freeFrame d.tcb (pteLdie e), s.pteCas (s.protOf pctx).keyslot ptePa e (e ||| 1024) with
        | some (k, f), some s =>
          let d := s.die die
          (s.setDie die { d with mig := some ⟨pctx, va, ptePa, e ||| 1024, f, k, s.time, pteLdie e⟩ }).shoot (pageRange pctx va)
        | _, _ => s
    | _ => s
/-- R399: the migration is abandoned: MIG is cleared where it is still set. -/
def State.abandon (s : State) (die : BitVec 2) (m : Mig) : State :=
  let d := s.die die
  let s := s.setDie die { d with mig := none }
  (s.pteCas (s.protOf m.pctx).keyslot m.ptePa m.old (m.old &&& ~~~1024)).getD s
/-- R399 steps 3 to 6. -/
def State.finishMig (s : State) (die : BitVec 2) (m : Mig) : State :=
  let key := (s.protOf m.pctx).keyslot
  let old := ptePaF m.old
  let bs := s.bytes key old 65536
  let bad := (s.poison.filter (fun w => decide (old ≤ w) && decide (w < old + 65536))).map (fun w => w - old + m.frame)
  let s := (s.putHome key m.frame bs).watch old 65536
  let s := { s with poison := s.poison ++ bad }
  let new := putFld (putFld (m.old &&& ~~~1024) 60 (0 : BitVec 4)) 16 (BitVec.ofNat 30 (m.frame / 65536))
  match s.pteCas key m.ptePa m.old new with
  | some s =>
    let d := s.die die
    (s.setDie die { d with mig := none }).putHome 0 (d.tcb.pgpool.toNat + 8 * m.slot) (wordBytes (natWord old))
  | none => s.abandon die m
/-- R399: the pager of a die begins a migration, or ends it once nothing is pinned or held on the page. -/
def execPageMigration (die : BitVec 2) (pctx : BitVec 12) (va : Word) (s : State) : Out :=
  .next (State.counted (match (s.die die).mig with
    | none => s.beginMig die pctx va
    | some m =>
      if m.pctx = pctx && m.va = va && !s.pinsOn (pageRange pctx va) && !s.holdsOn (pageRange pctx va) then s.finishMig die m else s))
/-- R399: the shootdown has not completed within 1 ms. -/
def execMigrationAbandon (die : BitVec 2) (s : State) : Out :=
  .next (State.counted (match (s.die die).mig with
    | some m => if decide (1000000 ≤ (s.time - m.begun).toNat) then s.abandon die m else s
    | none => s))

/-! ## The debug page (R373) -/

/-- R39: the code of a token's state. -/
def TokSt.code : TokSt → BitVec 2
  | .idle => 0
  | .busy => 1
  | .done => 2
  | .fault => 3
def tokStOf (v : BitVec 2) : TokSt := if v = 0 then .idle else if v = 1 then .busy else if v = 2 then .done else .fault

/-- R373: the value of a state item; none for one that is unassigned. -/
def Ctx.item (s : State) (c : Ctx) (item index : Nat) : Option Word :=
  let k := item % 8
  if item < 64 then
    if 40 ≤ item ∧ item < 48 then (if index < 32 then some (((c.a[(BitVec.ofNat 3 k).toFin])[(BitVec.ofNat 5 index).toFin]).setWidth 64) else none)
    else if index ≠ 0 then none
    else if item < 32 then some (if item = 0 then 0 else c.g[(BitVec.ofNat 5 item).toFin])
    else if item < 40 then some c.p[(BitVec.ofNat 3 k).toFin]
    else if item < 56 then some (if k = 0 then 0xFFFFFFFF else (c.m[(BitVec.ofNat 3 k).toFin]).setWidth 64)
    else some (if k = 0 then 1 else bit c.q[(BitVec.ofNat 3 k).toFin])
  else if item = 64 then (if index = 0 then some c.pc else none)
  else if item = 65 then
    (if index = 0 then some ((List.range 8).foldl (fun w n => w ||| ((c.t[(BitVec.ofNat 3 n).toFin].st.code.setWidth 64) <<< (2 * n))) 0) else none)
  else if item = 66 then (if index < 8 then some c.t[(BitVec.ofNat 3 index).toFin].err else none)
  else if item = 67 then (if index < 8 then some (c.mbox.getD index (BitVec.allOnes 64)) else none)
  else if 0x1000 ≤ item ∧ item < 0x2000 then (if index = 0 then ({ s with cx := c } : State).spr (BitVec.ofNat 12 item) else none)
  else if 0x2000 ≤ item ∧ item < 0x2004 then
    (if index < 4096 then some ((c.elem (BitVec.ofNat 2 item) (index / 64) (index % 64)).setWidth 64) else none)
  else none

/-- R164: the sums of one tile follow from its elements. -/
def Ctx.recheckTile (c : Ctx) (x : TileNo) : Ctx :=
  let mine := c.x.filter (fun e => e.1 / 4096 = x.toNat)
  mine.foldl (fun c e => c.contribute x (e.1 / 64 % 64) (e.1 % 64) [fv32 e.2])
    { c with sums := c.sums.filter (fun e => e.1 / 256 ≠ x.toNat), sumBad := c.sumBad.filter (fun k => k / 256 ≠ x.toNat) }

/-- R373: a context with a state item written; none where the write is refused. -/
def Ctx.setItem (s : State) (c : Ctx) (item index : Nat) (v : Word) : Option Ctx :=
  let k : BitVec 3 := BitVec.ofNat 3 (item % 8)
  if (c.item s item index).isNone then none
  else if item < 32 then some (if item = 0 then c else { c with g := c.g.set (BitVec.ofNat 5 item).toFin v })
  else if item < 40 then some { c with p := c.p.set k.toFin v }
  else if item < 48 then some { c with a := c.a.set k.toFin ((c.a[k.toFin]).set (BitVec.ofNat 5 index).toFin (v.setWidth 32)) }
  else if item < 56 then some (if k = 0 then c else { c with m := c.m.set k.toFin (v.setWidth 32) })
  else if item < 64 then some (if k = 0 then c else { c with q := c.q.set k.toFin (v.getLsbD 0) })
  else if item = 64 then some { c with pc := v }
  else if item = 65 then
    some ((List.range 8).foldl (fun c n =>
      let t : Tok := BitVec.ofNat 3 n
      c.setTok t { c.t[t.toFin] with st := tokStOf (fld v (2 * n) 2) }) c)
  else if item = 66 then
    let t : Tok := BitVec.ofNat 3 index
    some (c.setTok t { c.t[t.toFin] with err := v })
  else if item = 67 then (if index < c.mbox.length then some { c with mbox := c.mbox.set index v } else none)
  else if item < 0x2000 then
    let n : BitVec 12 := BitVec.ofNat 12 item
    if sprWritable n then some (({ s with cx := c } : State).setSpr n v).cx else none
  else
    let x : TileNo := BitVec.ofNat 2 item
    some ((c.setElem x (index / 64) (index % 64) (v.setWidth 32)).recheckTile x)

/-- R373: a change of a context in debug halt, on its task context or in its frame. -/
def State.putHalted (s : State) (c : Ctx) : State :=
  if (s.ctx c.id).status.halted then s.setCtx c
  else s.inFrames (fun x => if x.id = c.id && x.status.halted then c else x)
def State.debugEnds (s : State) (die : BitVec 2) (st : BitVec 3) : State :=
  let x := s.die die
  s.setDie die { x with dbg := { x.dbg with dstat := st } }
/-- R373: a command on a context in debug halt; another context refuses it. -/
def State.debugOn (s : State) (die : BitVec 2) (f : State → Ctx → Option State) : State :=
  let p := (s.die die).dbg
  match (s.haltedCtx (p.ctxId die)).bind (f s) with
  | some s => s.debugEnds die 2
  | none => s.debugEnds die 3

/-- R373. -/
def execDebugRead (die : BitVec 2) (s : State) : Out :=
  .next (s.debugOn die (fun s c =>
    let x := s.die die
    (c.item s x.dbg.item.toNat x.dbg.index.toNat).map (fun v => s.setDie die { x with dbg := { x.dbg with ddata := v } }))).counted
/-- R373. -/
def execDebugWrite (die : BitVec 2) (s : State) : Out :=
  .next (s.debugOn die (fun s c =>
    let p := (s.die die).dbg
    (c.setItem s p.item.toNat p.index.toNat p.ddata).map s.putHalted)).counted

/-- R113, R373: the context continues: after a BRK at the next instruction, unless its program counter has been written. -/
def Ctx.unhalt (s : State) (c : Ctx) : Ctx :=
  let c := match c.status with
    | .debug _ at_ brk => if brk && c.pc = at_ then (({ s with cx := c } : State).repStep (c.pc + 8)).cx else c
    | _ => c
  { c with firm := none, status := if c.inGang then (if c.gidx = 0 then .atSwitch else .follow) else .ready }
/-- R373. -/
def execDebugResume (die : BitVec 2) (s : State) : Out :=
  .next (s.debugOn die (fun s c => some (s.putHalted (c.unhalt s)))).freeze.counted

/-- R373: the fault that an end from the debugger raises. -/
def brkFault (c : Ctx) : FaultRec :=
  match c.status with
  | .debug code at_ _ => ⟨14, code.setWidth 16, 0, false, false, c.priv, at_⟩
  | _ => ⟨14, 0, 0, false, false, c.priv, c.pc⟩
/-- R373: the context takes an unrecoverable fault of class Breakpoint; one in a frame takes it when it resumes. -/
def State.debugEnd (s : State) (c : Ctx) : State :=
  if (s.ctx c.id).status.halted then
    s.each (s.ctx c.id).gangIds (fun s => ({ s with cx := { s.cx with status := .ready } }).takeException (brkFault c))
  else s.putHalted { c with status := .refused (brkFault c) }
/-- R373. -/
def execDebugEnd (die : BitVec 2) (s : State) : Out := .next (s.debugOn die (fun s c => some (s.debugEnd c))).freeze.counted

/-- R373: a running context whose debug enable is set enters debug halt at its next switch point. -/
def execDebugHaltRequest (die : BitVec 2) (s : State) : Out :=
  let id := (s.die die).dbg.ctxId die
  let c := s.ctx id
  .next (State.counted (
    if c.status ≠ .free && c.dbgen && !c.status.halted then (s.setCtx { c with haltReq := true }).debugEnds die 2 else s.debugEnds die 3))

end Sys2Proof.Machine
end

