-- ==== Sys2Proof/Machine/Host.lean ====
section
/-! DEFINITION. The outside beside the fabric: PTP (R405), Ethernet ports (R406, R407), media streams (R408 to R414). -/

namespace Sys2Proof.Machine

/-! ## PTP (R405) -/

/-- R405: the offset from the grandmaster in nanoseconds: TIME less the grandmaster's time. -/
def State.ptp (s : State) (port : BitVec 2) (offset : Int) : State :=
  if !(s.ports[port.toFin]).en then s
  else
    let r := s.regs
    let t := if r.ptpen && decide (offset < -1000000) then s.time + intWord (-offset) else s.time
    { s with time := t, regs := { r with
        offset := (BitVec.ofInt 32 offset).setWidth 64
        lock := r.ptpen && decide (offset.natAbs < 1000) } }
/-- R405: a PTP event message passes a port. Slewing is a matter of the rate of TIME (log entry 2). -/
def execPtpEventMessage (port : BitVec 2) (offset : Int) (s : State) : Out := .next (s.ptp port offset).counted

/-! ## Stream descriptors (R408) -/

structure Desc where
  en      : Bool
  kind    : BitVec 2
  vfmt    : BitVec 2
  red     : Bool
  porta   : BitVec 2
  portb   : BitVec 2
  ctx     : BitVec 12
  dsta    : BitVec 32
  udpa    : BitVec 16
  udpb    : BitVec 16
  dstb    : BitVec 32
  width   : Nat
  height  : Nat
  lstride : Nat
  nfb     : Nat
  tmo     : Nat
  mw      : Nat
  fbase   : Word
  fstride : Word
  rbase   : Word
  fctr    : Word
  lctr    : Word
  srcip   : BitVec 32
  fcons   : Word
  fclosed : Word
  /-- every reserved field is zero. -/
  clean   : Bool
  deriving DecidableEq, Repr

def descOf (bs : List Byte) : Desc :=
  let w := dwAt bs
  { en := (w 0).getLsbD 0, kind := fld (w 0) 1 2, vfmt := fld (w 0) 3 2, red := (w 0).getLsbD 5, porta := fld (w 0) 6 2,
    portb := fld (w 0) 8 2, ctx := fld (w 0) 10 12, dsta := fld (w 0) 32 32, udpa := fld (w 1) 0 16, udpb := fld (w 1) 16 16,
    dstb := fld (w 1) 32 32, width := (fld (w 2) 0 16).toNat, height := (fld (w 2) 16 16).toNat, lstride := (fld (w 2) 32 32).toNat,
    nfb := (fld (w 3) 0 8).toNat, tmo := (fld (w 3) 16 16).toNat, mw := (fld (w 3) 32 16).toNat, fbase := w 4, fstride := w 5,
    rbase := w 6, fctr := w 7, lctr := w 8, srcip := fld (w 9) 0 32, fcons := w 10, fclosed := w 11,
    clean := fld (w 0) 30 2 = 0 && fld (w 3) 8 8 = 0 && fld (w 3) 48 16 = 0 && fld (w 9) 32 32 = 0 }
def State.desc (s : State) (idx : BitVec 10) : Desc := descOf (s.bytes 0 (s.descAt idx) 128)
/-- A doubleword of a descriptor; the device adds to its counts. -/
def State.descWord (s : State) (idx : BitVec 10) (n : Nat) : Word := dwAt (s.bytes 0 (s.descAt idx + 8 * n) 8) 0
def State.setDesc (s : State) (idx : BitVec 10) (n : Nat) (v : Word) : State := s.putHome 0 (s.descAt idx + 8 * n) (wordBytes v)
def State.bumpDesc (s : State) (idx : BitVec 10) (n : Nat) : State := s.setDesc idx n (s.descWord idx n + 1)

/-- R410: pixels and bytes of a pixel group. -/
def Desc.ppg (d : Desc) : Nat := if d.vfmt = 2 then 4 else 2
def Desc.pgsize (d : Desc) : Nat := if d.vfmt = 0 then 4 else if d.vfmt = 1 then 5 else 15
/-- R411: bytes of a complete line. -/
def Desc.lineBytes (d : Desc) : Nat := d.width / d.ppg * d.pgsize
/-- R408: the defaults of the two times, in nanoseconds. -/
def Desc.timeout (d : Desc) : Nat := (if d.tmo = 0 then 200 else d.tmo) * 10000
def Desc.window (d : Desc) : Nat := (if d.mw = 0 then 150 else d.mw) * 1000

/-- R408, R409: sizes in range. -/
def Desc.sizesOk (d : Desc) : Bool :=
  if d.kind = 0 then
    decide (2 ≤ d.width) && decide (d.width ≤ 7680) && decide (d.width % d.ppg = 0) && decide (1 ≤ d.height) &&
      decide (d.height ≤ 4320) && decide (1 ≤ d.nfb) && decide (d.nfb ≤ 64)
  else decide (8 ≤ d.height) && decide (128 ≤ d.lstride) && decide (d.lstride % 64 = 0)
/-- R409: the first check that fails; 0 where none does. -/
def State.descErr (s : State) (d : Desc) : BitVec 8 :=
  let (valid, prot) := s.protEntry d.ctx
  if d.kind = 3 || d.vfmt = 3 || !d.clean then 1
  else if !d.sizesOk then 2
  else if !valid then 3
  else if !ctrOk s prot d.fctr || (d.lctr ≠ 0 && !ctrOk s prot d.lctr) then 4
  else 0

def State.streamOf (s : State) (idx : BitVec 10) : Option Stream := s.streams.find? (fun x => x.idx = idx)
def State.setStream (s : State) (x : Stream) : State := { s with streams := s.streams.map (fun y => if y.idx = x.idx then x else y) }

/-- R409: the device acts on EN = 1. -/
def State.enableStream (s : State) (idx : BitVec 10) : State :=
  let d := s.desc idx
  if !d.en || (s.streamOf idx).isSome then s
  else
    let e := s.descErr d
    let w := putFld (s.descWord idx 0) 22 e
    if e ≠ 0 then s.setDesc idx 0 (w &&& ~~~1)
    else
      let s := [11, 12, 13, 14, 15].foldl (fun s n => s.setDesc idx n 0) (s.setDesc idx 0 w)
      { s with streams := s.streams ++ [(⟨idx, none, [], none, [], []⟩ : Stream)] }
/-- R409. -/
def execStreamEnable (idx : BitVec 10) (s : State) : Out := .next (s.enableStream idx).counted

/-! ## The engine's writes -/

/-- R411, R385: a fault of a buffer page posts an entry, for which nobody waits. -/
def State.mediaFault (s : State) (prot : Prot) (die : BitVec 2) (f : FaultRec) : State :=
  if f.recoverable && prot.hasFq && s.fqRoom prot then (s.postEntry prot f s.pkg (dieAgent die) 7 .media 0).2 else s
/-- R411: the packet of a piece that is written at another package, or here when its page is no longer being migrated: its home waits (R399). -/
def mediaPut (s : State) (pkg : BitVec 12) (die : BitVec 2) (idx : BitVec 10) (pctx : BitVec 12) (va : Word) (bs : List Byte) : Packet :=
  { mkPacket s 0x20 pkg die 255 (dieAgent die) 7 (.copyData 0 idx.toNat pctx false 0 0 bs) with
    addr := va, plen := BitVec.ofNat 13 bs.length, ndf := BitVec.ofNat 7 ((bs.length + 63) / 64) }
/-- R411: the pieces of an engine write; whether all of it was written. -/
def mediaPieces (idx : BitVec 10) (prot : Prot) (die : BitVec 2) (pctx : BitVec 12) : List (Word × Nat) → List Byte → State → State × Bool
  | [], _, s => (s, true)
  | (va, n) :: ps, bs, s =>
    let (s, ok) := match engPlace s prot true 1 va with
      | .error (.fault f) => (s.mediaFault prot die f, false)
      | .error .mig => (s.sendBulk (mediaPut s s.pkg die idx pctx va (bs.take n)), true)
      | .error _ => (s, false)
      | .ok (.hbm pa) => (((s.markUsed prot va true).putHome prot.keyslot pa (bs.take n)).noteStore, true)
      | .ok pl => match pl.awayAt va with
        | some (pkg, a) => (s.sendBulk (mediaPut s pkg die idx pctx a (bs.take n)), true)
        | none => (s, false)
    let (s, rest) := mediaPieces idx prot die pctx ps (bs.drop n) s
    (s, ok && rest)
def State.mediaWrite (s : State) (idx : BitVec 10) (d : Desc) (die : BitVec 2) (va : Word) (bs : List Byte) : State × Bool :=
  mediaPieces idx (s.protOf d.ctx) die d.ctx (rangePieces va bs.length) bs s

/-! ## Closing a frame (R412) -/

def FrameSt.lineGot (f : FrameSt) (l : Nat) : Nat := ((f.rows.find? (fun e => e.1 = l)).map (fun e => e.2)).getD 0
def FrameSt.lineDone (d : Desc) (f : FrameSt) (l : Nat) : Bool := decide (d.lineBytes ≤ f.lineGot l)
def FrameSt.lines (d : Desc) (f : FrameSt) : Nat := ((List.range d.height).filter (f.lineDone d)).length
/-- R411: the line bitmap, 64 bytes for each 512 lines. -/
def FrameSt.bitmap (d : Desc) (f : FrameSt) : List Byte :=
  (List.range (64 * ((d.height + 511) / 512))).map (fun k =>
    BitVec.ofNat 8 (((List.range 8).map (fun b => if decide (8 * k + b < d.height) && f.lineDone d (8 * k + b) then 2 ^ b else 0)).foldl (· + ·) 0))
/-- R412: the frame record. -/
def FrameSt.record (d : Desc) (f : FrameSt) (close : BitVec 2) : List Byte :=
  let lines := f.lines d
  let loss := decide (lines < d.height) || close = 3
  wordBytes f.first ++ wordBytes (fld f.n 0 32 ++ f.rtpTs) ++
    wordBytes (0#24 ++ BitVec.ofNat 8 (f.n.toNat % d.nfb) ++ BitVec.ofNat 16 lines ++ 0#13 ++ close ++ boolBit loss) ++ wordBytes f.lastAt ++
    wordBytes (BitVec.ofNat 32 f.dups ++ BitVec.ofNat 32 f.pkts) ++ zeros 24
def slotBytes (d : Desc) : Nat := 64 + 64 * ((d.height + 511) / 512)

/-- R412: the record is written, FCLOSED rises, FCTR is raised. -/
def State.closeFrame (s : State) (x : Stream) (close : BitVec 2) : State :=
  match x.frame with
  | none => s
  | some f =>
    let d := s.desc x.idx
    let at_ := d.rbase + natWord (f.n.toNat % d.nfb * slotBytes d)
    let (s, _) := s.mediaWrite x.idx d d.porta at_ (f.record d close ++ f.bitmap d)
    let s := (s.bumpDesc x.idx 11).setStream { x with frame := none, closed := (f.rtpTs :: x.closed).take d.nfb }
    s.raisePosted x.idx.toNat d.porta d.fctr

/-- R409: EN has been cleared. -/
def State.disableStream (s : State) (idx : BitVec 10) : State :=
  match s.streamOf idx with
  | none => s
  | some x =>
    if (s.desc idx).en then s
    else
      let s := s.closeFrame x 3
      { s with streams := s.streams.filter (fun y => y.idx ≠ idx) }
/-- R409. -/
def execStreamDisable (idx : BitVec 10) (s : State) : Out := .next (s.disableStream idx).counted

/-- R412: nothing has come for the frame timeout. -/
def State.timeFrame (s : State) (idx : BitVec 10) : State :=
  match s.streamOf idx with
  | none => s
  | some x => match x.frame with
    | none => s
    | some f => if decide ((s.desc idx).timeout ≤ (s.time - f.lastAt).toNat) then s.closeFrame x 1 else s
/-- R412. -/
def execFrameTimeout (idx : BitVec 10) (s : State) : Out := .next (s.timeFrame idx).counted

/-- R411: the merge window after a marker is over. -/
def State.closeMerged (s : State) (idx : BitVec 10) : State :=
  match s.streamOf idx with
  | none => s
  | some x => match x.frame.bind (fun f => f.closeAt) with
    | none => s
    | some t => if t.ule s.time then s.closeFrame x 0 else s
/-- R411. -/
def execMergeWindowClose (idx : BitVec 10) (s : State) : Out := .next (s.closeMerged idx).counted

/-! ## Packets of a video stream (R410, R411) -/

/-- R408: the path by which a packet matches a descriptor. -/
def Desc.path (d : Desc) (p : MediaPkt) : Option Nat :=
  if !d.en || (d.srcip ≠ 0 && d.srcip ≠ p.srcIp) then none
  else if p.port = d.porta && p.dst = d.dsta && p.udp = d.udpa then some 0
  else if d.red && p.port = d.portb && p.dst = d.dstb && p.udp = d.udpb then some 1
  else none
/-- R408: the stream of lowest index that matches. -/
def State.matching (s : State) (p : MediaPkt) : Option Stream :=
  leastBy (fun (x : Stream) => x.idx.toNat) (s.streams.filter (fun x => ((s.desc x.idx).path p).isSome))

/-- R410: what the engine supports. -/
def Desc.srdOk (d : Desc) (r : Srd) : Bool :=
  decide (r.row.toNat < d.height) && decide (r.bytes.length % d.pgsize = 0) &&
    decide (r.off.toNat + r.bytes.length / d.pgsize * d.ppg ≤ d.width)
def Desc.packetOk (d : Desc) (p : MediaPkt) : Bool := decide (p.srds.length ≤ 3) && p.srds.all (fun r => r.field || d.srdOk r)

/-- R410: a duplicate of a stream with RED. -/
def Stream.dup (x : Stream) (d : Desc) (p : MediaPkt) : Bool := d.red && (x.seen ++ x.before).contains p.extSeq
/-- R411: bytes of a line have come. -/
def FrameSt.addRow (f : FrameSt) (row n : Nat) : FrameSt :=
  { f with rows := if f.rows.any (fun e => e.1 = row) then f.rows.map (fun e => if e.1 = row then (row, e.2 + n) else e) else f.rows ++ [(row, n)] }

/-- R411: the segments of a packet; the counts of complete lines that they make; whether some were dropped. -/
def takeSrds (idx : BitVec 10) (d : Desc) (die : BitVec 2) : List Srd → FrameSt → State → State × FrameSt × Bool
  | [], f, s => (s, f, true)
  | r :: rs, f, s =>
    if r.field then
      let (s, f, _) := takeSrds idx d die rs f s
      (s, f, false)
    else
      let row := r.row.toNat
      let at_ := d.fbase + natWord (f.n.toNat % d.nfb) * d.fstride + natWord (row * d.lstride + r.off.toNat / d.ppg * d.pgsize)
      let (s, ok) := s.mediaWrite idx d die at_ r.bytes
      let g := if ok then f.addRow row r.bytes.length else f
      let s := if !f.lineDone d row && g.lineDone d row then s.raisePosted idx.toNat die d.lctr else s
      let (s, f, rest) := takeSrds idx d die rs g s
      (s, f, ok && rest)

/-- R411: the last steps for an accepted packet: a frame whose marker has come closes. -/
def State.afterPacket (s : State) (x : Stream) (d : Desc) (f : FrameSt) (marker : Bool) : State :=
  let due := if marker && f.closeAt.isNone then some (s.time + natWord d.window) else f.closeAt
  let f := { f with closeAt := due }
  let x := { x with frame := some f }
  let s := s.setStream x
  if due.isSome && (!d.red || decide (f.lines d = d.height)) then s.closeFrame x 0 else s

/-- R411: a packet of the open frame. -/
def State.acceptPacket (s : State) (x : Stream) (d : Desc) (f : FrameSt) (p : MediaPkt) : State :=
  let (s, f, whole) := takeSrds x.idx d p.port p.srds { f with pkts := f.pkts + 1, lastAt := p.first } s
  let s := s.bumpDesc x.idx 12
  let s := if whole then s else s.bumpDesc x.idx 15
  s.afterPacket { x with seen := p.extSeq :: x.seen } d f p.marker

/-- R411: a packet that opens a frame. -/
def State.openFrame (s : State) (x : Stream) (d : Desc) (p : MediaPkt) : State :=
  let n := s.descWord x.idx 11
  if d.nfb ≤ (n - d.fcons).toNat then (s.bumpDesc x.idx 14).setStream { x with skip := some p.rtpTs }
  else
    let f : FrameSt := { n := n, rtpTs := p.rtpTs, first := p.first, lastAt := p.first, rows := [], pkts := 0, dups := 0, closeAt := none }
    s.acceptPacket { x with frame := some f, skip := none, before := x.seen, seen := [] } d f p

/-- R411. -/
def State.videoPacket (s : State) (x : Stream) (p : MediaPkt) : State :=
  let d := s.desc x.idx
  if !d.packetOk p then s.bumpDesc x.idx 15
  else if x.dup d p then s.setStream { x with frame := x.frame.map (fun (f : FrameSt) => { f with dups := f.dups + 1 }) }
  else if x.skip = some p.rtpTs then s
  else match x.frame.filter (fun f => f.rtpTs = p.rtpTs) with
    | some f => s.acceptPacket x d f p
    | none =>
      if x.closed.contains p.rtpTs then s.bumpDesc x.idx 13
      else
        let s := s.closeFrame x 2
        match s.streamOf x.idx with
        | some x => s.openFrame x (s.desc x.idx) p
        | none => s
/-- R411. -/
def execStreamPacket (p : MediaPkt) (s : State) : Out :=
  .next (State.counted (match s.matching p with
    | some x => if (s.desc x.idx).kind = 0 then s.videoPacket x p else s
    | none => s))

/-! ## Raw streams (R414) -/

/-- R410: what a raw stream delivers. -/
def Desc.rawData (d : Desc) (p : MediaPkt) : List Byte := if d.kind = 1 then p.bytes else p.whole
/-- R414: an entry of the ring. -/
def rawEntry (d : Desc) (p : MediaPkt) (path : Nat) : List Byte :=
  let data := d.rawData p
  wordBytes p.first ++ leBytes 4 p.rtpTs.toNat ++ leBytes 2 (p.extSeq.toNat % 65536) ++ leBytes 2 (data.length % 65536) ++
    [BitVec.ofNat 8 path] ++ zeros 47 ++ data.take (d.lstride - 64)
/-- R414. -/
def State.rawPacket (s : State) (x : Stream) (p : MediaPkt) : State :=
  let d := s.desc x.idx
  if x.dup d p then s
  else if d.height ≤ (d.fclosed - d.fcons).toNat then s.bumpDesc x.idx 14
  else
    let s := s.setStream { x with seen := if d.red then p.extSeq :: x.seen else [] }
    let at_ := d.fbase + natWord (d.fclosed.toNat % d.height * d.lstride)
    match s.mediaWrite x.idx d p.port at_ (rawEntry d p ((d.path p).getD 0)) with
    | (s, true) => ((s.bumpDesc x.idx 12).bumpDesc x.idx 11).raisePosted x.idx.toNat p.port d.fctr
    | (s, false) => s.bumpDesc x.idx 15
/-- R414. -/
def execRawStreamPacket (p : MediaPkt) (s : State) : Out :=
  .next (State.counted (match s.matching p with
    | some x => if (s.desc x.idx).kind = 0 then s else s.rawPacket x p
    | none => s))

/-! ## Ethernet ports (R406, R407) -/

def State.port (s : State) (e : BitVec 2) : Port := s.ports[e.toFin]
def State.setPort (s : State) (e : BitVec 2) (p : Port) : State := { s with ports := s.ports.set e.toFin p }
/-- R407: the tag of a port's writes of host memory. -/
def portTag (e : BitVec 2) : Nat := 1024 + e.toNat

/-- R406. -/
def execEthernetLinkUp (port : BitVec 2) (s : State) : Out := .next (s.setPort port { s.port port with link := true }).counted

/-- A write of the device at a global physical address. -/
def State.globalPut (s : State) (tag : Nat) (die : BitVec 2) (at_ : Word) (bs : List Byte) : State :=
  if gpaPkg at_ = s.pkg then (s.putHome 0 (at_.toNat % 2 ^ 46) bs).noteStore else s.hostPut tag die at_ bs

/-- R407: a frame is written to the receive ring, or dropped. -/
def State.ringFrame (s : State) (e : BitVec 2) (f : Frame) : State :=
  let p := s.port e
  let len := p.rxlen.toNat
  if decide (1984 < f.bytes.length) || !ringLen len 32768 || decide (len ≤ (p.rxprod - p.rxcons).toNat) then s.setPort e { p with rxdrop := p.rxdrop + 1 }
  else
    let at_ := p.rxbase + natWord (2048 * (p.rxprod.toNat % len))
    let s := s.globalPut (portTag e) e at_ (leBytes 2 f.bytes.length ++ zeros 6 ++ wordBytes f.first ++ zeros 48 ++ f.bytes)
    (s.setPort e { p with rxprod := p.rxprod + 1 }).raisePosted (portTag e) e p.rxctr

/-- R406: a received frame is handled in the first way that applies. -/
def State.receiveFrame (s : State) (e : BitVec 2) (f : Frame) : State :=
  let p := s.port e
  if !p.en then s
  else if !f.fcsOk then s.setPort e { p with rxdrop := p.rxdrop + 1 }
  else match f.kind with
    | .ptp o => s.due (.ptpEventMessage e o)
    | .media m => match s.matching m with
      | some x => s.due (if (s.desc x.idx).kind = 0 then .streamPacket m else .rawStreamPacket m)
      | none => s.ringFrame e f
    | .other => s.ringFrame e f
/-- R406. -/
def execEthernetFrameReceive (port : BitVec 2) (f : Frame) (s : State) : Out := .next (s.receiveFrame port f).counted

/-- R407: a transmit entry has been read: it is sent, or skipped where its length is illegal. -/
def State.sendEntry (s : State) (e : BitVec 2) (bs : List Byte) : State :=
  let p := s.port e
  let n := leNat (bs.take 2)
  let ok := decide (60 ≤ n) && decide (n ≤ 1984)
  let s := s.setPort e { p with txdone := p.txdone + 1, txBuf := none }
  let s := if ok then
      let s := { s with txFrames := s.txFrames ++ [(e, (bs.drop 64).take n)] }
      if p.txctr = 0 then s else s.raise p.txctr 1 (dieAgent e) 7
    else s
  if p.txdone + 1 ≠ p.txprod then s.due (.ethernetTransmit e) else s
/-- R407: the port goes on with its transmit ring. -/
def State.transmit (s : State) (e : BitVec 2) : State :=
  let p := s.port e
  let len := p.txlen.toNat
  if !p.en || !p.link || !ringLen len 32768 || !decide (p.txdone.toNat < p.txprod.toNat) then s
  else
    let at_ := p.txbase + natWord (2048 * (p.txdone.toNat % len))
    match p.txBuf with
    | some bs => s.sendEntry e bs
    | none =>
      if gpaPkg at_ = s.pkg then s.sendEntry e (s.bytes 0 (at_.toNat % 2 ^ 46) 2048)
      else if p.txAsked then s
      else (s.setPort e { p with txAsked := true }).sendBulk { mkPacket s 0x21 (gpaPkg at_) 0 255 (dieAgent e) 7 (.readReq 0 e.toNat 2048 0) with
        addr := at_, plen := 2048 }
/-- R407. -/
def execEthernetTransmit (port : BitVec 2) (s : State) : Out := .next (s.transmit port).counted

end Sys2Proof.Machine
end

