-- ==== Sys2Proof/Machine/Reli.lean ====
section
/-! DEFINITION. Reliability: errors and their containment (R415 to R421), thresholds (R426), the rotating scan (R427 to R429),
failed links (R432), retirement and the repair log (R433, R434). -/

namespace Sys2Proof.Machine

/-! ## The repair log (R434, R435) -/

/-- R434: bytes 0 to 63 of an entry. -/
def repairBytes (seq : Nat) (r : Repair) : List Byte :=
  leBytes 4 seq ++ leBytes 4 (0#14 ++ r.unit ++ r.die ++ r.kind).toNat ++ wordBytes r.detail ++ wordBytes r.time ++ zeros 40
/-- R444: the device key, reconstructed from the PUF. -/
def deviceKey : List Byte := (List.range 32).map Config.deviceKey
/-- R434: the tag of the last of a run of entries, after an entry with the tag given. -/
def tagAfter : Nat → List Byte → List Repair → List Byte
  | _, tag, [] => tag
  | n, tag, r :: rs => tagAfter (n + 1) (hmac256 deviceKey (repairBytes n r ++ tag)) rs
/-- R434: the tag of the last entry; the first is chained to the digest of the configuration record. -/
def Flash.lastTag (f : Flash) : List Byte := tagAfter 0 (sha256 f.record.bytes) f.repairs

/-- R446: a measurement register is extended. -/
def extendMr (mr : BitVec 256) (d : List Byte) : BitVec 256 := BitVec.ofNat 256 (leNat (sha256 (leBytes 32 mr.toNat ++ d)))
def State.extend (s : State) (i : Fin 8) (d : List Byte) : State := { s with mr := s.mr.set i (extendMr s.mr[i] d) }

/-- R434: a repair is appended to the log before its record is posted, and measured (R446); a full log holds it until the next
start only. R448: after ERASE nothing is appended. -/
def State.repair (s : State) (kind : BitVec 8) (die : BitVec 2) (unit : BitVec 8) (detail : Word) : State :=
  let n := s.flash.repairs.length
  let src : CoreId := ⟨die, if kind = 1 then unit else 255⟩
  if s.flash.keys.isNone then s
  else if n < 2048 then
    let s := { s with flash := { s.flash with repairs := s.flash.repairs ++ [(⟨kind, die, unit, detail, s.time⟩ : Repair)] } }
    (s.extend 3 s.flash.lastTag).postHealth 9 kind src (natWord n) 0 0
  else s.postHealth 9 kind src (natWord n) 1 0
/-- R435: a repair that is not applied. -/
def State.service (s : State) (kind : BitVec 8) (die : BitVec 2) (detail : Word) : State := s.postHealth 11 kind (dieAgent die) detail 0 0

/-! ## Retirement (R433) -/

/-- R243, R433: the new home of an object: as for ONEW with HINT 0. -/
def State.newHome (s : State) (o : Obj) : Option CoreId :=
  let die := match (s.xlateDev (s.protOf o.pctx) false false 0 o.body).pa with
    | some pa => homeDie pa
    | none => o.home.die
  (die :: dies.filter (fun d => d ≠ die)).findSome? (fun d => s.placeCore d none)
/-- R433: the objects of a retired core go to other cores. -/
def State.rehome (s : State) (o : Obj) : State :=
  match s.newHome o with
  | none => s
  | some c =>
    if s.staysFor o then
      { s with objs := s.objs.map (fun (x : Obj) => if x.name = o.name then { x with moving := some c } else x) }
    else s.finishMove o c
/-- R433, R241: a floating invocation whose cluster can no longer hold it is placed anew. -/
def State.replaceFloats (s : State) : State :=
  let usable := fun (r : InvRec) => match r.place with
    | some p => (groups p.1 p.2 r.i.gang).any (fun cs => cs.all (fun c => !(s.core c).retired))
    | none => true
  { s with invs := s.invs.map (fun (r : InvRec) =>
      if r.core.isNone && r.stage ≠ .running && !usable r then
        { r with place := none, tiles := r.i.residency.isEmpty,
                 stage := if r.stage = .ready then (if r.frame.isEmpty then .held else .preempted) else r.stage }
      else r) }
/-- R211, R433, R332; R428: a core that is retired for a reason other than a scan failure is scanned at once. -/
def State.retireCore (s : State) (core : CoreId) (reason : BitVec 8) : State :=
  let k := s.core core
  if k.retired then s
  else
    let s := s.setCore { k with retired := true, wantScan := reason ≠ 1 }
    let s := s.each ((s.allCtxs.filter (fun c => c.id.coreId = core && c.status ≠ .free)).map (fun c => c.id)) (fun s => s.dropOwn (fun _ => true))
    let s := s.freeze
    let s := (s.objs.filter (fun o => !o.float && !o.deleted && o.home = core)).foldl State.rehome s
    let s := (s.replaceFloats).repair 1 core.die core.core 0
    let s := s.postHealth 2 reason core 0 0 0
    let s := (s.colls.filter (fun c => c.die = core.die && c.core = core.core)).foldl (fun s c => s.due (.collectiveAbort c.die c.slot 4)) s
    if reason = 1 then s else s.due (.scanSlot core.die)

/-! ## The rotating scan (R427 to R429) -/

/-- R427: every task context of a core is vacant and both engine queues are empty. -/
def State.vacant (s : State) (c : CoreId) : Bool :=
  slots.all (fun t => (s.ctx ⟨c.die, c.core, t⟩).status = .free) && (s.core c).mxq.isEmpty && decide (s.copyActive c = 0) &&
    decide (s.copyQueued c = 0)
/-- R368: an invocation in a drain frame moves to a dispatcher frame as soon as one is free. -/
def State.moveFrames (s : State) : State :=
  s.invs.foldl (fun s r =>
    if r.drained && (r.place.map (fun p => decide (r.frame.length ≤ s.frameRoom p.1))).getD false then s.setInv { r with drained := false } else s) s
/-- R427, R429: the core of the next slot: one that is moved to it, or the next in rotation. A retired core has a slot only where
its resolutions are still to be settled (R428). -/
def State.nextScan (s : State) (die : BitVec 2) : Option (CoreId × Nat) :=
  let n := (s.die die).scanSlot
  let order := (List.range 192).map (fun k => (n + k) % 192)
  let id := fun (k : Nat) => (⟨die, BitVec.ofNat 8 k⟩ : CoreId)
  match order.find? (fun k => (s.core (id k)).wantScan) with
  | some k => some (id k, n)
  | none => (order.find? (fun k => !(s.core (id k)).retired)).map (fun k => (id k, (k + 1) % 192))
/-- R427, R368: a slot begins; it is lost while the drain frames are in use. -/
def State.beginSlot (s : State) (die : BitVec 2) : State :=
  let s := s.moveFrames
  if (s.die die).scanning.isSome then s
  else match s.nextScan die with
    | none => s
    | some (c, n) =>
      let d := s.die die
      let lost := decide (8 ≤ s.framesUsed die true)
      let s := s.setDie die { d with scanSlot := n, slotAt := s.time, scanning := if lost then none else some c.core }
      if lost then s
      else let k := s.core c; s.setCore { k with drain := true }
/-- R427. -/
def execScanSlot (die : BitVec 2) (s : State) : Out := .next (s.beginSlot die).counted

/-- R427: the core of the slot has not been drained within 10 µs. -/
def State.giveUpSlot (s : State) (die : BitVec 2) : State :=
  let d := s.die die
  match d.scanning with
  | none => s
  | some c =>
    let id : CoreId := ⟨die, c⟩
    if s.vacant id || decide ((s.time - d.slotAt).toNat < 10000) then s
    else
      let k := s.core id
      (s.setDie die { d with scanning := none }).setCore { k with drain := false, wantScan := true }
/-- R427. -/
def execScanDrainTimeout (die : BitVec 2) (s : State) : Out := .next (s.giveUpSlot die).counted

/-- Whether a core is under test: it is the core of its die's slot and has been drained. -/
def State.underTest (s : State) (c : CoreId) : Bool := (s.die c.die).scanning = some c.core && s.vacant c
/-- The scan of a core is over. -/
def State.scanOver (s : State) (c : CoreId) : State :=
  let d := s.die c.die
  let k := s.core c
  (s.setDie c.die { d with scanning := none }).setCore
    { k with unconf := [], ran := [], scanned := s.time, drain := false, late := false, wantScan := false }

/-- R428: a resolution of this package or of another is confirmed. -/
def State.confirmAt (s : State) (core : CoreId) (ph : Word) : State :=
  if ph = 0 then s
  else if nmPkg ph = s.pkg then s.confirmPh ph
  else s.sendOrdered (mkPacket s 7 (nmPkg ph) (nmDie ph) 255 (dieAgent core.die) 7 (.prm (.confirm ph)))
/-- R428: a pass confirms the core's resolutions. -/
def State.passScan (s : State) (c : CoreId) : State :=
  if !s.underTest c then s
  else
    let s := (s.core c).unconf.foldl (fun s ph => s.confirmAt c ph) s
    let d := s.die c.die
    (s.setDie c.die { d with stats := { d.stats with scanpass := d.stats.scanpass + 1 } }).scanOver c
/-- R428. -/
def execScanPass (core : CoreId) (s : State) : Out := .next (s.passScan core).counted

/-- R429 step 2: an unconfirmed resolution breaks with cause SCAN. -/
def State.voidAt (s : State) (core : CoreId) (ph : Word) : State :=
  if ph = 0 then s
  else if nmPkg ph = s.pkg then s.breakPh ph 4
  else s.sendOrdered (mkPacket s 7 (nmPkg ph) (nmDie ph) 255 (dieAgent core.die) 7 (.prm (.hbrk ph 4)))
/-- R429 step 3: a region that had an invocation on the core fails, if its STATE is 1. -/
def State.scanRegion (s : State) (r : BitVec 12 × Word) : State :=
  let prot := s.protOf r.1
  if r.2 = 0 then s
  else match s.blkAway prot r.2 with
    | some p => s.tellPkg p (.fail r.1 r.2 true)
    | none => if s.blkState prot r.2 = 1 then s.failRegion prot r.1 r.2 17 3 true else s
/-- R429. -/
def State.failScan (s : State) (c : CoreId) (unit : BitVec 8) : State :=
  if !s.underTest c then s
  else
    let k := s.core c
    let s := s.retireCore c 1
    let s := k.unconf.foldl (fun s ph => s.voidAt c ph) s
    let s := k.ran.foldl State.scanRegion s
    let d := s.die c.die
    let s := (s.setDie c.die { d with stats := { d.stats with scanfail := d.stats.scanfail + 1 } }).postHealth 1 unit c k.scanned s.time
      (natWord k.unconf.length)
    s.scanOver c
/-- R429. -/
def execScanFail (core : CoreId) (unit : BitVec 8) (s : State) : Out := .next (s.failScan core unit).counted

/-- R427: a core has gone 10 ms without a pass. -/
def execScanlate (core : CoreId) (s : State) : Out :=
  .next (State.counted (
    let k := s.core core
    let since := s.time - k.scanned
    if k.retired || k.late || decide (since.toNat ≤ 10000000) then s
    else (s.setCore { k with late := true }).postHealth 10 0 core since 0 0))

/-! ## Corrections (R425, R426) -/

/-- Times within a span before now. -/
def recentTimes (now : Word) (span : Nat) (ts : List Word) : List Word := ts.filter (fun t => decide ((now - t).toNat < span))
/-- R426: corrections in one HBM row. -/
def State.hbmFixed (s : State) (pa : Nat) : State :=
  let die := homeDie pa
  let d := s.die die
  let row := Config.hbmRow pa
  let log := (row, s.time) :: d.rowFix.filter (fun e => decide ((s.time - e.2).toNat < 86400000000000))
  let n := (log.filter (fun e => e.1 = row)).length
  let s := s.setDie die { d with
    stats := { d.stats with cehbm := d.stats.cehbm + 1 }
    rowFix := if n < 4 then log else log.filter (fun e => e.1 ≠ row) }
  if n < 4 then s else (s.postHealth 4 5 (dieAgent die) (natWord pa) (natWord n) 0).repair 3 die 255 (row.setWidth 64)
/-- R426: corrections in one way of an L2 slice; R435: a slice keeps at least 20 of its 24 ways. -/
def State.l2Fixed (s : State) (slice : CoreId) (way pa : Nat) : State :=
  let d := s.die slice.die
  let mine := fun (e : BitVec 8 × Nat × Word) => e.1 = slice.core && e.2.1 = way
  let log := (slice.core, way, s.time) :: d.ways.filter (fun e => decide ((s.time - e.2.2).toNat < 3600000000000))
  let n := (log.filter mine).length
  let s := s.setDie slice.die { d with
    stats := { d.stats with cel2 := d.stats.cel2 + 1 }
    ways := if n < 8 then log else log.filter (fun e => !mine e) }
  if n < 8 then s
  else if decide (4 ≤ (d.badWays.filter (fun w => w.1 = slice.core)).length) then s.service 2 slice.die (natWord way)
  else
    let d := s.die slice.die
    let s := (s.setDie slice.die { d with badWays := d.badWays ++ [(slice.core, way)] }).writeBack (fun a _ => a / 256 = pa / 256)
    (s.postHealth 4 4 slice (natWord pa) (natWord n) 0).repair 2 slice.die slice.core (natWord way)

def State.coreFixed (s : State) (die : BitVec 2) : State :=
  let d := s.die die
  s.setDie die { d with stats := { d.stats with cecore := d.stats.cecore + 1 } }
/-- R420, R425, R431: a corrected error. Corrections in tables and cells have no count. -/
def State.corrected (s : State) : ErrSite → State
  | .coreState c _ _ => s.coreFixed c.die
  | .l1 c _ => s.coreFixed c.die
  | .stash c _ => s.coreFixed c.die
  | .l2 slice way pa => s.l2Fixed slice way pa
  | .hbm pa => s.hbmFixed pa
  | .counter _ _ => s
  | .rennet _ _ => s
  | .promise _ => s
  | .objectEntry _ => s
  | .sideInfo _ _ => s
  | .invocation _ => s
/-- R426. -/
def execCorrectableError (site : ErrSite) (s : State) : Out := .next (s.corrected site).counted

/-! ## Uncorrectable errors (R415, R418, R420) -/

/-- R415, R431: words become poison. -/
def State.makePoison (s : State) (die : BitVec 2) (ws : List Nat) : State :=
  let d := s.die die
  { s.setDie die { d with stats := { d.stats with ue := d.stats.ue + natWord ws.length } } with
    poison := s.poison ++ ws.filter (fun w => !s.poison.contains w) }
/-- The words of the 32-byte codeword of an address. -/
def codeword (pa : Nat) : List Nat := (List.range 4).map (fun k => pa / 32 * 32 + 8 * k)

/-- R426: two uncorrectable errors of a core's state within 24 hours retire it; R429: it is scanned next. -/
def State.coreBad (s : State) (c : CoreId) : State :=
  let k := s.core c
  let ts := s.time :: recentTimes s.time 86400000000000 k.ues
  let s := s.setCore { k with ues := ts, wantScan := true }
  if ts.length < 2 then s else s.retireCore c 2
/-- R418 cause 3: a context's own state: unspecified until it is written, and a containment error. -/
def State.stateBad (s : State) (c : CtxId) (item index : Nat) : State :=
  let x := s.ctx c
  let s := if x.status = .free then s
    else
      let y := (x.setItem s item index (wordOf (freeBytes s.issued 8))).getD x
      (s.setCtx { y with errs := y.errs ++ [⟨17, 3, 0, false, false, y.priv, y.pc⟩] }).postHealth 3 1 c.coreId 0 1 0
  s.coreBad c.coreId
/-- R415: a word of the stash: scratch, or an entry of a window. -/
def State.stashBad (s : State) (c : CoreId) (a : Nat) : State :=
  match windowAt (s.core c).windows a with
  | none => s.makePoison c.die [stashPoison c a]
  | some w => match w.filled.find? (fun e => e.1 = (a - w.stash) / 64) with
    | some (_, pa) => s.makePoison c.die [(pa + a % 64) / 8 * 8]
    | none => s

/-- The protection context of a launch. -/
def State.launchCtx (s : State) (l : LaunchId) : Option (BitVec 12) :=
  if l.pkg = s.pkg then (if s.launches.any (fun x => x.id = l) then some (s.queue l.q).ctx else none)
  else match (s.runners.filterMap (fun c => c.run)).find? (fun r => r.i.launch = l) with
    | some r => some r.i.pctx
    | none => (s.invs.find? (fun r => r.i.launch = l)).map (fun r => r.i.pctx)
/-- R420: the launch of a lost entry is retired: its root promise breaks, and R358 follows. -/
def State.retireLaunch (s : State) (l : LaunchId) : State := (s.settle [⟨0, l, .broken 1 0, none⟩]).due (.launchRetirement l)
/-- R420: the region that owns a lost entry fails; where none is known, the launch is retired. -/
def State.ownerFails (s : State) (pctx : Option (BitVec 12)) (region : Word) (l : LaunchId) : State :=
  match pctx with
  | some x =>
    if region = 0 then s.retireLaunch l
    else match s.blkAway (s.protOf x) region with
      | some p => s.tellPkg p (.fail x region false)
      | none => s.failRegion (s.protOf x) x region 17 1 false
  | none => s.retireLaunch l

/-- R437: the UE record of a lost table entry. Where its word lies the spec does not say (log entry 118). -/
def State.ueTable (s : State) (die : BitVec 2) : State := s.postHealth 3 6 (dieAgent die) (wordOf (freeBytes s.issued 8)) 1 0
/-- R420: where a lost entry tells neither a region nor a launch, the running launches of the contexts that it may serve are retired
(log entry 118). -/
def State.retireUsers (s : State) (uses : BitVec 12 → Bool) : State :=
  (s.launches.filter (fun l => l.running && uses (s.queue l.id.q).ctx)).foldl (fun s l => s.retireLaunch l.id) s
/-- R420: a lost counter cell: its value is unspecified. -/
def State.cellLost (s : State) (die : BitVec 2) (idx : BitVec 16) : State :=
  (({ s with ctrs := tset 0 s.ctrs (cellKey die idx) (BitVec.ofNat 48 (leNat (freeBytes s.issued 6))) }).ueTable die).retireUsers (fun x =>
    let p := s.protOf x
    decide (p.cbase.toNat ≤ idx.toNat) && decide (idx.toNat < p.cbase.toNat + p.clen.toNat))
/-- R420: a lost object entry. -/
def State.objLost (s : State) (n : Word) : State :=
  match s.objs.find? (fun o => o.name = n && !o.deleted) with
  | none => s
  | some o => ((s.ueTable (nmDie n)).deleteObj n).retireUsers (fun x => x = o.pctx)
/-- R420: a lost entry of a side-information table belongs to the region of the collective that moves its block. -/
def State.sideLost (s : State) (die : BitVec 2) (bid : BitVec 48) : State :=
  let d := s.die die
  if !d.side.any (fun e => e.valid && e.bid = bid) then s
  else
    let s := (s.ueTable die).setDie die { d with side := d.side.map (fun e => if e.bid = bid then { e with valid := false, gen := e.gen + 1 } else e) }
    match s.colls.find? (fun c => c.tag = bidTag bid) with
    | some c => s.ownerFails (some c.pctx) c.region c.launch
    | none => s
/-- R420: a lost invocation, in the store of a die or in a frame. -/
def State.invLost (s : State) (id : Nat) : State :=
  match s.invs.find? (fun r => r.i.id = id && r.stage ≠ .running) with
  | none => s
  | some r => (let s := s.ueTable r.die; if r.frame.isEmpty then s.discardAll [(r, 1, none)] else s).ownerFails (some r.i.pctx) r.i.region r.i.launch
/-- R420: a lost Rennet entry is removed as by TRCAN. -/
def State.entryLost (s : State) (die : BitVec 2) (idx : BitVec 14) : State :=
  match s.entries.find? (fun e => fld e.id 14 2 = die && fld e.id 0 14 = idx) with
  | none => s
  | some e => ((s.ueTable die).dropTriggers (fun x => x.id = e.id)).ownerFails (some e.pctx) e.region e.launch
/-- R420: a lost promise breaks with cause UNWIND. -/
def State.promiseLost (s : State) (ph : Word) : State :=
  match s.promise ph with
  | none => s
  | some p =>
    let s := ((s.ueTable (nmDie ph)).setPromise { p with st := .pending, trying := none, conf := false }).settle [⟨ph, p.launch, .broken 1 ph, none⟩]
    s.ownerFails (s.launchCtx p.launch) p.region p.launch

/-- R415, R418, R420: an uncorrectable error. -/
def State.uncorrected (s : State) : ErrSite → State
  | .coreState c item index => s.stateBad c item.toNat index.toNat
  | .l1 c pa => s.makePoison c.die [pa / 8 * 8]
  | .stash c a => s.stashBad c a
  | .l2 slice _ pa => s.makePoison slice.die (codeword pa)
  | .hbm pa => s.makePoison (homeDie pa) (codeword pa)
  | .counter die idx => s.cellLost die idx
  | .rennet die idx => s.entryLost die idx
  | .promise ph => s.promiseLost ph
  | .objectEntry n => s.objLost n
  | .sideInfo die bid => s.sideLost die bid
  | .invocation id => s.invLost id
/-- R415. -/
def execUncorrectableError (site : ErrSite) (s : State) : Out := .next (s.uncorrected site).counted

/-- R425: the scrubber reads a codeword with so many symbols in error. -/
def execPatrolScrub (pa errors : Nat) (s : State) : Out :=
  .next (State.counted (
    if errors = 0 then s
    else if errors ≤ 2 then s.hbmFixed pa
    else (s.makePoison (homeDie pa) (codeword pa)).postHealth 3 5 (dieAgent (homeDie pa)) (natWord (pa / 32 * 32)) 0 0))

/-! ## Failed links (R432) -/

def Link.blank : Link :=
  { txSeq := 0, rxSeq := 0, replay := [], nak := false, replays := [], up := true, training := false, lanes := 4,
    outq := [], inq := [], txq := [], dropping := false, owes := false }
def State.link (s : State) (l : BitVec 6) : Link := match s.links.find? (fun e => e.1 = l) with | some e => e.2 | none => Link.blank
def State.setLink (s : State) (l : BitVec 6) (x : Link) : State := { s with links := (l, x) :: s.links.filter (fun e => e.1 ≠ l) }
/-- R437: a LINK record, of the die that owns the link. -/
def State.linkRecord (s : State) (sub : BitVec 8) (l : BitVec 6) : State :=
  let x := s.link l
  s.postHealth 5 sub (dieAgent (linkDie l)) (l.setWidth 64) (natWord (recentTimes s.time 1000000 x.replays).length) (natWord x.lanes)
/-- R280, R284: a link is down: what its replay buffer holds is lost, and recovered end to end (R290); new routes are installed. -/
def State.takeDown (s : State) (l : BitVec 6) : State :=
  let s := s.setLink l { s.link l with up := false, training := false, lanes := 0, replay := [], outq := [], txq := [] }
  (if s.downs.contains l then s else { s with downs := l :: s.downs, routeEra := s.routeEra + 1 }).linkRecord 0 l
/-- R432. -/
def State.failLink (s : State) : LinkFailure → State
  | .portDown l => s.takeDown l
  | .dieLink l => s.takeDown l
  | .lane l mask => ((s.setLink l { s.link l with lanes := 2 }).linkRecord 2 l).repair 4 (linkDie l) (l.setWidth 8) (mask.setWidth 64)
  | .ethernet e => s.setPort e { s.port e with link := false }
/-- R432. -/
def execLinkDown (what : LinkFailure) (s : State) : Out := .next (s.failLink what).counted

end Sys2Proof.Machine
end

