-- ==== Sys2Proof/Machine/Boot.lean ====
section
/-! DEFINITION. Start-up and security: cold and warm starts (R439 to R442), verification (R443), keys (R444, R445), measurement and
quotes (R446, R447), alarms (R448, R449), power (R450). -/

namespace Sys2Proof.Machine

/-! ## Verification (R443) -/

/-- R443: a firmware image under a configuration record. -/
def imageOk (r : ConfigRecord) (i : FwImage) : Bool := Config.hssValid i.bytes && i.rsvOk && decide (r.minfw.toNat ≤ i.svn.toNat)
/-- R443, R448: the action of an alarm trigger. -/
def policyOf (r : ConfigRecord) (i : BitVec 2) : BitVec 2 := fld r.policy (2 * i.toNat) 2
/-- R443: a configuration record. -/
def recordOk (r : ConfigRecord) : Bool :=
  Config.hssValid r.bytes && r.magic = 0x43524647 && r.version = 1 && r.rsv = 0 && dies.all (fun i => policyOf r i ≠ 3)
def Flash.firmwareOk (f : Flash) : Bool := imageOk f.record f.controller && imageOk f.record f.firmware

/-- R442: in recovery the host writes an image or a record, which is verified first. -/
def State.writeFlash (s : State) (w : FlashWrite) : State :=
  if s.regs.state ≠ 3 then s
  else match w with
    | .controller i => if imageOk s.flash.record i then { s with flash := { s.flash with controller := i } } else s
    | .device i => if imageOk s.flash.record i then { s with flash := { s.flash with firmware := i } } else s
    | .record r => if recordOk r then { s with flash := { s.flash with record := r } } else s
/-- R442. -/
def execFlashImageWrite (w : FlashWrite) (s : State) : Out := .next (s.writeFlash w).counted

/-! ## Repairs at a start (R435) -/

/-- R435: entries from the first whose tag fails are discarded, each with a record. -/
def State.checkLog (s : State) (bad : Option Nat) : State :=
  match bad with
  | none => s
  | some n =>
    let lost := s.flash.repairs.length - n
    let s := { s with flash := { s.flash with repairs := s.flash.repairs.take n } }
    (List.range lost).foldl (fun s k => s.postHealth 9 255 (dieAgent 0) (natWord (n + k)) 0 0) s
/-- R435: a way is disabled, where the slice keeps 20. -/
def State.disableWay (s : State) (die : BitVec 2) (slice : BitVec 8) (way : Nat) : State :=
  let d := s.die die
  if d.badWays.contains (slice, way) then s
  else if decide (4 ≤ (d.badWays.filter (fun w => w.1 = slice)).length) then s.service 2 die (natWord way)
  else s.setDie die { d with badWays := d.badWays ++ [(slice, way)] }
/-- R434: stack, channel and bank of DETAIL. -/
def bankOf (r : Repair) : BitVec 2 × BitVec 14 := (r.die, fld r.detail 0 14)
/-- R435: one repair; `earlier` are those before it. A bank has two spare rows. -/
def State.applyRepair (s : State) (earlier : List Repair) (r : Repair) : State :=
  if r.kind = 1 then
    let k := s.core ⟨r.die, r.unit⟩
    if k.retired then s else (s.setCore { k with retired := true }).postHealth 2 3 ⟨r.die, r.unit⟩ 0 0 0
  else if r.kind = 2 then s.disableWay r.die r.unit r.detail.toNat
  else if r.kind = 3 then
    if decide (2 ≤ (earlier.filter (fun x => x.kind = 3 && bankOf x = bankOf r)).length) then s.service 3 r.die r.detail else s
  else if r.kind = 4 then s.setLink (r.unit.setWidth 6) { s.link (r.unit.setWidth 6) with lanes := 2 }
  else s
def applyRepairs : List Repair → List Repair → State → State
  | _, [], s => s
  | done, r :: rs, s => applyRepairs (done ++ [r]) rs (s.applyRepair done r)
def State.repairs (s : State) : State := applyRepairs [] (s.flash.record.repairs ++ s.flash.repairs) s

/-! ## What an alarm does (R448, R449) -/

/-- R444, R445: the key of a slot changes: what was written under it is no longer readable. -/
def State.newKey (s : State) (slot : BitVec 8) : State :=
  { s with keyVer := tset 0 s.keyVer slot.toNat (tget 0 s.keyVer slot.toNat + 1) }
/-- R448: the key store and the wrapped-key record are zeroised. -/
def State.erase (s : State) : State :=
  let s := (List.range 256).foldl (fun s k => s.newKey (BitVec.ofNat 8 k)) s
  { s with keys := [], flash := { s.flash with keys := none }, regs := { s.regs with state := 4 } }
/-- R448: the strongest action stands. -/
def State.alarmAct (s : State) (code : BitVec 2) : State :=
  if code = 2 then s.erase
  else if code = 1 && s.regs.state ≠ 4 && s.regs.state ≠ 3 then { s with regs := { s.regs with state := 2 } }
  else s
/-- R448, R449: a trigger fires; the record is written before any context stops. -/
def State.alarm (s : State) (trig : BitVec 2) (reading : Word) : State :=
  let code := policyOf s.flash.record trig
  let s := { s with regs := { s.regs with alarms := s.regs.alarms ||| (1#8 <<< trig.toNat) } }
  (s.postHealth 12 (trig.setWidth 8) (dieAgent 0) (code.setWidth 64) reading 0).alarmAct code

/-! ## The steps (R439) -/

/-- How a start ends short of step 11: by failing at a step, after step 2 with nothing to unwrap, or by an alarm that stops it (R448). -/
inductive StartEnd where
  | failed (s : State)
  | erased (s : State)
  | stopped (s : State)
/-- A step begins. R448: an alarm acts at once; one that quarantines or erases stops the start. -/
def State.atStep (s : State) (t : StartTests) (n : BitVec 4) : Except StartEnd State :=
  let s := { s with regs := { s.regs with step := n } }
  match t.alarm with
  | some (k, trig, reading) =>
    if k ≠ n then .ok s
    else
      let s := s.alarm trig reading
      if s.regs.state = 0 then .ok s else .error (.stopped s)
  | none => .ok s
/-- A step begins; the start fails where it does not pass. -/
def State.startStep (s : State) (t : StartTests) (n : BitVec 4) (ok : State → Bool) : Except StartEnd State :=
  match s.atStep t n with
  | .ok s => if ok s then .ok s else .error (.failed s)
  | .error e => .error e

/-- Step 6: failing ways are disabled and recorded. -/
def State.retention (s : State) (ws : List (BitVec 2 × BitVec 8 × Nat)) : State :=
  ws.foldl (fun s w =>
    let d := s.die w.1
    (s.setDie w.1 { d with badWays := d.badWays ++ [(w.2.1, w.2.2)] }).repair 2 w.1 w.2.1 (natWord w.2.2)) s
/-- Every slice keeps 20 of its 24 ways. -/
def State.waysOk (s : State) : Bool :=
  dies.all (fun d => (s.die d).badWays.all (fun w => decide (((s.die d).badWays.filter (fun x => x.1 = w.1)).length ≤ 4)))
/-- Every die keeps a core. -/
def State.coresOk (s : State) : Bool := dies.all (fun d => !(s.liveCores d).isEmpty)

/-- R446: the measurement of step 10. -/
def State.measure (s : State) : State :=
  let f := s.flash
  let s := { s with mr := Vector.replicate 8 0 }
  let s := (((s.extend 0 (sha256 f.controller.bytes)).extend 1 (sha256 f.firmware.bytes)).extend 2 (sha256 f.record.bytes)).extend 3
    (if f.repairs.isEmpty then zeros 32 else f.lastTag)
  s.extend 4 (sha256 ((if s.regs.warm then 1 else 0) :: leBytes 8 f.starts))
/-- Step 11; R442: a successful start clears both counts. -/
def State.openQueues (s : State) : State :=
  { s with regs := { s.regs with state := 1 }, flash := { s.flash with cfail := 0, wfail := 0 } }
/-- R448: a start after ERASE stops after step 2. -/
def State.hasKeys (s : State) : Except StartEnd State := if s.flash.keys.isNone then .error (.erased s) else .ok s

/-- The steps of a cold start. -/
def coldSteps (t : StartTests) (s : State) : Except StartEnd State := do
  let s ← s.startStep t 1 (fun _ => t.selfTest)
  let s ← s.startStep t 2 (fun s => s.flash.firmwareOk && recordOk s.flash.record)
  let s ← (s.checkLog t.badTag).hasKeys
  let s ← s.startStep t 3 (fun _ => t.pufOk)
  let s ← ({ s with keys := (s.flash.keys.getD []).map (fun (k : BitVec 8 × List Byte) => k.1) } : State).atStep t 4
  let s ← s.repairs.startStep t 5 (fun _ => t.hbmOk)
  let s ← s.atStep t 6
  let s := s.retention t.badWays
  if !s.waysOk then throw (.failed s)
  let s ← s.atStep t 7
  let s := t.badCores.foldl (fun (s : State) c => s.retireCore c 1) s
  if !s.coresOk then throw (.failed s)
  let s ← s.atStep t 8
  -- step 9: `powerOn` has left memory, cells and tables clear (R440)
  let s ← (t.deadLinks.foldl State.takeDown s).atStep t 9
  let s ← s.atStep t 10
  let s ← s.measure.atStep t 11
  pure s.openQueues

/-- What power leaves of a package: its flash, its place in the pod, and the frames that have left it. R440: memory, cells and
tables are clear. -/
def State.powerOn (s : State) : State :=
  { State.reset with
    pkg := s.pkg, pods := s.pods, hosts := s.hosts, routeEra := s.routeEra, txFrames := s.txFrames, issued := s.issued,
    fresh := s.fresh,
    flash := { s.flash with starts := s.flash.starts + 1, cfail := if s.flash.cfail = 3 then 0 else s.flash.cfail } }

/-- R442: a failed start. -/
def State.startFailed (s : State) : State := { s with regs := { s.regs with fstep := s.regs.step } }
def up3 (n : BitVec 2) : BitVec 2 := if n = 3 then 3 else n + 1
/-- R442: the third failed cold start in a row enters recovery. -/
def State.coldFailed (s : State) : State :=
  let s := s.startFailed
  let n := up3 s.flash.cfail
  { s with flash := { s.flash with cfail := n }, regs := { s.regs with state := if n = 3 then 3 else 0 } }
/-- R448: the end of a start after ERASE. -/
def State.startErased (s : State) : State := { s with regs := { s.regs with state := 4 } }

def State.coldStart (s : State) (t : StartTests) : State :=
  match coldSteps t s.powerOn with
  | .ok s => s
  | .error (.failed s) => s.coldFailed
  | .error (.erased s) => s.startErased
  | .error (.stopped s) => s
/-- R439. -/
def execColdStart (tests : StartTests) (s : State) : Out := .next (s.coldStart tests).counted

/-! ## Warm starts (R441) -/

/-- R441: every launch is retired by step 1 of R358, without completion records. What other packages hold of a launch goes as well. -/
def State.retireAll (s : State) : State :=
  let s := (s.launches.map (fun l => l.id)).foldl (fun s l =>
    let s := s.beginRetire l
    if l.pkg = s.pkg then s.tellPods (.retire l 3) else s) s
  ((s.allCtxs.filter (fun c => c.status ≠ .free)).map (fun c => c.id)).foldl (fun s id => s.withCtx id (fun s => s.endInv none)) s
/-- R441: HBM holds what was last written back. -/
def State.loseDirty (s : State) : State :=
  { s with mem := s.dirty.foldl (fun m e => tset 0 m e.1 e.2.1.1) s.mem, poison := s.homePoison.eraseDups, dirty := [] }

/-- What a warm start leaves of a core and of a die. -/
def CoreSt.warmed (k : CoreSt) : CoreSt :=
  { k with stash := [], windows := [], tlb := [], ro := [], mxq := [], drain := false, asked := [] }
def DieSt.warmed (d : DieSt) : DieSt :=
  { d with ctlb := [], mig := none, notify := [], egress := [], coded := [], applying := [], held := [], scanning := none, early := [],
           earlyErr := [], dbg := DebugPage.reset }
/-- R441: contexts, queues and engines are as at reset; memory, cells, tables and registers are kept (steps 3, 5, 6, 7 and 9 are
skipped). -/
def State.warmReset (s : State) : State :=
  let s := dies.foldl (fun s d => match (s.die d).mig with | some m => s.abandon d m | none => s) s
  let s := dies.foldl (fun s d => s.setDie d (s.die d).warmed) s
  { s with
    cx := Ctx.blank ⟨0, 0, 0⟩, ctxs := [], cores := s.cores.map CoreSt.warmed, invs := [], launches := s.launches.filter (fun l => l.id.pkg ≠ s.pkg), firings := [], raising := [], heldRaises := [], copies := [], rows := [],
    copyq := [], leftTiles := [], dlseq := [], ctWaits := [], landRows := [], colls := [], fq := [], orphans := [], reports := [], flushes := [], lateRaises := [], net := [], agenda := [], dirty := [], throttle := 0
    flash := { s.flash with starts := s.flash.starts + 1 }
    regs := { s.regs with state := 0, warm := true, step := 0, alarms := 0 } }
/-- R441: RCVD and FIN of every work queue are cleared. -/
def State.clearQueues (s : State) : State :=
  let at_ := s.regs.wqtab.toNat
  let hit := fun (a : Nat) => decide (at_ ≤ a) && decide (a < at_ + 8192 * 128) && decide (48 ≤ (a - at_) % 128) && decide ((a - at_) % 128 < 56)
  { s with mem := s.mem.filter (fun e => !hit e.1) }

/-- The steps of a warm start. -/
def warmSteps (t : StartTests) (s : State) : Except StartEnd State := do
  let s ← s.startStep t 1 (fun _ => t.selfTest)
  let s ← s.startStep t 2 (fun s => s.flash.firmwareOk)
  let s ← s.hasKeys
  let s ← s.atStep t 4
  let s ← s.repairs.atStep t 8
  let s ← (t.deadLinks.foldl State.takeDown s).atStep t 10
  let s ← s.measure.clearQueues.atStep t 11
  pure s.openQueues

/-- R442: the third failed warm start in a row forces a cold start. -/
def State.warmFailed (s : State) (t : StartTests) : State :=
  let s := s.startFailed
  let n := up3 s.flash.wfail
  let s := { s with flash := { s.flash with wfail := n } }
  if n = 3 then s.due (.coldStart t) else s

/-- R441, R442: a warm start does not leave recovery. -/
def State.warmStart (s : State) (cause : WarmCause) (t : StartTests) : State :=
  if s.regs.state = 3 then s
  else
    let s := if cause = .rstreq then (s.retireAll).writeBack (fun _ _ => true) else s.loseDirty
    match warmSteps t s.warmReset with
    | .ok s => s
    | .error (.failed s) => s.warmFailed t
    | .error (.erased s) => s.startErased
    | .error (.stopped s) => s
/-- R441. -/
def execWarmStart (cause : WarmCause) (tests : StartTests) (s : State) : Out := .next (s.warmStart cause tests).counted

/-! ## Keys (R444, R445) -/

/-- R444: the record in flash is updated before the key store. -/
def State.keyRequest (s : State) (r : KeyRequest) : State :=
  match s.flash.keys with
  | none => s
  | some ks =>
    if !Config.wrapValid r.wrapped then s
    else
      let ks := ks.filter (fun k => k.1 ≠ r.slot) ++ (if r.install then [(r.slot, r.wrapped)] else [])
      { s with flash := { s.flash with keys := some ks }, keys := ks.map (fun (k : BitVec 8 × List Byte) => k.1) }.newKey r.slot
/-- R444. -/
def execKeySlotRequest (r : KeyRequest) (s : State) : Out := .next (s.keyRequest r).counted

/-- R448: Amival provisions a new wrapped-key record. -/
def execWrappedKeyRecordProvision (slots : List (BitVec 8)) (s : State) : Out :=
  .next ({ s with flash := { s.flash with keys := some (slots.map (fun k => (k, []))) } } : State).counted

/-! ## Quotes (R447) -/

/-- R447: a store of 1 to GO. -/
def State.askQuote (s : State) : State :=
  let r := s.regs
  if r.qgo || r.state = 3 || r.state = 4 || decide (2 ^ 20 ≤ s.flash.leaf) then { s with regs := { r with qstat := 3 } }
  else { s with regs := { r with qstat := 1, qgo := true }, flash := { s.flash with leaf := s.flash.leaf + 1 } }
/-- R447. -/
def execAttestationGo (s : State) : Out := .next s.askQuote.counted

/-- R447: the first 384 bytes of a quote. -/
def State.quoteBody (s : State) : List Byte :=
  (List.range 8).flatMap (fun i => leBytes 32 ((s.mr.toList.getD i 0).toNat)) ++ leBytes 32 s.regs.nonce.toNat ++
    leBytes 16 s.flash.record.serial.toNat ++ wordBytes s.time ++ leBytes 8 s.flash.starts ++ leBytes 8 s.flash.firmware.svn.toNat ++ zeros 56
/-- R447: the quote with its signature, by the leaf taken. -/
def State.quote (s : State) : List Byte :=
  let q := s.quoteBody
  q ++ (List.range 2964).map (Config.hssSign (s.flash.leaf - 1) q)
/-- R447: the quote is written; QSTAT is 2 once its writes are performed. -/
def State.finishQuote (s : State) : State :=
  if !s.regs.qgo || s.tagged quoteTag then s
  else (s.globalPut quoteTag 0 s.regs.qaddr s.quote).lateRaised quoteTag
/-- R447. -/
def execQuoteComplete (s : State) : Out := .next s.finishQuote.counted

/-! ## Alarms (R448, R449) and power (R450) -/

/-- R448. -/
def execAlarm (trig : BitVec 2) (reading : Word) (s : State) : Out := .next (s.alarm trig reading).counted

/-- R450: the cap in watts. -/
def capOf (powcap : BitVec 16) : Nat := if powcap = 0 then 2400 else max 600 powcap.toNat
/-- R450: idle cycles are inserted, up to 15 in 16; how many is the device's. -/
def execPowerThrottle (watts : Nat) (over105 : Bool) (s : State) : Out :=
  .next ({ s with throttle := if decide (capOf s.regs.powcap < watts) || over105 then 1 + Config.choice s.issued 15 % 15 else 0 } : State).counted

end Sys2Proof.Machine
end

