-- ==== Sys2Proof/Machine/Wire.lean ====
section
/-! DEFINITION. Packets as flits (R281, R286, R293, R301, R329, R339, R342) and the exponent codec of the ports (R291, R292). -/

namespace Sys2Proof.Config

/-- What a packet whose layout the manual does not give carries, by the number of the occasion, its header flit and its data bytes (log entry
105). -/
opaque payload : Nat → BitVec 512 → List Byte → Payload

end Sys2Proof.Config

namespace Sys2Proof.Machine

/-! ## The exponent codec (R291, R292) -/

/-- R291: the types that a port codes. -/
def codecType (t : BitVec 8) : Bool := t = 0x20 || t = 0x22 || t = 0x23
/-- Bytes of an element: BF16 for FH 1, FP32 for FH 2; the bits below its exponent. -/
def elemOf (fh : BitVec 2) : Nat := if fh = 1 then 2 else 4
def fracBits (fh : BitVec 2) : Nat := if fh = 1 then 7 else 23
def elemExp (fh : BitVec 2) (v : Nat) : Nat := v / 2 ^ fracBits fh % 256
/-- R292: sign and fraction: S × 128 + fraction, or S × 2^23 + fraction. -/
def elemRest (fh : BitVec 2) (v : Nat) : Nat := v / 2 ^ (fracBits fh + 8) * 2 ^ fracBits fh + v % 2 ^ fracBits fh
def elemJoin (fh : BitVec 2) (e r : Nat) : Nat := r / 2 ^ fracBits fh * 2 ^ (fracBits fh + 8) + e * 2 ^ fracBits fh + r % 2 ^ fracBits fh
/-- The elements of a chunk. -/
def elemsOf (n : Nat) : Nat → List Byte → List Nat
  | 0, _ => []
  | k + 1, bs => leNat (bs.take n) :: elemsOf n k (bs.drop n)
/-- R292: the fewest bits that hold a delta. -/
def bitsFor (d : Nat) : Nat := ((List.range 9).find? (fun k => decide (d < 2 ^ k))).getD 8
/-- R292: fields of k bits, the least significant bit first, in order. -/
def packBits (k : Nat) : List Nat → Nat
  | [] => 0
  | d :: ds => d + 2 ^ k * packBits k ds
/-- R292: one chunk. -/
def encodeChunk (fh : BitVec 2) (bs : List Byte) : List Byte :=
  let n := 64 / elemOf fh
  let vs := elemsOf (elemOf fh) n bs
  let es := vs.map (elemExp fh)
  let base := es.foldl min 255
  let k := bitsFor ((es.map (fun e => e - base)).foldl max 0)
  let coded := BitVec.ofNat 8 k :: BitVec.ofNat 8 base :: (leBytes ((k * n + 7) / 8) (packBits k (es.map (fun e => e - base))) ++
    vs.flatMap (fun v => leBytes (elemOf fh - 1) (elemRest fh v)))
  if bs.length < 64 || decide (65 ≤ coded.length) then 15 :: bs else coded
/-- R292: a payload, chunk by chunk. -/
def encodePayload (fh : BitVec 2) : Nat → List Byte → List Byte
  | 0, _ => []
  | k + 1, bs => if bs.isEmpty then [] else encodeChunk fh (bs.take 64) ++ encodePayload fh k (bs.drop 64)
def unpackBits (k : Nat) : Nat → Nat → List Nat
  | 0, _ => []
  | n + 1, w => w % 2 ^ k :: unpackBits k n (w / 2 ^ k)
/-- R292: the next chunk of a payload of which so many bytes are left, and the rest of its encoding. -/
def decodeChunk (fh : BitVec 2) (left : Nat) : List Byte → List Byte × List Byte
  | [] => ([], [])
  | h :: bs =>
    if h = 15 then (bs.take (min 64 left), bs.drop (min 64 left))
    else
      let n := 64 / elemOf fh
      let k := h.toNat
      let base := (bs.headD 0).toNat
      let d := (k * n + 7) / 8
      let es := (unpackBits k n (leNat ((bs.drop 1).take d))).map (fun x => base + x)
      let rs := elemsOf (elemOf fh - 1) n (bs.drop (1 + d))
      ((es.zip rs).flatMap (fun e => leBytes (elemOf fh) (elemJoin fh e.1 e.2)), bs.drop (1 + d + n * (elemOf fh - 1)))
def decodePayload (fh : BitVec 2) : Nat → Nat → List Byte → List Byte
  | 0, _, _ => []
  | fuel + 1, left, bs =>
    if left = 0 then [] else let (c, rest) := decodeChunk fh left bs; c ++ decodePayload fh fuel (left - c.length) rest

/-! ## Flits of a packet -/

/-- TSPEC by the type of the payload; the n-th occasion's where the manual does not say. -/
def tspecOf (n : Nat) : Payload → BitVec 240
  | .ack aseq pseq fseq _ => 0#142 ++ boolBit fseq.isSome ++ fseq.getD 0 ++ pseq ++ aseq ++ 0#1
  | .reply _ _ _ _ poison _ aseq pseq fseq _ => 0#142 ++ boolBit fseq.isSome ++ fseq.getD 0 ++ pseq ++ aseq ++ boolBit poison
  | .row r => 0#201 ++ boolBit r.redir ++ boolBit r.dlast ++ r.didx ++ r.dlseq ++ 1#1
  | .answer res dlseq didx redir slot => 1#1 ++ 0#187 ++ slot ++ boolBit redir ++ didx ++ dlseq ++ res
  | .collBack defer resume chunk cslot _ _ _ => 0#206 ++ cslot ++ BitVec.ofNat 16 chunk ++ boolBit resume ++ boolBit defer
  | .block _ _ _ _ cidx cslot _ _ _ => 0#208 ++ cslot ++ cidx
  | .coded cseq comps _ _ => 0#206 ++ cseq ++ BitVec.ofNat 2 (comps.length - 1)
  | _ => Config.tspec n
/-- AUX: of a block packet, BID and RGEN (R293). -/
def auxOf (p : Packet) : Word := match p.payload with | .block bid rgen _ _ _ _ _ _ _ => rgen ++ bid | _ => p.aux
def strictOf (p : Packet) : Bool := match p.payload with | .block _ _ _ strict _ _ _ _ _ => strict | _ => false
def retOf (p : Packet) : Bool := match p.payload with | .block _ _ ret _ _ _ _ _ _ => ret | _ => false
/-- R281: the header flit. -/
def headerFlit (p : Packet) (tspec : BitVec 240) : BitVec 512 :=
  tspec ++ 0#3 ++ p.plen ++ auxOf p ++ p.addr ++ 0#16 ++ p.seq ++ 0#6 ++ p.sag ++ p.score ++ p.sdie ++ p.spkg ++ 0#2 ++ p.dep ++ p.ddie ++
    p.dpkg ++ 0#1 ++ p.ndf ++ p.fh ++ boolBit (retOf p) ++ boolBit (strictOf p) ++ boolBit p.coded ++ boolBit p.xc ++ p.vch ++ p.type
/-- R301: a component descriptor. -/
def descriptor (c : Component) : BitVec 256 :=
  0#31 ++ boolBit c.strict ++ c.cslot ++ 0#2 ++ c.sdie ++ c.spkg ++ c.hg.getD 2 0 ++ c.hg.getD 1 0 ++ c.hg.getD 0 0 ++ c.cidx ++ c.daddr ++ 0#2 ++
    c.ddie ++ c.dpkg ++ c.bid
/-- R301: the coding flits: two descriptors each. -/
def codingFlits : List Component → List (BitVec 512)
  | [] => []
  | [a] => [0#256 ++ descriptor a]
  | a :: b :: cs => (descriptor b ++ descriptor a) :: codingFlits cs
/-- R281: data flits; the last one is padded with zeros. -/
def dataFlits : Nat → List Byte → List (BitVec 512)
  | 0, _ => []
  | k + 1, bs => BitVec.ofNat 512 (leNat (bs.take 64)) :: dataFlits k (bs.drop 64)
/-- Whether the manual says which bytes a payload's data flits hold. -/
def knownData : Payload → Bool
  | .bytes _ | .copyData _ _ _ _ _ _ _ | .contrib _ | .row _ | .block _ _ _ _ _ _ _ _ _ | .coded _ _ _ _ => true
  | _ => false
/-- The bytes of a packet's data flits, before any coding; a block has all of its 4,096 (R293). -/
def wireBytes (n : Nat) (p : Packet) : List Byte :=
  let bs := if knownData p.payload then payData p.payload else (List.range (64 * p.ndf.toNat)).map (Config.wire n)
  if p.type = 0x23 then bs ++ zeros (4096 - bs.length) else bs
/-- R291: a packet as it stands on a link: coded by the port where it has a format hint; a die-to-die link has no codec (R277). -/
def onLink (n : Nat) (l : BitVec 6) (p : Packet) : Packet × List Byte :=
  let bs := wireBytes n p
  if codecType p.type && (p.fh = 1 || p.fh = 2) && decide (l.toNat < portCount) then
    let c := encodePayload p.fh (flitsOf bs.length) bs
    ({ p with xc := true, ndf := BitVec.ofNat 7 (flitsOf c.length) }, c)
  else (p, bs)
def compsOf (p : Packet) : List Component := match p.payload with | .coded _ comps _ _ => comps | _ => []
/-- The flits of a packet, and how many the codec has saved (R308). -/
def flitsFor (n : Nat) (l : BitVec 6) (p : Packet) : List Flit × Nat :=
  let (q, bs) := onLink n l p
  let put := fun (sop : Bool) (w : BitVec 512) => ({ data := w, lseq := 0, lack := 0, vch := p.vch, hlv := p.hlv, sop := sop, nak := false, rsv := 0, crc := 0 } : Flit)
  (put true (headerFlit q (tspecOf n p.payload)) :: (codingFlits (compsOf p) ++ dataFlits (flitsOf bs.length) bs).map (put false),
   if q.xc then p.ndf.toNat - q.ndf.toNat else 0)

/-! ## A packet from its flits -/

/-- R281: the fields of a header flit. -/
def headerOf (w : BitVec 512) (hlv : BitVec 2) (via : BitVec 6) : Packet :=
  { type := w.extractLsb' 0 8, vch := w.extractLsb' 8 2, xc := w.getLsbD 10, coded := w.getLsbD 11, fh := w.extractLsb' 14 2,
    ndf := w.extractLsb' 16 7, dpkg := w.extractLsb' 24 12, ddie := w.extractLsb' 36 2, dep := w.extractLsb' 38 8, spkg := w.extractLsb' 48 12,
    sdie := w.extractLsb' 60 2, score := w.extractLsb' 62 8, sag := w.extractLsb' 70 4, seq := w.extractLsb' 80 32, addr := w.extractLsb' 128 64,
    aux := w.extractLsb' 192 64, plen := w.extractLsb' 256 13, payload := .none, hlv := hlv, via := via }
/-- R282: whether a reserved field of a header flit is not 0. -/
def headerRsv (w : BitVec 512) : Bool :=
  w.getLsbD 23 || w.extractLsb' 46 2 ≠ (0 : BitVec 2) || w.extractLsb' 74 6 ≠ (0 : BitVec 6) || w.extractLsb' 112 16 ≠ (0 : BitVec 16) ||
    w.extractLsb' 269 3 ≠ (0 : BitVec 3)
/-- R301: coding flits of a packet, K of its components. -/
def codedCount (w : BitVec 512) : Nat := (w.extractLsb' 272 2).toNat + 1
def codingCount (w : BitVec 512) : Nat := if w.getLsbD 11 then (codedCount w + 1) / 2 else 0
/-- R281: flits of a packet by its header. -/
def flitCount (w : BitVec 512) : Nat := 1 + codingCount w + (w.extractLsb' 16 7).toNat
/-- R301: a descriptor read; its bytes are a whole block, and its protection context is not on the wire (log entry 111). -/
def componentFrom (k : Nat) (pctx : BitVec 12) (d : BitVec 256) : Component :=
  { bid := d.extractLsb' 0 48, dpkg := d.extractLsb' 48 12, ddie := d.extractLsb' 60 2, daddr := d.extractLsb' 64 64, cidx := d.extractLsb' 128 16,
    hg := ([144, 160, 176].take (k - 1)).map (fun i => d.extractLsb' i 16), spkg := d.extractLsb' 192 12, sdie := d.extractLsb' 204 2,
    cslot := d.extractLsb' 208 16, strict := d.getLsbD 224, pctx := pctx, len := 4096 }
def componentsFrom (k : Nat) (pctx : BitVec 12) (fs : List (BitVec 512)) : List Component :=
  ((fs.flatMap (fun w => [w.extractLsb' 0 256, w.extractLsb' 256 256])).take k).map (componentFrom k pctx)
/-- A whole packet that has come over a link: the port restores the exact payload (R291). -/
def packetFrom (n : Nat) (via : BitVec 6) (hlv : BitVec 2) (w : BitVec 512) (rest : List (BitVec 512)) : Packet :=
  let h := headerOf w hlv via
  let raw := (rest.drop (codingCount w)).flatMap (fun x => leBytes 64 x.toNat)
  let bs := if h.xc then decodePayload h.fh (flitsOf h.plen.toNat) h.plen.toNat raw else raw
  let pctx : BitVec 12 := (Config.tspec n).setWidth 12
  { h with
    xc := false
    ndf := if h.xc then BitVec.ofNat 7 (flitsOf h.plen.toNat) else h.ndf
    payload :=
      if h.type = 0x23 then .block (h.aux.setWidth 48) (fld h.aux 48 16) (w.getLsbD 13) (w.getLsbD 12) (w.extractLsb' 272 16) (w.extractLsb' 288 16) pctx none
        (bs.take 4096)
      else if h.type = 0x24 then .coded (w.extractLsb' 274 32) (componentsFrom (codedCount w) pctx (rest.take (codingCount w)))
        (List.range (codedCount w)) (bs.take 4096)
      else Config.payload n w (bs.take h.plen.toNat) }

/-- R281: a packet by its type. -/
def packetEvent (p : Packet) : Instr :=
  match p.type.toNat with
  | 1 => .inv p
  | 2 => .rld p
  | 3 => .rst p
  | 4 => .ramo p
  | 5 => .rred p
  | 6 => .ctr p
  | 7 => .prm p
  | 8 => .send p
  | 0x10 => .rpl p
  | 0x11 => .ack p
  | 0x20 => .bwr p
  | 0x21 => .brd p
  | 0x22 => .brdd p
  | 0x23 => .blk p
  | 0x24 => .cblk p
  | 0x30 => .back p
  | 0x31 => .dack p
  | 0x32 => .dnak p
  | 0x33 => .rel p
  | 0x34 => .hnot p
  | 0x35 => .hwd p
  | 0x36 => .cerr p
  | 0x37 => .hold p
  | _ => .malformedPacket p.ddie p

end Sys2Proof.Machine
end

