-- ==== Sys2Proof/Machine/Link.lean ====
section
/-! DEFINITION. Links (R278 to R280, R283): the sideband, the CRC, what a port sends, replay, retraining. -/

namespace Sys2Proof.Machine

/-- One bit of CRC-32 (IEEE 802.3, reflected). -/
def crcBit (c : BitVec 32) : BitVec 32 := if c.getLsbD 0 then (c >>> 1) ^^^ 0xEDB88320 else c >>> 1
def crcByte (c : BitVec 32) (b : Byte) : BitVec 32 :=
  let c := c ^^^ b.setWidth 32
  crcBit (crcBit (crcBit (crcBit (crcBit (crcBit (crcBit (crcBit c)))))))
def crc32 (bs : List Byte) : BitVec 32 := ~~~(bs.foldl crcByte (BitVec.allOnes 32))

/-- R278: sideband bits [31:0]. -/
def sideband (f : Flit) : BitVec 32 := f.rsv ++ boolBit f.nak ++ boolBit f.sop ++ f.hlv ++ f.vch ++ f.lack ++ f.lseq
/-- R278: the CRC over the flit and sideband bits [31:0]. -/
def flitCrc (f : Flit) : BitVec 32 := crc32 (leBytes 64 f.data.toNat ++ leBytes 4 (sideband f).toNat)

/-- R278: LACK: the last flit received in order. -/
def Link.lack (x : Link) : BitVec 12 := x.rxSeq - 1
/-- R279: flits that an acknowledgement does not cover. -/
def uncovered (lack : BitVec 12) (fs : List Flit) : List Flit := fs.filter (fun f => decide (0 < (f.lseq - lack).toNat) && decide ((f.lseq - lack).toNat < 2048))

/-- R279: flits that a replay buffer holds. -/
def replayCap : Nat := 256

/-- R279: a flit arrives. One with a CRC error or out of order is discarded, and every later one up to the next good one; a NAK is owed. A flit
between packets that begins none carries nothing but its sideband (log entry 106). -/
def Link.receive (x : Link) (f : Flit) : Link :=
  if f.crc ≠ flitCrc f then { x with nak := true, dropping := true }
  else if f.lseq ≠ x.rxSeq then { x with nak := x.nak || !x.dropping, dropping := true }
  else
    let empty := x.inq.isEmpty && !f.sop
    { x with rxSeq := x.rxSeq + 1, nak := false, dropping := false, replay := uncovered f.lack x.replay,
             inq := if empty then x.inq else x.inq ++ [f], owes := x.owes || !empty }
/-- R281: the packet that the flits received begin with, once it is whole, and the flits after it. One whose reserved fields are not 0 has no
type (R282). -/
def Link.packet (x : Link) (n : Nat) (l : BitVec 6) : Option (Packet × List Flit) :=
  match x.inq with
  | [] => none
  | f :: fs =>
    if fs.length + 1 < flitCount f.data then none
    else
      let via : BitVec 6 := if l.toNat < portCount then l else BitVec.ofNat 6 (12 * (linkDie l).toNat)
      let p := packetFrom n via f.hlv f.data ((fs.take (flitCount f.data - 1)).map (fun g => g.data))
      some (if headerRsv f.data then { p with type := 0 } else p, fs.drop (flitCount f.data - 1))
/-- A whole packet goes to the switch of the port's die. -/
def State.assemble (s : State) (l : BitVec 6) : State :=
  match (s.link l).packet s.issued l with
  | none => s
  | some (p, rest) => (s.setLink l { s.link l with inq := rest }).due (if p.type = 0 then .malformedPacket (s.inDie p) p else packetEvent p)
def State.takeFlit (s : State) (l : BitVec 6) (f : Flit) : State :=
  let x := s.link l
  if !x.up then s
  else
    let good := f.crc = flitCrc f && f.lseq = x.rxSeq
    let s := (s.setLink l (x.receive f)).assemble l
    if good && f.nak then s.due (.linkReplay l f.lack) else s
/-- R279. -/
def execFlitReceive (link : BitVec 6) (f : Flit) (s : State) : Out := .next (s.takeFlit link f).counted

/-- R278: a flit as it is sent now: LACK, NAK and the CRC are those of the moment. -/
def Link.stamp (x : Link) (f : Flit) : Flit :=
  let g := { f with lack := x.lack, nak := x.nak }
  { g with crc := flitCrc g }
/-- R279: a flit is sent, and kept until LACK covers it. -/
def Link.send (x : Link) (f : Flit) : Link :=
  let g := x.stamp { f with lseq := x.txSeq }
  { x with txSeq := x.txSeq + 1, replay := x.replay ++ [g], outq := x.outq ++ [g], nak := false, owes := false }
/-- R279: as many of the flits that wait as the replay buffer has room for. -/
def Link.sendAll (x : Link) : Link :=
  let n := replayCap - x.replay.length
  { (x.txq.take n).foldl Link.send x with txq := x.txq.drop n }
/-- R283: the first packet for a link, among those whose channel and hop level have credit: a packet waits for those of its own channel and level
only. -/
def State.nextOut (s : State) (l : BitVec 6) : Option Packet := s.outbox.find? (fun p => s.portOf p = l && Config.credit s.issued l p.vch p.hlv)
/-- R308: flits that the codec of a port has saved. -/
def State.saved (s : State) (l : BitVec 6) (n : Nat) : State :=
  let d := s.die (linkDie l)
  s.setDie (linkDie l) { d with stats := { d.stats with codecsave := d.stats.codecsave + natWord n } }
/-- Whether a link has something to send, and may: it is up, and the replay buffer has room (R279). Traffic waits while it is retrained (R280). -/
def State.linkSends (s : State) (l : BitVec 6) : Bool :=
  let x := s.link l
  x.up && !x.training && decide (x.replay.length < replayCap) && (!x.txq.isEmpty || (s.nextOut l).isSome || x.nak || x.owes)
def emptyFlit : Flit := { data := 0, lseq := 0, lack := 0, vch := 0, hlv := 0, sop := false, nak := false, rsv := 0, crc := 0 }
/-- R279, R283: a link sends: the rest of a packet, the next packet, or the acknowledgement or NAK that it owes, on a flit that carries nothing else
(log entry 106). -/
def State.transmitOn (s : State) (l : BitVec 6) : State :=
  let x := s.link l
  if !s.linkSends l then s
  else if !x.txq.isEmpty then s.setLink l x.sendAll
  else match s.nextOut l with
    | some p =>
      let (fs, n) := flitsFor s.issued l p
      (({ s with outbox := s.outbox.erase p } : State).saved l n).setLink l { x with txq := fs }.sendAll
    | none => s.setLink l (x.send emptyFlit)

/-- R279: the sender resends from the flit after the last good one; R280: 16 replays within 1 ms retrain the link. -/
def State.replayLink (s : State) (l : BitVec 6) (lack : BitVec 12) : State :=
  let x := s.link l
  if !x.up then s
  else
    let left := uncovered lack x.replay
    let times := s.time :: recentTimes s.time 1000000 x.replays
    let again := left.map x.stamp
    s.setLink l { x with replay := again, outq := x.outq ++ again, replays := times, nak := false, owes := false,
                         training := x.training || decide (16 ≤ times.length) }
/-- R279. -/
def execLinkReplay (link : BitVec 6) (lack : BitVec 12) (s : State) : Out := .next (s.replayLink link lack).counted

/-- R280, R432: the outcome of a retraining. -/
def State.retrain (s : State) (l : BitVec 6) (ok : Bool) : State :=
  if ok then (s.linkRecord 1 l).setLink l { s.link l with up := true, training := false, replays := [], lanes := max 2 (s.link l).lanes }
  else s.takeDown l
/-- R280. -/
def execLinkRetrain (link : BitVec 6) (ok : Bool) (s : State) : Out := .next (s.retrain link ok).counted

end Sys2Proof.Machine
end

