-- ==== Sys2Proof/Machine/Dispatch.lean ====
section
/-! DEFINITION. One meaning for each constructor of `Instr`. -/

namespace Sys2Proof.Machine

def exec (i : Instr) (s : State) : Host.Outcome State Fault Refusal :=
  match i with
  | .nop m ext => Sys2Proof.Machine.execNop m ext s
  | .add m gd ga y w => Sys2Proof.Machine.execAdd m gd ga y w s
  | .sub m gd ga y w => Sys2Proof.Machine.execSub m gd ga y w s
  | .and m gd ga y w => Sys2Proof.Machine.execAnd m gd ga y w s
  | .or m gd ga y w => Sys2Proof.Machine.execOr m gd ga y w s
  | .xor m gd ga y w => Sys2Proof.Machine.execXor m gd ga y w s
  | .andn m gd ga y w => Sys2Proof.Machine.execAndn m gd ga y w s
  | .shl m gd ga y w => Sys2Proof.Machine.execShl m gd ga y w s
  | .shr m gd ga y w => Sys2Proof.Machine.execShr m gd ga y w s
  | .sar m gd ga y w => Sys2Proof.Machine.execSar m gd ga y w s
  | .rot m gd ga y w => Sys2Proof.Machine.execRot m gd ga y w s
  | .min m gd ga y w => Sys2Proof.Machine.execMin m gd ga y w s
  | .max m gd ga y w => Sys2Proof.Machine.execMax m gd ga y w s
  | .minu m gd ga y w => Sys2Proof.Machine.execMinu m gd ga y w s
  | .maxu m gd ga y w => Sys2Proof.Machine.execMaxu m gd ga y w s
  | .adds m gd ga y w => Sys2Proof.Machine.execAdds m gd ga y w s
  | .subs m gd ga y w => Sys2Proof.Machine.execSubs m gd ga y w s
  | .mul m gd ga y w => Sys2Proof.Machine.execMul m gd ga y w s
  | .mulh m gd ga y => Sys2Proof.Machine.execMulh m gd ga y s
  | .mulhu m gd ga y => Sys2Proof.Machine.execMulhu m gd ga y s
  | .div m gd ga y w => Sys2Proof.Machine.execDiv m gd ga y w s
  | .divu m gd ga y w => Sys2Proof.Machine.execDivu m gd ga y w s
  | .rem m gd ga y w => Sys2Proof.Machine.execRem m gd ga y w s
  | .remu m gd ga y w => Sys2Proof.Machine.execRemu m gd ga y w s
  | .clz m gd ga w => Sys2Proof.Machine.execClz m gd ga w s
  | .ctz m gd ga w => Sys2Proof.Machine.execCtz m gd ga w s
  | .popc m gd ga w => Sys2Proof.Machine.execPopc m gd ga w s
  | .brev m gd ga w => Sys2Proof.Machine.execBrev m gd ga w s
  | .extr m gd ga pos wm => Sys2Proof.Machine.execExtr m gd ga pos wm s
  | .insr m gd ga gb pos wm => Sys2Proof.Machine.execInsr m gd ga gb pos wm s
  | .sext m gd ga wm => Sys2Proof.Machine.execSext m gd ga wm s
  | .zext m gd ga wm => Sys2Proof.Machine.execZext m gd ga wm s
  | .lea m gd ga off => Sys2Proof.Machine.execLea m gd ga off s
  | .movi m gd v => Sys2Proof.Machine.execMovi m gd v s
  | .cmp m qd ga y w cond => Sys2Proof.Machine.execCmp m qd ga y w cond s
  | .csel m gd qc ga gb => Sys2Proof.Machine.execCsel m gd qc ga gb s
  | .qop m qd qa qb tt => Sys2Proof.Machine.execQop m qd qa qb tt s
  | .fadd m gd ga gb rm => Sys2Proof.Machine.execFadd m gd ga gb rm s
  | .fsub m gd ga gb rm => Sys2Proof.Machine.execFsub m gd ga gb rm s
  | .fmul m gd ga gb rm => Sys2Proof.Machine.execFmul m gd ga gb rm s
  | .ffma m gd ga gb gc rm => Sys2Proof.Machine.execFfma m gd ga gb gc rm s
  | .fmin m gd ga gb rm => Sys2Proof.Machine.execFmin m gd ga gb rm s
  | .fmax m gd ga gb rm => Sys2Proof.Machine.execFmax m gd ga gb rm s
  | .fdiv m gd ga gb rm => Sys2Proof.Machine.execFdiv m gd ga gb rm s
  | .fsqrt m gd ga rm => Sys2Proof.Machine.execFsqrt m gd ga rm s
  | .fcmp m qd ga gb cond => Sys2Proof.Machine.execFcmp m qd ga gb cond s
  | .fcvt m gd ga rm df sf ov => Sys2Proof.Machine.execFcvt m gd ga rm df sf ov s
  | .br m off => Sys2Proof.Machine.execBr m off s
  | .call m gd off => Sys2Proof.Machine.execCall m gd off s
  | .jmp m gd ga => Sys2Proof.Machine.execJmp m gd ga s
  | .ret m ga => Sys2Proof.Machine.execRet m ga s
  | .rep m gn len stride => Sys2Proof.Machine.execRep m gn len stride s
  | .yield m => Sys2Proof.Machine.execYield m s
  | .halt m => Sys2Proof.Machine.execHalt m s
  | .trap m code => Sys2Proof.Machine.execTrap m code s
  | .brk m code => Sys2Proof.Machine.execBrk m code s
  | .eret m => Sys2Proof.Machine.execEret m s
  | .sysc m n => Sys2Proof.Machine.execSysc m n s
  | .mfs m gd spr => Sys2Proof.Machine.execMfs m gd spr s
  | .mts m ga spr => Sys2Proof.Machine.execMts m ga spr s
  | .atinv m ga mode => Sys2Proof.Machine.execAtinv m ga mode s
  | .gvote m d qa => Sys2Proof.Machine.execGvote m d qa s
  | .gsplit m => Sys2Proof.Machine.execGsplit m s
  | .ld m gd ga mo sz sx => Sys2Proof.Machine.execLd m gd ga mo sz sx s
  | .st m ga mo gc sz ctr => Sys2Proof.Machine.execSt m ga mo gc sz ctr s
  | .ldro m gd ga mo sz sx => Sys2Proof.Machine.execLdro m gd ga mo sz sx s
  | .roinv m => Sys2Proof.Machine.execRoinv m s
  | .pref m ga mo => Sys2Proof.Machine.execPref m ga mo s
  | .amo m gd ga gb gc opc sz qs ctr scope => Sys2Proof.Machine.execAmo m gd ga gb gc opc sz qs ctr scope s
  | .red m ga gb opc sz ctr scope => Sys2Proof.Machine.execRed m ga gb opc sz ctr scope s
  | .fence m scope => Sys2Proof.Machine.execFence m scope s
  | .pset m pd v => Sys2Proof.Machine.execPset m pd v s
  | .padv m pd y => Sys2Proof.Machine.execPadv m pd y s
  | .smap m gs gv gl => Sys2Proof.Machine.execSmap m gs gv gl s
  | .sunmap m gs => Sys2Proof.Machine.execSunmap m gs s
  | .sflush m gs => Sys2Proof.Machine.execSflush m gs s
  | .sinv m gs => Sys2Proof.Machine.execSinv m gs s
  | .vlda m ad p mc fmt rm => Sys2Proof.Machine.execVlda m ad p mc fmt rm s
  | .vsta m p ab mc fmt rm => Sys2Proof.Machine.execVsta m p ab mc fmt rm s
  | .vmova m ad sa mc fmt rm => Sys2Proof.Machine.execVmova m ad sa mc fmt rm s
  | .vadd m ad sa sb mc fmt rm => Sys2Proof.Machine.execVadd m ad sa sb mc fmt rm s
  | .vsub m ad sa sb mc fmt rm => Sys2Proof.Machine.execVsub m ad sa sb mc fmt rm s
  | .vmul m ad sa sb mc fmt rm => Sys2Proof.Machine.execVmul m ad sa sb mc fmt rm s
  | .vfma m ad sa sb mc fmt rm => Sys2Proof.Machine.execVfma m ad sa sb mc fmt rm s
  | .vmin m ad sa sb mc fmt rm => Sys2Proof.Machine.execVmin m ad sa sb mc fmt rm s
  | .vmax m ad sa sb mc fmt rm => Sys2Proof.Machine.execVmax m ad sa sb mc fmt rm s
  | .vabs m ad sa mc fmt rm => Sys2Proof.Machine.execVabs m ad sa mc fmt rm s
  | .vcvt m ad sa mc rm df sf ov => Sys2Proof.Machine.execVcvt m ad sa mc rm df sf ov s
  | .vcmp m md sa sb mc fmt rm cond => Sys2Proof.Machine.execVcmp m md sa sb mc fmt rm cond s
  | .vsel m ad sa sb mc fmt rm => Sys2Proof.Machine.execVsel m ad sa sb mc fmt rm s
  | .vred m gd sa mc fmt rm op => Sys2Proof.Machine.execVred m gd sa mc fmt rm op s
  | .vperm m ad sa sb mc fmt rm => Sys2Proof.Machine.execVperm m ad sa sb mc fmt rm s
  | .vbcast m ad ga mc rm => Sys2Proof.Machine.execVbcast m ad ga mc rm s
  | .vspec m ad sa mc fmt rm fn => Sys2Proof.Machine.execVspec m ad sa mc fmt rm fn s
  | .vand m ad sa sb mc fmt rm => Sys2Proof.Machine.execVand m ad sa sb mc fmt rm s
  | .vor m ad sa sb mc fmt rm => Sys2Proof.Machine.execVor m ad sa sb mc fmt rm s
  | .vxor m ad sa sb mc fmt rm => Sys2Proof.Machine.execVxor m ad sa sb mc fmt rm s
  | .vshl m ad sa sb mc fmt rm => Sys2Proof.Machine.execVshl m ad sa sb mc fmt rm s
  | .vshr m ad sa sb mc fmt rm => Sys2Proof.Machine.execVshr m ad sa sb mc fmt rm s
  | .vgath m ad ga ab mc fmt rm => Sys2Proof.Machine.execVgath m ad ga ab mc fmt rm s
  | .vscat m ga ab ac mc fmt rm => Sys2Proof.Machine.execVscat m ga ab ac mc fmt rm s
  | .viota m ad ga mc rm => Sys2Proof.Machine.execViota m ad ga mc rm s
  | .vextr m gd aa lane fmt rm => Sys2Proof.Machine.execVextr m gd aa lane fmt rm s
  | .vins m ad ga lane fmt rm => Sys2Proof.Machine.execVins m ad ga lane fmt rm s
  | .mkopTt m md ma mb tt => Sys2Proof.Machine.execMkopTt m md ma mb tt s
  | .mkopReg m md ga => Sys2Proof.Machine.execMkopReg m md ga s
  | .mkpop m gd ma fn => Sys2Proof.Machine.execMkpop m gd ma fn s
  | .mxz m x => Sys2Proof.Machine.execMxz m x s
  | .mxmul m x tok ga gb gc da db => Sys2Proof.Machine.execMxmul m x tok ga gb gc da db s
  | .mxq m x tok ga gb gc gq gs da db => Sys2Proof.Machine.execMxq m x tok ga gb gc gq gs da db s
  | .mxdrn m x tok ga gm fmt rm ov shape => Sys2Proof.Machine.execMxdrn m x tok ga gm fmt rm ov shape s
  | .mxldx m x tok ga fmt shape => Sys2Proof.Machine.execMxldx m x tok ga fmt shape s
  | .cpy m gd gs gn gk mode len => Sys2Proof.Machine.execCpy m gd gs gn gk mode len s
  | .cpy2d m gd gs gsh gk mode strides => Sys2Proof.Machine.execCpy2d m gd gs gsh gk mode strides s
  | .twait m qd mask ge => Sys2Proof.Machine.execTwait m qd mask ge s
  | .ttest m qd mask ge => Sys2Proof.Machine.execTtest m qd mask ge s
  | .disp m gd gs gt tok => Sys2Proof.Machine.execDisp m gd gs gt tok s
  | .dflush m tok => Sys2Proof.Machine.execDflush m tok s
  | .mbpost m ge k fresh => Sys2Proof.Machine.execMbpost m ge k fresh s
  | .mbtake m gd rank => Sys2Proof.Machine.execMbtake m gd rank s
  | .lbset m gb gbase gk cap rsz => Sys2Proof.Machine.execLbset m gb gbase gk cap rsz s
  | .onew m gd gbody glen gclass float hint => Sys2Proof.Machine.execOnew m gd gbody glen gclass float hint s
  | .odel m gn => Sys2Proof.Machine.execOdel m gn s
  | .omove m gn gm => Sys2Proof.Machine.execOmove m gn gm s
  | .invk m gd gt ga gdl narg resolve gang dl rlr method => Sys2Proof.Machine.execInvk m gd gt ga gdl narg resolve gang dl rlr method s
  | .await m gd gh gbuf qd conf => Sys2Proof.Machine.execAwait m gd gh gbuf qd conf s
  | .htest m gd gh fn => Sys2Proof.Machine.execHtest m gd gh fn s
  | .rslv m ga mode len => Sys2Proof.Machine.execRslv m ga mode len s
  | .hbrk m gh code => Sys2Proof.Machine.execHbrk m gh code s
  | .hfree m gh => Sys2Proof.Machine.execHfree m gh s
  | .rgopen m gb gh => Sys2Proof.Machine.execRgopen m gb gh s
  | .rgclose m gb => Sys2Proof.Machine.execRgclose m gb s
  | .rgqry m gd gb fn => Sys2Proof.Machine.execRgqry m gd gb fn s
  | .rgfail m gb code => Sys2Proof.Machine.execRgfail m gb code s
  | .phreg m gph mode => Sys2Proof.Machine.execPhreg m gph mode s
  | .phdrop m gph => Sys2Proof.Machine.execPhdrop m gph s
  | .pharr m gph => Sys2Proof.Machine.execPharr m gph s
  | .phwait m qd gph gto gs => Sys2Proof.Machine.execPhwait m qd gph gto gs s
  | .phaw m qd gph gto gs => Sys2Proof.Machine.execPhaw m qd gph gto gs s
  | .phnew m gd => Sys2Proof.Machine.execPhnew m gd s
  | .ctadd m gc v scope => Sys2Proof.Machine.execCtadd m gc v scope s
  | .ctrd m gd gc => Sys2Proof.Machine.execCtrd m gd gc s
  | .ctwait m qd gc gt tmo => Sys2Proof.Machine.execCtwait m qd gc gt tmo s
  | .trpost m gd gdesc => Sys2Proof.Machine.execTrpost m gd gdesc s
  | .trcan m qd ge => Sys2Proof.Machine.execTrcan m qd ge s
  | .coll m gd gblk det strict => Sys2Proof.Machine.execColl m gd gblk det strict s
  | .siadv m gd grec => Sys2Proof.Machine.execSiadv m gd grec s
  | .siret m gd grec => Sys2Proof.Machine.execSiret m gd grec s
  | .vClassResultWrite c i0 => Sys2Proof.Machine.execVClassResultWrite c i0 s
  | .switchPoint => Sys2Proof.Machine.execSwitchPoint s
  | .forcedSwitchPoint => Sys2Proof.Machine.execForcedSwitchPoint s
  | .postedCountWaitEnd c => Sys2Proof.Machine.execPostedCountWaitEnd c s
  | .waitConditionMet c => Sys2Proof.Machine.execWaitConditionMet c s
  | .waitTimeout c => Sys2Proof.Machine.execWaitTimeout c s
  | .tlbWalkComplete c va acc => Sys2Proof.Machine.execTlbWalkComplete c va acc s
  | .matrixOpComplete core => Sys2Proof.Machine.execMatrixOpComplete core s
  | .copyComplete copy => Sys2Proof.Machine.execCopyComplete copy s
  | .copyPageFault copy => Sys2Proof.Machine.execCopyPageFault copy s
  | .detContributionArrival con => Sys2Proof.Machine.execDetContributionArrival con s
  | .dispatchRowLanded row => Sys2Proof.Machine.execDispatchRowLanded row s
  | .dflushTokenDone c tok => Sys2Proof.Machine.execDflushTokenDone c tok s
  | .invocationReady inv => Sys2Proof.Machine.execInvocationReady inv s
  | .dispatchChoice die => Sys2Proof.Machine.execDispatchChoice die s
  | .floatingPlacement inv => Sys2Proof.Machine.execFloatingPlacement inv s
  | .tileResidencyLoaded inv => Sys2Proof.Machine.execTileResidencyLoaded inv s
  | .loadLevelling die => Sys2Proof.Machine.execLoadLevelling die s
  | .objectMigration name core => Sys2Proof.Machine.execObjectMigration name core s
  | .invocationResume inv => Sys2Proof.Machine.execInvocationResume inv s
  | .quotaCharge c => Sys2Proof.Machine.execQuotaCharge c s
  | .launchStart q => Sys2Proof.Machine.execLaunchStart q s
  | .launchRetirement l => Sys2Proof.Machine.execLaunchRetirement l s
  | .completionRecordPost l => Sys2Proof.Machine.execCompletionRecordPost l s
  | .counterRaise die idx amount => Sys2Proof.Machine.execCounterRaise die idx amount s
  | .triggerFiring die => Sys2Proof.Machine.execTriggerFiring die s
  | .triggeredOpComplete op => Sys2Proof.Machine.execTriggeredOpComplete op s
  | .collectiveDone die slot => Sys2Proof.Machine.execCollectiveDone die slot s
  | .collectiveAbort die slot err => Sys2Proof.Machine.execCollectiveAbort die slot err s
  | .detResendTimeout die slot => Sys2Proof.Machine.execDetResendTimeout die slot s
  | .inv p => Sys2Proof.Machine.execInv p s
  | .rld p => Sys2Proof.Machine.execRld p s
  | .rst p => Sys2Proof.Machine.execRst p s
  | .ramo p => Sys2Proof.Machine.execRamo p s
  | .rred p => Sys2Proof.Machine.execRred p s
  | .ctr p => Sys2Proof.Machine.execCtr p s
  | .prm p => Sys2Proof.Machine.execPrm p s
  | .send p => Sys2Proof.Machine.execSend p s
  | .rpl p => Sys2Proof.Machine.execRpl p s
  | .ack p => Sys2Proof.Machine.execAck p s
  | .bwr p => Sys2Proof.Machine.execBwr p s
  | .brd p => Sys2Proof.Machine.execBrd p s
  | .brdd p => Sys2Proof.Machine.execBrdd p s
  | .blk p => Sys2Proof.Machine.execBlk p s
  | .cblk p => Sys2Proof.Machine.execCblk p s
  | .back p => Sys2Proof.Machine.execBack p s
  | .dack p => Sys2Proof.Machine.execDack p s
  | .dnak p => Sys2Proof.Machine.execDnak p s
  | .rel p => Sys2Proof.Machine.execRel p s
  | .hnot p => Sys2Proof.Machine.execHnot p s
  | .hwd p => Sys2Proof.Machine.execHwd p s
  | .cerr p => Sys2Proof.Machine.execCerr p s
  | .hold p => Sys2Proof.Machine.execHold p s
  | .malformedPacket die p => Sys2Proof.Machine.execMalformedPacket die p s
  | .codedPacketForm die port => Sys2Proof.Machine.execCodedPacketForm die port s
  | .codedFallbackTimeout die cseq comp => Sys2Proof.Machine.execCodedFallbackTimeout die cseq comp s
  | .retentionExpiry die bid => Sys2Proof.Machine.execRetentionExpiry die bid s
  | .holdingsExpiry die => Sys2Proof.Machine.execHoldingsExpiry die s
  | .flitReceive link f => Sys2Proof.Machine.execFlitReceive link f s
  | .linkReplay link lack => Sys2Proof.Machine.execLinkReplay link lack s
  | .linkRetrain link ok => Sys2Proof.Machine.execLinkRetrain link ok s
  | .linkDown what => Sys2Proof.Machine.execLinkDown what s
  | .resendTimeout src sag dpkg ddie => Sys2Proof.Machine.execResendTimeout src sag dpkg ddie s
  | .deliveryFailure p => Sys2Proof.Machine.execDeliveryFailure p s
  | .holdTimer p => Sys2Proof.Machine.execHoldTimer p s
  | .duplicateWindowDrop die spkg sdie score sag => Sys2Proof.Machine.execDuplicateWindowDrop die spkg sdie score sag s
  | .landingFault p => Sys2Proof.Machine.execLandingFault p s
  | .faultEntryPost c => Sys2Proof.Machine.execFaultEntryPost c s
  | .leaseRecall pa => Sys2Proof.Machine.execLeaseRecall pa s
  | .deviceWriteback pa => Sys2Proof.Machine.execDeviceWriteback pa s
  | .shootdownGo die => Sys2Proof.Machine.execShootdownGo die s
  | .shootdownUrgent die => Sys2Proof.Machine.execShootdownUrgent die s
  | .shootdownComplete die => Sys2Proof.Machine.execShootdownComplete die s
  | .pageMigration die pctx va => Sys2Proof.Machine.execPageMigration die pctx va s
  | .migrationAbandon die => Sys2Proof.Machine.execMigrationAbandon die s
  | .debugRead die => Sys2Proof.Machine.execDebugRead die s
  | .debugWrite die => Sys2Proof.Machine.execDebugWrite die s
  | .debugResume die => Sys2Proof.Machine.execDebugResume die s
  | .debugEnd die => Sys2Proof.Machine.execDebugEnd die s
  | .debugHaltRequest die => Sys2Proof.Machine.execDebugHaltRequest die s
  | .registerWrite pa v => Sys2Proof.Machine.execRegisterWrite pa v s
  | .timeWrite v => Sys2Proof.Machine.execTimeWrite v s
  | .ptpEventMessage port offset => Sys2Proof.Machine.execPtpEventMessage port offset s
  | .ethernetFrameReceive port f => Sys2Proof.Machine.execEthernetFrameReceive port f s
  | .ethernetTransmit port => Sys2Proof.Machine.execEthernetTransmit port s
  | .streamEnable idx => Sys2Proof.Machine.execStreamEnable idx s
  | .streamDisable idx => Sys2Proof.Machine.execStreamDisable idx s
  | .streamPacket p => Sys2Proof.Machine.execStreamPacket p s
  | .rawStreamPacket p => Sys2Proof.Machine.execRawStreamPacket p s
  | .frameTimeout idx => Sys2Proof.Machine.execFrameTimeout idx s
  | .mergeWindowClose idx => Sys2Proof.Machine.execMergeWindowClose idx s
  | .scanSlot die => Sys2Proof.Machine.execScanSlot die s
  | .scanDrainTimeout die => Sys2Proof.Machine.execScanDrainTimeout die s
  | .scanPass core => Sys2Proof.Machine.execScanPass core s
  | .scanFail core unit => Sys2Proof.Machine.execScanFail core unit s
  | .scanlate core => Sys2Proof.Machine.execScanlate core s
  | .correctableError site => Sys2Proof.Machine.execCorrectableError site s
  | .uncorrectableError site => Sys2Proof.Machine.execUncorrectableError site s
  | .patrolScrub pa errors => Sys2Proof.Machine.execPatrolScrub pa errors s
  | .coldStart tests => Sys2Proof.Machine.execColdStart tests s
  | .warmStart cause tests => Sys2Proof.Machine.execWarmStart cause tests s
  | .keySlotRequest r => Sys2Proof.Machine.execKeySlotRequest r s
  | .attestationGo => Sys2Proof.Machine.execAttestationGo s
  | .quoteComplete => Sys2Proof.Machine.execQuoteComplete s
  | .alarm trig reading => Sys2Proof.Machine.execAlarm trig reading s
  | .powerThrottle watts over105 => Sys2Proof.Machine.execPowerThrottle watts over105 s
  | .hardwarePrefetch c va => Sys2Proof.Machine.execHardwarePrefetch c va s
  | .ethernetLinkUp port => Sys2Proof.Machine.execEthernetLinkUp port s
  | .landedPairExpiry die => Sys2Proof.Machine.execLandedPairExpiry die s
  | .flashImageWrite w => Sys2Proof.Machine.execFlashImageWrite w s
  | .wrappedKeyRecordProvision slots => Sys2Proof.Machine.execWrappedKeyRecordProvision slots s

end Sys2Proof.Machine
end

