-- ==== Sys2Proof/Machine/Sched.lean ====
section
/-! DEFINITION. What the package does beside the instructions of the issuing context: packets in flight (R281 to R288), code homed
elsewhere (log entry 15), and the events that are due or possible, among which the step picks by `Config.choice` where the manual
fixes no order (log entry 1). -/

namespace Sys2Proof.Machine

/-- R442, R448: whether contexts may issue. -/
def State.live (s : State) : Bool := !s.shut

/-- The issuing context issues: it holds the current run of its core, and no member of its gang is parked. -/
def State.issues (s : State) : Bool :=
  s.live && s.cx.status = .running && !(s.cx.inGang && s.cx.gangIds.any (fun id => (s.ctx id).status.holdsGang))

/-- Time passes. -/
def State.idle (s : State) : State := s.counted

/-- R68: fetch continues after a marker. -/
def State.skipTo (s : State) (next : Word) : State := { s with cx := { s.cx with pc := next, code := [] } }

/-- R52: issue holds for a walk of the program counter's page. -/
def State.holdForFetch (s : State) : State := { s.counted with cx := { s.cx with status := .walking s.cx.pc 2 } }

/-- The issuing core is now that of a context; one that held issue tries again. -/
def State.turn (s : State) (c : CtxId) : State :=
  let s := s.focus c
  if s.cx.status = .blocked then { s with cx := { s.cx with status := .running } } else s

/-! ## Packets in flight -/

/-- The event by which a packet is dealt with: one that came from another package has been accepted before, and is tried again
(R263). -/
def State.netEvent (s : State) (p : Packet) : Instr := if p.spkg = s.pkg then packetEvent p else .landingFault p
/-- The n-th packet in flight inside the package, taken out. -/
def State.takePacket (s : State) (n : Nat) : Option (Instr × State) :=
  (s.net[n]?).map (fun p => (s.netEvent p, { s with net := s.net.eraseIdx n }))
/-- R286: the packets of an ordered type arrive in the order in which their source sent them. -/
def inOrder (p : Packet) (before : List Packet) : Bool :=
  !decide (p.type.toNat < 0x10) ||
    !before.any (fun q => decide (q.type.toNat < 0x10) && q.spkg = p.spkg && q.sdie = p.sdie && q.score = p.score && q.sag = p.sag && q.ddie = p.ddie)
/-- The packets in flight that can be dealt with. An access behind a held one of its context and page waits for that one (R263). -/
def State.deliverable (s : State) : List (List Act) :=
  ((List.range s.net.length).filter (fun n => match s.net[n]? with
    | some p => (p.spkg ≠ s.pkg && !(accessType p.type && s.heldBefore p)) || (p.spkg = s.pkg && inOrder p (s.net.take n) && !((packetInv p).isSome && s.storeFull p.ddie))
    | none => false)).map (fun n => [.deliver n])

/-! ## Contexts -/

/-- One event. -/
def ev (i : Instr) : List Act := [.event i]


/-- What a switch point of the issuing context would deliver or do, besides the choice of the next run. -/
def State.owesHere (s : State) : Bool :=
  (s.pending && (s.cx.gidx = 0 || !s.cx.inGang)) || ((s.cx.victim.isSome || s.cx.unpin || s.drainNow.isSome) && s.allParked)
/-- Whether the choice of R53 on the issuing context's core would take it now. -/
def State.nextHere (s : State) : Bool :=
  s.cx.cores.any (fun k => !s.coreHeld k && s.nextRun k = some s.cx.id)
/-- Whether a switch point of the issuing context comes to something. -/
def State.switches (s : State) : Bool :=
  match s.cx.status with
  | .atSwitch => !s.cx.gangIds.any (fun id => (s.ctx id).awaits)
  | .halting => (s.cutsHalt && !s.cx.awaits) || s.haltable
  | .ready => s.owesHere || (s.cx.haltReq && s.cx.dbgen) || s.nextHere
  | .refused _ => true
  | .posted _ _ => s.owesHere
  | .waiting _ _ _ _ => s.owesHere
  | .faulted _ => s.owesHere
  | .onEntry _ _ => s.owesHere
  | .onMig _ => s.owesHere
  | .debug _ _ _ => s.owesHere
  | _ => false
/-- R50, R51. -/
def switchActs (c : Ctx) : List Act := [.turn c.id, .event (if 512 ≤ c.runLen then .forcedSwitchPoint else .switchPoint)]

/-- R171: whether a waiting context's condition has to be tested: it holds, a question is to be put, or an answer has come. -/
def State.waitDue (s : State) : Bool :=
  match s.cx.status with
  | .waiting (.tokens _ mask _) _ _ _ => s.cx.toksQuiet mask
  | .waiting (.counter _ c thr) _ _ _ =>
    if ctPkg c = s.pkg then reached (s.cell (ctDie c) (ctIndex c)) thr || s.cx.poll.isSome else s.cx.poll.all (fun q => q.2.isSome)
  | .waiting (.phase _ _ id ph) _ _ _ =>
    if phLocal s id then ph.any (fun k => (s.phState id k).isSome) else s.cx.poll.all (fun q => q.2.isSome)
  | .waiting (.await _ _ _ ph _ conf) _ _ _ =>
    let e := s.chainParked ph
    let ts := chainToks s s.chaseFuel ph
    ((awaitEnd conf e).isSome && (s.flushesOver ts || !(s.flushesNew ts).isEmpty)) || parkedPh ph e ≠ ph
  | _ => false
/-- R67: whether the counts awaited are zero. -/
def Ctx.countsZero (c : Ctx) (pod host : Bool) : Bool := !((pod && decide (c.postedPod ≠ 0)) || (host && decide (c.postedHost ≠ 0)))

/-- What may happen next on one context, time aside. -/
def State.ctxActs (s : State) (c : Ctx) : List (List Act) :=
  let t := s.focus c.id
  let own : List (List Act) := match c.status with
    | .running => if t.issues then [[.turn c.id]] else []
    | .blocked => if c.rem.any (fun r => r.kind = .fetch || r.kind = .gather || r.kind = .poll) then [] else [[.turn c.id]]
    | .walking va acc => [ev (.tlbWalkComplete c.id va acc)]
    | .onMig va => if t.migrating va then [] else [ev (.tlbWalkComplete c.id va 0)]
    | .faulted _ => [ev (.faultEntryPost c.id)]
    | .posted pod host => if c.countsZero pod host then [ev (.postedCountWaitEnd c.id)] else []
    | .waiting _ _ _ _ => if t.waitDue then [ev (.waitConditionMet c.id)] else []
    | _ => []
  let done := c.flushes.filter (s.flushSettled c.id)
  (if t.switches then [switchActs c] else []) ++ own ++ done.map (fun k => ev (.dflushTokenDone c.id k))

/-- What the passing of time brings to one context (R171, R363). -/
def State.ctxTimed (s : State) (c : Ctx) : List (List Act) :=
  (match c.status with
   | .waiting w (some d) _ _ =>
     let asks := match w with | .phase _ _ id _ => !phLocal s id | _ => false
     if d.ule s.time && !asks then [ev (.waitTimeout c.id)] else []
   | _ => []) ++
  (match c.run with
   | some r => if decide (10000 ≤ (s.time - r.charged).toNat) then [ev (.quotaCharge c.id)] else []
   | none => [])

/-! ## Engines -/

/-- Whether the engine has something to do for a copy. -/
def Copy.works (c : Copy) (s : State) : Bool := c.canGo && s.forked c.by_ && (c.unacked = 0 || (c.err = 0 && !c.det && decide (c.pos < c.total) && !c.asked))
def FlightRow.works (r : FlightRow) (s : State) : Bool :=
  r.canGo && s.forked r.by_ && s.rowMayGo r && (match r.stage with | .send => true | .next => true | .count _ => true | _ => false)
def State.landWorks (s : State) (x : LandRow) : Bool :=
  x.onEntry.isNone && (if x.slot.isNone then s.rowTurn x else !(s.landable x).isEmpty)
/-- Whether the first firing of a die can start, or a stalled one be posted. -/
def State.fires (s : State) (die : BitVec 2) : Bool :=
  s.vatDue die || s.firings.any (fun f => f.die = die && f.stall.isSome && s.fqRoom f.e.prot) ||
    (match s.firings.find? (fun f => f.die = die && !f.begun && f.onEntry.isNone) with
     | some f => f.e.coll.isSome || !f.channel || s.channelFree die
     | none => false)
/-- What the engines of cores and dies may do next. -/
def State.engineActs (s : State) : List (List Act) :=
  (s.cores.filter (fun k => (k.mxq.head?).any (fun o => s.forked o.by_))).map (fun k => ev (.matrixOpComplete k.id)) ++
  (s.copies.filter (fun c => c.works s)).map (fun c => ev (.copyComplete c.id)) ++
  (s.rows.filter (fun r => r.works s)).map (fun r => ev (.copyComplete r.id)) ++
  (s.copies.filter (fun c => c.stall.isSome && c.onEntry.isNone)).map (fun c => ev (.copyPageFault c.id)) ++
  (s.rows.filter (fun r => r.stall.isSome && r.onEntry.isNone)).map (fun r => ev (.copyPageFault r.id)) ++
  (s.landRows.filter s.landWorks).map (fun x => ev (.dispatchRowLanded x.id)) ++
  (s.firings.filter (fun f => f.fin.isSome)).map (fun f => ev (.triggeredOpComplete f.id)) ++
  (dies.filter s.fires).map (fun d => ev (.triggerFiring d)) ++
  (s.colls.filter (fun c => s.collGoes c || (c.stall.isSome && c.onEntry.isNone))).map (fun c => ev (.collectiveDone c.die c.slot)) ++
  dies.flatMap (fun d => (((s.die d).egress.map (fun e => e.1)).eraseDups).map (fun k => ev (.codedPacketForm d k)))

/-! ## Invocations and launches -/

/-- Whether a held or pre-empted invocation can move on (R194, R235, R369). -/
def State.readies (s : State) (r : InvRec) : Bool :=
  if r.stage = .preempted then r.tiles && s.sentOut r
  else if r.stage ≠ .held || r.onEntry.isSome then false
  else if r.i.resolve then !r.regd || (s.argsOf r).any (fun x => x.breaks.isSome || x.waitsAt.any (s.unwatched r)) ||
    (s.argsOf r).all (fun x => x.waitsAt.isNone)
  else if r.entry.isNone then !r.asked
  else if r.turn.isNone then s.otherwiseReady r
  else s.otherwiseReady r && r.tiles && r.place.isSome && (!(s.flushesNew r.i.toks).isEmpty || (s.flushesOver r.i.toks &&
    (s.mayRun r || ((s.awayBlock r.i.pctx r.i.region).isSome && r.leave.isNone))))
/-- Whether the lists of a cluster let an invocation's tiles be loaded now (R237). -/
def State.loads (s : State) (r : InvRec) : Bool :=
  match r.place with
  | none => false
  | some p =>
    s.listTurn r p && (r.stage ≠ .running || r.windows.all (fun w => s.rangeFree w.1.coreId w.2))
/-- The dispatcher's next choice on a die (R238, R366, R369). -/
def State.dispatchActs (s : State) (die : BitVec 2) : List (List Act) :=
  if (s.readyOn die).isEmpty then []
  else match s.chosen die with
    | some (r, _) => [ev (if r.frame.isEmpty then .dispatchChoice die else .invocationResume r.i.id)]
    | none => if (s.readyOn die).any (s.preempts die) then [ev (.dispatchChoice die)] else []
def State.invActs (s : State) : List (List Act) :=
  (s.invs.filter s.readies).map (fun r => ev (.invocationReady r.i.id)) ++
  (s.invs.filter (fun r => ((s.otherwiseReady r && r.turn.isSome) || r.stage = .preempted) && r.place.isNone)).map (fun r => ev (.floatingPlacement r.i.id)) ++
  (s.invs.filter s.loads).map (fun r => ev (.tileResidencyLoaded r.i.id)) ++
  (if s.invs.isEmpty then [] else dies.flatMap s.dispatchActs) ++
  s.objs.filterMap (fun o => match o.moving with
    | some c => if s.staysFor o then none else some (ev (.objectMigration o.name c))
    | none => none)

/-- Whether the retirement of a launch can go on (R358). -/
def State.retires (s : State) (x : Launch) : Bool :=
  if x.id.pkg = s.pkg then
    x.res ≠ .pending && x.refused.isNone && !x.freed && (!x.ending || (x.out.isEmpty && s.stepOver x))
  else
    !x.ending || (!x.cut && decide (2 ≤ x.step)) || (!x.freed && decide (3 ≤ x.step)) || (!x.out.isEmpty && s.stepOver x && s.flushed x)
def State.launchActs (s : State) : List (List Act) :=
  (((s.launches.filter (fun l => l.id.pkg = s.pkg && !l.running && l.refused.isNone)).map (fun l => l.id.q)).eraseDups.filter (fun q =>
    (s.unchecked q).isSome || (s.waitingLaunch q).any (fun l => l.asked.isNone && l.checked) && decide ((s.runningLaunches q).length < (s.queue q).mout))).map
    (fun q => ev (.launchStart q)) ++
  (s.launches.filter s.retires).map (fun l => ev (.launchRetirement l.id)) ++
  (s.launches.filter (fun l => l.id.pkg = s.pkg && (l.refused.isSome || (l.freed && l.out.isEmpty && s.flushed l)))).map
    (fun l => ev (.completionRecordPost l.id))

/-! ## The device beside them -/

/-- R396, R398, R399: shootdowns and migrations of a die. -/
def State.pagerActs (s : State) (die : BitVec 2) : List (List Act) :=
  let x := s.die die
  let t := x.tcb
  (if t.go && !s.holdsOn t.range && (t.urgent || !s.pinsOn t.range) then [ev (.shootdownComplete die)] else []) ++
  (match x.mig with
   | some m => if s.pinsOn (pageRange m.pctx m.va) || s.holdsOn (pageRange m.pctx m.va) then [] else [ev (.pageMigration die m.pctx m.va)]
   | none => x.notify.map (fun n => ev (.pageMigration die n.1 n.2)))
/-- R409: descriptors whose EN reads 1 and that are not enabled yet. -/
def State.streamActs (s : State) : List (List Act) :=
  let at_ := s.regs.stab.toNat
  if at_ = 0 then []
  else s.mem.filterMap (fun e =>
    if at_ ≤ e.1 ∧ e.1 < at_ + 131072 ∧ (e.1 - at_) % 128 = 0 ∧ e.2.getLsbD 0 then
      let idx : BitVec 10 := BitVec.ofNat 10 ((e.1 - at_) / 128)
      if (s.streamOf idx).isSome then none else some (ev (.streamEnable idx))
    else none)
/-- R407: ports whose ring holds an entry that can be sent. -/
def State.portActs (s : State) : List (List Act) :=
  (dies.filter (fun e =>
    let p := s.port e
    p.en && p.link && ringLen p.txlen.toNat 32768 && decide (p.txdone.toNat < p.txprod.toNat) && !p.txAsked)).map (fun e => ev (.ethernetTransmit e))
def State.deviceActs (s : State) : List (List Act) :=
  dies.flatMap s.pagerActs ++ s.streamActs ++ s.portActs ++ (if s.regs.qgo && !s.tagged quoteTag then [ev .quoteComplete] else [])

/-- R427: what the passing of time brings to the scan of a die. The result of a scan that fails comes from outside. -/
def State.scanTimed (s : State) (die : BitVec 2) : List (List Act) :=
  let d := s.die die
  (match d.scanning with
   | none => if decide (50000 ≤ (s.time - d.slotAt).toNat) then [ev (.scanSlot die)] else []
   | some c =>
     if s.vacant ⟨die, c⟩ then (if decide (40000 ≤ (s.time - d.slotAt).toNat) then [ev (.scanPass ⟨die, c⟩)] else [])
     else if decide (10000 ≤ (s.time - d.slotAt).toNat) then [ev (.scanDrainTimeout die)] else []) ++
  (s.cores.filter (fun k => k.id.die = die && !k.retired && !k.late && decide (10000000 < (s.time - k.scanned).toNat))).map (fun k => ev (.scanlate k.id))
/-- What the passing of time brings to the agents of a die. -/
def State.dieTimed (s : State) (die : BitVec 2) : List (List Act) :=
  let d := s.die die
  d.coded.flatMap (fun x => ((List.range x.comps.length).filter (fun k => x.late k s.time)).map (fun k =>
    ev (.codedFallbackTimeout die x.cseq k))) ++
  (d.side.filter (fun e => e.orig && e.valid && expired e.expiry s.time)).map (fun e => ev (.retentionExpiry die e.bid)) ++
  (if d.holdings.any (fun h => h.at_ ≠ 0 && !s.time.ult h.at_) then [ev (.holdingsExpiry die)] else []) ++
  (if d.landed.any (fun l => decide (10000000 ≤ (s.time - l.at_).toNat)) then [ev (.landedPairExpiry die)] else []) ++
  (match d.mig with
   | some m => if decide (1000000 ≤ (s.time - m.begun).toNat) then [ev (.migrationAbandon die)] else []
   | none => []) ++
  (if s.invs.any (fun r => r.core.isNone && r.stage = .ready && (r.place.map (fun p => p.1)) = some die) && decide (2000 ≤ (s.time - d.levelled).toNat) then
    [ev (.loadLevelling die)] else [])
/-- What the passing of time brings to packets, collectives and streams. -/
def State.packetTimed (s : State) : List (List Act) :=
  (s.unacked.filter (fun u => !u.acc && decide (5000000 ≤ u.age s.time))).map (fun u => ev (.deliveryFailure u.p)) ++
  (s.unacked.filter (fun u => u.overdue s.time)).map (fun u =>
    ev (.resendTimeout ⟨u.p.sdie, u.p.score⟩ u.p.sag u.p.dpkg u.p.ddie)) ++
  (s.rx.filterMap (fun (e : Nat × RxSeries) => e.2.holding.filter (fun h => decide (10000 ≤ (s.time - h.1).toNat)))).map (fun h => ev (.holdTimer h.2)) ++
  (s.heldPackets.filter (fun p => p.spkg ≠ s.pkg && bulkType p.type && decide (1000000 ≤ (s.time - (s.rxGet (rxKeyOf p)).heldAt).toNat))).map (fun p =>
    ev (.holdTimer p)) ++
  (s.rx.filter (fun (e : Nat × RxSeries) => !e.2.window.isEmpty && e.2.heldSeq.isEmpty && decide (10000000 ≤ (s.time - e.2.last).toNat))).map (fun e =>
    let k := e.1 / 2
    ev (.duplicateWindowDrop (BitVec.ofNat 2 k) (BitVec.ofNat 12 (k / 65536)) (BitVec.ofNat 2 (k / 16384)) (BitVec.ofNat 8 (k / 64)) (BitVec.ofNat 4 (k / 4)))) ++
  (s.colls.filter (fun c => c.flight.any (fun m => m.defer && (m.at_ + 1000000).ule s.time))).map (fun c => ev (.detResendTimeout c.die c.slot)) ++
  (s.streams.filterMap (fun x => x.frame.map (fun f => (x.idx, f)))).flatMap (fun (e : BitVec 10 × FrameSt) =>
    (if decide ((s.desc e.1).timeout ≤ (s.time - e.2.lastAt).toNat) then [ev (.frameTimeout e.1)] else []) ++
    (match e.2.closeAt with
     | some t => if t.ule s.time then [ev (.mergeWindowClose e.1)] else []
     | none => []))

/-! ## Links (R279, R283) -/

/-- The links that have something to send and may. -/
def State.sends (s : State) : List (List Act) :=
  (((s.outbox.map s.portOf ++ s.links.map Prod.fst).eraseDups).filter s.linkSends).map (fun l => [.transmit l])

/-! ## The choice -/

/-- What may happen next beside the run of the issuing context, time aside. -/
def State.acts (s : State) : List (List Act) :=
  (if s.raiseReady then [[.raises]] else []) ++ s.deliverable ++ s.sends ++ s.ctxs.flatMap s.ctxActs ++ s.engineActs ++ s.invActs ++ s.launchActs ++ s.deviceActs
/-- What the passing of time brings. -/
def State.timed (s : State) : List (List Act) :=
  s.allCtxs.flatMap s.ctxTimed ++ s.packetTimed ++ dies.flatMap s.dieTimed ++ (if s.regs.state = 1 then dies.flatMap s.scanTimed else [])
/-- R439: the package starts when power is applied. -/
def State.starts (s : State) : Bool := s.regs.state = 0 && s.regs.step = 0
/-- Everything that may happen next where the issuing context does not issue. -/
def State.enabled (s : State) : List (List Act) :=
  if !s.live then [] else if s.starts then [ev (.coldStart StartTests.good)] else s.ctxActs s.cx ++ s.acts ++ s.timed

/-- The choice among what may happen. -/
def State.choose (s : State) : List Act :=
  match s.enabled with
  | [] => []
  | [a] => a
  | as => as.getD (Config.choice (s.issued + 2 ^ 80) as.length % as.length) []
/-- After an instruction of the issuing context something else may come before the next one (0: nothing does). -/
def State.interleave (s : State) : State :=
  match s.acts with
  | [] => s
  | as => { s with agenda := s.agenda ++ (match Config.choice (s.issued + 2 ^ 81) (as.length + 1) % (as.length + 1) with
      | 0 => []
      | n + 1 => as.getD n []) }

end Sys2Proof.Machine
end

