-- ==== Sys2Proof/Machine/Step.lean ====
section
/-! DEFINITION. One step: what is due first; else the instruction of the issuing context; else an event of the package. -/

namespace Sys2Proof.Machine

/-- What follows an instruction of the issuing context: something else may come before its next one. -/
def after (o : Out) : Out :=
  match o with
  | .next s => .next s.interleave
  | .fault f => .fault f
  | .refused r => .refused r

/-- The step of a context that issues: the instruction at its program counter. -/
def stepIssue (s : State) : Out :=
  match s.fetch with
  | .insn i => after (exec i s)
  | .marker next => .next (s.skipTo next)
  | .fault f => .next (s.recordFault f)
  | .walk => .next s.holdForFetch
  | .poison pa => .next (s.fetchPoison pa)
  | .away pl va => .next (s.fetchAway pl va)

/-- One step of the package. -/
def step (s : State) : Host.Outcome State Fault Refusal :=
  match s.agenda with
  | .event i :: rest => exec i { s with agenda := rest }
  | .turn c :: rest => .next (({ s with agenda := rest }).turn c)
  | .transmit l :: rest => .next (({ s with agenda := rest }).transmitOn l).counted
  | .raises :: rest => .next ({ s with agenda := rest }).raisesDue.counted
  | .deliver n :: rest =>
    match ({ s with agenda := rest }).takePacket n with
    | some (i, s') => exec i s'
    | none => .next { s with agenda := rest }
  | [] =>
    if s.issues then stepIssue s
    else match s.choose with
      | [] => .next s.idle
      | as => .next { s with agenda := as, issued := s.issued + 1 }

/-- The state whose next step runs the instruction with those bits (`decodeTableWord` numbers them). -/
def State.withFetchWord (s : State) (nbits w : Nat) : State := s.placeWord (leBytes 16 (w % 2 ^ nbits))

end Sys2Proof.Machine
end

