-- ==== Sys2Proof/Safety.lean ====
section
/-! DEFINITION. The vocabulary of the claims: when an instruction issues, what it may write, and what retirement does. Each
predicate says what the resulting state IS, so that a claim that holds of it holds of every field: what is not named is
unchanged. -/

namespace Sys2Proof.Machine

/-! ## Before an instruction -/

/-- R65, R67: an instruction with those modifiers executes at once: its context has the run of its core and is in no undissolved gang, the run need not
end first, no posted count is waited for, and the guard is true. -/
def State.Executes (s : State) (m : Mods) (k : Kind) : Prop :=
  s.cx.status = .running ∧ s.cx.inGang = false ∧ s.splits m k = false ∧ s.cx.owes m.wt = false ∧ s.guard m = true

/-- R66: the same, but the guard is false. -/
def State.GuardedOff (s : State) (m : Mods) (k : Kind) : Prop :=
  s.cx.status = .running ∧ s.cx.inGang = false ∧ s.splits m k = false ∧ s.cx.owes m.wt = false ∧ s.guard m = false

/-! ## What retirement does (R49, R51, R55) -/

/-- R49, R51: the run is longer by one; it ends with a switch marker or with its 512th instruction. -/
def Ctx.issuedOne (c : Ctx) (sw : Bool) : Ctx :=
  { c with runLen := c.runLen + 1, arrived := false, firm := none, got := [], code := [],
           status := if sw = true ∨ 512 ≤ c.runLen + 1 then .atSwitch else .running }

/-- `t` differs from `u` in the bookkeeping of one more instruction and, where `w` says so, in the program counter, the REP
state and the count of a REP. -/
def Counted (u t : State) (sw : Bool) : Prop :=
  t = { u with
    time := t.time, issued := u.issued + 1
    cx := { u.cx.issuedOne sw with pc := t.cx.pc, rep := t.cx.rep, g := t.cx.g, landed := t.cx.landed } }

/-- R55: `t` is `u`, the state after the effect of an instruction of `len` bytes, once that instruction has fallen through. -/
def Retired (u t : State) (len : Nat) (sw : Bool) : Prop :=
  Counted u t sw ∧
  (u.cx.rep.act = false → t.cx.pc = u.cx.pc + natWord len ∧ t.cx.rep = u.cx.rep ∧ t.cx.g = u.cx.g ∧ t.cx.landed = u.cx.landed) ∧
  (u.cx.rep.act = true → u.cx.rep.pos.toNat + 1 < u.cx.rep.len →
    t.cx.pc = u.cx.pc + natWord len ∧ t.cx.rep = { u.cx.rep with pos := u.cx.rep.pos + 1 } ∧ t.cx.g = u.cx.g ∧
      t.cx.landed = u.cx.landed) ∧
  (u.cx.rep.act = true → ¬ u.cx.rep.pos.toNat + 1 < u.cx.rep.len → u.cx.rep.gn ≠ 0 →
    (∀ r : GReg, t.cx.g[r.toFin] = if r = u.cx.rep.gn then u.g u.cx.rep.gn - 1 else u.cx.g[r.toFin]) ∧
      t.cx.landed = .g u.cx.rep.gn :: u.cx.landed ∧
      if u.g u.cx.rep.gn = 1 then t.cx.pc = u.cx.pc + natWord len ∧ t.cx.rep = Rep.none_
      else t.cx.pc = u.cx.rep.body ∧ t.cx.rep = { u.cx.rep with pos := 0, off := u.cx.rep.off + u.cx.rep.stride })

/-- R107 to R109: `t` is `u` once a taken transfer has retired. -/
def Jumped (u t : State) (target : Word) (sw : Bool) : Prop :=
  t = { u with time := t.time, issued := u.issued + 1, cx := { u.cx.issuedOne sw with pc := target } }

/-- The instruction answers a next state: its effect, which `E` states, and then its retirement. -/
def Falls (i : Instr) (s : State) (len : Nat) (sw : Bool) (E : State → Prop) : Prop :=
  ∃ u t, E u ∧ Retired u t len sw ∧ exec i s = .next t
/-- The same of a transfer. -/
def Jumps (i : Instr) (s : State) (target : Word) (sw : Bool) (E : State → Prop) : Prop :=
  ∃ u t, E u ∧ Jumped u t target sw ∧ exec i s = .next t

/-! ## What effects write -/

/-- R37, R48: an F-class write of one general register, discarded for g0. Nothing else changes. -/
def State.SetsG (s : State) (gd : GReg) (v : Word) (u : State) : Prop :=
  u = { s with cx := { s.cx with g := u.cx.g, landed := if gd = 0 then s.cx.landed else .g gd :: s.cx.landed } } ∧
  ∀ r : GReg, u.cx.g[r.toFin] = if r = gd ∧ gd ≠ 0 then v else s.cx.g[r.toFin]
/-- The same of a predicate register. -/
def State.SetsQ (s : State) (qd : QReg) (v : Bool) (u : State) : Prop :=
  u = { s with cx := { s.cx with q := u.cx.q, landed := if qd = 0 then s.cx.landed else .q qd :: s.cx.landed } } ∧
  ∀ r : QReg, u.cx.q[r.toFin] = if r = qd ∧ qd ≠ 0 then v else s.cx.q[r.toFin]
/-- The same of a pointer register. -/
def State.SetsP (s : State) (pd : PReg) (v : Word) (u : State) : Prop :=
  u = { s with cx := { s.cx with p := u.cx.p, landed := .p pd :: s.cx.landed } } ∧
  ∀ r : PReg, u.cx.p[r.toFin] = if r = pd then v else s.cx.p[r.toFin]

/-- R48: V-class results are outstanding; the registers keep their values until they are written. Nothing else changes. -/
def State.Owes (s : State) (vs : List RegVal) (u : State) : Prop :=
  u = { s with cx := { s.cx with pend := s.cx.pend ++ vs } }
/-- R37: results to g0, q0 and m0 are discarded. -/
def gRes (gd : GReg) (v : Word) : List RegVal := if gd = 0 then [] else [.g gd v]
def qRes (qd : QReg) (v : Bool) : List RegVal := if qd = 0 then [] else [.q qd v]
def mRes (md : MReg) (v : BitVec 32) : List RegVal := if md = 0 then [] else [.m md v]
def Ctx.aRes (c : Ctx) (ad : AReg) (lanes : BitVec 32) (v : Vector Lane 32) : List RegVal := [.a (c.aNum ad) lanes v]

/-! ## Integer results, as R23, R24, R96 to R98 write them -/

/-- A two-source integer instruction: its operands, whether W is 1, and its result on n bits. -/
structure IntOp where
  m : Mods
  gd : GReg
  ga : GReg
  y : Src
  w : Bool
  r : (n : Nat) → BitVec n → BitVec n → BitVec n

/-- R24: the signed interval of n bits. -/
def clampInt (n : Nat) (v : Int) : Int := max (-2 ^ (n - 1)) (min (2 ^ (n - 1) - 1) v)

/-- R96: the F-class two-source instructions. -/
def intOps : Instr → Option IntOp
  | .add m gd ga y w => some ⟨m, gd, ga, y, w, fun n x y => BitVec.ofNat n (x.toNat + y.toNat)⟩
  | .sub m gd ga y w => some ⟨m, gd, ga, y, w, fun n x y => BitVec.ofInt n (x.toInt - y.toInt)⟩
  | .and m gd ga y w => some ⟨m, gd, ga, y, w, fun _ x y => x &&& y⟩
  | .or m gd ga y w => some ⟨m, gd, ga, y, w, fun _ x y => x ||| y⟩
  | .xor m gd ga y w => some ⟨m, gd, ga, y, w, fun _ x y => x ^^^ y⟩
  | .andn m gd ga y w => some ⟨m, gd, ga, y, w, fun _ x y => x &&& ~~~y⟩
  | .shl m gd ga y w => some ⟨m, gd, ga, y, w, fun n x y => BitVec.ofNat n (x.toNat * 2 ^ (y.toNat % n))⟩
  | .shr m gd ga y w => some ⟨m, gd, ga, y, w, fun n x y => BitVec.ofNat n (x.toNat / 2 ^ (y.toNat % n))⟩
  | .sar m gd ga y w => some ⟨m, gd, ga, y, w, fun n x y => BitVec.ofInt n (x.toInt / 2 ^ (y.toNat % n))⟩
  | .rot m gd ga y w => some ⟨m, gd, ga, y, w, fun n x y =>
      BitVec.ofNat n (x.toNat / 2 ^ (y.toNat % n) + x.toNat % 2 ^ (y.toNat % n) * 2 ^ (n - y.toNat % n))⟩
  | .min m gd ga y w => some ⟨m, gd, ga, y, w, fun n x y => BitVec.ofInt n (min x.toInt y.toInt)⟩
  | .max m gd ga y w => some ⟨m, gd, ga, y, w, fun n x y => BitVec.ofInt n (max x.toInt y.toInt)⟩
  | .minu m gd ga y w => some ⟨m, gd, ga, y, w, fun n x y => BitVec.ofNat n (min x.toNat y.toNat)⟩
  | .maxu m gd ga y w => some ⟨m, gd, ga, y, w, fun n x y => BitVec.ofNat n (max x.toNat y.toNat)⟩
  | .adds m gd ga y w => some ⟨m, gd, ga, y, w, fun n x y => BitVec.ofInt n (clampInt n (x.toInt + y.toInt))⟩
  | .subs m gd ga y w => some ⟨m, gd, ga, y, w, fun n x y => BitVec.ofInt n (clampInt n (x.toInt - y.toInt))⟩
  | .mul m gd ga y w => some ⟨m, gd, ga, y, w, fun n x y => BitVec.ofNat n (x.toNat * y.toNat)⟩
  | .mulh m gd ga y => some ⟨m, gd, ga, y, false, fun n x y => BitVec.ofInt n (x.toInt * y.toInt / 2 ^ 64)⟩
  | .mulhu m gd ga y => some ⟨m, gd, ga, y, false, fun n x y => BitVec.ofNat n (x.toNat * y.toNat / 2 ^ 64)⟩
  | _ => none

/-- R23: the divisions, which are V-class. -/
def divOps : Instr → Option IntOp
  | .div m gd ga y w => some ⟨m, gd, ga, y, w, fun n x y =>
      if y.toNat = 0 then BitVec.ofInt n (-1) else BitVec.ofInt n (x.toInt.tdiv y.toInt)⟩
  | .divu m gd ga y w => some ⟨m, gd, ga, y, w, fun n x y =>
      if y.toNat = 0 then BitVec.ofNat n (2 ^ n - 1) else BitVec.ofNat n (x.toNat / y.toNat)⟩
  | .rem m gd ga y w => some ⟨m, gd, ga, y, w, fun n x y =>
      if y.toNat = 0 then x else BitVec.ofInt n (x.toInt.tmod y.toInt)⟩
  | .remu m gd ga y w => some ⟨m, gd, ga, y, w, fun n x y =>
      if y.toNat = 0 then x else BitVec.ofNat n (x.toNat % y.toNat)⟩
  | _ => none

/-- R73: the result written to gd: with W, the low halves are taken and the 32-bit result is sign-extended. -/
def IntOp.result (o : IntOp) (s : State) : Word :=
  if o.w then (o.r 32 ((s.g o.ga).setWidth 32) ((s.src o.y).setWidth 32)).signExtend 64
  else o.r 64 (s.g o.ga) (s.src o.y)

/-- An F-class instruction that writes one general register: its modifiers, its destination, its length in bytes, its value. -/
structure GOp where
  m : Mods
  gd : GReg
  len : Nat
  v : State → Word

/-- R97, R98: the value of a function of n bits of ga, with W as in R73. -/
def oneSource (w : Bool) (f : (n : Nat) → BitVec n → BitVec n) (x : Word) : Word :=
  if w then (f 32 (x.setWidth 32)).signExtend 64 else f 64 x

/-- The number of leading positions k = 0, 1, … below n at which a test of the position fails. -/
def leading (n : Nat) (p : Nat → Bool) : Nat := ((List.range n).takeWhile (fun k => !p k)).length

/-- R73, R97 to R99, R101: the other F-class instructions with a general destination. Fields that R98 calls undefined do not
decode, so that POS + WM + 1 is at most 64 in EXTR and INSR. -/
def fieldOps : Instr → Option GOp
  | .clz m gd ga w => some ⟨m, gd, 8, fun s =>
      oneSource w (fun n x => BitVec.ofNat n (leading n (fun k => x.getLsbD (n - 1 - k)))) (s.g ga)⟩
  | .ctz m gd ga w => some ⟨m, gd, 8, fun s =>
      oneSource w (fun n x => BitVec.ofNat n (leading n (fun k => x.getLsbD k))) (s.g ga)⟩
  | .popc m gd ga w => some ⟨m, gd, 8, fun s =>
      oneSource w (fun n x => BitVec.ofNat n ((List.range n).countP (fun k => x.getLsbD k))) (s.g ga)⟩
  | .brev m gd ga w => some ⟨m, gd, 8, fun s =>
      oneSource w (fun n x => BitVec.ofNat n (((List.range n).map (fun k => if x.getLsbD (n - 1 - k) then 2 ^ k else 0)).sum)) (s.g ga)⟩
  | .extr m gd ga pos wm => some ⟨m, gd, 8, fun s =>
      BitVec.ofNat 64 ((s.g ga).toNat / 2 ^ pos.toNat % 2 ^ (wm.toNat + 1))⟩
  | .insr m gd ga gb pos wm => some ⟨m, gd, 8, fun s =>
      let x := (s.g ga).toNat
      let wid := wm.toNat + 1
      BitVec.ofNat 64 (x / 2 ^ (pos.toNat + wid) * 2 ^ (pos.toNat + wid) + (s.g gb).toNat % 2 ^ wid * 2 ^ pos.toNat + x % 2 ^ pos.toNat)⟩
  | .sext m gd ga wm => some ⟨m, gd, 8, fun s => BitVec.ofInt 64 (((s.g ga).toNat : Int).bmod (2 ^ (wm.toNat + 1)))⟩
  | .zext m gd ga wm => some ⟨m, gd, 8, fun s => BitVec.ofNat 64 ((s.g ga).toNat % 2 ^ (wm.toNat + 1))⟩
  | .lea m gd ga (.idx gb sh) => some ⟨m, gd, 8, fun s => BitVec.ofNat 64 ((s.g ga).toNat + (s.g gb).toNat * 2 ^ sh.toNat)⟩
  | .lea m gd ga (.imm v) => some ⟨m, gd, 12, fun s => BitVec.ofInt 64 ((s.g ga).toNat + v.toInt)⟩
  | .movi m gd (.w32 v) => some ⟨m, gd, 12, fun _ => BitVec.ofInt 64 v.toInt⟩
  | .movi m gd (.w64 v) => some ⟨m, gd, 16, fun _ => v⟩
  | .csel m gd qc ga gb => some ⟨m, gd, 8, fun s => if s.q qc = true then s.g ga else s.g gb⟩
  | _ => none

/-- R100: the conditions 0 to 9 of CMP on n bits. -/
def cmpHolds {n : Nat} (x y : BitVec n) : Nat → Prop
  | 0 => x = y
  | 1 => x ≠ y
  | 2 => x.toInt < y.toInt
  | 3 => x.toInt ≤ y.toInt
  | 4 => y.toInt < x.toInt
  | 5 => y.toInt ≤ x.toInt
  | 6 => x.toNat < y.toNat
  | 7 => x.toNat ≤ y.toNat
  | 8 => y.toNat < x.toNat
  | 9 => y.toNat ≤ x.toNat
  | _ => False

/-- R103: an FP32 operand. -/
def State.f (s : State) (r : GReg) : BitVec 32 := (s.g r).setWidth 32

/-- R103: the scalar FP32 instructions, which are V-class, with the FP32 result. The rounding mode is RM, or RMODE.RM for DYN,
with SR read as RNE (R16, R18). -/
structure FOp where
  m : Mods
  gd : GReg
  v : State → BitVec 32

def floatOps : Instr → Option FOp
  | .fadd m gd ga gb rm => some ⟨m, gd, fun s => f32Add (arithMode rm s.cx.rmode) (s.f ga) (s.f gb)⟩
  | .fsub m gd ga gb rm => some ⟨m, gd, fun s => f32Sub (arithMode rm s.cx.rmode) (s.f ga) (s.f gb)⟩
  | .fmul m gd ga gb rm => some ⟨m, gd, fun s => f32Mul (arithMode rm s.cx.rmode) (s.f ga) (s.f gb)⟩
  | .ffma m gd ga gb gc rm => some ⟨m, gd, fun s => f32Fma (arithMode rm s.cx.rmode) (s.f ga) (s.f gb) (s.f gc)⟩
  | .fmin m gd ga gb _ => some ⟨m, gd, fun s => f32Min (s.f ga) (s.f gb)⟩
  | .fmax m gd ga gb _ => some ⟨m, gd, fun s => f32Max (s.f ga) (s.f gb)⟩
  | .fdiv m gd ga gb rm => some ⟨m, gd, fun s => f32Div (arithMode rm s.cx.rmode) (s.f ga) (s.f gb)⟩
  | .fsqrt m gd ga rm => some ⟨m, gd, fun s => f32Sqrt (arithMode rm s.cx.rmode) (s.f ga)⟩
  | _ => none

/-- R104: a floating-point comparison; neither operand a NaN where `v` is used. -/
def fcmpHolds (a b : BitVec 32) (cond : Nat) : Prop :=
  if (fv32 a).isNan = true ∨ (fv32 b).isNan = true then cond = 1 ∨ cond = 10
  else match cond with
    | 0 => fvCmp (fv32 a) (fv32 b) = 0
    | 1 => fvCmp (fv32 a) (fv32 b) ≠ 0
    | 2 => fvCmp (fv32 a) (fv32 b) < 0
    | 3 => fvCmp (fv32 a) (fv32 b) ≤ 0
    | 4 => 0 < fvCmp (fv32 a) (fv32 b)
    | 5 => 0 ≤ fvCmp (fv32 a) (fv32 b)
    | _ => False

/-! ## Faults -/

/-- R383: the fields of FLTINFO. -/
def infoWord (cls : BitVec 8) (cause : BitVec 16) (acc : BitVec 2) (land eng priv : Bool) : Word :=
  BitVec.ofNat 64 (cls.toNat + cause.toNat * 2 ^ 8 + acc.toNat * 2 ^ 24 + land.toNat * 2 ^ 26 + eng.toNat * 2 ^ 27 + priv.toNat * 2 ^ 28)

/-- The instruction answers a next state in which it has had no effect and its fault is recorded against it; the fault is
taken at the switch point of the run (R52), here at once where no result of the run is outstanding. -/
def Raises (i : Instr) (s : State) (f : FaultRec) : Prop := exec i s = .next (s.recordFault f)

/-- R50: the state at the switch point of a run that ends with the present instruction: every result of the run is written. -/
def State.atSwitchPoint (s : State) : State :=
  let u := s.counted.commitRun
  { u with cx := { u.cx with fault := none } }

/-- R113, R372: the software traps, with the fault that each raises where it raises one: TRAP, BRK without debug enable, and SYSC
without an entry address. -/
def trapOps (s : State) : Instr → Option (Mods × FaultRec)
  | .trap m code => some (m, ⟨13, code, 0, false, false, s.cx.priv, s.cx.pc⟩)
  | .brk m code => if s.cx.dbgen = true then none else some (m, ⟨14, code, 0, false, false, s.cx.priv, s.cx.pc⟩)
  | .sysc m n => if s.cx.prot.sventry = 0 then some (m, ⟨13, n, 0, false, false, s.cx.priv, s.cx.pc⟩) else none
  | _ => none

/-- R208 steps 3, 4 and 6 for the region `g`: memberships dropped, the block given STATE 3, FVA and FINFO, the record posted. -/
def State.failedRegion (s : State) (g : Word) (f : FaultRec) : State := (s.dropOwn (fun r => r = g)).recordUnwind s.cx.prot s.cx.pctx g f.cls f.va f.info

/-! ## Special registers (R40 to R42, R371) -/

/-- R40, R371: what a special register of a number reads as, by the field layouts. -/
def sprWord (s : State) : Nat → Option Word
  | 0x000 => some s.time
  | 0x001 => some (BitVec.ofNat 64 s.cx.id.slot.toNat)
  | 0x002 => some (BitVec.ofNat 64 (s.cx.id.core.toNat + s.cx.id.die.toNat * 2 ^ 8 + s.pkg.toNat * 2 ^ 10))
  | 0x003 => some (BitVec.ofNat 64 (s.cx.gidx.toNat + (match s.cx.gang with | some g => g.size.toNat | none => 0) * 2 ^ 3))
  | 0x010 => some s.cx.seed
  | 0x011 => some s.cx.lnum
  | 0x020 => some s.cx.fltva
  | 0x021 => some s.cx.fltinfo
  | 0x030 => some s.cx.region
  | 0x031 => some (BitVec.ofNat 64 s.cx.deadline.toNat)
  | 0x032 => some (BitVec.ofNat 64 s.cx.prio.toNat)
  | 0x040 => some (BitVec.ofNat 64 s.cx.rmode.toNat)
  | 0x041 => some (BitVec.ofNat 64 s.cx.atmode.toNat)
  | 0x042 => some (BitVec.ofNat 64 (s.cx.priv.toNat + s.cx.inGang.toNat * 2 + s.cx.rep.act.toNat * 4 + s.cx.rep.pos.toNat * 2 ^ 3 +
      s.cx.rep.off.toNat * 2 ^ 6 + s.cx.late.toNat * 2 ^ 9 + s.cx.alog.toNat * 2 ^ 10))
  | 0x800 => some s.cx.sepc
  | 0x801 => some (BitVec.ofNat 64 (s.cx.spriv.toNat + s.cx.snum.toNat * 2 ^ 16))
  | 0x802 => some s.cx.sscr
  | 0x810 => some (BitVec.ofNat 64 s.cx.pctx.toNat)
  | 0x811 => some (BitVec.ofNat 64 s.cx.pceil.toNat)
  | 0x812 => some (BitVec.ofNat 64 s.cx.dbgen.toNat)
  | 0x820 => some s.regs.ctxtab
  | 0x821 => some s.regs.wqtab
  | 0x822 => some s.regs.grptab
  | 0x823 => some (BitVec.ofNat 64 s.regs.grplen.toNat)
  | 0x830 => some (s.die s.cx.id.die).stats.codedpkt
  | 0x831 => some (s.die s.cx.id.die).stats.codedcmp
  | 0x832 => some (s.die s.cx.id.die).stats.decfault
  | 0x833 => some (s.die s.cx.id.die).stats.fallback
  | 0x834 => some (s.die s.cx.id.die).stats.sievict
  | 0x835 => some (s.die s.cx.id.die).stats.codecsave
  | 0x836 => some (s.die s.cx.id.die).stats.malformed
  | _ => none

/-- R17, R33, R41, R115, R371: the context after an MTS of v to a writable register; fields marked RO are ignored. -/
def sprPut (c : Ctx) (v : Word) : Nat → Option Ctx
  | 0x010 => some { c with seed := v, gen := genInit v c.lnum (if c.gang.isSome = true then c.gidx else 0) }
  | 0x011 => some { c with lnum := v, gen := genInit c.seed v (if c.gang.isSome = true then c.gidx else 0) }
  | 0x031 => some { c with deadline := v.setWidth 48 }
  | 0x040 => some { c with rmode := if v.toNat % 8 ≤ 4 then BitVec.ofNat 3 v.toNat else 0 }
  | 0x041 => some { c with atmode := v.getLsbD 0 }
  | 0x800 => some { c with sepc := v }
  | 0x801 => some { c with spriv := v.getLsbD 0, snum := v.extractLsb' 16 16 }
  | 0x802 => some { c with sscr := v }
  | 0x812 => some { c with dbgen := v.getLsbD 0 }
  | _ => none

/-! ## Memory -/

/-- R256, R352: `w` is `s` after bytes have been written at an address under a key: those bytes are in memory, and every other byte is
as before, but for the other bytes of a 256-byte line that was last written under another key. -/
def State.StoredAt (s : State) (key : BitVec 8) (pa : Nat) (bs : List Byte) (w : State) : Prop :=
  w = { s with mem := w.mem, dirty := w.dirty, poison := w.poison, lineKey := w.lineKey,
               die0 := w.die0, die1 := w.die1, die2 := w.die2, die3 := w.die3 } ∧
  (∀ k, k < bs.length → w.byte (pa + k) = bs.getD k 0) ∧
  (∀ a, (a < pa ∨ pa + bs.length ≤ a) → (a / 256 = pa / 256 → tget 0 s.lineKey (pa / 256) = s.keyId key) → w.byte a = s.byte a) ∧
  tget 0 w.lineKey (pa / 256) = s.keyId key

/-- R119: n little-endian bytes extended to 64 bits. -/
def extended (sx : Bool) (bs : List Byte) : Word :=
  if sx then BitVec.ofInt 64 ((leNat bs : Int).bmod (2 ^ (8 * bs.length))) else BitVec.ofNat 64 (leNat bs)

/-- R125: what an atomic operation writes; none where it writes nothing. -/
def atomicResult {n : Nat} (old b c : BitVec n) : Nat → Option (BitVec n)
  | 0 => some (BitVec.ofNat n (old.toNat + b.toNat))
  | 1 => some (old &&& b)
  | 2 => some (old ||| b)
  | 3 => some (old ^^^ b)
  | 4 => some (BitVec.ofInt n (min old.toInt b.toInt))
  | 5 => some (BitVec.ofInt n (max old.toInt b.toInt))
  | 6 => some (BitVec.ofNat n (min old.toNat b.toNat))
  | 7 => some (BitVec.ofNat n (max old.toNat b.toNat))
  | 8 => some ((f32Add .rne (old.setWidth 32) (b.setWidth 32)).setWidth n)
  | 9 => some ((f32Max (old.setWidth 32) (b.setWidth 32)).setWidth n)
  | 10 => some b
  | 11 => if old = b then some c else none
  | _ => none

/-- R117 to R121, R125: an access by an instruction: modifiers, length, address, size code, access kind, and what it sends where the
memory is homed elsewhere (R261). -/
structure MemOp where
  m : Mods
  len : Nat
  va : Word
  sz : BitVec 2
  acc : BitVec 2
  dw : Bool
  out : RemoteOp

/-- The counter that an instruction names (R124). -/
def State.named (s : State) (k : GReg) : Option Word := if k = 0 then none else some (s.g k)

/-- R118: the effective address. -/
def State.address (s : State) (ga : GReg) (mo : MemOff) (sz : BitVec 2) : Word :=
  match mo with
  | .off o => BitVec.ofInt 64 ((s.g ga).toNat + o.toInt * 2 ^ sz.toNat)
  | .idx gb sh => BitVec.ofNat 64 ((s.g ga).toNat + (s.g gb).toNat * 2 ^ sh.toNat)
  | .imm v => BitVec.ofInt 64 ((s.g ga).toNat + v.toInt)

def memOps (s : State) : Instr → Option MemOp
  | .ld m gd ga mo sz sx => some ⟨m, mo.len, s.address ga mo sz, sz, 0, decide (sz = 3),
      ⟨2, .load gd sz sx, false, sz, 0, 0, 0, none, 0, true⟩⟩
  | .ldro m gd ga mo sz sx => some ⟨m, mo.len, s.address ga mo sz, sz, 0, false,
      ⟨2, .ldro gd sz sx, false, sz, 0, 0, 0, none, 0, true⟩⟩
  | .st m ga mo gc sz k => some ⟨m, mo.len, s.address ga mo sz, sz, 1, decide (sz = 3),
      ⟨3, .store, true, sz, 0, s.g gc, 0, s.named k, 0, false⟩⟩
  | .amo m gd ga gb gc opc sz qs k scope => some ⟨m, 8, s.g ga, sz, 3, false,
      ⟨4, .amo gd qs sz, true, sz, opc, s.g gb, s.g gc, s.named k, scope, true⟩⟩
  | .red m ga gb opc sz k scope => some ⟨m, 8, s.g ga, sz, 3, false,
      ⟨5, .red, true, sz, opc, s.g gb, 0, s.named k, scope, false⟩⟩
  | _ => none

/-- R216, R309, R310, R313, R314: `u` is `s` after a Vat has applied a raise to a cell: the cell has risen modulo 2^48, and no other has changed; the waits that
the new value meets hear of it, here and in other packages; each armed entry on the cell whose threshold the raise has reached has fired, or is about
to while the firing queue is full. Nothing else changes. -/
def State.Raised (s : State) (die : BitVec 2) (idx : BitVec 16) (amt : BitVec 48) (u : State) : Prop :=
  let old := s.cell die idx
  u = { s with ctrs := u.ctrs, entries := u.entries, firings := u.firings, raising := u.raising, fresh := u.fresh, ctWaits := u.ctWaits,
               cores := u.cores, net := u.net, outbox := u.outbox, unacked := u.unacked, backlog := u.backlog
               cx := s.cx.metBy s die idx (old + amt), ctxs := s.ctxs.map (Ctx.metBy s die idx (old + amt)) } ∧
  u.cell die idx = old + amt ∧ (∀ d k, (d, k) ≠ (die, idx) → u.cell d k = s.cell d k) ∧
  (∃ fs, u.firings = s.firings ++ fs ∧ ∀ f ∈ fs, f.die = die ∧ f.begun = false ∧ s.fresh ≤ f.id) ∧
  ∀ e ∈ s.entries, (∀ x ∈ s.entries, x.id = e.id → x = e) → e.watches s.pkg die idx = true → reached old e.thr = false → reached (old + amt) e.thr = true →
    (∃ f ∈ u.firings, f.e = e ∧ s.fresh ≤ f.id) ∨ ∃ r ∈ u.raising, r.die = die ∧ r.idx = idx ∧ e.id ∈ r.ids

/-! ## Pointers and the stash (R43 to R46, R136) -/

/-- R44: step_cursor on the fields of a descriptor. -/
def stepCur (wrap cur : Nat) (delta : Int) : BitVec 24 :=
  if wrap = 0 then BitVec.ofInt 24 ((cur : Int) + delta)
  else BitVec.ofInt 24 ((cur / wrap * wrap : Nat) + (((cur % wrap : Nat) : Int) + delta) % (wrap : Int))

/-- R43: a descriptor with another cursor. -/
def withCur (d : Word) (c : BitVec 24) : Word := d.extractLsb' 24 40 ++ c

/-- R44: the access address and the descriptor afterwards, by MODE. -/
def pointerAccess (d : Word) : Nat × Word :=
  let cur := d.toNat % 2 ^ 24
  let str := (d.extractLsb' 24 16).toInt
  let wrap := d.toNat / 2 ^ 40 % 2 ^ 20
  match d.toNat / 2 ^ 60 with
  | 0 => (cur, withCur d (stepCur wrap cur str))
  | 1 => ((stepCur wrap cur str).toNat, withCur d (stepCur wrap cur str))
  | 2 => (cur, d)
  | _ => (cur, withCur d (stepCur wrap cur (-str)))

/-- R139: why SMAP of a stash range a, a virtual range v and a length n is refused, in the order of the causes. -/
def smapRefused (ws : List Window) (a v n : Nat) : Option (BitVec 16) :=
  if a % 256 ≠ 0 ∨ n % 256 ≠ 0 ∨ n = 0 ∨ 262144 < a + n then some 1
  else if v % 256 ≠ 0 then some 2
  else if ∃ w ∈ ws, (w.stash < a + n ∧ a < w.stash + w.len) ∨ (w.va.toNat < v + n ∧ v < w.va.toNat + w.len) then some 3
  else if 16 ≤ ws.length then some 4
  else none

/-! ## Vector instructions (R131, R141 to R152) -/

/-- A masked vector instruction: its modifiers, destination, sources, mask, format; the value of a lane, from the state, the lanes of the
sources and the number of the lane. -/
structure VOp where
  m : Mods
  ad : AReg
  sa : VSrc
  sb : VSrc
  mc : MReg
  fmt : BitVec 4
  lane : State → Vector Lane 32 → Vector Lane 32 → Fin 32 → Lane

/-- R132: the float operation on float lanes, with the rounding mode in effect, and the integer operation on the others. -/
def byFmt (fmt : BitVec 4) (rm : BitVec 3) (s : State) (ff : RMode → Lane → Lane → Lane) (fi : Lane → Lane → Lane) (x y : Lane) : Lane :=
  if fmt.toNat < 5 then ff (arithMode rm s.cx.rmode) x y else fi x y

/-- R142, R143, R148: the instructions with two vector sources. -/
def vec2Ops : Instr → Option VOp
  | .vadd m ad sa sb mc fmt rm => some ⟨m, ad, sa, sb, mc, fmt, fun s v w l =>
      byFmt fmt rm s f32Add (fun x y => BitVec.ofNat 32 (x.toNat + y.toNat)) v[l] w[l]⟩
  | .vsub m ad sa sb mc fmt rm => some ⟨m, ad, sa, sb, mc, fmt, fun s v w l =>
      byFmt fmt rm s f32Sub (fun x y => BitVec.ofInt 32 (x.toInt - y.toInt)) v[l] w[l]⟩
  | .vmul m ad sa sb mc fmt rm => some ⟨m, ad, sa, sb, mc, fmt, fun s v w l =>
      byFmt fmt rm s f32Mul (fun x y => BitVec.ofNat 32 (x.toNat * y.toNat)) v[l] w[l]⟩
  | .vfma m ad sa sb mc fmt rm => some ⟨m, ad, sa, sb, mc, fmt, fun s v w l =>
      byFmt fmt rm s (fun r x y => f32Fma r x y (s.a ad)[l]) (fun x y => BitVec.ofNat 32 (x.toNat * y.toNat + (s.a ad)[l].toNat)) v[l] w[l]⟩
  | .vmin m ad sa sb mc fmt rm => some ⟨m, ad, sa, sb, mc, fmt, fun s v w l =>
      byFmt fmt rm s (fun _ => f32Min) (fun x y => BitVec.ofInt 32 (min x.toInt y.toInt)) v[l] w[l]⟩
  | .vmax m ad sa sb mc fmt rm => some ⟨m, ad, sa, sb, mc, fmt, fun s v w l =>
      byFmt fmt rm s (fun _ => f32Max) (fun x y => BitVec.ofInt 32 (max x.toInt y.toInt)) v[l] w[l]⟩
  | .vand m ad sa sb mc fmt _ => some ⟨m, ad, sa, sb, mc, fmt, fun _ v w l => v[l] &&& w[l]⟩
  | .vor m ad sa sb mc fmt _ => some ⟨m, ad, sa, sb, mc, fmt, fun _ v w l => v[l] ||| w[l]⟩
  | .vxor m ad sa sb mc fmt _ => some ⟨m, ad, sa, sb, mc, fmt, fun _ v w l => v[l] ^^^ w[l]⟩
  | .vshl m ad sa sb mc fmt _ => some ⟨m, ad, sa, sb, mc, fmt, fun _ v w l =>
      BitVec.ofNat 32 (v[l].toNat * 2 ^ (w[l].toNat % 32))⟩
  | .vshr m ad sa sb mc fmt _ => some ⟨m, ad, sa, sb, mc, fmt, fun _ v w l =>
      if fmt = 8 ∨ fmt = 9 ∨ fmt = 10 then BitVec.ofInt 32 (v[l].toInt / 2 ^ (w[l].toNat % 32))
      else BitVec.ofNat 32 (v[l].toNat / 2 ^ (w[l].toNat % 32))⟩
  | .vperm m ad sa sb mc fmt _ => some ⟨m, ad, sa, sb, mc, fmt, fun _ v w l => v[w[l].toNat % 32]'(Nat.mod_lt _ (by decide))⟩
  | _ => none

/-- R141, R142, R151: the instructions with one vector source. -/
def vec1Ops : Instr → Option VOp
  | .vlda m ad p mc fmt _ => some ⟨m, ad, .p p, .p p, mc, fmt, fun _ v _ l => v[l]⟩
  | .vmova m ad sa mc fmt _ => some ⟨m, ad, sa, sa, mc, fmt, fun _ v _ l => v[l]⟩
  | .vabs m ad sa mc fmt _ => some ⟨m, ad, sa, sa, mc, fmt, fun _ v _ l =>
      if fmt.toNat < 5 then (if (fv32 v[l]).isNan = true then to32 .rne .nan else BitVec.ofNat 32 (v[l].toNat % 2 ^ 31))
      else BitVec.ofNat 32 v[l].toInt.natAbs⟩
  | .vspec m ad sa mc fmt rm fn => some ⟨m, ad, sa, sa, mc, fmt, fun s v _ l => specFn fn (arithMode rm s.cx.rmode) v[l]⟩
  | _ => none

/-- R147: one level of the reduction tree: lane l below n becomes op(v[l], v[l + n]). -/
def treeLevel (op : Lane → Lane → Lane) (n : Nat) (v : Nat → Lane) : Nat → Lane := fun l => if l < n then op (v l) (v (l + n)) else v l
/-- R147: the whole tree. -/
def treeOf (op : Lane → Lane → Lane) (v : Nat → Lane) : Lane := ([16, 8, 4, 2, 1].foldl (fun v n => treeLevel op n v) v) 0

/-! ## Holding issue, and messages to other packages -/

/-- R53: the instruction has had no effect but `u`, which keeps its context from issuing; it will be issued again. -/
def Stalls (i : Instr) (s u : State) : Prop :=
  ∃ t, exec i s = .next t ∧
    t = { u with time := t.time, issued := u.issued + 1, cx := { u.cx with status := if u.cx.status = .running then .blocked else u.cx.status } }

/-- R171: the context is parked in the waiting instruction. -/
def Parks (i : Instr) (s u : State) (w : Wait) (until_ : Option Word) (sw : Bool) (len : Nat) : Prop :=
  ∃ t, exec i s = .next t ∧
    t = { u with time := t.time, issued := u.issued + 1, cx := { u.cx with status := .waiting w until_ sw len } }

/-- R230, R290: one message to a die of another package has left and is kept until it is accepted. Nothing else changes. -/
def State.Tells (s : State) (pkg : BitVec 12) (die : BitVec 2) (msg : PrmMsg) (u : State) : Prop :=
  ∃ p : Packet, p.type = 7 ∧ p.spkg = s.pkg ∧ p.dpkg = pkg ∧ p.ddie = die ∧ p.payload = .prm msg ∧
    u = { s with cores := u.cores, outbox := s.outbox ++ [p], unacked := s.unacked ++ [⟨p, s.time, false, false, s.time, 20000, s.sentBy p, none⟩] }

/-- R261: a question to a die of another package has left, and its answer, of the kind given, is outstanding. -/
def State.Asks (s : State) (pkg : BitVec 12) (die : BitVec 2) (q : Query) (kind : RemKind) (u : State) : Prop :=
  ∃ r : RemAcc, r.req = s.fresh ∧ r.src = s.cx.id ∧ r.kind = kind ∧ r.counted = false ∧ r.inRun = decide (kind ≠ .poll ∧ kind ≠ .gather) ∧
    ({ s with fresh := s.fresh + 1, cx := { s.cx with rem := s.cx.rem ++ [r] } } : State).Tells pkg die (.ask s.cx.id s.pkg s.fresh q) u

/-! ## Chains of names (R200, R229) -/

/-- R200: following names from the first leads to the second, for a resolution of promise `ph`. A promise of this package leads to the name that it
has resolved to, and one whose own chain is being asked about to the name that it would resolve to, where it is the lower (log entry 103). -/
inductive State.Chain (s : State) (ph : Word) : Word → Word → Prop where
  | here (n : Word) : State.Chain s ph n n
  | on (n m e : Word) (p : Promise) : n ≠ ph → n.toNat / 2 ^ 62 ≠ 1 → nmPkg n = s.pkg → s.promise n = some p →
      (p.st = .name m ∨ p.st = .pending ∧ p.trying = some m ∧ n.toNat < ph.toNat) → State.Chain s ph m e → State.Chain s ph n e
/-- R200: a chain that has come to a name ends there: an object, a package that is absent, or a promise of this package that has not resolved to a name
and is not about to. -/
def State.ChainOver (s : State) (ph e : Word) : Prop :=
  e ≠ ph ∧ (e.toNat / 2 ^ 62 = 1 ∨ s.present (nmPkg e) = false ∨ nmPkg e = s.pkg ∧
    ∀ p, s.promise e = some p → (∀ m, p.st ≠ .name m) ∧ (p.st = .pending → p.trying = none))

/-! ## How an instruction takes part in its run (R59, R67, R111, R129, R171) -/

/-- R67, R171: waiting instructions and FENCE begin a run; R111, R139: YIELD, SUNMAP and SFLUSH end one; R112 to R114: HALT and the traps act at a switch
point; R59: a gang's transfers take their guard from the leader. -/
def kindOf : Instr → Kind
  | .twait _ _ _ _ | .fence _ _ | .await _ _ _ _ _ _ | .phwait _ _ _ _ _ | .phaw _ _ _ _ _ | .ctwait _ _ _ _ _ => .wait
  | .br _ _ | .call _ _ _ | .jmp _ _ _ | .ret _ _ | .eret _ | .rep _ _ _ _ => .transfer
  | .yield _ | .sunmap _ _ | .sflush _ _ => .ending
  | .halt _ | .trap _ _ | .brk _ _ | .sysc _ _ => .acting
  | .gsplit _ => ⟨false, false, false, true⟩
  | _ => .plain

/-- R55, R66: the instructions that do something although they are guarded off: a REP skips its body, and the checks of four others come before the guard. -/
def actsGuardedOff : Instr → Bool
  | .rep _ _ _ _ | .mfs _ _ _ | .mts _ _ _ | .atinv _ _ _ | .eret _ => true
  | _ => false

/-- R59: the issuing context leads an undissolved gang of those members, and none of them is parked. -/
def State.Leads (s : State) (ids : List CtxId) : Prop :=
  s.cx.inGang = true ∧ s.cx.gangIds = ids ∧ ids.Nodup ∧ s.cx.id ∈ ids ∧ s.cx.gdone = [] ∧ s.cx.rep.act = false ∧
    ∀ id ∈ ids, (s.ctx id).status.holdsGang = false

/-! ## Events -/

/-- What an event does: `E` states it; beside it only time passes. -/
def Does (i : Instr) (s : State) (E : State → Prop) : Prop :=
  ∃ u t, E u ∧ t = { u with time := t.time, issued := u.issued + 1 } ∧ exec i s = .next t

/-- The event leaves every context but one as it was. -/
def State.OnlyCtx (s : State) (c : CtxId) (x : Ctx) (u : State) : Prop := u.ctx c = x ∧ ∀ d, d ≠ c → u.ctx d = s.ctx d

/-- R50, R419: nothing is to be delivered to a context in no gang, and nothing stops its next run. -/
def State.Untroubled (s : State) : Prop :=
  s.cx.inGang = false ∧ s.cx.awaits = false ∧ s.retiring = false ∧ s.cx.errs = [] ∧ s.cx.rgfail = none ∧ s.cx.fault = none ∧
    s.cx.haltReq = false ∧ s.cx.victim = none ∧ s.cx.unpin = false ∧ s.drainNow = none ∧ (∀ r, s.cx.run = some r → r.charged = s.time)

/-- R171: a parked context's instruction has issued with its results. -/
def Ctx.waited (x : Ctx) (len : Nat) (sw : Bool) (vs : List RegVal) (y : Ctx) : Prop :=
  y.pc = x.pc + natWord len ∧ y.pend = x.pend ++ vs ∧ y.g = x.g ∧ y.status = (if sw = true ∨ 512 ≤ x.runLen + 1 then .atSwitch else .ready)

/-- R310, R314: a Vat accepts a raise of a cell now, and no ordered contribution waits for that cell. -/
def State.Accepts (s : State) (die : BitVec 2) (idx : BitVec 16) : Prop :=
  s.raisable die idx = true ∧ s.cellBusy die idx = false ∧ ∀ h ∈ (s.die die).held, h.con.idx ≠ idx

/-- R282: a packet has come to its package with a header that keeps to the tables. -/
def State.Reaches (s : State) (p : Packet) : Prop := p.dpkg = s.pkg ∧ (p.spkg = s.pkg ∨ headerOk p = true)
/-- R286, R288, R390: a packet of another package arrives in its turn at a package that serves others and has room for it. -/
def State.Admits (s : State) (p : Packet) : Prop :=
  p.dpkg = s.pkg ∧ p.spkg ≠ s.pkg ∧ headerOk p = true ∧ s.shut = false ∧ s.landFull p = false ∧
    (bulkType p.type = false → p.seq = (s.rxGet (rxKeyOf p)).next) ∧ (bulkType p.type = true → ∀ e ∈ (s.rxGet (rxKeyOf p)).window, e.1 ≠ p.seq)

/-- Among the packets that have been sent since, or that wait until their series has room (R287), is one of that type, destination and payload. -/
def State.Emits (s u : State) (type : BitVec 8) (pkg : BitVec 12) (die : BitVec 2) (payload : Payload) : Prop :=
  ∃ q : Packet, q.type = type ∧ q.dpkg = pkg ∧ q.ddie = die ∧ q.payload = payload ∧
    ((∃ qs, u.outbox = s.outbox ++ qs ∧ q ∈ qs) ∨ (∃ qs, u.net = s.net ++ qs ∧ q ∈ qs) ∨ (∃ qs, u.backlog = s.backlog ++ qs ∧ q ∈ qs))

/-- Bytes stand in memory from an address on. -/
def State.Holds (u : State) (pa : Nat) (bs : List Byte) : Prop := ∀ k, k < bs.length → u.byte (pa + k) = bs.getD k 0

/-- The die whose Vat holds the landing counter of a block: that of the collective's LAND, or the receiver. -/
def State.landsAt (s : State) (die : BitVec 2) (bid : BitVec 48) : BitVec 2 := match s.blockColl die bid with | some c => ctDie c.land | none => die
/-- R306, R332: a block may land at a die: it has not landed at that address before, no collective of its tag has been aborted, and its counter can be raised. -/
def State.AwaitsBlock (s : State) (die : BitVec 2) (bid : BitVec 48) (addr : Word) (cidx : BitVec 16) : Prop :=
  (∀ l ∈ (s.die die).landed, ¬ (l.bid = bid ∧ l.addr = addr)) ∧ bidTag bid ∉ (s.die die).dead ∧ s.Accepts (s.landsAt die bid) cidx
/-- R306: the block has landed there: its bytes stand in memory, its counter has risen, and the pair of block and address is recorded. -/
def State.BlockLands (s u : State) (die : BitVec 2) (bid : BitVec 48) (addr : Word) (cidx : BitVec 16) (pa : Nat) (bs : List Byte) : Prop :=
  u.Holds pa bs ∧ u.cell (s.landsAt die bid) cidx = s.cell (s.landsAt die bid) cidx + 1 ∧ ∃ l ∈ (u.die die).landed, l.bid = bid ∧ l.addr = addr

end Sys2Proof.Machine
end

