-- ==== Sys2Proof/Certificates/Slice0/Obligations.lean ====
section
/-! DEFINITION. The statements about the machine. Each names in its docstring the rules of the manual that it formalises. -/

open Sys2Proof Sys2Proof.Machine

/-! ## Scalar instructions -/

/-- R73, R96: for every two-source integer instruction of the F class, every register and immediate form and both widths: where it
executes, it completes; gd holds the result that the table of R96 gives, computed on n bits from the two sources and, with W,
sign-extended; a write to g0 is discarded; nothing else changes. -/
def Obligations.IntegerTwoSource : Prop :=
  ∀ (i : Instr) (o : IntOp) (s : State), intOps i = some o → s.Executes o.m .plain →
    Falls i s o.y.len o.m.sw (s.SetsG o.gd (o.result s))

/-- R23: DIV, DIVU, REM and REMU have a result for every divisor and never trap. They are V-class: the result is outstanding,
and nothing else changes. -/
def Obligations.IntegerDivision : Prop :=
  ∀ (i : Instr) (o : IntOp) (s : State), divOps i = some o → s.Executes o.m .plain →
    Falls i s o.y.len o.m.sw (s.Owes (gRes o.gd (o.result s)))

/-- R73, R97 to R99, R101: CLZ, CTZ, POPC, BREV, EXTR, INSR, SEXT, ZEXT, LEA, MOVI and CSEL: every well-formed form completes
with the value given, and nothing else changes. -/
def Obligations.FieldAndMoveResults : Prop :=
  ∀ (i : Instr) (o : GOp) (s : State), fieldOps i = some o → i.wf = true → s.Executes o.m .plain →
    Falls i s o.len o.m.sw (s.SetsG o.gd (o.v s))

/-- R100, R102: CMP writes whether its condition holds, and QOP bit 2 × qa + qb of its table; a write to q0 is discarded, and
nothing else changes. -/
def Obligations.CompareAndPredicateResults : Prop :=
  (∀ m qd ga y w cond (s : State), s.Executes m .plain →
    ∃ b : Bool, (b = true ↔ if w = true then cmpHolds ((s.g ga).setWidth 32) ((s.src y).setWidth 32) cond.toNat
        else cmpHolds (s.g ga) (s.src y) cond.toNat) ∧
      Falls (.cmp m qd ga y w cond) s y.len m.sw (s.SetsQ qd b)) ∧
  (∀ m qd qa qb tt (s : State), s.Executes m .plain →
    Falls (.qop m qd qa qb tt) s 8 m.sw
      (s.SetsQ qd (tt.getLsbD (2 * (s.q qa).toNat + (s.q qb).toNat))))

/-- R103, R104: the scalar FP32 instructions are V-class: the FP32 result of the operation on bits [31:0] of the sources is outstanding for [31:0] of gd,
with [63:32] zero; FCMP owes whether its condition holds. They never fault; nothing else changes. R105, R106, R34: FCVT completes with the converted
bits outstanding for gd. In every mode but SR nothing else changes; whenever the mode in effect is SR, the generator has taken one step and its new
word rounds. -/
def Obligations.FloatingPointScalar : Prop :=
  ((∀ (i : Instr) (o : FOp) (s : State), floatOps i = some o → s.Executes o.m .plain →
     Falls i s 8 o.m.sw (s.Owes (gRes o.gd (BitVec.ofNat 64 (o.v s).toNat)))) ∧
   (∀ m qd ga gb cond (s : State), s.Executes m .plain →
     ∃ b : Bool, (b = true ↔ fcmpHolds (s.f ga) (s.f gb) cond.toNat) ∧
       Falls (.fcmp m qd ga gb cond) s 8 m.sw (s.Owes (qRes qd b)))) ∧
  (∀ m gd ga rm df sf ov (s : State), s.Executes m .plain →
     let code := if rm = 7 then s.cx.rmode else rm
     let integer := fmtInt df = true ∨ fmtInt sf = true
     if code = 4 ∧ ¬ integer then
       Falls (.fcvt m gd ga rm df sf ov) s 8 m.sw (fun u =>
         u = { s with cx := { s.cx with
           gen := genStep s.cx.gen
           pend := s.cx.pend ++ gRes gd (convert df sf ov (.sr (genStep s.cx.gen)) (s.g ga)) } })
     else
       Falls (.fcvt m gd ga rm df sf ov) s 8 m.sw (s.Owes (gRes gd (convert df sf ov (plainMode code) (s.g ga)))))

/-- R37, R48, R49: g0 reads 0, q0 true and m0 all ones. A register with no V-class result outstanding reads as the register
holds; with results outstanding, a read gives the register's value or that of one of the results. -/
def Obligations.RegisterReads : Prop :=
  ∀ s : State, s.g 0 = 0 ∧ s.q 0 = true ∧ s.m 0 = BitVec.allOnes 32 ∧
    (∀ r : GReg, r ≠ 0 → (∀ v, RegVal.g r v ∉ s.cx.pend) → s.g r = s.cx.g[r.toFin]) ∧
    (∀ r : GReg, r ≠ 0 → s.g r = s.cx.g[r.toFin] ∨ ∃ v, RegVal.g r v ∈ s.cx.pend ∧ s.g r = v) ∧
    (∀ r : QReg, r ≠ 0 → s.q r = s.cx.q[r.toFin] ∨ ∃ v, RegVal.q r v ∈ s.cx.pend ∧ s.q r = v) ∧
    (∀ r : MReg, r ≠ 0 → s.m r = s.cx.m[r.toFin] ∨ ∃ v, RegVal.m r v ∈ s.cx.pend ∧ s.m r = v)

/-! ## Control transfer and run control -/

/-- R107 to R109: BR, CALL, JMP and RET whose target is a multiple of 4 transfer there; CALL and JMP write the address of the next instruction to gd; JMP
reads ga before it writes the link. Nothing else changes, and the run does not end. R109: where the target is not a multiple of 4, JMP and RET raise
Misaligned Fetch (class 3, access kind 2) at their own address, and write no link. R55, R110: a REP whose body passes the structural check and whose
count is not 0 begins its first pass; with a count of 0, or guarded off, it skips the body. -/
def Obligations.TransfersAndReplay : Prop :=
  ((∀ m off (s : State), s.Executes m .transfer → (s.cx.pc + 4 * brWords off).toNat % 4 = 0 →
     Jumps (.br m off) s (s.cx.pc + 4 * brWords off) m.sw (fun u => u = s)) ∧
   (∀ m gd off (s : State), s.Executes m .transfer → (s.cx.pc + 4 * brWords off).toNat % 4 = 0 →
     Jumps (.call m gd off) s (s.cx.pc + 4 * brWords off) m.sw (s.SetsG gd (s.cx.pc + natWord (brLen off)))) ∧
   (∀ m gd ga (s : State), s.Executes m .transfer → (s.g ga).toNat % 4 = 0 →
     Jumps (.jmp m gd ga) s (s.g ga) m.sw (s.SetsG gd (s.cx.pc + 8))) ∧
   (∀ m ga (s : State), s.Executes m .transfer → (s.g ga).toNat % 4 = 0 →
     Jumps (.ret m ga) s (s.g ga) m.sw (fun u => u = s))) ∧
  (∀ m gd ga (s : State), s.Executes m .transfer → (s.g ga).toNat % 4 ≠ 0 →
     Raises (.jmp m gd ga) s ⟨3, 0, 2, false, false, s.cx.priv, s.cx.pc⟩ ∧
     Raises (.ret m ga) s ⟨3, 0, 2, false, false, s.cx.priv, s.cx.pc⟩) ∧
  (∀ m gn (len : BitVec 4) stride (s : State), s.repCheck gn len = none →
     (s.Executes m .transfer → s.g gn ≠ 0 →
       Jumps (.rep m gn len stride) s (s.cx.pc + 8) m.sw (fun u =>
         u = { s with cx := { s.cx with rep := ⟨true, 0, 0, s.cx.pc + 8, len.toNat, stride, gn⟩ } })) ∧
     (s.Executes m .transfer → s.g gn = 0 →
       Jumps (.rep m gn len stride) s (s.cx.pc + natWord (8 + 8 * len.toNat)) m.sw (fun u => u = s)) ∧
     (s.GuardedOff m .transfer →
       Jumps (.rep m gn len stride) s (s.cx.pc + natWord (8 + 8 * len.toNat)) m.sw (fun u => u = s)))

/-- R74, R111, R122, R154: NOP and PREF change nothing; YIELD ends its run as if its SW bit were 1; GSPLIT outside a gang does
nothing but honour SW. -/
def Obligations.NopYieldPrefetch : Prop :=
  (∀ m ext (s : State), s.Executes m .plain → Falls (.nop m ext) s ext.len m.sw (fun u => u = s)) ∧
  (∀ m ga mo (s : State), s.Executes m .plain → Falls (.pref m ga mo) s mo.len m.sw (fun u => u = s)) ∧
  (∀ m (s : State), s.Executes m .ending →
    Falls (.yield m) s 8 true (fun u => u = { s with cx := { s.cx with yielded := true } })) ∧
  (∀ m (s : State), s.Executes m ⟨false, false, false, true⟩ → Falls (.gsplit m) s 8 m.sw (fun u => u = s))

/-! ## Traps, the supervisor and special registers -/

/-- R113, R207, R208, R372, R383: TRAP, BRK without debug enable, and SYSC without an entry address take an exception. At user level, in a context that
has opened a region with a handler, the context continues at the handler of its innermost open region, at user level, with FLTVA the address of the
instruction, FLTINFO its class and cause, REGION the parent and REP over; the other registers keep the values that they have at the switch point. A question of a
wait that was put to another package is withdrawn.
R208, R372: the same instructions end the invocation where no region qualifies, or at supervisor level: the task context is free and holds no
invocation. R113: BRK with debug enable places the context in debug halt, with its program counter at the BRK and its results written. -/
def Obligations.SoftwareTraps : Prop :=
  (∀ (i : Instr) (s : State) m f g outer, trapOps s i = some (m, f) → s.Executes m .acting → s.cx.priv = false →
     s.retiring = false → s.cx.opened = g :: outer →
     let b := s.atSwitchPoint
     let r := b.failedRegion g f
     r.blkHandler s.cx.prot g ≠ 0 →
     ∃ t, exec i s = .next t ∧
       t.cx = { b.cx with
         pc := r.blkHandler s.cx.prot g, priv := false, fltva := s.cx.pc, fltinfo := infoWord f.cls f.cause 0 false false false
         region := r.blkParent s.cx.prot g, opened := outer, rep := ⟨false, 0, 0, 0, 0, 0, 0⟩
         status := .ready, gdone := [], arrived := false, firm := none, got := [], code := [], joined := t.cx.joined, poll := none
         rem := b.cx.rem.filter (fun x => b.cx.poll ≠ some (x.req, none)) }) ∧
  (∀ (i : Instr) (s : State) m f, trapOps s i = some (m, f) → s.Executes m .acting → s.retiring = false →
     (s.cx.priv = true ∨ s.cx.opened = []) →
     ∃ t, exec i s = .next t ∧ t.cx = Ctx.blank s.cx.id) ∧
  (∀ (s : State) m code, s.Executes m .acting → s.cx.dbgen = true →
     ∃ t, exec (.brk m code) s = .next t ∧ t.cx = { (commitAll s.issued s.cx) with firm := none, status := .debug code s.cx.pc true } ∧
       t.mem = s.mem)

/-- R114, R372: SYSC with an entry address saves the address of the next instruction, the level and its number, enters the supervisor level and continues
at SVENTRY; its run ends. Nothing else changes. R114, R372: ERET at supervisor level sets the program counter and the level from the save registers.
Nothing else changes. -/
def Obligations.SupervisorCallAndReturn : Prop :=
  (∀ (s : State) m n, s.Executes m .acting → s.cx.prot.sventry ≠ 0 →
     Jumps (.sysc m n) s s.cx.prot.sventry true (fun u =>
       u = { s with cx := { s.cx with sepc := s.cx.pc + 8, spriv := s.cx.priv, snum := n, priv := true } })) ∧
  (∀ (s : State) m, s.Executes m .transfer → s.cx.priv = true → s.cx.sepc.toNat % 4 = 0 →
     Jumps (.eret m) s s.cx.sepc m.sw (fun u => u = { s with cx := { s.cx with priv := s.cx.spriv } }))

/-- R61, R66, R71, R371: at user level, ERET, ATINV and every MFS or MTS of a number from 0x800 raise Privileged Instruction
(class 2) at their own address, whatever their guard, and have no effect. -/
def Obligations.PrivilegedInstructions : Prop :=
  ∀ (s : State) m, s.cx.priv = false →
    let f : FaultRec := ⟨2, 0, 0, false, false, false, s.cx.pc⟩
    Raises (.eret m) s f ∧ (∀ ga mode, Raises (.atinv m ga mode) s f) ∧
      (∀ gd (n : BitVec 12), 0x800 ≤ n.toNat → Raises (.mfs m gd n) s f) ∧
      (∀ ga (n : BitVec 12), 0x800 ≤ n.toNat → Raises (.mts m ga n) s f)

/-- R40 to R42, R115, R371: MFS writes gd with the value of the special register by its layout, for every register that the manual lists; nothing else
changes. A number that is not assigned raises Illegal Instruction, cause 9. R17, R33, R40, R41, R115, R371: MTS writes the register, and with SEED or
LNUM starts the generator afresh; nothing else changes. A number that is not assigned or not writable raises Illegal Instruction, cause 9. -/
def Obligations.SpecialRegisters : Prop :=
  (∀ (s : State) m gd (n : BitVec 12), (s.cx.priv = true ∨ n.toNat < 0x800) →
     (∀ v, sprWord s n.toNat = some v → s.Executes m .plain → Falls (.mfs m gd n) s 8 m.sw (s.SetsG gd v)) ∧
     (sprWord s n.toNat = none → Raises (.mfs m gd n) s ⟨1, 9, 0, false, false, s.cx.priv, s.cx.pc⟩)) ∧
  (∀ (s : State) m ga (n : BitVec 12), (s.cx.priv = true ∨ n.toNat < 0x800) →
     (∀ c, sprPut s.cx (s.g ga) n.toNat = some c → s.Executes m .plain →
       Falls (.mts m ga n) s 8 m.sw (fun u => u = { s with cx := c })) ∧
     (sprPut s.cx (s.g ga) n.toNat = none → Raises (.mts m ga n) s ⟨1, 9, 0, false, false, s.cx.priv, s.cx.pc⟩))

/-- R116: ATINV at supervisor level removes the translations that its mode names from the TLB of the issuing core and from that of its
cluster, and no others; nothing else changes. Mode 0 names the translations of the context's protection context that cover the address in ga, mode 1
those of the protection context, mode 2 all. Mode 3 is undefined: a word that holds it is illegal. -/
def Obligations.InvalidateTranslations : Prop :=
  ∀ (s : State) m ga (mode : BitVec 2), mode ≠ 3 → s.Executes m .plain → s.cx.priv = true →
    let me := s.cx.id.coreId
    let gone : TlbE → Bool := fun e =>
      if mode = 0 then tlbHit s.cx.pctx (s.g ga) e else if mode = 1 then decide (e.pctx = s.cx.pctx) else true
    Falls (.atinv m ga mode) s 8 m.sw (fun u =>
      u = (s.setCore { s.core me with tlb := (s.core me).tlb.filter (fun e => !gone e) }).setDie me.die
        { s.die me.die with ctlb := (s.die me.die).ctlb.filter (fun x => !(decide (x.1 = clusterOf me.core) && gone x.2)) })

/-- R112: a HALT whose tokens have left BUSY ends the invocation: its context is free and holds no invocation. R424: a HALT or a FENCE issued while ALOG
is 1 takes the Atomic Error fault (class 16) at its own address, and ALOG falls; FENCE does so once its other conditions hold. -/
def Obligations.HaltAndAtomicError : Prop :=
  (∀ (s : State) m, s.Executes m .acting → s.cx.alog = false → s.commitRun.canHalt = true →
     ∃ t, exec (.halt m) s = .next t ∧ t.cx = Ctx.blank s.cx.id) ∧
  ((∀ (s : State) m, s.Executes m .acting → s.cx.alog = true →
     exec (.halt m) s = .next (({ s with cx := { s.cx with alog := false } }).recordFault ⟨16, 0, 0, false, false, s.cx.priv, s.cx.pc⟩)) ∧
   (∀ (s : State) m scope, s.Executes m .wait → s.cx.alog = true → s.reading = false → (scope = 2 → s.cx.owes 3 = false) →
     exec (.fence m scope) s = .next (({ s.fenceWrite scope with cx := { s.cx with alog := false } }).recordFault
       ⟨16, 0, 0, false, false, s.cx.priv, s.cx.pc⟩)))

/-! ## Memory instructions -/

/-- R118, R452: LD, ST, LDRO, AMO and RED at an address that is not a multiple of the size raise Misaligned Access (class 4) with that address, and have
no effect. R52, R118, R374, R382: aligned, they raise the fault of their translation with the access kind and the address; where no translation is
held, the context holds issue for a walk, and the instruction will be issued again. R380: a translation at issue changes nothing but the TLBs, and on
a write the A and D bits of its leaf: every byte outside the leaf's doubleword is as before. A read changes nothing at all. -/
def Obligations.AccessChecks : Prop :=
  (∀ (i : Instr) (s : State) o, memOps s i = some o → s.Executes o.m .plain → o.va.toNat % 2 ^ o.sz.toNat ≠ 0 →
     Raises i s ⟨4, 0, o.acc, false, false, s.cx.priv, o.va⟩) ∧
  (∀ (i : Instr) (s : State) o, memOps s i = some o → s.Executes o.m .plain → o.va.toNat % 2 ^ o.sz.toNat = 0 →
     let x := s.xlate s.cx.id.coreId s.cx.pctx s.cx.prot.keyslot (!s.cx.priv) o.dw o.acc o.va
     (∀ cls cause, x.1 = .fault cls cause → Raises i s ⟨cls, cause, o.acc, false, false, s.cx.priv, o.va⟩) ∧
     (x.1 = .miss → ∃ t, exec i s = .next t ∧ t.cx = { x.2.cx with status := .walking o.va o.acc } ∧ t.mem = x.2.mem)) ∧
  (∀ (s s1 : State) acc dw va pl, s.access acc dw va = .ok (pl, s1) →
     (acc = 0 ∨ acc = 2 → s1 = s) ∧ s1.cx = s.cx ∧ s1.net = s.net ∧ s1.outbox = s.outbox ∧ s1.agenda = s.agenda ∧ s1.ctrs = s.ctrs ∧
     (s1 = s ∨ ∃ e, s.tlbFind s.cx.id.coreId s.cx.pctx va = some e ∧
       ∀ a, (a < e.ptePa ∨ e.ptePa + 8 ≤ a) →
         (a / 256 = e.ptePa / 256 → tget 0 s.lineKey (e.ptePa / 256) = s.keyId s.cx.prot.keyslot) → s1.byte a = s.byte a))

/-- R119, R257: LD of HBM of the package owes gd the bytes at the address, little-endian and extended; no byte of memory and no register changes. R119,
R120, R400: LD and ST of a device register: the load owes gd the register's value, and the store makes the write of that register due next. -/
def Obligations.LoadsAndDeviceRegisters : Prop :=
  (∀ (s s1 : State) m gd ga mo sz sx pa, s.Executes m .plain → (s.address ga mo sz).toNat % 2 ^ sz.toNat = 0 →
     s.access 0 (sz = 3) (s.address ga mo sz) = .ok (.hbm pa, s1) → s.badWord pa (2 ^ sz.toNat) = none →
     Falls (.ld m gd ga mo sz sx) s mo.len m.sw (fun u =>
       u = { s with
         dirty := u.dirty, die0 := u.die0, die1 := u.die1, die2 := u.die2, die3 := u.die3
         cx := { s.cx with pend := s.cx.pend ++ gRes gd (extended sx (s.bytes s.cx.prot.keyslot pa (2 ^ sz.toNat))) } })) ∧
  ((∀ (s s1 : State) m gd ga mo sx pa, s.Executes m .plain → (s.address ga mo 3).toNat % 8 = 0 →
     s.access 0 true (s.address ga mo 3) = .ok (.dev pa, s1) →
     Falls (.ld m gd ga mo 3 sx) s mo.len m.sw (s.Owes (gRes gd (s.readReg pa)))) ∧
   (∀ (s s1 : State) m ga mo gc pa, s.Executes m .plain → (s.address ga mo 3).toNat % 8 = 0 →
     s.access 1 true (s.address ga mo 3) = .ok (.dev pa, s1) →
     Falls (.st m ga mo gc 3 0) s mo.len m.sw (fun u =>
       u = { s1 with agenda := s1.agenda ++ [.event (.registerWrite pa (s.g gc))] })))

/-- R119, R418: a load that consumes poison raises a containment error (class 17, cause 1) at the poisoned word, which is pending until the switch point;
gd is owed the bytes with those of poisoned words read as 0. R126, R128, R418: AMO on a poisoned word, with ATMODE LOG: a containment error, cause 6,
and no register is written; with POISON: gd is owed the old bits as read and qs false. RED on a poisoned word sets ALOG under LOG. In every case the
counter is still raised. -/
def Obligations.PoisonedWords : Prop :=
  (∀ (s s1 : State) m gd ga mo sz sx pa w, s.Executes m .plain → (s.address ga mo sz).toNat % 2 ^ sz.toNat = 0 →
     s.access 0 (sz = 3) (s.address ga mo sz) = .ok (.hbm pa, s1) → s.badWord pa (2 ^ sz.toNat) = some w →
     Falls (.ld m gd ga mo sz sx) s mo.len m.sw (fun u =>
       ∃ bs : List Byte, bs.length = 2 ^ sz.toNat ∧
         (∀ k, k < 2 ^ sz.toNat → bs.getD k 0 =
           if (pa + k) / 8 * 8 ∈ s.poison then 0 else (s.bytes s.cx.prot.keyslot pa (2 ^ sz.toNat)).getD k 0) ∧
         u.cx = { s.cx with
           errs := s.cx.errs ++ [⟨17, 1, 0, false, false, s.cx.priv, s.address ga mo sz + intWord ((w : Int) - pa)⟩]
           pend := s.cx.pend ++ gRes gd (extended sx bs) })) ∧
  (∀ (s s1 : State) m ga gb opc sz k scope pa w, s.Executes m .plain → (s.g ga).toNat % 2 ^ sz.toNat = 0 →
     s.access 3 false (s.g ga) = .ok (.hbm pa, s1) → s1.badWord pa (2 ^ sz.toNat) = some w →
     (∀ gd gc qs, Falls (.amo m gd ga gb gc opc sz qs k scope) s 8 m.sw (fun u =>
       ∃ x : State, u = x.thenRaise (s.g ga) (s.named k) scope 3 ∧
         x.cx = if s.cx.atmode = true then
             { s1.cx with pend := s1.cx.pend ++ gRes gd (wordOf (s1.bytes s.cx.prot.keyslot pa (2 ^ sz.toNat))) ++ qRes qs false }
           else { s1.cx with errs := s1.cx.errs ++ [⟨17, 6, 3, false, false, s.cx.priv, s.g ga + intWord ((w : Int) - pa)⟩] })) ∧
     Falls (.red m ga gb opc sz k scope) s 8 m.sw (fun u =>
       ∃ x : State, u = x.thenRaise (s.g ga) (s.named k) scope 3 ∧
         x.cx = if s.cx.atmode = true then s1.cx else { s1.cx with alog := true }))

/-- R120, R124, R257: ST to HBM of the package: the low bytes of gc are in memory at the address, and every other byte of memory is
as it was after the translation; what watches the bytes is told, and a counter that is named is raised. No register changes. -/
def Obligations.StoreToPackage : Prop :=
  ∀ (s s1 : State) m ga mo gc sz k pa, s.Executes m .plain → (s.address ga mo sz).toNat % 2 ^ sz.toNat = 0 →
    s.access 1 (sz = 3) (s.address ga mo sz) = .ok (.hbm pa, s1) → s1.overPoison pa (2 ^ sz.toNat) = false →
    Falls (.st m ga mo gc sz k) s mo.len m.sw (fun u =>
      ∃ w, s1.StoredAt s.cx.prot.keyslot pa (leBytes (2 ^ sz.toNat) (s.g gc).toNat) w ∧
        u = w.noteStore.thenRaise (s.address ga mo sz) (s.named k) 0 1)

/-- R125 to R127: AMO and RED on a word of HBM of the package that is not poisoned: the operation of R125 on the old value is stored
(a CAS that finds another value stores nothing); AMO owes gd the old value, zero-extended, and qs whether it wrote; then a named
counter is raised. -/
def Obligations.AtomicsInPackage : Prop :=
  ∀ (s s1 : State) m ga gb opc sz k scope pa, s.Executes m .plain → (s.g ga).toNat % 2 ^ sz.toNat = 0 →
    s.access 3 false (s.g ga) = .ok (.hbm pa, s1) → s1.badWord pa (2 ^ sz.toNat) = none →
    let n := 8 * 2 ^ sz.toNat
    let old := leNat (s1.bytes s.cx.prot.keyslot pa (2 ^ sz.toNat))
    let new := fun (c : Word) => atomicResult (BitVec.ofNat n old) ((s.g gb).setWidth n) (c.setWidth n) opc.toNat
    let after := fun (c : Word) (w : State) => match new c with
      | some v => ∃ x, (s1.recallRange s.l1 pa (2 ^ sz.toNat)).StoredAt s.cx.prot.keyslot pa (leBytes (2 ^ sz.toNat) v.toNat) x ∧
          w = x.noteStore
      | none => w = s1.recallRange s.l1 pa (2 ^ sz.toNat)
    (∀ gd gc qs, opc.toNat < 12 → Falls (.amo m gd ga gb gc opc sz qs k scope) s 8 m.sw (fun u =>
      ∃ w, after (s.g gc) w ∧
        u = ((w.laterG gd (BitVec.ofNat 64 old)).laterQ qs (new (s.g gc)).isSome).thenRaise (s.g ga) (s.named k) scope 3)) ∧
    (opc.toNat < 10 → Falls (.red m ga gb opc sz k scope) s 8 m.sw (fun u =>
      ∃ w, after 0 w ∧ u = w.thenRaise (s.g ga) (s.named k) scope 3))

/-- R119 to R123, R127, R261, R287: LD, LDRO, ST, AMO and RED of memory homed in another package or at a host, where fewer than 1,024 accesses of the
class are outstanding and the packet stays within 4,096 of the oldest pending one of its series: the access is listed as outstanding, a packet of its
type with its operands leaves for the home, and the context goes on; no byte of memory of the package and no register is written. Where the series has
no such room, the instruction holds issue and nothing is sent. R250, R266: an LDRO that the read-only cache answers owes gd the cached bytes. -/
def Obligations.RemoteAccesses : Prop :=
  ∀ (i : Instr) (s s1 : State) o pl, memOps s i = some o → s.Executes o.m .plain → o.va.toNat % 2 ^ o.sz.toNat = 0 →
    s.access o.acc o.dw o.va = .ok (pl, s1) → (∀ pa, pl ≠ .hbm pa) → (∀ pa, pl ≠ .dev pa) →
    ((∀ gd sz sx, o.out.kind = .ldro gd sz sx → s1.roAway o.va (2 ^ o.sz.toNat) = none) → s1.cx.full pl.isHost o.out.counted = false →
    s1.mustWait (remoteTo s1 o.va pl).1 (remoteTo s1 o.va pl).2.1 = false →
    Falls i s o.len o.m.sw (fun u =>
      ∃ (r : RemAcc) (p : Packet) (q : MemReq),
        u.cx = { s1.cx with rem := s1.cx.rem ++ [r] } ∧ u.mem = s1.mem ∧
        r.req = s1.fresh ∧ r.src = s.cx.id ∧ r.kind = o.out.kind ∧ r.counted = o.out.counted ∧ r.host = pl.isHost ∧ r.va = o.va ∧
          r.opnd = o.out.opnd ∧ r.ctr = o.out.ctr ∧ r.inRun = o.out.inRun ∧
        p ∈ u.net ++ u.outbox ∧ p.type = o.out.type ∧ p.payload = .mem q ∧
          p.dpkg = (remoteTo s1 o.va pl).1 ∧ p.addr = (remoteTo s1 o.va pl).2.2 ∧
        q.va = p.addr ∧ q.sz = o.sz ∧ q.opc = o.out.opc ∧ q.opnd = o.out.opnd ∧ q.swp = o.out.swp ∧ q.pctx = s1.cx.pctx ∧
          q.user = !s1.cx.priv)) ∧
    ((∀ gd sz sx, o.out.kind = .ldro gd sz sx → s1.roAway o.va (2 ^ o.sz.toNat) = none) →
      s1.mustWait (remoteTo s1 o.va pl).1 (remoteTo s1 o.va pl).2.1 = true → Stalls i s s1) ∧
    (∀ gd sz sx bs, o.out.kind = .ldro gd sz sx → s1.roAway o.va (2 ^ o.sz.toNat) = some bs →
      Falls i s o.len o.m.sw (fun u => u = { s with cx := { s.cx with pend := s.cx.pend ++ gRes gd (extended sx bs) } }))

/-- R121, R266, R267: LDRO of HBM of the package owes gd bytes of a cached line that the context may still read, or of the home copy, which does not show
stores held in an L1. No byte of memory changes. R418: where a word of them is poisoned, its bytes are 0 and a containment error, cause 1, at the first
such word is pending. R121, R129: ROINV leaves the read-only cache of its core empty and changes nothing else. FENCE completes where no engine operation
of the context has reads left, no posted count is awaited and ALOG is 0: the stores of the core, and of the cores on which the invocation has run before,
are performed at their home slices (`.grp`: those homed in its cluster), and nothing else changes but side-information entries of the bytes written back
(R295). -/
def Obligations.ReadOnlyPathAndFence : Prop :=
  (∀ (s s1 : State) m gd ga mo sz sx pa, s.Executes m .plain → (s.address ga mo sz).toNat % 2 ^ sz.toNat = 0 →
     s.access 0 false (s.address ga mo sz) = .ok (.hbm pa, s1) →
     let va := (s.address ga mo sz).toNat
     Falls (.ldro m gd ga mo sz sx) s mo.len m.sw (fun u =>
       ∃ l : RoLine, ((l ∈ s.myCore.ro ∧ l.pctx = s.cx.pctx ∧ s.cx.id.slot ∈ l.slots ∧ l.va ≤ va ∧ va + 2 ^ sz.toNat ≤ l.va + l.bytes.length) ∨
           (l.va = va / 64 * 64 ∧ l.bytes = s.homeBytes s.cx.prot.keyslot (pa / 64 * 64) 64 ∧
             ∀ w, w ∈ l.bad ↔ ∃ h ∈ s.homePoison, pa / 64 * 64 ≤ h ∧ h < pa / 64 * 64 + 64 ∧ w = l.va + (h - pa / 64 * 64))) ∧
         let bad := fun (k : Nat) => (va + k) / 8 * 8 ∈ l.bad
         ∃ bs : List Byte, bs.length = 2 ^ sz.toNat ∧ (∀ k, k < bs.length → (bad k → bs.getD k 0 = 0) ∧ (¬ bad k → bs.getD k 0 = l.bytes.getD (va + k - l.va) 0)) ∧
           ((∀ k, k < bs.length → ¬ bad k) →
             u = { s with cores := u.cores, cx := { s.cx with pend := s.cx.pend ++ gRes gd (extended sx bs) } }) ∧
           (∀ k, k < bs.length → bad k → (∀ j, j < k → ¬ bad j) →
             u.cx = { s.cx with
               errs := s.cx.errs ++ [⟨17, 1, 0, false, false, s.cx.priv, natWord ((va + k) / 8 * 8)⟩]
               pend := s.cx.pend ++ gRes gd (extended sx bs) }))) ∧
  ((∀ (s : State) m, s.Executes m .plain → Falls (.roinv m) s 8 m.sw (fun u =>
     u = { s with cores := u.cores } ∧ u.core s.cx.id.coreId = { s.myCore with ro := [] } ∧
       ∀ k : CoreId, k ≠ s.cx.id.coreId → u.core k = s.core k)) ∧
   (∀ (s : State) m scope, s.Executes m .wait → s.reading = false → (scope = 2 → s.cx.postedPod = 0 ∧ s.cx.postedHost = 0) →
     s.cx.alog = false → Falls (.fence m scope) s 8 m.sw (fun u =>
       u = { s with dirty := u.dirty, die0 := u.die0, die1 := u.die1, die2 := u.die2, die3 := u.die3 } ∧
       ∀ a b o, (a, b, o) ∈ u.dirty ↔ (a, b, o) ∈ s.dirty ∧
         ¬ ((o = coreNum s.cx.id.coreId ∨ o = coreNum s.cx.id.coreId + 1000 ∨ o ∈ s.cx.wrote) ∧
           (scope = 1 → homeDie a = s.cx.id.die ∧ clusterOf (homeSlice a) = clusterOf s.cx.id.core)))))

/-- R256, R352, R421: a write at the home slices: the written bytes read back, the other bytes of memory are unchanged, no store of the
written bytes is held back any more, and words covered whole are no longer poisoned. -/
def Obligations.HomeWriteReadsBack : Prop :=
  ∀ (s : State) key pa bs, pa % 256 + bs.length ≤ 256 →
    s.StoredAt key pa bs (s.putHome key pa bs) ∧
    (∀ k, k < bs.length → (s.putHome key pa bs).homeByte (pa + k) = bs.getD k 0) ∧
    (∀ w, w ∈ (s.putHome key pa bs).poison ↔ w ∈ s.poison ∧ ¬ (pa ≤ w ∧ w + 8 ≤ pa + bs.length))

/-! ## Pointers, the stash and vector instructions -/

/-- R43, R44, R134, R135: PSET stores the descriptor whole; PADV moves only the cursor, by step_cursor with the pointer's own WRAP. Nothing else changes.
R44: the access address of a stash operand and the cursor afterwards, for every descriptor whose MODE is not reserved. -/
def Obligations.PointerInstructions : Prop :=
  ((∀ (s : State) m pd v, s.Executes m .plain →
     Falls (.pset m pd v) s v.len m.sw (s.SetsP pd (match v with | .reg r => s.g r | .imm w => w))) ∧
   (∀ (s : State) m pd y, s.Executes m .plain →
     let d := s.cx.p[pd.toFin]
     Falls (.padv m pd y) s y.len m.sw
       (s.SetsP pd (withCur d (stepCur (d.toNat / 2 ^ 40 % 2 ^ 20) (d.toNat % 2 ^ 24) (s.src y).toInt))))) ∧
  (∀ d : Word, d.toNat / 2 ^ 60 < 4 → ((pointerStep d).1.toNat, (pointerStep d).2) = pointerAccess d)

/-- R44, R45, R131: what two vector sources read. Accumulators give their lanes and change nothing. A stash operand whose MODE is
reserved raises Illegal Instruction, cause 10; one that is not a multiple of the width, Misaligned Access; one that reaches beyond the
stash, Stash Range; no pointer has then moved. A stash operand in scratch gives its widened elements, and its cursor moves once, also
where it is named twice. -/
def Obligations.VectorSources : Prop :=
  ∀ (s : State) (fmt : BitVec 4),
    (∀ x y, s.src2 fmt (.a x) (.a y) = .ok (s.a x, s.a y, s)) ∧
    (∀ r y, 4 ≤ (s.p r).toNat / 2 ^ 60 → s.src2 fmt (.p r) y = .error (.raise ⟨1, 10, 0, false, false, s.cx.priv, s.cx.pc⟩ s)) ∧
    (∀ r z, (s.p r).toNat / 2 ^ 60 < 4 → (pointerAccess (s.p r)).1 % stashW fmt ≠ 0 →
      s.src2 fmt (.p r) (.a z) = .error (.raise ⟨4, 0, 0, false, false, s.cx.priv, BitVec.ofNat 64 (pointerAccess (s.p r)).1⟩ s)) ∧
    (∀ r z, (s.p r).toNat / 2 ^ 60 < 4 → (pointerAccess (s.p r)).1 % stashW fmt = 0 →
      262144 < (pointerAccess (s.p r)).1 + 32 * stashW fmt →
      s.src2 fmt (.p r) (.a z) = .error (.raise ⟨5, 0, 0, false, false, s.cx.priv, s.cx.pc⟩ s)) ∧
    (∀ r, s.myCore.windows = [] → s.poison = [] → (s.p r).toNat / 2 ^ 60 < 4 → (pointerAccess (s.p r)).1 % stashW fmt = 0 →
      0 < stashW fmt → (pointerAccess (s.p r)).1 + 32 * stashW fmt ≤ 262144 →
      ∃ (v : Vector Lane 32) (u : State), s.SetsP r (pointerAccess (s.p r)).2 u ∧
        s.src2 fmt (.p r) (.p r) = .ok (v, v, u) ∧
        ∀ l : Fin 32, v[l] = widen fmt (leNat ((List.range (stashW fmt)).map (fun k =>
          s.myCore.scratch ((pointerAccess (s.p r)).1 + l.val * stashW fmt + k)))))

/-- R48, R131, R141 to R143, R148, R151: every masked vector instruction with an accumulator destination whose sources pass their
checks owes its active lanes the value of the table of its rule; inactive lanes keep their values, and nothing but the sources'
pointers changes. -/
def Obligations.VectorLaneResults : Prop :=
  (∀ (i : Instr) (o : VOp) (s s1 : State) v w, vec2Ops i = some o → s.Executes o.m .plain →
    s.src2 o.fmt o.sa o.sb = .ok (v, w, s1) →
    Falls i s 8 o.m.sw (s1.Owes (s1.cx.aRes o.ad (s.m o.mc) (Vector.ofFn (o.lane s1 v w))))) ∧
  (∀ (i : Instr) (o : VOp) (s s1 : State) v, vec1Ops i = some o → s.Executes o.m .plain →
    s.src1 o.fmt o.sa = .ok (v, s1) →
    Falls i s 8 o.m.sw (s1.Owes (s1.cx.aRes o.ad (s.m o.mc) (Vector.ofFn (o.lane s1 v v)))))

/-- R34, R144: VCVT owes every active lane the conversion of its source bits, cut to 32 bits; under SR the generator takes 32 steps, one for each lane,
and otherwise none. R145 to R147: VCMP owes md the comparisons of the active lanes and 0 elsewhere; VSEL owes every lane of ad, chosen by mc; VRED
owes gd the fixed tree over the active lanes, with the identity for the others. -/
def Obligations.ConvertCompareSelectReduce : Prop :=
  (∀ (s s1 : State) m ad sa mc rm df sf ov v, s.Executes m .plain → s.srcBy (rawLanes sf) sf sa = .ok (v, s1) →
     let code := if rm = 7 then s.cx.rmode else rm
     let sr := code = 4 ∧ ¬ (fmtInt df = true ∨ fmtInt sf = true)
     let word := fun (l : Nat) => genStep^[l + 1] s1.cx.gen
     Falls (.vcvt m ad sa mc rm df sf ov) s 8 m.sw (fun u =>
       u = { s1 with cx := { s1.cx with
         gen := if sr then genStep^[32] s1.cx.gen else s1.cx.gen
         pend := s1.cx.pend ++ [.a (s1.cx.aNum ad) (s.m mc) (Vector.ofFn (fun l : Fin 32 =>
           (convert df sf ov (if sr then .sr (word l.val) else plainMode code) (v[l].setWidth 64)).setWidth 32))] } })) ∧
  ((∀ (s s1 : State) m md sa sb mc fmt rm cond v w, s.Executes m .plain → s.src2 fmt sa sb = .ok (v, w, s1) →
     ∃ r : BitVec 32, (∀ l : Fin 32, r.getLsbD l.val = true ↔ (s.m mc).getLsbD l.val = true ∧
         (if fmt.toNat < 5 then fcmpHolds v[l] w[l] cond.toNat else cmpHolds v[l] w[l] cond.toNat)) ∧
       Falls (.vcmp m md sa sb mc fmt rm cond) s 8 m.sw (s1.Owes (mRes md r))) ∧
   (∀ (s s1 : State) m ad sa sb mc fmt rm v w, s.Executes m .plain → s.src2 fmt sa sb = .ok (v, w, s1) →
     Falls (.vsel m ad sa sb mc fmt rm) s 8 m.sw (s1.Owes (s1.cx.aRes ad (BitVec.allOnes 32)
       (Vector.ofFn (fun l : Fin 32 => if (s.m mc).getLsbD l.val = true then v[l] else w[l]))))) ∧
   (∀ (s s1 : State) m gd sa mc fmt rm op v, s.Executes m .plain → s.src1 fmt sa = .ok (v, s1) →
     let r := treeOf (redOp op) (fun l => if h : l < 32 then (if (s.m mc).getLsbD l = true then v[l] else redUnit op) else 0)
     Falls (.vred m gd sa mc fmt rm op) s 8 m.sw
       (s1.Owes (gRes gd (if 6 ≤ op.toNat then BitVec.ofNat 64 r.toNat else BitVec.ofInt 64 r.toInt)))))

/-- R148, R149, R152: VBCAST, VIOTA, VEXTR, VINS, MKOP and MKPOP: the results that their tables give are owed, and nothing else
changes. -/
def Obligations.LaneAndMaskResults : Prop :=
  ∀ (s : State) m, s.Executes m .plain →
    (∀ ad ga mc rm, Falls (.vbcast m ad ga mc rm) s 8 m.sw
      (s.Owes (s.cx.aRes ad (s.m mc) (Vector.replicate 32 ((s.g ga).setWidth 32))))) ∧
    (∀ ad ga mc rm, Falls (.viota m ad ga mc rm) s 8 m.sw
      (s.Owes (s.cx.aRes ad (s.m mc) (Vector.ofFn (fun l : Fin 32 =>
        BitVec.ofNat 32 ((s.g ga).toNat + (List.range l.val).countP (fun k => (s.m mc).getLsbD k))))))) ∧
    (∀ gd aa lane fmt rm, Falls (.vextr m gd aa lane fmt rm) s 8 m.sw
      (s.Owes (gRes gd (if fmt = 8 then BitVec.ofInt 64 (s.a aa)[lane.toFin].toInt else BitVec.ofNat 64 (s.a aa)[lane.toFin].toNat)))) ∧
    (∀ ad ga lane fmt rm, Falls (.vins m ad ga lane fmt rm) s 8 m.sw
      (s.Owes (s.cx.aRes ad (BitVec.ofNat 32 (2 ^ lane.toNat)) (Vector.replicate 32 ((s.g ga).setWidth 32))))) ∧
    (∀ md ma mb tt, ∃ r : BitVec 32, (∀ l : Fin 32, r.getLsbD l.val =
        tt.getLsbD (2 * ((s.m ma).getLsbD l.val).toNat + ((s.m mb).getLsbD l.val).toNat)) ∧
      Falls (.mkopTt m md ma mb tt) s 8 m.sw (s.Owes (mRes md r))) ∧
    (∀ md ga, Falls (.mkopReg m md ga) s 8 m.sw (s.Owes (mRes md ((s.g ga).setWidth 32)))) ∧
    (∀ gd ma (fn : BitVec 2), Falls (.mkpop m gd ma fn) s 8 m.sw (s.Owes (gRes gd (BitVec.ofNat 64 (
      if fn = 0 then (List.range 32).countP (fun k => (s.m ma).getLsbD k)
      else if fn = 1 then leading 32 (fun k => (s.m ma).getLsbD k)
      else (s.m ma).toNat)))))

/-- R44, R141, R150: VSTA and VSCAT write the low bytes of their active lanes, and no byte of an inactive lane, at the places that their checks found;
VSTA's cursor moves. In scratch, where no window is mapped, every other byte of the stash keeps its value, the higher of two lanes at one place
remains, and memory does not change. R150: VGATH where no window is mapped and every active lane's element is aligned and lies in the stash: the
active lanes are owed the widened elements at ga + ab[l] × w; nothing else changes. An active lane that is misaligned, or beyond the stash, raises its
fault, the lowest such lane first, and nothing is accessed. -/
def Obligations.VectorStoresAndGather : Prop :=
  ((∀ (s s1 : State) m p ab mc fmt rm ls, s.Executes m .plain → (s.p p).toNat / 2 ^ 60 < 4 →
     s.spanAt 1 (stashW fmt) p = .ok (ls, s1) →
     Falls (.vsta m p ab mc fmt rm) s 8 m.sw (fun u => u = (writeStash ls (laneBytes (stashW fmt) (s.m mc) (s.a ab)) s1).advance p)) ∧
   (∀ (s : State) m p ab mc fmt rm, s.Executes m .plain → s.myCore.windows = [] → (s.p p).toNat / 2 ^ 60 < 4 →
     let a := (pointerAccess (s.p p)).1
     let w := stashW fmt
     0 < w → a % w = 0 → a + 32 * w ≤ 262144 →
     Falls (.vsta m p ab mc fmt rm) s 8 m.sw (fun u =>
       u.mem = s.mem ∧ u.cx.p[p.toFin] = (pointerAccess (s.p p)).2 ∧
       (∀ x, (x < a ∨ a + 32 * w ≤ x) → u.myCore.scratch x = s.myCore.scratch x) ∧
       (∀ (l : Fin 32) k, k < w → u.myCore.scratch (a + l.val * w + k) =
         if (s.m mc).getLsbD l.val = true then BitVec.ofNat 8 ((s.a ab)[l].toNat / 2 ^ (8 * k))
         else s.myCore.scratch (a + l.val * w + k)))) ∧
   (∀ (s : State) m ga ab ac mc fmt rm, s.Executes m .plain → s.myCore.windows = [] →
     let w := stashW fmt
     let e := fun (l : Fin 32) => (s.g ga + BitVec.ofNat 64 ((s.a ab)[l].toNat * w)).toNat
     0 < w → (∀ l : Fin 32, (s.m mc).getLsbD l.val = true → e l % w = 0 ∧ e l + w ≤ 262144) →
     Falls (.vscat m ga ab ac mc fmt rm) s 8 m.sw (fun u =>
       u.mem = s.mem ∧ u.cx = s.cx ∧
       (∀ x, (∀ l : Fin 32, (s.m mc).getLsbD l.val = true → x < e l ∨ e l + w ≤ x) → u.myCore.scratch x = s.myCore.scratch x) ∧
       (∀ (l : Fin 32) k, k < w → (s.m mc).getLsbD l.val = true →
         (∀ l' : Fin 32, l < l' → (s.m mc).getLsbD l'.val = true → e l' ≠ e l) →
         u.myCore.scratch (e l + k) = BitVec.ofNat 8 ((s.a ac)[l].toNat / 2 ^ (8 * k)))))) ∧
  (∀ (s : State) m ad ga ab mc fmt rm, s.Executes m .plain → s.myCore.windows = [] → s.poison = [] →
     let w := stashW fmt
     let e := fun (l : Fin 32) => (s.g ga + BitVec.ofNat 64 ((s.a ab)[l].toNat * w)).toNat
     0 < w →
     ((∀ l : Fin 32, (s.m mc).getLsbD l.val = true → e l % w = 0 ∧ e l + w ≤ 262144) →
       ∃ v : Vector Lane 32, (∀ l : Fin 32, (s.m mc).getLsbD l.val = true →
           v[l] = widen fmt (leNat ((List.range w).map (fun k => s.myCore.scratch (e l + k))))) ∧
         Falls (.vgath m ad ga ab mc fmt rm) s 8 m.sw (s.Owes (s.cx.aRes ad (s.m mc) v))) ∧
     (∀ l : Fin 32, (s.m mc).getLsbD l.val = true →
       (∀ l' : Fin 32, l' < l → (s.m mc).getLsbD l'.val = true → e l' % w = 0 ∧ e l' + w ≤ 262144) →
       (e l % w ≠ 0 → Raises (.vgath m ad ga ab mc fmt rm) s ⟨4, 0, 0, false, false, s.cx.priv, BitVec.ofNat 64 (e l)⟩) ∧
       (e l % w = 0 → 262144 < e l + w → Raises (.vgath m ad ga ab mc fmt rm) s ⟨5, 0, 0, false, false, s.cx.priv, s.cx.pc⟩)))

/-- R136 to R139: SMAP with legal ranges adds a window of the context with no entry filled; otherwise it raises Stash Map (class 6) with
the first cause of the table that holds. SUNMAP removes the window that the context owns at gs and ends its run, SFLUSH ends its run and
leaves no byte of the window unwritten at home (which evicts side-information entries of those bytes, R295), SINV drops the entries, so that bytes
stored only in the window take the values that memory held, and words that were poisoned there are so again. Where the context owns no window there, each raises Stash Map, cause 5. -/
def Obligations.StashWindows : Prop :=
  (∀ (s : State) m gs gv gl, s.Executes m .plain →
    match smapRefused s.myCore.windows (s.g gs).toNat (s.g gv).toNat (s.g gl).toNat with
    | some c => Raises (.smap m gs gv gl) s ⟨6, c, 0, false, false, s.cx.priv, s.cx.pc⟩
    | none => Falls (.smap m gs gv gl) s 8 m.sw (fun u =>
        u = { s with cores := u.cores, poison := u.poison } ∧
        u.myCore = { s.myCore with windows := s.myCore.windows ++ [⟨(s.g gs).toNat, s.g gv, (s.g gl).toNat, s.cx.id.slot, []⟩] })) ∧
  (∀ (s : State) m gs, s.ownWindow (s.g gs) = none →
    let f : FaultRec := ⟨6, 5, 0, false, false, s.cx.priv, s.cx.pc⟩
    (s.Executes m .ending → Raises (.sunmap m gs) s f ∧ Raises (.sflush m gs) s f) ∧ (s.Executes m .plain → Raises (.sinv m gs) s f)) ∧
  (∀ (s : State) m gs w, s.ownWindow (s.g gs) = some w →
    let held := fun (a o : Nat) => o = coreNum s.cx.id.coreId + 1000 ∧ ∃ e ∈ w.filled, e.2 / 64 = a / 64
    (s.Executes m .ending → Falls (.sflush m gs) s 8 true (fun u =>
      u = { s with dirty := u.dirty, die0 := u.die0, die1 := u.die1, die2 := u.die2, die3 := u.die3 } ∧
      ∀ a b o, (a, b, o) ∈ u.dirty ↔ (a, b, o) ∈ s.dirty ∧ ¬ held a o)) ∧
    (s.Executes m .ending → Falls (.sunmap m gs) s 8 true (fun u =>
      u = { s with dirty := u.dirty, cores := u.cores, die0 := u.die0, die1 := u.die1, die2 := u.die2, die3 := u.die3 } ∧
      (∀ a b o, (a, b, o) ∈ u.dirty ↔ (a, b, o) ∈ s.dirty ∧ ¬ held a o) ∧
      u.myCore.windows = s.myCore.windows.filter (fun x => x.stash ≠ w.stash) ∧
      ∀ a, (a < w.stash ∨ w.stash + w.len ≤ a) → tget 0 u.myCore.stash a = tget 0 s.myCore.stash a)) ∧
    (s.Executes m .plain → (s.dirty.map Prod.fst).Nodup → Falls (.sinv m gs) s 8 m.sw (fun u =>
      u = { s with mem := u.mem, dirty := u.dirty, cores := u.cores, poison := u.poison } ∧
      (∀ x, x ∈ u.poison ↔ x ∈ s.poison ∨ ∃ a b o, (a, b, o) ∈ s.dirty ∧ held a o ∧ b.2 = true ∧ x = a / 8 * 8) ∧
      (∀ a b o, (a, b, o) ∈ u.dirty ↔ (a, b, o) ∈ s.dirty ∧ ¬ held a o) ∧
      (∀ a b o, (a, b, o) ∈ s.dirty → held a o → u.byte a = b.1) ∧
      (∀ a, (∀ b o, (a, b, o) ∈ s.dirty → ¬ held a o) → u.byte a = s.byte a))))

/-! ## The matrix and copy engines -/

/-- R54, R156, R174: an engine instruction whose queue has no free entry, or whose token is BUSY, holds issue: nothing changes but that its context is no
longer issuing; the instruction will be issued again. R155, R158: a tile descriptor of 16 bytes: FMT in [3:0], rows − 1 in [9:4], columns − 1 in
[15:10], the stride in [63:32]; an FMT above 6 or a nonzero reserved field makes it undefined. -/
def Obligations.EngineHoldsAndTiles : Prop :=
  (∀ (s : State) m, s.Executes m .plain →
     let held := fun (i : Instr) => ∃ t, exec i s = .next t ∧
       t = { s with time := t.time, issued := s.issued + 1, cx := { s.cx with status := if s.cx.status = .running then .blocked else s.cx.status } }
     (∀ x tok, (2 ≤ s.myCore.mxq.length ∨ s.tokIsBusy tok = true) →
       (tok = none → held (.mxz m x)) ∧ (∀ ga gb gc da db, held (.mxmul m x tok ga gb gc da db)) ∧
       (∀ ga gb gc gq gs da db, held (.mxq m x tok ga gb gc gq gs da db)) ∧
       (∀ ga gm fmt rm ov sh, held (.mxdrn m x tok ga gm fmt rm ov sh)) ∧ (∀ ga fmt sh, held (.mxldx m x tok ga fmt sh))) ∧
     (∀ gd gs gn gk (mode : CpyMode) len, (2 ≤ s.copyQueued s.cx.id.coreId ∨ s.tokIsBusy mode.tok = true) →
       held (.cpy m gd gs gn gk mode len)) ∧
     (∀ gd gs gsh gk (mode : CpyMode) st, (2 ≤ s.copyQueued s.cx.id.coreId ∨ s.tokIsBusy mode.tok = true) →
       held (.cpy2d m gd gs gsh gk mode st))) ∧
  (∀ bs : List Byte, bs.length = 16 →
     let lo := leNat (bs.take 8)
     let hi := leNat (bs.drop 8)
     (lo % 16 ≤ 6 ∧ lo / 2 ^ 16 % 2 ^ 16 = 0 ∧ hi = 0 →
       tileOf bs = some ⟨BitVec.ofNat 4 lo, lo / 2 ^ 4 % 2 ^ 6 + 1, lo / 2 ^ 10 % 2 ^ 6 + 1, lo / 2 ^ 32⟩) ∧
     (¬ (lo % 16 ≤ 6 ∧ lo / 2 ^ 16 % 2 ^ 16 = 0 ∧ hi = 0) → tileOf bs = none))

/-- R54, R156, R157, R159 to R163: MXZ, MXMUL, MXQ, MXLDX and MXDRN with a free entry and an idle token, whose descriptors and pages pass the checks
at issue: the operation enters the core's matrix queue with its operands' addresses and the pages held, its token is BUSY, and nothing
else changes, but that MXDRN under SR takes 4,096 steps of the generator and leaves its maximum outstanding. -/
def Obligations.MatrixIssue : Prop :=
  ∀ (s : State) m x tok, s.Executes m .plain → s.myCore.mxq.length < 2 → s.tokIsBusy tok = false →
    let queued := fun (u v : State) (kind : MxKind) (ps : List (Nat × Nat)) =>
      v.myCore = { u.myCore with mxq := u.myCore.mxq ++ [⟨u.issuer, x, tok, kind, ps, u.fresh, []⟩] } ∧
      v = { u with fresh := u.fresh + 1, cores := v.cores, cx := { u.cx with t := v.cx.t } } ∧
      ∀ k : Tok, v.cx.t[k.toFin] = if tok = some k then ⟨.busy, 0⟩ else u.cx.t[k.toFin]
    (tok = none → Falls (.mxz m x) s 8 m.sw (fun v => queued s v .zero [])) ∧
    (∀ ga gb gc da db a b s1 s2 s3 s4 ps qs,
      let pa := s.g ga + da.signExtend 64
      let pb := s.g gb + db.signExtend 64
      s.readTile (fun f => f ≠ 0 && f ≤ 4) (s.g gc) = .ok (a, s1) → s1.readTile (mulFmts a.fmt) (s.g gc + 16) = .ok (b, s2) →
      s2.operand 0 (tileAlign a.fmt) pa a.stride (rowBytes a.fmt a.cols) a.rows [] = .ok (ps, s3) →
      s3.operand 0 (tileAlign b.fmt) pb b.stride (rowBytes b.fmt b.cols) b.rows ps = .ok (qs, s4) → a.cols = b.rows →
      Falls (.mxmul m x tok ga gb gc da db) s 16 m.sw (fun v => queued s4 v (.mul a b pa pb) qs)) ∧
    (∀ ga gb gc gq (gs : BitVec 2) da db a b s1 s2 s3 s4 s5 ps qs rs, gs ≠ 2 →
      let pa := s.g ga + da.signExtend 64
      let pb := s.g gb + db.signExtend 64
      let ng := quantGroups a gs
      s.readTile (fun f => f = 5 || f = 6) (s.g gc) = .ok (a, s1) → s1.readTile (fun f => f = 5 || f = 6) (s.g gc + 16) = .ok (b, s2) →
      s2.operand 0 1 pa a.stride (rowBytes a.fmt a.cols) a.rows [] = .ok (ps, s3) →
      s3.operand 0 1 pb b.stride (rowBytes b.fmt b.cols) b.rows ps = .ok (qs, s4) →
      s4.operand 0 4 (s.g gq) 0 (4 * (a.rows * ng + ng * b.cols)) 1 qs = .ok (rs, s5) →
      oddQ4 a = false → oddQ4 b = false → b.rows = a.cols →
      Falls (.mxq m x tok ga gb gc gq gs da db) s 16 m.sw (fun v => queued s5 v (.quant a b pa pb (s.g gq) gs) rs)) ∧
    (∀ ga gb gc gq da db a b s1 s2 s3 s4 s5 s6 ps ps' qs rs,
      let pa := s.g ga + da.signExtend 64
      let pb := s.g gb + db.signExtend 64
      s.readTile (fun f => f = 5 || f = 6) (s.g gc) = .ok (a, s1) → s1.readTile (fun f => f = 5 || f = 6) (s.g gc + 16) = .ok (b, s2) →
      s2.operand 0 1 pa a.stride (rowBytes a.fmt a.cols) a.rows [] = .ok (ps, s3) →
      s3.operand 0 1 (pa + natWord (quantHalf a)) a.stride (rowBytes a.fmt a.cols) a.rows ps = .ok (ps', s4) →
      s4.operand 0 1 pb b.stride (rowBytes b.fmt b.cols) (2 * b.rows) ps' = .ok (qs, s5) →
      s5.operand 0 4 (s.g gq) 0 (4 * (a.rows + b.cols)) 1 qs = .ok (rs, s6) → a.cols = 64 → b.rows = 64 → b.cols % 2 = 0 →
      Falls (.mxq m x tok ga gb gc gq 2 da db) s 16 m.sw (fun v => queued s6 v (.quant a b pa pb (s.g gq) 2) rs)) ∧
    (∀ ga fmt sh rows cols stride s1 ps, shapeOf fmt sh = (rows, cols, stride) →
      s.shapeOperand 0 (s.g ga) fmt rows cols stride = .ok (ps, s1) →
      Falls (.mxldx m x tok ga fmt sh) s (shapeLen sh) m.sw (fun v => queued s1 v (.load (s.g ga) fmt rows cols stride) ps)) ∧
    (∀ ga gm fmt rm ov sh rows cols stride s1 ps, shapeOf fmt sh = (rows, cols, stride) →
      s.shapeOperand 1 (s.g ga) fmt rows cols stride = .ok (ps, s1) →
      let code := if rm = 7 then s.cx.rmode else rm
      Falls (.mxdrn m x tok ga gm fmt rm ov sh) s (shapeLen sh) m.sw (fun v =>
        ∃ u : State, u.cx.gen = (if code = 4 then genStep^[4096] s.cx.gen else s.cx.gen) ∧
          u = { s1 with cx := { s1.cx with gen := u.cx.gen, rem := u.cx.rem } } ∧
          (gm = 0 → u.cx.rem = s1.cx.rem) ∧
          (gm ≠ 0 → ∃ r : RemAcc, u.cx.rem = s1.cx.rem ++ [r] ∧ r.kind = .value gm ∧ r.inRun = true ∧ r.counted = false ∧ r.req = s1.fresh) ∧
          queued u v (.drain (s.g ga) gm (s.g gm) fmt code ov rows cols stride s.cx.gen) ps))

/-- R25, R156, R159, R160, R268: when the matrix engine performs the operation at the head of a core's queue (the accesses that its context made before it
are done), its entry is freed; MXZ leaves every element of
its tile 0; MXMUL of readable operands adds to element (i, j) the dot product of row i of A and column j of B by group sums, and leaves the
other elements of the tile as they were. -/
def Obligations.MatrixCompletes : Prop :=
  (∀ (s : State) core op rest, (s.core core).mxq = op :: rest → op.kind = .zero → op.by_.isRun (s.ctx op.by_.ctx) = true → s.forked op.by_ = true →
    ∃ t, exec (.matrixOpComplete core) s = .next t ∧ (t.core core).mxq = rest ∧
      (∀ i j, i < 64 → j < 64 → (t.ctx op.by_.ctx).elem op.x i j = 0) ∧
      (∀ (y : TileNo) i j, i < 64 → j < 64 → y ≠ op.x → (t.ctx op.by_.ctx).elem y i j = (s.ctx op.by_.ctx).elem y i j)) ∧
  (∀ (s : State) core op rest a b pa pb, (s.core core).mxq = op :: rest → op.kind = .mul a b pa pb → op.tok = none →
    op.by_.isRun (s.ctx op.by_.ctx) = true → s.forked op.by_ = true → s.poison = [] → a.rows ≤ 64 → b.cols ≤ 64 →
    let row := fun (base : Word) (d : Tile) (i : Nat) => floatRow d.fmt d.cols
      (heldBytes s op.by_.prot.keyslot op.pages (base + natWord (i * d.stride)) (rowBytes d.fmt d.cols))
    ∃ t, exec (.matrixOpComplete core) s = .next t ∧ (t.core core).mxq = rest ∧
      (∀ i j, i < a.rows → j < b.cols → (t.ctx op.by_.ctx).elem op.x i j =
        mulAcc ((s.ctx op.by_.ctx).elem op.x i j)
          (List.zipWith fvMul (row pa a i) ((List.range b.rows).map (fun k => (row pb b k).getD j .nan)))) ∧
      (∀ i j, i < 64 → j < 64 → ¬ (i < a.rows ∧ j < b.cols) → (t.ctx op.by_.ctx).elem op.x i j = (s.ctx op.by_.ctx).elem op.x i j))

/-- R54, R172, R174, R175: CPY and CPY2D with room in the copy queue and an idle token, whose operands are legal and whose first pages translate, add
one copy with its addresses, shape and mode, and set the token BUSY; nothing else changes. Otherwise they raise Engine Operand (class 8):
cause 1 for a length out of range, 3 for a counter that is not valid, 2 for a reduction that is not in whole elements, 4 for a shape. -/
def Obligations.CopyIssue : Prop :=
  ∀ (s : State) m gd gs gk (mode : CpyMode), s.Executes m .plain → s.copyQueued s.cx.id.coreId < 2 → s.tokIsBusy mode.tok = false →
    let core := s.cx.id.coreId
    let ctr := s.named gk
    let bad := fun (cause : BitVec 16) => (⟨8, cause, 0, false, false, s.cx.priv, s.cx.pc⟩ : FaultRec)
    let gkOk := gk = 0 ∨ ctrOk s s.cx.prot (s.g gk) = true
    let whole := fun (vs : List Int) => mode.rd = true → ∀ v ∈ vs, v % (redBytes mode.fmt : Int) = 0
    let added := fun (u v : State) (rowb rows : Nat) (dstr sstr : Int) =>
      v = { u with
        fresh := u.fresh + 1
        copies := u.copies ++ [{
          id := u.fresh, by_ := u.issuer, tok := mode.tok, trig := none, dst := s.g gd, src := s.g gs, rowb := rowb, rows := rows, dstr := dstr,
          sstr := sstr, rd := mode.rd, rop := mode.rop, fmt := mode.fmt, det := mode.det, ctr := ctr, pos := 0, landed := 0,
          begun := decide (u.copyActive core < 32 ∧ u.copyQueued core = 0), stopped := false, stall := none, onEntry := none,
          unacked := 0, buf := [], whole := none, applied := false, asked := false, err := 0, bad := none }]
        cx := { u.cx with t := v.cx.t } } ∧
      ∀ k : Tok, v.cx.t[k.toFin] = if mode.tok = some k then ⟨.busy, 0⟩ else u.cx.t[k.toFin]
    (∀ gn (len : CpyLen),
      let i := Instr.cpy m gd gs gn gk mode len
      let n := if gn = 0 then len.value else (s.g gn).toNat
      let inRange := n < 2 ^ 40 ∧ (mode.det = true → n ≤ 65536)
      (¬ inRange → Raises i s (bad 1)) ∧ (inRange → ¬ gkOk → Raises i s (bad 3)) ∧
      (inRange → gkOk → n ≠ 0 → ¬ whole [(s.g gs).toNat, (s.g gd).toNat, n] → Raises i s (bad 2)) ∧
      (inRange → gkOk → n = 0 → Falls i s len.len m.sw (fun v => added s v 0 0 0 0)) ∧
      (∀ s1, inRange → gkOk → n ≠ 0 → whole [(s.g gs).toNat, (s.g gd).toNat, n] → s.firstPages mode (s.g gd) (s.g gs) = .ok s1 →
        Falls i s len.len m.sw (fun v => added s1 v n 1 0 0))) ∧
    (∀ gsh (st : CpyStride),
      let i := Instr.cpy2d m gd gs gsh gk mode st
      let sh : Nat := (s.g gsh).toNat
      let rowb : Nat := sh % 2 ^ 24
      let rows : Nat := sh / 2 ^ 24 % 2 ^ 16
      let shaped := rowb ≠ 0 ∧ rows ≠ 0 ∧ sh / 2 ^ 40 = 0
      let inRange := mode.det = true → rowb * rows ≤ 65536
      let all := [((s.g gs).toNat : Int), (s.g gd).toNat, rowb, st.dst, st.src]
      (¬ shaped → Raises i s (bad 4)) ∧ (shaped → ¬ inRange → Raises i s (bad 1)) ∧ (shaped → inRange → ¬ gkOk → Raises i s (bad 3)) ∧
      (shaped → inRange → gkOk → ¬ whole all → Raises i s (bad 2)) ∧
      (∀ s1, shaped → inRange → gkOk → whole all → s.firstPages mode (s.g gd) (s.g gs) = .ok s1 →
        Falls i s st.len m.sw (fun v => added s1 v rowb rows st.dst st.src)))

/-- R171, R173, R178: TWAIT with no named token BUSY owes qd whether none of them is in FAULT and ge the error record of the lowest that is, or 0,
and leaves the named tokens IDLE; with one BUSY it parks its context, and changes no token. TTEST owes qd whether none is BUSY and ge the same
record, and changes no token. -/
def Obligations.TokenWaitAndTest : Prop :=
  ∀ (s : State) m qd (mask : BitVec 8) ge,
    let quiet := ∀ k : Tok, mask.getLsbD k.toNat = true → s.cx.t[k.toFin].st ≠ .busy
    let rec_ := fun (e : Option Word) =>
      (e = none ∧ ∀ k : Tok, mask.getLsbD k.toNat = true → s.cx.t[k.toFin].st ≠ .fault) ∨
      ∃ k : Tok, mask.getLsbD k.toNat = true ∧ s.cx.t[k.toFin].st = .fault ∧ e = some s.cx.t[k.toFin].err ∧
        ∀ j : Tok, j.toNat < k.toNat → mask.getLsbD j.toNat = true → s.cx.t[j.toFin].st ≠ .fault
    (s.Executes m .wait → quiet → ∃ e, rec_ e ∧ Falls (.twait m qd mask ge) s 8 m.sw (fun u =>
      u = { s with cx := { s.cx with t := u.cx.t, pend := s.cx.pend ++ qRes qd e.isNone ++ gRes ge (e.getD 0) } } ∧
      ∀ k : Tok, u.cx.t[k.toFin] = if mask.getLsbD k.toNat = true then ⟨.idle, 0⟩ else s.cx.t[k.toFin])) ∧
    (s.Executes m .wait → ¬ quiet → ∃ t, exec (.twait m qd mask ge) s = .next t ∧
      t = { s with time := t.time, issued := s.issued + 1, cx := { s.cx with status := .waiting (.tokens qd mask ge) none m.sw 8 } }) ∧
    (s.Executes m .plain → ∃ e, rec_ e ∧ ∃ b : Bool, (b = true ↔ quiet) ∧
      Falls (.ttest m qd mask ge) s 8 m.sw (s.Owes (qRes qd b ++ gRes ge (e.getD 0))))

/-! ## Expert dispatch -/

/-- R179, R180, R336: MBPOST places its entry after every entry whose PRIO is not lower and before the first whose PRIO is lower, and keeps the first k;
with NEW the mailbox is empty first. MBTAKE owes gd the entry at its position, or all ones, and leaves the mailbox as it is. R183, R185: DFLUSH with a
free copy-queue entry and an idle token flushes every open list, sets the token BUSY and ties to it every row that its context has dispatched for its
invocation since the previous DFLUSH; it takes a copy-queue entry (R54). LBSET writes the 64 bytes of the control block, with FILL and REJECTS 0, and no register; a counter that is not valid raises
Engine Operand, cause 3. -/
def Obligations.MailboxAndLandingBuffer : Prop :=
  (∀ (s : State) m, s.Executes m .plain →
     let prio := fun (e : Word) => e.toNat / 2 ^ 16 % 2 ^ 16
     (∀ ge (k : BitVec 4) fresh, ∃ high low, (if fresh = true then [] else s.cx.mbox) = high ++ low ∧
       (∀ x ∈ high, prio (s.g ge) ≤ prio x) ∧ (∀ x ∈ low.head?, prio x < prio (s.g ge)) ∧
       Falls (.mbpost m ge k fresh) s 8 m.sw (fun u => u = { s with cx := { s.cx with mbox := (high ++ s.g ge :: low).take k.toNat } })) ∧
     (∀ gd (rank : BitVec 3), Falls (.mbtake m gd rank) s 8 m.sw
       (s.Owes (gRes gd (s.cx.mbox.getD rank.toNat (BitVec.allOnes 64)))))) ∧
  ((∀ (s : State) m (tok : Tok), s.Executes m .plain → s.copyQueued s.cx.id.coreId < 2 → s.cx.t[tok.toFin].st ≠ .busy →
     Falls (.dflush m tok) s 8 m.sw (fun u =>
       u = { s with
         fresh := u.fresh, rows := u.rows, dlseq := u.dlseq
         copyq := if s.takesAtOnce s.cx.id.coreId = true then s.copyq else s.copyq ++ [⟨s.fresh, s.cx.id.coreId, s.cx.id, s.issuer.inv, some tok⟩]
         cx := { s.cx with lists := [], flushes := tok :: s.cx.flushes, t := u.cx.t } } ∧
       (∀ k : Tok, u.cx.t[k.toFin] = if k = tok then ⟨.busy, 0⟩ else s.cx.t[k.toFin]) ∧
       ∃ fs : List FlightRow, fs.map (·.row) = s.cx.lists.flatMap (·.rows) ∧
         (∀ f ∈ fs, f.by_ = { s.issuer with fork := f.row.fork } ∧ f.stage = .send ∧ f.cover = true ∧ f.tok = none) ∧
         u.rows = (s.rows ++ fs).map (fun r =>
           if r.by_.ctx = s.cx.id ∧ r.by_.inv = s.issuer.inv ∧ r.cover = true ∧ r.tok = none then { r with tok := some tok } else r))) ∧
   (∀ (s : State) m gb gbase gk (cap : BitVec 13) (rsz : BitVec 3), s.Executes m .plain →
     (ctrOk s s.cx.prot (s.g gk) = false → Raises (.lbset m gb gbase gk cap rsz) s ⟨8, 3, 0, false, false, s.cx.priv, s.cx.pc⟩) ∧
     (∀ pa s1, ctrOk s s.cx.prot (s.g gk) = true → (s.g gb).toNat % 64 = 0 → s.access 1 false (s.g gb) = .ok (.hbm pa, s1) →
       s1.overPoison pa 64 = false →
       let zero := fun (n : Nat) => leBytes (8 * n) 0
       Falls (.lbset m gb gbase gk cap rsz) s 8 m.sw (fun u =>
         ∃ w, s1.StoredAt s.cx.prot.keyslot pa (leBytes 8 (s.g gbase).toNat ++ leBytes 8 (cap.toNat + rsz.toNat * 2 ^ 13) ++ zero 1 ++
           leBytes 8 (s.g gk).toNat ++ zero 1 ++ zero 3) w ∧ u = w.noteStore))))

/-- R182, R183, R338: DISP with an empty mailbox owes gd 0 and does nothing else. Otherwise, with a free copy-queue entry, a readable table
entry and a table of which no byte is homed elsewhere (else Engine Operand, cause 9), it takes a copy-queue entry, owes gd the header of the rank-0
choice and empties the mailbox. An absent expert's row goes on to its next choice; any other row
joins the open list of the package that homes its landing buffer: one that has room, or a new one; a list of 16 rows is flushed whole,
as is the list opened first where there are eight others. -/
def Obligations.DispatchRow : Prop :=
  ∀ (s : State) m gd gs gt (tok : DispTok), s.Executes m .plain →
    let i := Instr.disp m gd gs gt tok
    let len : Nat := match tok with | .reg _ => 8 | .imm _ => 12
    let token : Nat := match tok with | .reg g => (s.g g).toNat % 2 ^ 16 | .imm v => v.toNat
    (s.cx.mbox = [] → Falls i s len m.sw (s.Owes (gRes gd 0))) ∧
    (∀ c rest, s.cx.mbox = c :: rest → 2 ≤ s.copyQueued s.cx.id.coreId → Stalls i s s) ∧
    (∀ c rest bs s1, s.cx.mbox = c :: rest → s.copyQueued s.cx.id.coreId < 2 → (s.g gt).toNat % 64 = 0 → (s.g gs).toNat % 8 = 0 →
      s.load homed9 (s.g gt + BitVec.ofNat 64 (16 * (c.toNat % 256))) 16 = .ok (bs, s1) →
      let h := BitVec.ofNat 64 (token + s.pkg.toNat * 2 ^ 16 + c.toNat % 256 * 2 ^ 30 + c.toNat / 2 ^ 32 % 2 ^ 16 * 2 ^ 38)
      let lb := BitVec.ofNat 64 (leNat (bs.take 8))
      let rowb : BitVec 16 := BitVec.ofNat 16 (leNat (bs.drop 8))
      let taken := fun (u : State) (x : State) (lists : List SendList) =>
        u.cx = { x.cx with mbox := [], lists := lists, pend := x.cx.pend ++ gRes gd h } ∧ u.mem = x.mem ∧
        u.copyq = if x.takesAtOnce x.cx.id.coreId = true then x.copyq else x.copyq ++ [⟨x.fresh, x.cx.id.coreId, x.cx.id, x.issuer.inv, none⟩]
      let wanted := s1.rangeHere (s.g gt) 4160 = true
      (¬ wanted → exec i s = .next (s1.recordFault ⟨8, 9, 0, false, false, s.cx.priv, s.cx.pc⟩)) ∧
      (wanted → lb = 0 → Falls i s len m.sw (fun u => taken u s1 s1.cx.lists ∧ u.dlseq = s1.dlseq ∧
        ∃ f : FlightRow, u.rows = s1.rows ++ [f] ∧ f.row = ⟨h, 0, s.g gs, 0, rest, s.g gt, s1.cx.outstanding, s1.fresh⟩ ∧ f.stage = .next ∧ f.rank = 0 ∧ f.tok = none ∧
          f.cover = true)) ∧
      (wanted → lb ≠ 0 → ¬ (64 ≤ rowb.toNat ∧ rowb.toNat ≤ 4096 ∧ rowb.toNat % 64 = 0) →
        exec i s = .next (s1.recordFault ⟨8, 1, 0, false, false, s.cx.priv, s.cx.pc⟩)) ∧
      (∀ pl s2, wanted → lb ≠ 0 → 64 ≤ rowb.toNat ∧ rowb.toNat ≤ 4096 ∧ rowb.toNat % 64 = 0 → s1.access 0 false lb = .ok (pl, s2) → pl.isHost = false →
        let pkg : BitVec 12 := match pl with | .pod p => p | _ => s2.pkg
        let row : SendRow := ⟨h, lb, s.g gs, rowb, rest, s.g gt, s2.cx.outstanding, s2.fresh⟩
        let left := fun (u : State) (l : SendList) (rs : List SendRow) => ∃ fs : List FlightRow, u.rows = s2.rows ++ fs ∧ fs.map (·.row) = rs ∧
          (∀ f ∈ fs, f.pkg = l.pkg ∧ f.stage = .send ∧ f.cover = true ∧ f.tok = none ∧ f.dlseq = tget 0 s2.dlseq (s2.issuer.inv * 4096 + l.pkg.toNat))
        (∀ pre l post, s2.cx.lists = pre ++ l :: post → l.pkg = pkg → (∀ x ∈ pre ++ post, x.pkg ≠ pkg) →
          (l.rows.length < 15 → Falls i s len m.sw (fun u =>
            taken u s2 (pre ++ { l with rows := l.rows ++ [row] } :: post) ∧ u.rows = s2.rows)) ∧
          (15 ≤ l.rows.length → Falls i s len m.sw (fun u =>
            taken u s2 (pre ++ post) ∧ left u l (l.rows ++ [row])))) ∧
        ((∀ x ∈ s2.cx.lists, x.pkg ≠ pkg) → s2.cx.lists.length < 8 →
          Falls i s len m.sw (fun u => taken u s2 (s2.cx.lists ++ [⟨pkg, s.g gt, [row]⟩]) ∧ u.rows = s2.rows)) ∧
        (∀ l ls, s2.cx.lists = l :: ls → (∀ x ∈ s2.cx.lists, x.pkg ≠ pkg) → (∀ x ∈ ls, x.pkg ≠ l.pkg) → 8 ≤ s2.cx.lists.length →
          Falls i s len m.sw (fun u => taken u s2 (ls ++ [⟨pkg, s.g gt, [row]⟩]) ∧ left u l l.rows))))


/-! ## Objects and promises -/

/-- R188 to R190: ONEW whose length is above 2^40 raises Engine Operand, cause 1, and one whose body is not whole 256-byte lines raises Misaligned
Access; a body of which a byte is homed elsewhere raises Engine Operand, cause 9. Otherwise, where the table of the die that it names has a free slot and that die a core that can take the object, a new object
with a name of its own is entered there, and gd is owed the name; with the tables of all four dies full, gd is owed 0. ODEL removes an object that no
invocation has reached, and its slot's GEN rises; one that is in use is marked. OMOVE asks for a move to the cluster of the near object.
A name that is not that of an object raises Invalid Name (class 9). R53, R287: what goes to another package holds issue while the context's series toward it
has no room. -/
def Obligations.ObjectInstructions : Prop :=
  ∀ (s : State) m, s.Executes m .plain →
    let invalid : FaultRec := ⟨9, 0, 0, false, false, s.cx.priv, s.cx.pc⟩
    let isObj := fun (n : Word) => nameOk s n = true ∧ n.toNat / 2 ^ 62 = 1
    (∀ gd gbody glen gclass float (hint : BitVec 2),
      let i := Instr.onew m gd gbody glen gclass float hint
      let lines := (s.g gbody).toNat % 256 = 0 ∧ (s.g glen).toNat % 256 = 0 ∧ 256 ≤ (s.g glen).toNat
      (2 ^ 40 < (s.g glen).toNat → Raises i s ⟨8, 1, 0, false, false, s.cx.priv, s.cx.pc⟩) ∧
      ((s.g glen).toNat ≤ 2 ^ 40 → ¬ lines → Raises i s ⟨4, 0, 0, false, false, s.cx.priv, s.g gbody⟩) ∧
      (∀ pa s1, (s.g glen).toNat ≤ 2 ^ 40 → lines → s.access 0 false (s.g gbody) = .ok (.hbm pa, s1) →
        (s.rangeHere (s.g gbody) (s.g glen).toNat = false → Raises i s ⟨8, 9, 0, false, false, s.cx.priv, s.cx.pc⟩) ∧
        (s.rangeHere (s.g gbody) (s.g glen).toNat = true →
        let die := if hint = 2 then s.cx.id.die else homeDie pa
        let fits := fun (c : CoreId) => c.core.toNat < 192 ∧ (s.core c).retired = false ∧ (hint = 2 → clusterOf c.core = clusterOf s.cx.id.core)
        ((∃ k, k < 1048576 ∧ ∀ o ∈ s.objs, nmDie o.name = die → (nmSlot o.name).toNat ≠ k) → (∃ c, c.die = die ∧ fits c) →
          Falls i s 8 m.sw (fun u => ∃ o : Obj,
            u = { s with objs := s.objs ++ [o], cx := { s.cx with pend := s.cx.pend ++ gRes gd o.name } } ∧
            isObj o.name ∧ nmPkg o.name = s.pkg ∧ nmDie o.name = die ∧ (∀ x ∈ s.objs, x.name ≠ o.name) ∧
            o.body = s.g gbody ∧ o.len = (s.g glen).toNat ∧ o.cls = s.g gclass ∧ o.float = float ∧ o.pctx = s.cx.pctx ∧ o.deleted = false ∧
            (float = false → o.home.die = die ∧ fits o.home))) ∧
        ((∀ (d : BitVec 2) k, k < 1048576 → ∃ o ∈ s.objs, nmDie o.name = d ∧ (nmSlot o.name).toNat = k) →
          Falls i s 8 m.sw (s.Owes (gRes gd 0)))))) ∧
    (∀ gn, ¬ isObj (s.g gn) → Raises (.odel m gn) s invalid) ∧
    (∀ gn, isObj (s.g gn) → nmPkg (s.g gn) = s.pkg → (∃ o ∈ s.objs, o.name = s.g gn) →
      ((∀ r ∈ s.invs, r.obj ≠ some (s.g gn)) → Falls (.odel m gn) s 8 m.sw (fun u =>
        u = { s with objs := s.objs.filter (fun o => o.name ≠ s.g gn), gens := u.gens } ∧
        u.gen 0 (nmDie (s.g gn)) (nmSlot (s.g gn)).toNat = s.gen 0 (nmDie (s.g gn)) (nmSlot (s.g gn)).toNat + 1)) ∧
      ((∃ r ∈ s.invs, r.obj = some (s.g gn)) → Falls (.odel m gn) s 8 m.sw (fun u =>
        u = { s with objs := s.objs.map (fun o => if o.name = s.g gn then { o with deleted := true } else o) }))) ∧
    (∀ gn, isObj (s.g gn) → nmPkg (s.g gn) ≠ s.pkg →
      (s.mustWait (nmPkg (s.g gn)) (nmDie (s.g gn)) = false →
        Falls (.odel m gn) s 8 m.sw (s.Tells (nmPkg (s.g gn)) (nmDie (s.g gn)) (.odel (s.g gn)))) ∧
      (s.mustWait (nmPkg (s.g gn)) (nmDie (s.g gn)) = true → Stalls (.odel m gn) s s)) ∧
    (∀ gn gm, ¬ (isObj (s.g gn) ∧ isObj (s.g gm)) → Raises (.omove m gn gm) s invalid) ∧
    (∀ gn gm, isObj (s.g gn) → isObj (s.g gm) → nmPkg (s.g gn) = s.pkg →
      let obj := fun (n : Word) => s.objs.find? (fun o => o.name = n)
      ((obj (s.g gn) = none ∨ obj (s.g gm) = none) → Falls (.omove m gn gm) s 8 m.sw (fun u => u = s)) ∧
      (∀ o x, obj (s.g gn) = some o → obj (s.g gm) = some x →
        (o.float = true ∨ x.float = true → Falls (.omove m gn gm) s 8 m.sw (fun u => u = s)) ∧
        (o.float = false → x.float = false →
          (∃ c : CoreId, c.die = x.home.die ∧ c.core.toNat < 192 ∧ clusterOf c.core = clusterOf x.home.core ∧ (s.core c).retired = false) →
          Falls (.omove m gn gm) s 8 m.sw (fun u => ∃ c : CoreId, c.die = x.home.die ∧ clusterOf c.core = clusterOf x.home.core ∧
            (s.core c).retired = false ∧ u = { s with
              objs := s.objs.map (fun o => if o.name = s.g gn then { o with asked := some c } else o)
              agenda := s.agenda ++ [.event (.objectMigration (s.g gn) c)] })))) ∧
    (∀ gn gm, isObj (s.g gn) → isObj (s.g gm) → nmPkg (s.g gn) ≠ s.pkg →
      (s.mustWait (nmPkg (s.g gn)) (nmDie (s.g gn)) = false →
        Falls (.omove m gn gm) s 8 m.sw (s.Tells (nmPkg (s.g gn)) (nmDie (s.g gn)) (.omove (s.g gn) (s.g gm)))) ∧
      (s.mustWait (nmPkg (s.g gn)) (nmDie (s.g gn)) = true → Stalls (.omove m gn gm) s s))

/-- R191 to R193, R227: INVK of a name that is not well-formed raises Invalid Name. Otherwise, with a readable residency list, the region's
effective PRIO known (it is, where a block here gives it or no block of the chain lies in another package) and a promise slot in hand, the promise enters its table PENDING, the invocation leaves for the first home of its target with its method, arguments and stamps,
and gd is owed the PH. R228, R232, R287: while the store of the target's first home is full, another member of the gang has an invocation to the same
name of another package under way, or the series toward that package has no room, INVK holds issue. A target of this package has a slot while its die's table is not full; the PH is then new and of the target's die. -/
def Obligations.InvokeInstruction : Prop :=
  ∀ (s : State) m gd gt ga gdl (narg : BitVec 3) resolve gang dl rlr method, s.Executes m .plain →
    let i := Instr.invk m gd gt ga gdl narg resolve gang dl rlr method
    let t := s.g gt
    (nameOk s t = false → Raises i s ⟨9, 0, 0, false, false, s.cx.priv, s.cx.pc⟩) ∧
    (nmPkg t = s.pkg → (∃ k, k < 4194304 ∧ ∀ p ∈ s.promises, nmDie p.ph = nmDie t → (nmSlot p.ph).toNat ≠ k) →
      ∃ ph : Word, s.takePh s.cx.id (s.cx.id.slot.setWidth 4) t = (some ph, s) ∧ ph.toNat / 2 ^ 62 = 2 ∧ nmPkg ph = s.pkg ∧ nmDie ph = nmDie t ∧
        ∀ p ∈ s.promises, p.ph ≠ ph) ∧
    (∀ v : State, v.effPrio v.cx.prot v.cx.region ≠ 0 ∨ v.awayEnd v.cx.prot v.cx.region = none → v.regionPrio = .ok (v.effPrio v.cx.prot v.cx.region)) ∧
    let held := fun (v : State) => v.homeFull t = true ∨ v.othersSend t = true ∨ v.mustWait (nmPkg t) (nmDie t) = true
    (∀ list s0 o, nameOk s t = true → s.readList rlr = .ok (list, s0) → s0.regionPrio = .ok o → held s0 → Stalls i s s0) ∧
    (∀ list s0 o ph s1, nameOk s t = true → s.readList rlr = .ok (list, s0) → s0.regionPrio = .ok o → ¬ held s0 →
      s0.takePh s0.cx.id (s0.cx.id.slot.setWidth 4) t = (some ph, s1) →
      Falls i s 16 m.sw (fun u =>
        u.cx = { s1.cx with invks := s1.cx.invks + 1, pend := s1.cx.pend ++ gRes gd ph } ∧
        (nmPkg ph = s1.pkg → ∃ p : Promise, u.promises = s1.promises ++ [p] ∧ p.ph = ph ∧ p.st = .pending ∧ p.freed = false ∧ p.regs = []) ∧
        ∃ (v : Inv) (p : Packet), p ∈ u.net ++ u.outbox ∧ p.type = 1 ∧ p.payload = .inv v ∧ p.addr = t ∧ p.dpkg = nmPkg t ∧ p.ddie = nmDie t ∧
          p.dep = nmCore t ∧
          v.ph = ph ∧ v.target = t ∧ v.method = method ∧ v.resolve = resolve ∧ v.gang = gang ∧ v.residency = list ∧
          v.args = (List.range narg.toNat).map (fun k => s1.g (ga + BitVec.ofNat 5 k)) ∧
          v.deadline = (if dl = true then (s1.g gdl).setWidth 48 else s1.cx.deadline) ∧
          v.region = s1.cx.region ∧ v.pctx = s1.cx.pctx ∧ v.ceil = s1.cx.pceil ∧ v.seed = s1.cx.seed ∧
          v.lnum = BitVec.ofNat 64 (s1.cx.lnum.toNat * 2 ^ 16 + s1.cx.gidx.toNat * 2 ^ 12 + s1.cx.invks % 4096 + 1) ∧
          v.prio.toNat = max s1.cx.pceil.toNat (if 1 ≤ o.toNat ∧ o.toNat ≤ 12 then o.toNat - 1 else s1.cx.prio.toNat)))

/-- R197, R198: AWAIT of an object's name owes the name and true; of a promise whose chain has ended, what its table gives, by the kind of the end;
where the chain is still PENDING, or not CONFIRMED with CONF = 1, or a release of it is not complete towards this package, its context parks. HTEST owes the state word, the origin of a break or the
last name, and asks the promise's home where that is another package; R287: while the series toward it has no room it holds issue. A name that is not well-formed raises Invalid Name. -/
def Obligations.AwaitAndTest : Prop :=
  (∀ (s : State) m gd gh gbuf qd conf, s.Executes m .wait →
    let i := Instr.await m gd gh gbuf qd conf
    let h := s.g gh
    let ends := fun (v : Word) (b : Bool) => Falls i s 8 m.sw (fun u =>
      u = { s with reports := u.reports, owing := u.owing, flushes := u.flushes, cx := { s.cx with pend := s.cx.pend ++ gRes gd v ++ qRes qd b } })
    let ts := chainToks s s.chaseFuel h
    (nameOk s h = false → Raises i s ⟨9, 0, 0, false, false, s.cx.priv, s.cx.pc⟩) ∧
    (nameOk s h = true → h.toNat / 2 ^ 62 = 1 → Falls i s 8 m.sw (s.Owes (gRes gd h ++ qRes qd true))) ∧
    (nameOk s h = true → h.toNat / 2 ^ 62 = 2 → s.flushesOver ts = true →
      (∀ ph b c, s.chainNew h = .value ph b c → (conf = true → c = true) → s.g gbuf = 0 → ends (BitVec.ofNat 64 (leNat (b.take 8))) true) ∧
      (∀ ph b c s1, s.chainNew h = .value ph b c → (conf = true → c = true) → s.g gbuf ≠ 0 → (s.dropFlushes ts).scatter (s.g gbuf) b = .ok s1 →
        Falls i s 8 m.sw (fun u => u = { s1 with reports := u.reports, owing := u.owing, flushes := u.flushes, cx := { s1.cx with
          pend := s1.cx.pend ++ gRes gd (BitVec.ofNat 64 (leNat (b.take 8))) ++ qRes qd true } })) ∧
      (∀ n c, s.chainNew h = .oref n c → (conf = true → c = true) → ends n true) ∧
      (∀ ph (cause : BitVec 8) o, s.chainNew h = .broken ph cause o → ends (BitVec.ofNat 64 cause.toNat) false) ∧
      (s.chainNew h = .stale → ends 5 false)) ∧
    (nameOk s h = true → h.toNat / 2 ^ 62 = 2 →
      (∀ p, s.chainNew h = .pending p → nmPkg p = s.pkg → Parks i s s (.await gd gbuf qd p (s.g gbuf) conf) none m.sw 8) ∧
      (∀ ph b, s.chainNew h = .value ph b false → conf = true → nmPkg h = s.pkg →
        Parks i s s (.await gd gbuf qd h (s.g gbuf) conf) none m.sw 8)) ∧
    (nameOk s h = true → h.toNat / 2 ^ 62 = 2 → s.flushesOver ts = false → ∀ r, awaitEnd conf (s.chainNew h) = some r →
      Parks i s (s.askFlushes s.cx.id.die ts) (.await gd gbuf qd h (s.g gbuf) conf) none m.sw 8)) ∧
  (∀ (s : State) m gd gh (fn : BitVec 2), s.Executes m .plain →
    let i := Instr.htest m gd gh fn
    let h := s.g gh
    (nameOk s h = false → Raises i s ⟨9, 0, 0, false, false, s.cx.priv, s.cx.pc⟩) ∧
    (nameOk s h = true → h.toNat / 2 ^ 62 = 1 →
      Falls i s 8 m.sw (s.Owes (gRes gd (if fn = 0 then 6 else if fn = 1 then 0 else h)))) ∧
    (nameOk s h = true → h.toNat / 2 ^ 62 = 2 → nmPkg h ≠ s.pkg →
      (s.mustWait (nmPkg h) (nmDie h) = false → Falls i s 8 m.sw (s.Asks (nmPkg h) (nmDie h) (.htest h fn) (.value gd))) ∧
      (s.mustWait (nmPkg h) (nmDie h) = true → Stalls i s s)) ∧
    (nameOk s h = true → h.toNat / 2 ^ 62 = 2 → nmPkg h = s.pkg →
      let st := s.pstate true h
      (fn = 0 → ∃ w : Nat, Falls i s 8 m.sw (s.Owes (gRes gd (BitVec.ofNat 64 w))) ∧
        (st = none → w = 0x503) ∧ (∀ c, st = some (.pending, c) → w = 0) ∧
        (∀ b c, st = some (.value b, c) → b.length < 128 → w = 1 + 4 * c.toNat + 2 ^ 16 * b.length) ∧
        (∀ n c, st = some (.name n, c) → w = 2 + 4 * c.toNat) ∧
        (∀ (k : BitVec 8) o c, st = some (.broken k o, c) → w = 3 + 2 ^ 8 * k.toNat)) ∧
      (fn = 1 → (∀ k o c, st = some (.broken k o, c) → Falls i s 8 m.sw (s.Owes (gRes gd o))) ∧
        ((∀ k o c, st ≠ some (.broken k o, c)) → Falls i s 8 m.sw (s.Owes (gRes gd 0)))) ∧
      (fn = 2 → ((∀ n c, st ≠ some (.name n, c)) → Falls i s 8 m.sw (s.Owes (gRes gd h))) ∧
        (∀ n c, st = some (.name n, c) → n.toNat / 2 ^ 62 = 1 → Falls i s 8 m.sw (s.Owes (gRes gd n))))))

/-- R199 to R202, R229: RSLV, where the core's list of unconfirmed resolutions has room, settles the running invocation's own PENDING promise: a value
of its register's bytes or of the bytes at ga, or a name, unless the chain from it leads back, which breaks the promise with CYCLE; where the chain goes on in another package, or at a promise whose own chain
is being asked about, its resolution awaits the answer (log entry 103). HBRK breaks a PENDING
promise with its code and the promise as origin. Neither changes a promise that is settled or whose chain is being asked about. HFREE of a settled promise frees its slot, whose GEN
rises; of a PENDING one, when it settles. None of them writes a register. -/
def Obligations.ResolveBreakFree : Prop :=
  (∀ (s : State) m ga (mode : BitVec 2) (len : BitVec 7) r, s.Executes m .plain → s.cx.run = some r → r.i.ph ≠ 0 → nmPkg r.i.ph = s.pkg →
    s.myCore.unconf.length < 32768 →
    let i := Instr.rslv m ga mode len
    ∀ p, s.promise r.i.ph = some p →
      let becomes := fun (s1 : State) (st : PState) => Falls i s 8 m.sw (fun u => u.cx = s1.cx ∧
        u.promise r.i.ph = some (if p.st = .pending ∧ p.trying = none then { p with st := st, conf := false, by_ := some s.cx.id.coreId } else p))
      p.freed = false →
      (mode = 0 → becomes s (.value (leBytes len.toNat (s.g ga).toNat))) ∧
      (∀ bs s1, mode = 1 → s.gather (s.g ga) len.toNat = .ok (bs, s1) → s1 = s → becomes s (.value bs)) ∧
      (mode = 2 → nameOk s (s.g ga) = true →
        (∀ e, s.Chain r.i.ph (s.g ga) e → s.ChainOver r.i.ph e → becomes s (.name (s.g ga))) ∧
        (s.Chain r.i.ph (s.g ga) r.i.ph → becomes s (.broken 3 r.i.ph)) ∧
        (∀ e, s.Chain r.i.ph (s.g ga) e → e ≠ r.i.ph → e.toNat / 2 ^ 62 ≠ 1 → nmPkg e ≠ s.pkg → s.present (nmPkg e) = true →
          p.st = .pending → p.trying = none →
          Falls i s 8 m.sw (fun u => u.cx = s.cx ∧
            u.promise r.i.ph = some { p with conf := false, by_ := some s.cx.id.coreId, trying := some (s.g ga) }))) ∧
      (mode = 2 → nameOk s (s.g ga) = false → Raises i s ⟨9, 0, 0, false, false, s.cx.priv, s.cx.pc⟩)) ∧
  (∀ (s : State) m gh, s.Executes m .plain →
    let h := s.g gh
    let named := nameOk s h = true ∧ h.toNat / 2 ^ 62 = 2
    let invalid : FaultRec := ⟨9, 0, 0, false, false, s.cx.priv, s.cx.pc⟩
    (¬ named → Raises (.hfree m gh) s invalid ∧ ∀ code, Raises (.hbrk m gh code) s invalid) ∧
    (named → nmPkg h ≠ s.pkg → s.mustWait (nmPkg h) (nmDie h) = false → Falls (.hfree m gh) s 8 m.sw (s.Tells (nmPkg h) (nmDie h) (.hfree h)) ∧
      ∀ code, Falls (.hbrk m gh code) s 8 m.sw (s.Tells (nmPkg h) (nmDie h) (.hbrk h code))) ∧
    (named → nmPkg h ≠ s.pkg → s.mustWait (nmPkg h) (nmDie h) = true → Stalls (.hfree m gh) s s ∧ ∀ code, Stalls (.hbrk m gh code) s s) ∧
    (named → nmPkg h = s.pkg →
      (s.promise h = none → Falls (.hfree m gh) s 8 m.sw (fun u => u = s) ∧ ∀ code, Falls (.hbrk m gh code) s 8 m.sw (fun u => u = s)) ∧
      (∀ p, s.promise h = some p → p.freed = false →
        (∀ code : BitVec 8, 128 ≤ code.toNat → Falls (.hbrk m gh code) s 8 m.sw (fun u => u.cx = s.cx ∧
          u.promise h = some (if p.st = .pending ∧ p.trying = none then { p with st := .broken code h, conf := false, by_ := none } else p))) ∧
        (p.st ≠ .pending → Falls (.hfree m gh) s 8 m.sw (fun u =>
          u = { s with promises := s.promises.filter (fun q => q.ph ≠ h), owing := u.owing, gens := u.gens, reports := u.reports } ∧
          (s.learns h = false → u.reports = s.reports) ∧
          u.gen 1 (nmDie h) (nmSlot h).toNat = s.gen 1 (nmDie h) (nmSlot h).toNat + 1)) ∧
        (p.st = .pending → Falls (.hfree m gh) s 8 m.sw (fun u => u = { s with promises := u.promises } ∧
          u.promise h = some { p with freed := true })))))

/-! ## Regions -/

/-- R203 to R207, R453: RGOPEN of an aligned block homed in the package that is not open, with fewer than 64 opened: what is owed has been charged, then the block takes
PARENT, HANDLER, STATE 1 and zeros, and becomes the context's present region. RGCLOSE of the region opened last, whose block is aligned and homed in the package: STATE 1
becomes 0, and the parent is the present region. RGQRY owes the doubleword that FUNC names. RGFAIL fails its region, which becomes pending against this context too where that is one of its
regions. Blocks not open, wrongly nested or too many raise Engine Operand (class 8), causes 6 and 7; a misaligned block raises Misaligned
Access. -/
def Obligations.RegionInstructions : Prop :=
  ∀ (s : State) m gb, s.Executes m .plain →
    let b := s.g gb
    let prot := s.cx.prot
    let bad := fun (cause : BitVec 16) => (⟨8, cause, 0, false, false, s.cx.priv, s.cx.pc⟩ : FaultRec)
    let put := fun (v : State) (l : List (Nat × Word)) => l.foldl (fun v x => v.setBlk prot b x.1 x.2) v
    (∀ gh, b.toNat % 128 ≠ 0 → Raises (.rgopen m gb gh) s ⟨4, 0, 1, false, false, s.cx.priv, b⟩) ∧
    (∀ gh pa s1, b.toNat % 128 = 0 → s.access 1 false b = .ok (.hbm pa, s1) →
      (s1.blkState prot b = 1 → exec (.rgopen m gb gh) s = .next (s1.recordFault (bad 6))) ∧
      (s1.blkState prot b ≠ 1 → 64 ≤ s.cx.opened.length → exec (.rgopen m gb gh) s = .next (s1.recordFault (bad 7))) ∧
      (s1.blkState prot b ≠ 1 → s.cx.opened.length < 64 → Falls (.rgopen m gb gh) s 8 m.sw (fun u =>
        ∃ v, v = put s1.charge [(0, s.cx.region), (1, s.g gh), (7, 1), (8, 0), (9, 0), (10, 0), (11, 0)] ∧
          u = { v with cx := { v.cx with region := b, opened := b :: s.cx.opened } }))) ∧
    (s.cx.opened.head? ≠ some b → Raises (.rgclose m gb) s (bad 6)) ∧
    (∀ outer, s.cx.opened = b :: outer → b.toNat % 128 ≠ 0 → Raises (.rgclose m gb) s ⟨4, 0, 1, false, false, s.cx.priv, b⟩) ∧
    (∀ outer pa s1, s.cx.opened = b :: outer → b.toNat % 128 = 0 → s.access 1 false b = .ok (.hbm pa, s1) → Falls (.rgclose m gb) s 8 m.sw (fun u =>
      ∃ v, v = (if s1.charge.blkState prot b = 1 then s1.charge.setBlkState prot b 0 else s1.charge) ∧
        u = { v with cx := { v.cx with region := v.blkParent prot b, opened := outer } })) ∧
    (∀ gd (fn : BitVec 2), b.toNat % 128 ≠ 0 → Raises (.rgqry m gd gb fn) s ⟨4, 0, 0, false, false, s.cx.priv, b⟩) ∧
    (∀ gd (fn : BitVec 2) pa s1, b.toNat % 128 = 0 → s.access 0 true b = .ok (.hbm pa, s1) →
      let off := if fn = 0 then 56 else if fn = 1 then 64 else if fn = 2 then 72 else 88
      s.badWord (pa + off) 8 = none →
      Falls (.rgqry m gd gb fn) s 8 m.sw (s.Owes (gRes gd (BitVec.ofNat 64 (leNat (s.homeBytes prot.keyslot (pa + off) 8)))))) ∧
    (∀ (code : BitVec 8) pa s1, b.toNat % 128 = 0 → s.access 1 false b = .ok (.hbm pa, s1) →
      Falls (.rgfail m gb code) s 8 m.sw (fun u =>
        u.cx = { s1.cx with rgfail := u.cx.rgfail } ∧
        (b ∈ s1.cx.regions → s1.cx.rgfail = none → u.cx.rgfail = some (b, code, false)) ∧
        ((∀ r ∈ s1.invs, r.waits = false) → s1.flying = [] → s1.entries = [] → ∃ set : List Word, b ∈ set ∧
          u.mem = ((set.foldl (fun v r => v.setBlkFail prot r 2 code) s1).postStatus prot s.cx.pctx b (regionRec 1 code b b s1.time)).mem)))

/-! ## Phasers and counters -/

/-- R209 to R212, R333: PHNEW owes the id of a new phaser of the issuing die, or 0 where none is free. PHREG adds a member from the next phase on, or changes
the mode of one; PHDROP removes it, and a phaser left without members is freed; PHARR with no counted access outstanding makes the member's arrival, and the
phase completes with the last one expected; while such accesses are outstanding the context waits for them. A phaser of another package hears of each by a
message, for which the series toward it needs room (R287); an arrival there holds issue until the phaser has answered that it is made. An id that is not valid raises Engine Operand, cause 5. -/
def Obligations.PhaserMembership : Prop :=
  ∀ (s : State) m, s.Executes m .plain →
    let bad : FaultRec := ⟨8, 5, 0, false, false, s.cx.priv, s.cx.pc⟩
    let me : Party := ⟨s.pkg, (match s.cx.run with | some r => r.i.id | none => 0), s.cx.gidx⟩
    (∀ gd, ((∃ k, k < 4096 ∧ ∀ p ∈ s.phasers, phDie p.id = s.cx.id.die → p.id.toNat % 4096 ≠ k) →
        Falls (.phnew m gd) s 8 m.sw (fun u => ∃ p : Phaser,
          u = { s with phasers := s.phasers ++ [p], cx := { s.cx with pend := s.cx.pend ++ gRes gd p.id } } ∧ (∀ q ∈ s.phasers, q.id ≠ p.id) ∧
          phPkg p.id = s.pkg ∧ phDie p.id = s.cx.id.die ∧ p.phase = 0 ∧ p.members = [] ∧ p.used = false)) ∧
      ((∀ k, k < 4096 → ∃ p ∈ s.phasers, phDie p.id = s.cx.id.die ∧ p.id.toNat % 4096 = k) → Falls (.phnew m gd) s 8 m.sw (s.Owes (gRes gd 0)))) ∧
    (∀ gph, phOk s (s.g gph) = false →
      Raises (.phdrop m gph) s bad ∧ Raises (.pharr m gph) s bad ∧ ∀ mode, Raises (.phreg m gph mode) s bad) ∧
    (∀ gph, phOk s (s.g gph) = true → phPkg (s.g gph) ≠ s.pkg →
      let id := s.g gph
      let room := s.mustWait (phPkg id) (phDie id) = false
      (room → ∀ mode, Falls (.phreg m gph mode) s 8 m.sw (fun u => ∃ v : State,
        v = { s with cx := { s.cx with joined := (id, s.cx.region) :: s.cx.joined.filter (fun j => j.1 ≠ id) } } ∧
          v.Tells (phPkg id) (phDie id) (.ask s.cx.id s.pkg 0 (.phreg id me mode s.cx.region)) u)) ∧
      (room → Falls (.phdrop m gph) s 8 m.sw (fun u => ∃ v : State,
        v = { s with cx := { s.cx with joined := s.cx.joined.filter (fun j => j.1 ≠ id) } } ∧
          v.Tells (phPkg id) (phDie id) (.ask s.cx.id s.pkg 0 (.phdrop id me)) u)) ∧
      (¬ room → Stalls (.phdrop m gph) s s ∧ ∀ mode, Stalls (.phreg m gph mode) s s) ∧
      (s.cx.postedPod = 0 → s.cx.postedHost = 0 →
        (∀ n a, s.cx.poll = some (n, some a) → Falls (.pharr m gph) s 8 m.sw (fun u => u = { s with cx := { s.cx with poll := none } })) ∧
        (∀ n r, s.cx.poll = some (n, none) → r ∈ s.cx.rem → r.req = n → Stalls (.pharr m gph) s s) ∧
        (s.cx.poll = none → room → ∃ v, s.Asks (phPkg id) (phDie id) (.pharr id me) .poll v ∧
          Stalls (.pharr m gph) s { v with cx := { v.cx with poll := some (s.fresh, none) } }) ∧
        (s.cx.poll = none → ¬ room → Stalls (.pharr m gph) s s))) ∧
    (∀ gph, phOk s (s.g gph) = true → (s.cx.postedPod ≠ 0 ∨ s.cx.postedHost ≠ 0) →
      Stalls (.pharr m gph) s { s with cx := { s.cx with status := .posted true true } }) ∧
    (∀ gph p, phOk s (s.g gph) = true → phPkg (s.g gph) = s.pkg → s.phaser (s.g gph) = some p →
      let id := s.g gph
      let short := ∃ x ∈ p.members, x.mode ≠ 1 ∧ x.since ≤ p.phase ∧ x.arr ≤ p.phase
      (∀ mode, short → Falls (.phreg m gph mode) s 8 m.sw (fun u => u.mem = s.mem ∧ u.cx.g = s.cx.g ∧ u.cx.pend = s.cx.pend ∧
        ∃ q, u.phaser id = some q ∧ q.phase = p.phase ∧
          ((∀ x ∈ p.members, x.who ≠ me) → q.members = p.members ++ [⟨me, mode, none, p.phase + 1, p.phase + 1, s.cx.region, false⟩]) ∧
          ((∃ x ∈ p.members, x.who = me) → q.members = p.members.map (fun x =>
            if x.who = me then { x with next := some mode, region := s.cx.region } else x)))) ∧
      ((∃ x ∈ p.members, x.who ≠ me) → Falls (.phdrop m gph) s 8 m.sw (fun u => u.mem = s.mem ∧ u.cx.g = s.cx.g ∧ u.cx.pend = s.cx.pend ∧
        ((∃ x ∈ p.members, x.who = me) → p.used = true → ∃ q, u.phaser id = some q ∧ q.members.map (·.who) = (p.members.filter (fun x => x.who ≠ me)).map (·.who)))) ∧
      ((∃ x ∈ p.members, x.who = me) → (∀ x ∈ p.members, x.who = me) → p.used = true → Falls (.phdrop m gph) s 8 m.sw (fun u =>
        u.mem = s.mem ∧ u.cx.g = s.cx.g ∧ u.cx.pend = s.cx.pend ∧ u.phaser id = none)) ∧
      (s.cx.postedPod = 0 → s.cx.postedHost = 0 →
        let mine := p.members.find? (fun x => x.who = me && x.mode ≠ 1)
        (mine = none → Falls (.pharr m gph) s 8 m.sw (fun u => u = s)) ∧
        (∀ x, mine = some x → p.phase + 2 ≤ x.arr → Stalls (.pharr m gph) s s) ∧
        (∀ x, mine = some x → x.arr < p.phase + 2 →
          ((∃ y ∈ p.members, y.who ≠ me ∧ y.mode ≠ 1 ∧ y.since ≤ p.phase ∧ y.arr ≤ p.phase) →
            Falls (.pharr m gph) s 8 m.sw (fun u => u = { s with phasers := u.phasers } ∧ u.phaser id = some { p with
              members := p.members.map (fun y => if y.who = me then { y with arr := max x.arr p.phase + 1 } else y) })) ∧
          ((∀ y ∈ p.members, y.who ≠ me → y.mode ≠ 1 → y.since ≤ p.phase → p.phase < y.arr) → x.since ≤ p.phase → x.arr ≤ p.phase →
            Falls (.pharr m gph) s 8 m.sw (fun u => u = { s with phasers := u.phasers } ∧ ∃ q, u.phaser id = some q ∧ p.phase < q.phase)))))

/-- R171, R213, R214: PHWAIT for a phase that is over owes qd whether it completed whole and gs 0, or 1 SHORT; a phaser that is freed gives false and 3; an
incomplete phase parks the context, until the timeout in gto has passed where that is not 0. PHAW makes its arrival, once, and then waits. A wait
on a phaser of another package parks, and its phase is asked for. -/
def Obligations.PhaserWaits : Prop :=
  (∀ (s : State) m qd gph gto gs, s.Executes m .wait → phOk s (s.g gph) = true → phPkg (s.g gph) ≠ s.pkg →
    Parks (.phwait m qd gph gto gs) s s (.phase qd gs (s.g gph) none)
      (if gto = 0 ∨ s.g gto = 0 then none else some (s.time + s.g gto)) m.sw 8) ∧
  ∀ (s : State) m qd gph gto gs, s.Executes m .wait → phOk s (s.g gph) = true → phPkg (s.g gph) = s.pkg →
    let id := s.g gph
    let ns : Word := if gto = 0 then 0 else s.g gto
    let waits := fun (i : Instr) (v : State) =>
      let owed := fun (code : Word) => Falls i s 8 m.sw (v.Owes (qRes qd (decide (code = 0)) ++ gRes gs code))
      (v.phaser id = none → owed 3) ∧
      (∀ p, v.phaser id = some p →
        let k := p.waitFor v.party
        (k < p.phase → owed (if k ∈ p.shorts then 1 else 0)) ∧
        (p.phase ≤ k → (∃ x ∈ p.members, x.mode ≠ 1 ∧ x.since ≤ k) →
          Parks i s v (.phase qd gs id (some k)) (if ns = 0 then none else some ((p.frozen.getD v.time) + ns)) m.sw 8))
    waits (.phwait m qd gph gto gs) s ∧
    (s.cx.arrived = true → waits (.phaw m qd gph gto gs) s) ∧
    (s.cx.arrived = false → s.cx.postedPod = 0 → s.cx.postedHost = 0 →
      (s.phArr id s.party = none → Stalls (.phaw m qd gph gto gs) s s) ∧
      ∀ s1, s.phArr id s.party = some s1 → waits (.phaw m qd gph gto gs) { s1 with cx := { s1.cx with arrived := true } })

/-- R124, R171, R215 to R219, R271, R309, R310, R313, R314: CTADD first writes back the stores that its scope covers. With an access outstanding to memory of the
counter's package, or whose own raise of the same cell is to come, at `.sys` with any counted access outstanding, or while an engine operation issued before still
reads, the raise waits. Otherwise a counter of the package takes its amount modulo 2^48, and an entry whose threshold is thereby reached fires; a raise that its Vat does
not accept is held there. CTRD owes the value; CTWAIT owes true once the threshold is reached, and parks its context before. A counter of
another package is reached by a message. An id that is not valid raises Engine Operand, cause 3. -/
def Obligations.CounterInstructions : Prop :=
  (∀ (s : State) m gc (v : Src) (scope : BitVec 2), s.Executes m .plain →
    let i := Instr.ctadd m gc v scope
    let c := s.g gc
    let amt : BitVec 48 := match v with | .reg r => (s.g r).setWidth 48 | .imm x => x.setWidth 48
    let waits := (∃ r ∈ s.cx.rem, RemAcc.before c (scope = 2) r = true) ∨ s.reading = true
    let v' := s.fenceWrite scope
    let accepted := s.raisable (ctDie c) (ctIndex c) = true ∧ s.cellBusy (ctDie c) (ctIndex c) = false
    let room := s.mustWait (ctPkg c) (ctDie c) = false
    (ctrOk s s.cx.prot c = false → Raises i s ⟨8, 3, 0, false, false, s.cx.priv, s.cx.pc⟩) ∧
    (ctrOk s s.cx.prot c = true → ¬ room → Stalls i s s) ∧
    (ctrOk s s.cx.prot c = true → room → waits → Falls i s v.len m.sw (fun u => ∃ r : RemAcc,
      u = { v' with fresh := s.fresh + 1, cx := { s.cx with rem := s.cx.rem ++ [r] } } ∧ r.kind = .count ∧ r.ctr = some c ∧
        r.opnd = BitVec.ofNat 64 amt.toNat ∧ r.counted = false)) ∧
    (ctrOk s s.cx.prot c = true → ¬ waits → ctPkg c = s.pkg → (∀ h ∈ (s.die (ctDie c)).held, h.con.idx ≠ ctIndex c) →
      (accepted → Falls i s v.len m.sw (v'.Raised (ctDie c) (ctIndex c) amt)) ∧
      (¬ accepted → Falls i s v.len m.sw (fun u => u = { v' with heldRaises := s.heldRaises ++ [⟨ctDie c, ctIndex c, amt⟩] }))) ∧
    (ctrOk s s.cx.prot c = true → room → ¬ waits → ctPkg c ≠ s.pkg → Falls i s v.len m.sw (fun u => ∃ p : Packet,
      p.type = 6 ∧ p.dpkg = ctPkg c ∧ p.ddie = ctDie c ∧ p.aux = BitVec.ofNat 64 (c.toNat % 2 ^ 32) ∧ p.payload = .bytes (leBytes 6 amt.toNat) ∧
        u = { v' with cores := u.cores, outbox := s.outbox ++ [p], unacked := s.unacked ++ [⟨p, s.time, false, false, s.time, 20000, s.sentBy p, none⟩] }))) ∧
  (∀ (s : State) m gd gc, s.Executes m .plain →
    let c := s.g gc
    (ctrOk s s.cx.prot c = false → Raises (.ctrd m gd gc) s ⟨8, 3, 0, false, false, s.cx.priv, s.cx.pc⟩) ∧
    (ctrOk s s.cx.prot c = true → ctPkg c = s.pkg → Falls (.ctrd m gd gc) s 8 m.sw
      (s.Owes (gRes gd (BitVec.ofNat 64 (s.cell (ctDie c) (ctIndex c)).toNat)))) ∧
    (ctrOk s s.cx.prot c = true → ctPkg c ≠ s.pkg →
      (s.mustWait (ctPkg c) (ctDie c) = false → Falls (.ctrd m gd gc) s 8 m.sw (s.Asks (ctPkg c) (ctDie c) (.ctrd c) (.value gd))) ∧
      (s.mustWait (ctPkg c) (ctDie c) = true → Stalls (.ctrd m gd gc) s s))) ∧
  (∀ (s : State) m qd gc gt (tmo : CtTime), s.Executes m .wait →
    let i := Instr.ctwait m qd gc gt tmo
    let c := s.g gc
    let thr : BitVec 48 := (s.g gt).setWidth 48
    let len : Nat := match tmo with | .reg _ => 8 | .imm _ => 16
    let ns : Word := match tmo with | .reg r => s.g r | .imm x => x
    let there := (s.cell (ctDie c) (ctIndex c) - thr).toNat < 2 ^ 47
    (ctrOk s s.cx.prot c = false → Raises i s ⟨8, 3, 0, false, false, s.cx.priv, s.cx.pc⟩) ∧
    (ctrOk s s.cx.prot c = true → ctPkg c = s.pkg → there → Falls i s len m.sw (s.Owes (qRes qd true))) ∧
    (ctrOk s s.cx.prot c = true → (ctPkg c ≠ s.pkg ∨ ¬ there) →
      Parks i s s (.counter qd c thr) (if ns = 0 then none else some (s.time + ns)) m.sw len))

/-! ## Triggered operations, collectives, side information -/

/-- R220 to R224, R316, R322: TRPOST of a readable descriptor with a valid trigger of the package, an operation 1 to 5 and a free entry: an armed entry with its fields
and the poster's stamps, whose id gd is owed, and which fires at once where its threshold is
reached already (R221); a trigger of another package is posted there by a question. gd is owed 0 where the descriptor is refused or the table is full. TRCAN removes an armed entry of its own launch, and owes
whether it did; it holds issue while a raise of the entry's cell is under way (R313). COLL owes its status: 0 with a slot, its entries and the group's next number taken, or the reason why nothing was. -/
def Obligations.TriggersAndCollectives : Prop :=
  ∀ (s : State) m, s.Executes m .plain →
    (∀ gd gdesc, (s.g gdesc).toNat % 128 ≠ 0 → Raises (.trpost m gd gdesc) s ⟨4, 0, 0, false, false, s.cx.priv, s.g gdesc⟩) ∧
    (∀ gd gdesc d s1, s.readDesc (s.g gdesc) = .ok (d, s1) →
      let w := fun (n : Nat) => (d.getD n 0).toNat
      let trig : Word := d.getD 0 0
      let oper := w 1 / 2 ^ 48 % 2 ^ 8
      let die := ctDie trig
      let valid := ctrOk s1 s1.cx.prot trig = true ∧ 1 ≤ oper ∧ oper ≤ 5
      let used := fun (k : Nat) => ∃ e ∈ s1.entries, enDie e.id = die ∧ e.id.toNat % 16384 = k
      ((ctrOk s1 s1.cx.prot trig = false ∨ (ctPkg trig = s1.pkg ∧ (¬ valid ∨ ∀ k, k < 16384 → used k))) →
        Falls (.trpost m gd gdesc) s 8 m.sw (s1.Owes (gRes gd 0))) ∧
      (valid → ctPkg trig = s1.pkg → (∃ k, k < 16384 ∧ ¬ used k) → Falls (.trpost m gd gdesc) s 8 m.sw (fun u => ∃ e : Entry,
        u = { s1 with fresh := u.fresh, entries := u.entries, firings := u.firings, raising := u.raising, cx := { s1.cx with pend := s1.cx.pend ++ gRes gd e.id } } ∧
        enPkg e.id = s1.pkg ∧ enDie e.id = die ∧ (∀ x ∈ s1.entries, x.id ≠ e.id) ∧
        e.trig = trig ∧ e.thr = BitVec.ofNat 48 (w 1) ∧ e.oper = BitVec.ofNat 8 oper ∧ e.comp = d.getD 2 0 ∧ e.rearm = BitVec.ofNat 48 (w 3) ∧
        e.args = d ∧ e.region = s1.cx.region ∧ e.pctx = s1.cx.pctx ∧ e.prio = s1.cx.prio ∧ e.seed = s1.cx.seed ∧ e.fired = false ∧
        (reached (s1.cell die (ctIndex trig)) e.thr = false → u.entries = s1.entries ++ [e] ∧ u.firings = s1.firings) ∧
        (reached (s1.cell die (ctIndex trig)) e.thr = true → (∃ f ∈ u.firings, f.e = e) ∨ ∃ r ∈ u.raising, e.id ∈ r.ids))) ∧
      (ctrOk s1 s1.cx.prot trig = true → ctPkg trig ≠ s1.pkg →
        let mine : LaunchId := match s.cx.run with | some r => r.i.launch | none => ⟨0, 0, 0⟩
        let c := s1.cx
        (s1.mustWait (ctPkg trig) die = false → Falls (.trpost m gd gdesc) s 8 m.sw (fun u => ∃ v,
          s1.Asks (ctPkg trig) die (.trpost d c.region c.pctx c.prio c.pceil c.seed mine) (.value gd) v ∧ u = v.noteAway (ctPkg trig) c.pctx c.region)) ∧
        (s1.mustWait (ctPkg trig) die = true → Stalls (.trpost m gd gdesc) s s1))) ∧
    (∀ qd ge,
      let id := s.g ge
      let mine : LaunchId := match s.cx.run with | some r => r.i.launch | none => ⟨0, 0, 0⟩
      let armed := fun (e : Entry) => e.fired = false ∧ e.launch = mine ∧ e.coll = none
      (entryOk s id = false → Raises (.trcan m qd ge) s ⟨8, 5, 0, false, false, s.cx.priv, s.cx.pc⟩) ∧
      (entryOk s id = true → enPkg id = s.pkg → s.trBusy id = true → Stalls (.trcan m qd ge) s s) ∧
      (entryOk s id = true → enPkg id = s.pkg → s.trBusy id = false →
        (∀ e, s.entries.find? (fun e => e.id = id) = some e → armed e → Falls (.trcan m qd ge) s 8 m.sw (fun u =>
          u = { s with entries := s.entries.filter (fun x => x.id ≠ id), gens := u.gens, cx := { s.cx with pend := s.cx.pend ++ qRes qd true } })) ∧
        ((∀ e, s.entries.find? (fun e => e.id = id) = some e → ¬ armed e) → Falls (.trcan m qd ge) s 8 m.sw (s.Owes (qRes qd false)))) ∧
      (entryOk s id = true → enPkg id ≠ s.pkg →
        (s.mustWait (enPkg id) (enDie id) = false → Falls (.trcan m qd ge) s 8 m.sw (s.Asks (enPkg id) (enDie id) (.trcan id mine) (.flag qd))) ∧
        (s.mustWait (enPkg id) (enDie id) = true → Stalls (.trcan m qd ge) s s))) ∧
    (∀ gd gblk det strict, (s.g gblk).toNat % 128 ≠ 0 → Raises (.coll m gd gblk det strict) s ⟨4, 0, 0, false, false, s.cx.priv, s.g gblk⟩) ∧
    (∀ gd gblk det strict d s1, s.readDesc (s.g gblk) = .ok (d, s1) →
      let w := fun (n : Nat) => d.getD n (0 : Word)
      let r := s1.collStatus (s.g gblk) w (det || (w 0).getLsbD 8) (strict || (w 0).getLsbD 9)
      (blockBad w (det || (w 0).getLsbD 8) = true → Falls (.coll m gd gblk det strict) s 8 m.sw (s1.Owes (gRes gd 1))) ∧
      (∀ st, r = (st, none) → Falls (.coll m gd gblk det strict) s 8 m.sw (s1.Owes (gRes gd st))) ∧
      (∀ c : Coll, r = (0, some c) → Falls (.coll m gd gblk det strict) s 8 m.sw (fun u =>
        u.cx = { s1.cx with pend := s1.cx.pend ++ gRes gd 0 } ∧
        (∃ c' ∈ u.colls, c'.die = c.die ∧ c'.slot = c.slot ∧ c'.group = c.group ∧ c'.k = c.k) ∧ u.colls.length = s1.colls.length + 1 ∧
        tget 0 u.collNo (c.group.toNat * 4 + c.die.toNat) = c.k + 1)))

/-- R225, R294 to R297: SIADV enters the blocks of its record, in ascending order, in the side-information table of its die while that has room, tells the dies
that can use them, and owes how many it entered. SIRET withdraws the valid blocks of its record and owes their number. Neither changes another register. -/
def Obligations.SideInformation : Prop :=
  ∀ (s s1 : State) m gd grec a, s.Executes m .plain → s.advert grec = .ok (a, s1) →
    let die := s1.cx.id.die
    let table := (s1.die die).side
    let holds := fun (e : SideInfo) => e.valid && !e.orig && decide ((e.bid - a.first).toNat < a.n)
    (∀ bs s0, s.gather (s.g grec) 32 = .ok (bs, s0) → a = ⟨BitVec.ofNat 48 (leNat (bs.take 8)), leNat (bs.take 8) / 2 ^ 48,
      BitVec.ofNat 64 (leNat ((bs.drop 8).take 8)), BitVec.ofNat 16 (leNat ((bs.drop 16).take 8))⟩) ∧
    ((table.filter (fun e => e.valid)).length + a.n ≤ 65536 → Falls (.siadv m gd grec) s 8 m.sw (fun u =>
      u.cx = { s1.cx with pend := s1.cx.pend ++ gRes gd (BitVec.ofNat 64 a.n) } ∧ u.mem = s1.mem ∧
      (∀ k, k < a.n → ∃ e ∈ (u.die die).side, e.bid = a.first + BitVec.ofNat 48 k ∧ e.gen = a.gen ∧ e.valid = true ∧ e.orig = false) ∧
      (∀ e ∈ table, e.valid = true → (∀ k, k < a.n → e.bid ≠ a.first + BitVec.ofNat 48 k) → e ∈ (u.die die).side) ∧
      (a.n ≠ 0 → ∀ d : BitVec 2, ∃ p ∈ u.net, p.type = 0x34 ∧ p.ddie = d ∧ p.payload = .notice s1.pkg die a.first a.n a.gen))) ∧
    Falls (.siret m gd grec) s 8 m.sw (fun u =>
      u.cx = { s1.cx with pend := s1.cx.pend ++ gRes gd (BitVec.ofNat 64 (table.countP holds)) } ∧ u.mem = s1.mem ∧
        (∀ e ∈ table, holds e = false → e ∈ (u.die die).side) ∧ (∀ e ∈ (u.die die).side, holds e = false))

/-! ## Issue, and gangs -/

/-- R65 to R67, R51: every instruction of a context outside a gang: where its run must end first, the run ends and the instruction has had no effect
but that one that acts at the switch point has read its guard; where a posted count that WT names is not 0, the context is parked for it; where its guard is false, it falls through and does nothing else (but for a REP, and for
four whose checks come before the guard). -/
def Obligations.IssueRules : Prop :=
  ∀ (i : Instr) b e (s : State), encodeFields i = some (b, e) → actsGuardedOff i = false → s.cx.inGang = false →
    let next := fun (st : Status) => ∃ t, exec i s = .next t ∧
      t = { s with time := t.time, issued := s.issued + 1, cx := { s.cx with status := st } }
    (s.splits b.m (kindOf i) = true → ∃ t, exec i s = .next t ∧
      t = { s with
        time := t.time, issued := s.issued + 1
        cx := { s.cx with status := .atSwitch, firm := if s.mustStart b.m (kindOf i) = true then s.cx.firm else some (s.guard b.m) } }) ∧
    (s.splits b.m (kindOf i) = false → s.cx.owes b.m.wt = true → next (.posted (b.m.wt.getLsbD 0) (b.m.wt.getLsbD 1))) ∧
    (s.GuardedOff b.m (kindOf i) → Falls i s i.bytes b.m.sw (fun u => u = s))

/-- R59, R60, R153, R154: GVOTE outside a gang gives the context's own predicate (BALLOT: in bit IDX), V-class. In an undissolved gang every member whose guard is true
executes the leader's instruction on its own registers, and all go on at the leader's next address; a vote is over all members, one that is guarded off contributing
false. GSPLIT ends the run of its gang; at the switch point, where no member has anything to be delivered, the gang of those that have issued it dissolves:
they keep their GIDX and program counter and are task contexts of their own. Outside a gang it has no effect. -/
def Obligations.GangExecution : Prop :=
  (∀ (s : State) m qa, s.Executes m .plain →
     (∀ qd, Falls (.gvote m (.any qd) qa) s 8 m.sw (s.Owes (qRes qd (s.q qa)))) ∧
     (∀ qd, Falls (.gvote m (.all qd) qa) s 8 m.sw (s.Owes (qRes qd (s.q qa)))) ∧
     (∀ gd, Falls (.gvote m (.ballot gd) qa) s 8 m.sw
       (s.Owes (gRes gd (BitVec.ofNat 64 (if s.q qa = true then 2 ^ s.cx.gidx.toNat else 0)))))) ∧
  (∀ (i : Instr) (o : IntOp) (s : State) ids, intOps i = some o → o.m.wt = 0 → s.Leads ids → ∃ t, exec i s = .next t ∧
    ∀ id ∈ ids, (t.ctx id).pc = s.cx.pc + BitVec.ofNat 64 o.y.len ∧ (t.ctx id).pend = (s.ctx id).pend ∧
      ∀ r : GReg, (t.ctx id).g[r.toFin] =
        if r = o.gd ∧ o.gd ≠ 0 ∧ (s.focus id).guard o.m = true then o.result (s.focus id) else (s.ctx id).g[r.toFin]) ∧
  (∀ (s : State) ids m qa, m.wt = 0 → s.Leads ids →
    let yes := fun (id : CtxId) => (s.focus id).guard m = true ∧ (s.focus id).q qa = true
    let all := fun (d : VoteDst) (v : List RegVal) => ∃ t, exec (.gvote m d qa) s = .next t ∧
      ∀ id ∈ ids, (t.ctx id).pc = s.cx.pc + 8 ∧ (t.ctx id).g = (s.ctx id).g ∧
        (t.ctx id).pend = (s.ctx id).pend ++ (if (s.focus id).guard m = true then v else [])
    (∀ qd, ∃ b : Bool, (b = true ↔ ∃ id ∈ ids, yes id) ∧ all (.any qd) (qRes qd b)) ∧
    (∀ qd, ∃ b : Bool, (b = true ↔ ∀ id ∈ ids, yes id) ∧ all (.all qd) (qRes qd b)) ∧
    (∀ gd, ∃ w : Word, (∀ k : Nat, w.getLsbD k = true ↔ ∃ id ∈ ids, yes id ∧ (s.ctx id).gidx.toNat = k) ∧ all (.ballot gd) (gRes gd w))) ∧
  (∀ (s : State) ids m, m.wt = 0 → s.Leads ids → s.guard m = true →
    ∃ t, exec (.gsplit m) s = .next t ∧ t.cx.id = s.cx.id ∧ t.cx.status = .atSwitch ∧
      ∀ id ∈ ids, (t.ctx id).pc = s.cx.pc + 8 ∧ (t.ctx id).g = (s.ctx id).g ∧ (t.ctx id).gidx = (s.ctx id).gidx ∧
        (t.ctx id).gang = (s.ctx id).gang.map (fun g => { g with split := g.split || g.whole })) ∧
  (∀ (s : State) ids, s.Leads ids → s.cx.status = .atSwitch → s.retiring = false → (∀ r, s.cx.run = some r → r.charged = s.time) →
    (∀ id ∈ ids, (s.ctx id).gang.any (fun g => g.split) = true ∧ (s.ctx id).errs = [] ∧ (s.ctx id).rgfail = none ∧ (s.ctx id).fault = none ∧
      (s.ctx id).haltReq = false ∧ (s.ctx id).awaits = false) →
    Does .switchPoint s (fun u => ∀ id ∈ ids, (u.ctx id).inGang = false ∧ (u.ctx id).gidx = (s.ctx id).gidx ∧ (u.ctx id).pc = (s.ctx id).pc)) ∧
  (∀ (s : State) m, s.Executes m .plain → Falls (.gsplit m) s 8 m.sw (fun u => u = s))

/-! ## Events of contexts and their engines -/

/-- R48 to R53: a late result is written into its register; at the switch point of a context that owes nothing its results are written and it is ready; the
512th instruction ends its run; an idle core takes up the chosen context, whose PRIO is the lowest of those that have not yielded. -/
def Obligations.RunEvents : Prop :=
  (∀ (s : State) c i v, (s.ctx c).pend[i]? = some v → v.name ∉ (s.ctx c).landed → Does (.vClassResultWrite c i) s
    (s.OnlyCtx c { v.put (s.ctx c) with landed := v.name :: (s.ctx c).landed, pend := (s.ctx c).pend.eraseIdx i })) ∧
  (∀ s : State, s.Untroubled → s.cx.status = .atSwitch → Does .switchPoint s (fun u =>
    u.cx = { commitAll s.issued s.cx with status := .ready, toldHalt := u.cx.toldHalt } ∧ u.mem = s.mem)) ∧
  (∀ s : State, s.Untroubled → s.cx.status = .running → 512 ≤ s.cx.runLen → Does .forcedSwitchPoint s (fun u =>
    u.cx = { commitAll s.issued s.cx with status := .ready, toldHalt := u.cx.toldHalt } ∧ u.mem = s.mem)) ∧
  (∀ (s : State) id, s.Untroubled → s.cx.status = .ready → (s.allCtxs.map (·.id)).Nodup →
    s.coreHeld s.cx.id.coreId = false → s.nextRun s.cx.id.coreId = some id → Does .switchPoint s (fun u =>
      u.cx.id = id ∧ u.cx.status = .running ∧ u.cx.pc = (s.ctx id).pc ∧ u.cx.g = (s.ctx id).g ∧
      (s.ctx id).status = .ready ∧ ∀ c ∈ s.waitingOn s.cx.id.coreId, c.yielded = false → (s.ctx id).prio.toNat ≤ c.prio.toNat))

/-- R52, R67, R171, R363, R378, R386: the ends of waits of a context outside a gang. Its posted counts are zero: it is ready. Its condition is met: its
results are owed and it goes on, and with a timeout that has passed, with the results of a timeout. A walk that finds a leaf leaves the translation in the TLB of
its core, and one that finds none a Translation fault. A recoverable fault is posted to the fault queue, on whose entry the context then waits. A charge brings its
account up to the present. -/
def Obligations.WaitEvents : Prop :=
  ∀ (s : State) c, let x := s.ctx c
    x.inGang = false →
    (∀ pod host, x.status = .posted pod host → (pod = true → x.postedPod = 0) → (host = true → x.postedHost = 0) →
      Does (.postedCountWaitEnd c) s (s.OnlyCtx c { x with status := .ready })) ∧
    (x.rep.act = false →
      (∀ qd k thr d sw len, x.status = .waiting (.counter qd k thr) d sw len → ctPkg k = s.pkg →
        (reached (s.cell (ctDie k) (ctIndex k)) thr = true →
          Does (.waitConditionMet c) s (fun u => x.waited len sw (qRes qd true) (u.ctx c) ∧ u.mem = s.mem)) ∧
        (∀ t, reached (s.cell (ctDie k) (ctIndex k)) thr = false → x.poll = none → d = some t → t.toNat ≤ s.time.toNat →
          Does (.waitTimeout c) s (fun u => x.waited len sw (qRes qd false) (u.ctx c) ∧ u.mem = s.mem))) ∧
      (∀ qd mask ge d sw len, x.status = .waiting (.tokens qd mask ge) d sw len →
        (∀ k : Tok, mask.getLsbD k.toNat = true → x.t[k.toFin].st = .done ∨ x.t[k.toFin].st = .idle) →
        Does (.waitConditionMet c) s (fun u => x.waited len sw (qRes qd true ++ gRes ge 0) (u.ctx c) ∧ u.mem = s.mem))) ∧
    (∀ va acc e lvl ptePa, x.status = .walking va acc → walk s x.prot va = .leaf e lvl ptePa → pteMig e = false →
      (∀ d ∈ s.dirty, d.1 / 8 ≠ ptePa / 8) → Does (.tlbWalkComplete c va acc) s (fun u =>
        ((u.ctx c).status = .running ∨ (u.ctx c).status = .ready) ∧ (u.ctx c).pc = x.pc ∧
        ∃ t ∈ (u.core c.coreId).tlb, t.pctx = x.pctx ∧ t.lvl = lvl ∧ t.ptePa = ptePa ∧ tlbHit x.pctx va t = true)) ∧
    (∀ va acc (k : BitVec 16), x.status = .walking va acc → walk s x.prot va = .fault k → x.awaits = false → (s.focus c).retiring = false → x.errs = [] →
      x.rgfail = none → Does (.tlbWalkComplete c va acc) s (fun u =>
        (u.ctx c).status = .faulted ⟨11, k, acc, false, false, x.priv, va⟩ ∧ (u.ctx c).pc = x.pc)) ∧
    (∀ f k, x.status = .faulted f → walk s x.prot f.va = .fault k → x.prot.hasFq = true → s.fqRoom x.prot = true →
      Does (.faultEntryPost c) s (fun u => ∃ e : FqEntry, u.fq = s.fq ++ [e] ∧ e.f = f ∧ e.va = f.va ∧ e.who = .ctx c ∧ e.resp = 0 ∧
        (u.ctx c).status = .onEntry f e.n)) ∧
    (∀ r, x.status ≠ .free → x.run = some r → Does (.quotaCharge c) s (fun u =>
      (u.ctx c).run = some { r with charged := s.time } ∧ (u.ctx c).g = x.g ∧ (u.ctx c).pc = x.pc))

/-- R175, R177, R183, R186, R341, R343, R345, R387: what the copy engine and the dies do with their operations. A copy that is through, with nothing outstanding, ends: where it is no
ordered one its counter, in the package, rises by 1, and its token is DONE; memory stays. A small copy within the package leaves the source's bytes at the
destination. A copy or a row that has met a recoverable fault posts it to the fault queue, where it has room, and waits on the entry. An ordered contribution
whose turn has come is applied and its counter raised, and its copy is through; one of the next three waits where the landing counter has none waiting and its
die has a slot; one whose turn is past ends its copy with CAUSE 5. A row whose turn has come, of the landing buffer's size and with a free slot, takes the next slot,
and FILL rises by 1; the last of a slot's two writes raises its counter. A DFLUSH token whose rows are settled without error is DONE. -/
def Obligations.EngineEvents : Prop :=
  (∀ (s : State) n c, s.copies.find? (fun x => x.id = n && x.canGo && s.forked x.by_) = some c → (∀ x ∈ s.copies, x.id = n → x = c) → c.trig = none →
    c.err = 0 → c.bad = none → c.through = true → c.unacked = 0 → c.by_.isRun (s.ctx c.by_.ctx) = true →
    (∀ k, c.det = false → c.ctr = some k → ctPkg k = s.pkg ∧ s.Accepts (ctDie k) (ctIndex k)) → Does (.copyComplete n) s (fun u =>
      (∀ x ∈ u.copies, x.id ≠ n) ∧ u.mem = s.mem ∧
      (∀ k, c.det = false → c.ctr = some k → u.cell (ctDie k) (ctIndex k) = s.cell (ctDie k) (ctIndex k) + 1 ∧
        ∀ d i, (d, i) ≠ (ctDie k, ctIndex k) → u.cell d i = s.cell d i) ∧
      (c.det = true ∨ c.ctr = none → u.ctrs = s.ctrs) ∧
      (u.ctx c.by_.ctx).t = (match c.tok with
        | some k => (s.ctx c.by_.ctx).t.set k.toFin ⟨.done, 0⟩
        | none => (s.ctx c.by_.ctx).t) ∧
      ∀ d, (u.ctx d).g = (s.ctx d).g ∧ (u.ctx d).pc = (s.ctx d).pc ∧ (d ≠ c.by_.ctx → (u.ctx d).t = (s.ctx d).t))) ∧
  (∀ (s : State) n c pa pb, s.copies.find? (fun x => x.id = n && x.canGo && s.forked x.by_) = some c → (∀ x ∈ s.copies, x.id = n → x = c) → c.trig = none →
    c.err = 0 → c.bad = none → c.pos = 0 → c.unacked = 0 → c.buf = [] → c.ctr = none → c.rd = false → c.det = false → c.rows = 1 → 0 < c.rowb →
    c.elemLen 0 = c.rowb → c.rowb ≤ pageRoom (c.srcAt 0) →
    engPlace s c.by_.prot c.by_.user 0 (c.srcAt 0) = .ok (.hbm pa) → engPlace s c.by_.prot c.by_.user 1 (c.dstAt 0) = .ok (.hbm pb) →
    s.poison = [] → s.fq = [] → s.streams = [] → Does (.copyComplete n) s (fun u =>
      (∀ x ∈ u.copies, x.id ≠ n) ∧ u.ctrs = s.ctrs ∧ ∀ k, k < c.rowb → u.byte (pb + k) = (s.bytes c.by_.prot.keyslot pa c.rowb).getD k 0)) ∧
  ((∀ (s : State) n c f, s.copies.find? (fun x => x.id = n && x.onEntry.isNone) = some c → c.stall = some f → s.fqRoom c.by_.prot = true →
    Does (.copyPageFault n) s (fun u => ∃ e : FqEntry, u.fq = s.fq ++ [e] ∧ e.f = f ∧ e.who = .copy n ∧ e.inv = c.by_.inv ∧
      ∃ c' ∈ u.copies, c' = { c with stall := none, onEntry := some e.n })) ∧
   (∀ (s : State) n r f, s.copies.find? (fun x => x.id = n && x.onEntry.isNone) = none → s.rows.find? (fun x => x.id = n && x.onEntry.isNone) = some r →
    r.stall = some f → s.fqRoom r.by_.prot = true →
    Does (.copyPageFault n) s (fun u => ∃ e : FqEntry, u.fq = s.fq ++ [e] ∧ e.f = f ∧ e.who = .row n ∧ e.inv = r.by_.inv ∧
      ∃ r' ∈ u.rows, r' = { r with stall := none, onEntry := some e.n }))) ∧
  (∀ (s : State) (con : Contrib), (∀ h ∈ (s.die con.die).held, h.con.idx ≠ con.idx) →
    let now := (s.cell con.die con.idx).setWidth 32
    (∀ s1, con.exp = now → s.applyCon con = (s1, none) → s1.cell con.die con.idx = s.cell con.die con.idx → s1.Accepts con.die con.idx →
      Does (.detContributionArrival con) s (fun u => u.cell con.die con.idx = s.cell con.die con.idx + 1 ∧ u.mem = s1.mem ∧
        ∀ c ∈ u.copies, some c.id = con.copy → c.applied = true ∧ c.unacked = 0)) ∧
    (1 ≤ (con.exp - now).toNat → (con.exp - now).toNat ≤ 3 → s.staged con.die < 512 → Does (.detContributionArrival con) s (fun u =>
        (u.die con.die).held = (s.die con.die).held ++ [⟨con, none⟩] ∧ u.mem = s.mem ∧ u.ctrs = s.ctrs)) ∧
    (2 ^ 31 < (con.exp - now).toNat → Does (.detContributionArrival con) s (fun u =>
        u = { s with copies := s.copies.map (fun c => if some c.id = con.copy then { c with err := 5, unacked := 0 } else c) }))) ∧
  ((∀ (s : State) n x pa, s.landRows.find? (fun x => x.id = n) = some x → x.onEntry = none → x.slot = none → s.rowTurn x = true →
    let p := s.protOf x.row.pctx
    let w := fun (k : Nat) => leNat (((s.bytes p.keyslot pa 64).drop (8 * k)).take 8)
    engPlace s p true 0 x.row.lb = .ok (.hbm pa) → s.poison = [] → s.markUsed p x.row.lb true = s →
    let cap := w 1 % 2 ^ 13
    let size := 64 * 2 ^ (w 1 / 2 ^ 13 % 8)
    x.row.rowb.toNat = size → w 2 < cap →
    Does (.dispatchRowLanded n) s (fun u =>
      (∀ k, k < 8 → u.byte (pa + 16 + k) = (wordBytes (BitVec.ofNat 64 (w 2 + 1))).getD k 0) ∧
      ∃ x' ∈ u.landRows, x' = { x with
        slot := some (BitVec.ofNat 64 (w 0 + w 2 * size), BitVec.ofNat 64 (w 0 + cap * size + 8 * w 2), BitVec.ofNat 64 (w 3))
        writes := [⟨false, none, none, false, []⟩, ⟨true, none, none, false, []⟩] })) ∧
   (∀ (s s1 : State) n x w a h k, s.landRows.find? (fun x => x.id = n) = some x → x.onEntry = none → x.slot = some (a, h, k) → x.writes = [w] →
    w.onEntry = none → s.behind x w = false →
    let p := s.protOf x.row.pctx
    engWrite s p true (if w.head = true then h else a) (if w.head = true then wordBytes x.row.header else x.row.bytes) = (s1, none) →
    ctrOk s1 p k = true → ctPkg k = s1.pkg → s1.Accepts (ctDie k) (ctIndex k) →
    Does (.dispatchRowLanded n) s (fun u => (∀ y ∈ u.landRows, y.id ≠ n) ∧ u.mem = s1.mem ∧
      u.cell (ctDie k) (ctIndex k) = s1.cell (ctDie k) (ctIndex k) + 1))) ∧
  (∀ (s : State) c (k : Tok), let x := s.ctx c
    let inv := match x.run with | some r => r.i.id | none => 0
    let covered := fun (r : FlightRow) => decide (r.by_.ctx = c) && decide (r.by_.inv = inv) && decide (r.tok = some k)
    k ∈ x.flushes → (∀ r ∈ s.rows, covered r = true → r.stage = .done ∧ r.err = 0) →
    (∀ q ∈ s.copyq, ¬ (q.ctx = c ∧ q.inv = inv ∧ q.tok = some k)) →
    Does (.dflushTokenDone c k) s (fun u => u.rows = s.rows.filter (fun r => !covered r) ∧ u.mem = s.mem ∧
      s.OnlyCtx c (({ x with flushes := x.flushes.filter (fun t => t ≠ k) }).setTok k ⟨.done, 0⟩) u))

/-! ## Events of invocations, launches, pages and the debugger -/

/-- R195, R235, R237, R238, R241, R242, R244, R369: the life of an invocation in the store. A held one whose conditions hold becomes ready, and a
pre-empted one whose tiles are pinned again; the moment at which a held one is otherwise ready gives its list its turn. The dispatcher starts the ready invocation that comes first by priority, deadline key and
arrival; one whose frame it holds goes on where it was. A floating one goes to the eligible cluster with the most free contexts. The tiles of the
list whose turn comes first in its cluster, where no slice then holds more than 12 ways, are pinned. A cluster with a surplus ships to the neighbour with the lowest. A moved object takes its waiting invocations along and leaves a stub. -/
def Obligations.InvocationEvents : Prop :=
  ∀ s : State,
    let now : State → InvRec → Nat → InvRec → Prop := fun u r id x =>
      r.i.id = id ∧ u = { s with fresh := u.fresh, flushes := u.flushes, invs := s.invs.map (fun y => if y.i.id = id then x else y) }
    (∀ id r, s.invOf id = some r → r.tiles = true →
      (r.stage = .held → r.onEntry = none → r.i.resolve = false → r.entry.isSome = true → r.place.isSome = true →
        s.heldBack r = false → let turn := some (r.turn.getD s.fresh)
        (s.flushesOver r.i.toks = false → Does (.invocationReady id) s (fun u => u.mem = s.mem ∧
          (r.turn = none → u.invs = s.invs.map (fun y => if y.i.id = id then { r with turn := turn } else y)) ∧ (r.turn ≠ none → u.invs = s.invs))) ∧
        (s.flushesOver r.i.toks = true → s.mayRun r = true →
          Does (.invocationReady id) s (fun u => now u r id { r with i := { r.i with toks := [] }, stage := .ready, turn := turn }))) ∧
      (r.stage = .preempted → s.sentOut r = true → Does (.invocationReady id) s (fun u => now u r id { r with stage := .ready }))) ∧
    (∀ die r ids, s.chosen die = some (r, ids) →
      (∀ x ∈ s.readyOn die, s.options x ≠ [] →
        r.i.prio.toNat < x.i.prio.toNat ∨ (r.i.prio = x.i.prio ∧ (
          deadlineKey r.i.deadline (s.time.setWidth 48) < deadlineKey x.i.deadline (s.time.setWidth 48) ∨
          (deadlineKey r.i.deadline (s.time.setWidth 48) = deadlineKey x.i.deadline (s.time.setWidth 48) ∧ r.i.arrival ≤ x.i.arrival)))) ∧
      (∀ id e, ids = [id] → r.frame = [] → r.entry = some e → r.i.gang = 0 → r.i.deadline = 0 →
        Does (.dispatchChoice die) s (fun u => let c := u.ctx id
          c.status = .ready ∧ c.pc = e ∧ c.pctx = r.i.pctx ∧ c.region = r.i.region ∧ c.prio = r.i.prio ∧ c.priv = false ∧ c.late = false ∧
          (∀ n : Fin 32, c.g[n] = if 1 ≤ n.val ∧ n.val ≤ 6 then r.i.args.getD (n.val - 1) 0 else if n.val = 7 then r.i.target else
            if n.val = 8 then r.i.ph else 0) ∧
          u.invs = s.invs.map (fun y => if y.i.id = r.i.id then { r with stage := .running } else y))) ∧
      (∀ id inv old c, ids = [id] → r.frame = [c] → r.windows = [] → r.i.id = inv → s.invOf inv = some old → old.place.map (·.1) = some die →
        Does (.invocationResume inv) s (fun u => let c' := u.ctx id
          c'.pc = c.pc ∧ c'.status = c.status ∧ c'.g = c.g ∧ c'.p = c.p ∧ c'.a = c.a ∧ c'.m = c.m ∧ c'.q = c.q ∧ c'.x = c.x ∧
          u.invs = s.invs.map (fun y => if y.i.id = inv then { r with stage := .running, frame := [], windows := [], drained := false, from_ := none } else y)))) ∧
    (∀ id r, s.invOf id = some r → r.place = none → s.otherwiseReady r = true → r.turn ≠ none → s.eligible r.die r.i.gang ≠ [] →
      Does (.floatingPlacement id) s (fun u => ∃ p ∈ s.eligible r.die r.i.gang,
        (∀ q ∈ s.eligible r.die r.i.gang, s.room q.1 q.2 r.i.gang ≤ s.room p.1 p.2 r.i.gang) ∧
        ((∀ q ∈ s.eligible r.die r.i.gang, s.room q.1 q.2 r.i.gang = 0) → ∀ q ∈ s.eligible r.die r.i.gang, s.surplus p.1 p.2 ≤ s.surplus q.1 q.2) ∧
        now u r id { r with place := some p, order := s.fresh })) ∧
    (∀ id r p, s.invOf id = some r → r.place = some p → r.tiles = false → r.stage = .preempted → r.turn ≠ none → s.shooting r = false →
      (∀ x ∈ s.invs, x.place = some p → s.wantsTiles x = true → r.turn.getD 0 ≤ x.turn.getD 0) →
      (∀ k, k < 8 → (((s.pinned p ++ (s.loaderLines r).map (fun l => l.2)).eraseDups).filter (fun l => (homeSlice (256 * l)).toNat % 8 = k)).length ≤
        12 * 1024) →
      Does (.tileResidencyLoaded id) s (fun u => now u r id { r with tiles := true, pins := s.loaderLines r })) ∧
    (∀ die k j, 2000 ≤ (s.time - (s.die die).levelled).toNat → (s.invs.map (·.i.id)).Nodup → k < 24 → j < 24 → (j + 1 = k ∨ j = k + 1) →
      (∀ i, i < 24 → i ≠ k → s.surplus die i ≤ 0) → 0 < s.surplus die k →
      (∀ i, i < 24 → (i + 1 = k ∨ i = k + 1) → s.surplus die j ≤ s.surplus die i ∧ (s.surplus die j = s.surplus die i → j ≤ i)) →
      s.surplus die j < s.surplus die k - 1 →
      Does (.loadLevelling die) s (fun u => (u.die die).levelled = s.time ∧
        let go := (s.shippable die k).take (min 8 ((s.surplus die k - s.surplus die j) / 2).toNat)
        ∀ r ∈ s.invs, ∃ x ∈ u.invs, x.i = r.i ∧ x.stage = r.stage ∧ x.place = if r ∈ go then some (die, j) else r.place)) ∧
    (∀ name core o, s.objs.find? (fun o => o.name = name) = some o → o.moving = none → s.mayMove o core = true → s.staysFor o = false →
      Does (.objectMigration name core) s (fun u =>
        u.objs.find? (fun o => o.name = name) = some { o with home := core, stubs := o.stubs ++ [o.home], moved := s.time, moving := none, asked := none } ∧
        ∀ r ∈ s.invs, r.obj = some name → ∃ x ∈ u.invs, x.i = r.i ∧ x.die = core.die ∧ x.core = some core ∧
          x.place = some (core.die, core.core.toNat / 8) ∧
            x.stage = if r.waits = true then .held else .preempted))

/-- R252, R253, R274, R356, R358, R360, R373, R396 to R399: the root invocation of a launch that may start leaves with the block of the lowest free slot, and one that
fails a check is refused. A launch that retires discards and counts what of it waits or is in flight, then removes its entries, then frees its promises, phasers
and landing slots, the other packages of the pod owing an answer to each step. The record of a refused launch is written whole at its place in a ring of the
package, and FIN rises. Leases are recalled and dirty sectors written back; nothing else changes but side-information entries of the bytes written back (R295). A
shootdown takes the range out of every TLB, read-only cache and run's code, and clears GO when no hold and, unless it is urgent, no pin is left on it;
the urgent form has those stopped that run with pins on the range, and takes the pins of the others. The pager copies a page, points the entry at it and puts
the old frame in the list, or gives up after 1 ms. The debugger reads and writes registers and the program counter of a halted context, resumes or ends it, and
asks for the halt of one that runs. -/
def Obligations.LaunchPageAndDebugEvents : Prop :=
  ∀ s : State,
    let told := s.pods.filter (fun p => p ≠ s.pkg)
    (∀ q l, s.unchecked q = none → s.waitingLaunch q = some l → l.checked = true → (s.runningLaunches q).length < (s.queue q).mout → s.launchAsk (s.queue q) l = none →
      (∀ c, s.startChecks (s.queue q) l = some c → Does (.launchStart q) s (fun u =>
        u = { s with launches := s.launches.map (fun x => if x.id = l.id then { l with refused := some c } else x) })) ∧
      (s.startChecks (s.queue q) l = none → nmPkg l.target = s.pkg → Does (.launchStart q) s (fun u =>
        ∃ (slot : Nat) (p : Packet) (i : Inv), slot < (s.queue q).mout ∧ (∀ x ∈ s.runningLaunches q, x.slot ≠ slot) ∧
          (∀ k, k < slot → ∃ x ∈ s.runningLaunches q, x.slot = k) ∧
          let b : Word := BitVec.ofNat 64 ((s.queue q).rpool.toNat + 128 * slot)
          u.launches = s.launches.map (fun x => if x.id = l.id then { l with running := true, block := b, slot := slot } else x) ∧
          p ∈ u.net ∧ p.type = 1 ∧ p.payload = .inv i ∧ i.target = l.target ∧ i.args = l.args ∧ i.method = l.method ∧ i.region = b ∧ i.ph = 0 ∧
          i.lnum = BitVec.ofNat 64 (q.toNat * 2 ^ 32 + l.id.seq.toNat) ∧ i.seed = (s.queue q).seed ∧ i.pctx = (s.queue q).ctx ∧
          i.deadline = l.deadline ∧ i.launch = l.id))) ∧
    (∀ l x, s.launches.find? (fun x => x.id = l) = some x → l.pkg = s.pkg →
      (x.res ≠ .pending → x.refused = none → x.freed = false →
        (x.ending = false → Does (.launchRetirement l) s (fun u =>
          (∀ r ∈ u.invs, r.i.launch = l → r.stage = .running) ∧ (∀ i ∈ u.flying, i.launch ≠ l) ∧
          let n := (s.invs.filter (fun r => r.i.launch = l && r.stage ≠ .running)).length + (s.flying.filter (fun i => i.launch = l)).length
          u.launches = s.launches.map (fun y => if y.id = l then { y with ending := true, discarded := y.discarded + n, out := told } else y))) ∧
        (x.ending = true → x.out = [] → s.runsOf l = [] → (∀ i ∈ s.flying, i.launch ≠ l) →
          (∀ u ∈ s.unacked, u.acc = true ∨ ∀ i, packetInv u.p = some i → i.launch ≠ l) →
          (x.cut = false → Does (.launchRetirement l) s (fun u =>
            u.launches.find? (fun x => x.id = l) = some { x with cut := true, out := told } ∧
              ∀ e ∈ u.entries, e.launch = l → e.fired = true)) ∧
          (x.cut = true → (∀ f ∈ s.firings, f.e.launch ≠ l) → Does (.launchRetirement l) s (fun u =>
            u.launches.find? (fun x => x.id = l) = some { x with freed := true, out := told } ∧
              (∀ p ∈ u.promises, p.launch ≠ l) ∧ (∀ p ∈ u.phasers, p.launch ≠ l) ∧ ∀ d, ∀ h ∈ (u.die d).held, h.con.launch ≠ l)))) ∧
      (∀ c, x.refused = some c → s.fq = [] → s.streams = [] →
        let e := s.queue l.q
        let a : Nat := (BitVec.ofNat 64 (e.cring.toNat + 32 * (l.seq.toNat % e.crlen))).toNat % 2 ^ 46
        let f : Nat := s.queueAt l.q + 52
        gpaPkg e.cring = s.pkg → (∀ i, i < 32 → ∀ j, j < 4 → (a + i) / 256 ≠ (f + j) / 256) → Does (.completionRecordPost l) s (fun u =>
          (∀ k, k < 8 → u.byte (a + k) = BitVec.ofNat 8 (
            (l.seq.toNat + 3 * 2 ^ 32 + c.toNat * 2 ^ 40 + (1 + l.seq.toNat / e.crlen) % 2 * 2 ^ 63) / 256 ^ k)) ∧
          (∀ k, k < 8 → u.byte (a + 8 + k) = 0) ∧ (∀ k, k < 8 → u.byte (a + 16 + k) = BitVec.ofNat 8 (min x.discarded (2 ^ 32 - 1) / 256 ^ k)) ∧ (∀ k, k < 8 → u.byte (a + 24 + k) = BitVec.ofNat 8 (s.time.toNat / 256 ^ k)) ∧
          (∀ k, k < 4 → u.byte (f + k) = BitVec.ofNat 8 ((e.fin.toNat + 1) / 256 ^ k)) ∧ u.launches = s.launches.filter (fun y => y.id ≠ l)))) ∧
    let back : (Nat × ((Byte × Bool) × Nat) → Bool) → State := fun gone =>
      { s.watchAll ((s.dirty.filter gone).map (fun e => e.1)) with dirty := s.dirty.filter (fun e => !gone e) }
    (∀ pa : Nat, Does (.leaseRecall pa) s (fun u => u = back (fun e => decide (e.1 / 256 = pa / 256))) ∧
      Does (.deviceWriteback pa) s (fun u => u = back (fun e => decide (e.1 / 64 = pa / 64)))) ∧
    (∀ c va e pa, canonical va = true → (s.ctx c).status ≠ .free → s.tlbFind c.coreId (s.ctx c).pctx va = some e → pteNospec e.pte = false →
      permCause e.pte 0 (!(s.ctx c).priv) false = none → placeOf s e.pte e.lvl va = .hbm pa → Does (.hardwarePrefetch c va) s (fun u =>
        u = back (fun e => decide (e.1 / 64 = pa / 64 ∧ e.2.2 ≠ c.die.toNat * 192 + c.core.toNat)))) ∧
    (∀ die, let t := (s.die die).tcb
      let gone : State → Prop := fun u =>
        (∀ k ∈ u.cores, (∀ e ∈ k.tlb, t.range.tlb e = false) ∧ ∀ l ∈ k.ro, t.range.hits l.pctx l.va l.bytes.length = false) ∧
        (∀ c ∈ u.allCtxs, ∀ e ∈ c.code, t.range.hits c.pctx e.1.toNat 8 = false) ∧ ∀ d, ∀ e ∈ (u.die d).ctlb, t.range.tlb e.2 = false
      t.go = true →
      Does (.shootdownGo die) s (fun u => gone u ∧ u.mem = s.mem) ∧
      Does (.shootdownUrgent die) s (fun u => gone u ∧ u.mem = s.mem ∧
        ∀ x ∈ s.invs, x.tiles = true → x.stage = .running → t.range.pins x ≠ [] →
          ∀ c ∈ u.allCtxs, c.status ≠ .free → c.invId = x.i.id → c.unpin = true) ∧
      (∀ x ∈ s.invs, x.tiles = true → x.stage ≠ .running → t.range.pins x ≠ [] → Does (.shootdownUrgent die) s (fun u =>
        ∃ y ∈ u.invs, y.i = x.i ∧ y.tiles = false ∧ y.pins = [])) ∧
      (s.holdsOn t.range = false → (t.urgent = true ∨ s.pinsOn t.range = false) → t.sdctr = 0 → s.heldWrites = [] →
        Does (.shootdownComplete die) s (fun u => (u.die die).tcb = { t with go := false, sddone := t.sddone + 1 } ∧ u.mem = s.mem))) ∧
    (∀ die m, (s.die die).mig = some m →
      let key := (s.protOf m.pctx).keyslot
      let old : Nat := m.old.toNat / 2 ^ 16 % 2 ^ 30 * 65536
      let fl : Nat := (s.die die).tcb.pgpool.toNat + 8 * m.slot
      wordOf (s.bytes key m.ptePa 8) = m.old → m.ptePa % 8 = 0 →
      (s.pinsOn (pageRange m.pctx m.va) = false → s.holdsOn (pageRange m.pctx m.va) = false → fl % 8 = 0 → m.frame % 65536 = 0 →
        m.ptePa / 65536 ≠ m.frame / 65536 → fl / 65536 ≠ m.frame / 65536 → fl / 256 ≠ m.ptePa / 256 →
        Does (.pageMigration die m.pctx m.va) s (fun u => (u.die die).mig = none ∧
          (∀ k, k < 65536 → u.byte (m.frame + k) = s.keyed key (old + k) (s.byte (old + k))) ∧
          (∃ w : Word, (∀ k, k < 8 → u.byte (m.ptePa + k) = BitVec.ofNat 8 (w.toNat / 256 ^ k)) ∧ w.toNat / 2 ^ 16 % 2 ^ 30 = m.frame / 65536 % 2 ^ 30 ∧
            ∀ i, i < 64 → w.getLsbD i = if i = 10 ∨ 60 ≤ i then false else if 16 ≤ i ∧ i < 46 then w.getLsbD i else m.old.getLsbD i) ∧
          ∀ k, k < 8 → u.byte (fl + k) = BitVec.ofNat 8 (old / 256 ^ k))) ∧
      (1000000 ≤ (s.time - m.begun).toNat → Does (.migrationAbandon die) s (fun u => (u.die die).mig = none ∧
        ∀ k, k < 8 → u.byte (m.ptePa + k) = BitVec.ofNat 8 ((m.old &&& ~~~1024).toNat / 256 ^ k)))) ∧
    (∀ die, let d := (s.die die).dbg
      let id : CtxId := ⟨die, d.dcore, d.dctx⟩
      let c := s.ctx id
      let ended : State → BitVec 3 → Word → Prop := fun u st v => (u.die die).dbg = { d with dstat := st, ddata := v }
      (∀ code at_ brk, c.status = .debug code at_ brk → d.index = 0 →
        (∀ n : GReg, n ≠ 0 → d.item.toNat = n.toNat →
          Does (.debugRead die) s (fun u => ended u 2 c.g[n.toFin] ∧ u.cx = s.cx ∧ u.ctxs = s.ctxs) ∧
          Does (.debugWrite die) s (fun u => ended u 2 d.ddata ∧ s.OnlyCtx id { c with g := c.g.set n.toFin d.ddata } u)) ∧
        (d.item.toNat = 64 →
          Does (.debugRead die) s (fun u => ended u 2 c.pc ∧ u.cx = s.cx ∧ u.ctxs = s.ctxs) ∧
          Does (.debugWrite die) s (fun u => ended u 2 d.ddata ∧ s.OnlyCtx id { c with pc := d.ddata } u))) ∧
      (∀ code at_ brk, c.status = .debug code at_ brk → c.inGang = false →
        (c.rep.act = false → s.phasers = [] → (∀ x ∈ s.runners, x.joined = []) → Does (.debugResume die) s (fun u => ended u 2 d.ddata ∧
          s.OnlyCtx id { c with status := .ready, firm := none, pc := if brk = true ∧ c.pc = at_ then c.pc + 8 else c.pc } u)) ∧
        Does (.debugEnd die) s (fun u => u = State.freeze ((s.withCtx id (fun s => ({ s with cx := { s.cx with status := .ready } }).takeException
          ⟨14, code.setWidth 16, 0, false, false, c.priv, at_⟩)).debugEnds die 2))) ∧
      (c.status.halted = false → c.status ≠ .free → c.dbgen = true → Does (.debugHaltRequest die) s (fun u =>
        ended u 2 d.ddata ∧ s.OnlyCtx id { c with haltReq := true } u)))

/-- R222, R261, R263, R282 to R332, R390, R417: what the units of the dies and the ports do on their own or with a packet that has arrived in its turn. A Vat that accepts
a raise applies it; a triggered counter add and a triggered copy start, and an operation that has ended without error raises COMP; collectives end, abort and
resend; accesses, sends and bulk transfers of other packages are performed and answered; answers reach those that asked; blocks land, are coded, decoded and
sent again; notices change what a die believes of others; packets that are not accepted are sent again and at last given up. -/
def Obligations.PacketEvents : Prop :=
  ∀ s : State,
    let quiet := s.poison = [] ∧ s.fq = [] ∧ s.streams = []
    -- counters and triggered operations
    (∀ die idx amt, s.Accepts die idx → Does (.counterRaise die idx amt) s (fun u => s.Raised die idx amt u)) ∧
    (∀ die f, (∀ x ∈ s.firings, x.die = die → x.stall = none) → s.firings.find? (fun x => x.die = die && !x.begun && x.onEntry.isNone) = some f →
      f.e.coll = none → f.reserved = false → s.heldRaises = [] →
      (f.e.oper = 5 → ctrOk s f.e.prot (f.w 4) = true → ctPkg (f.w 4) = s.pkg → s.Accepts (ctDie (f.w 4)) (ctIndex (f.w 4)) →
        Does (.triggerFiring die) s (fun u => { f with begun := true, stall := none, fin := some (0, 0) } ∈ u.firings ∧
          u.cell (ctDie (f.w 4)) (ctIndex (f.w 4)) = s.cell (ctDie (f.w 4)) (ctIndex (f.w 4)) + (f.w 5).setWidth 48)) ∧
      (∀ m, f.e.oper = 1 → s.channelFree die = true → f.mode = some m → m.det = false → Does (.triggerFiring die) s (fun u =>
        { f with begun := true } ∈ u.firings ∧ ∃ c ∈ u.copies, c.id = f.id ∧ c.trig = some f.e.id ∧ c.dst = f.w 4 ∧ c.src = f.w 5 ∧
          c.total = (f.w 6).toNat ∧ c.pos = 0 ∧ c.begun = true ∧ c.rd = false))) ∧
    (∀ op f n, s.firings.find? (fun x => x.id = op) = some f → f.fin = some (0, n) →
      (f.e.comp = 0 → Does (.triggeredOpComplete op) s (fun u => u = { s with firings := s.firings.filter (fun x => x.id ≠ op) })) ∧
      (f.e.comp ≠ 0 → ctrOk s f.e.prot f.e.comp = true → ctPkg f.e.comp = s.pkg → s.Accepts (ctDie f.e.comp) (ctIndex f.e.comp) →
        Does (.triggeredOpComplete op) s (fun u => u.cell (ctDie f.e.comp) (ctIndex f.e.comp) = s.cell (ctDie f.e.comp) (ctIndex f.e.comp) + 1))) ∧
    -- collectives
    (∀ die slot c, s.coll die slot = some c →
      (c.err = 0 → ctPkg c.doneC = s.pkg → s.Accepts (ctDie c.doneC) (ctIndex c.doneC) → (∀ f ∈ s.firings, f.e.id = c.start → f.begun = true) →
        (c.complete = true → c.stall = none → c.onEntry = none → s.resumes c = false → Does (.collectiveDone die slot) s (fun u =>
          u.coll die slot = none ∧ u.cell (ctDie c.doneC) (ctIndex c.doneC) = s.cell (ctDie c.doneC) (ctIndex c.doneC) + 1)) ∧
        (∀ err, Does (.collectiveAbort die slot err) s (fun u =>
          u.coll die slot = none ∧ u.cell (ctDie c.doneC) (ctIndex c.doneC) = s.cell (ctDie c.doneC) (ctIndex c.doneC) + 1 ∧
          ∀ r, r < c.n → r ≠ c.rank → s.Emits u 6 (c.at_ r).1 (c.at_ r).2 (.abort c.group c.k err)))) ∧
      let late : CollMsg → Bool := fun m => m.defer && decide (m.at_.toNat + 1000000 ≤ s.time.toNat)
      ((∀ m ∈ c.flight, m.at_.toNat + 1000000 < 2 ^ 64) → Does (.detResendTimeout die slot) s (fun u => u.coll die slot = some { c with
          flight := c.flight.filter (fun m => !late m), out := c.out ++ (c.flight.filter late).map (fun m => { m with defer := false })
          sends := c.sends - (c.flight.filter late).length }))) ∧
    -- accesses of memory
    (∀ (p : Packet) (r : MemReq) pa, s.Admits p → p.payload = .mem r → p.sag ≠ 8 → s.heldBefore p = false → quiet →
      let prot := s.protOf r.pctx
      let n : Nat := 2 ^ r.sz.toNat
      let old := wordOf (s.bytes prot.keyslot pa n)
      s.markUsed prot r.va (p.type ≠ 2) = s →
      (p.type = 2 → homeWalk s prot r.user (r.sz = 3) 0 r.va = .hbm pa → Does (.rld p) s (fun u => u.mem = s.mem ∧
        ∃ pseq fseq info, s.Emits u 0x10 p.spkg p.sdie (.reply r.src r.inv p.seq old false true p.seq pseq fseq info))) ∧
      (p.type = 3 → homeWalk s prot r.user (r.sz = 3) 1 r.va = .hbm pa → Does (.rst p) s (fun u => u.Holds pa (leBytes n r.opnd.toNat)) ∧
        Does (.landingFault p) s (fun u => u.Holds pa (leBytes n r.opnd.toNat))) ∧
      (∀ new, homeWalk s prot r.user false 3 r.va = .hbm pa → atomic r.opc r.sz old r.opnd r.swp = (true, new) →
        (p.type = 4 → Does (.ramo p) s (fun u => u.Holds pa (leBytes n new.toNat) ∧
          ∃ pseq fseq info, s.Emits u 0x10 p.spkg p.sdie (.reply r.src r.inv p.seq old false true p.seq pseq fseq info))) ∧
        (p.type = 5 → Does (.rred p) s (fun u => u.Holds pa (leBytes n new.toNat))))) ∧
    -- sends and bulk transfers
    (∀ (p : Packet) id off pctx rd rop fmt bs pa, s.Admits p → quiet → p.payload = .copyData id off pctx rd rop fmt bs →
      s.placesOf p (s.protOf pctx) 1 bs.length = .ok [(pa, bs.length)] →
      (p.type = 8 → p.aux = 0 → Does (.send p) s (fun u => u.Holds pa bs)) ∧
      (p.type = 0x20 → rd = false → Does (.bwr p) s (fun u => u.Holds pa bs ∧ s.Emits u 0x30 p.spkg p.sdie (.ack p.seq p.seq none 0)))) ∧
    (∀ (p : Packet) id off n pctx pa, s.Admits p → s.poison = [] → p.payload = .readReq id off n pctx → p.type = 0x21 →
      s.placesOf p (s.protOf pctx) 0 n = .ok [(pa, n)] → s.markRange (s.protOf pctx) p.addr n false = s → Does (.brd p) s (fun u =>
        u.mem = s.mem ∧ s.Emits u 0x22 p.spkg p.sdie (.copyData id off pctx false 0 0 (s.bytes (s.protOf pctx).keyslot pa n)))) ∧
    (∀ (p : Packet) id off pctx rd rop fmt bs c, s.Reaches p → p.type = 0x22 → p.payload = .copyData id off pctx rd rop fmt bs →
      s.copies.find? (fun c => c.id = id) = some c → c.err = 0 → c.det = false →
      (∀ pa, off < c.pos → c.rd = false → quiet → engPlace s c.by_.prot c.by_.user 1 (c.dstAt off) = .ok (.hbm pa) → Does (.brdd p) s (fun u =>
        u.Holds pa bs ∧ { c with unacked := c.unacked - 1, landed := c.landed + bs.length, bad := none } ∈ u.copies)) ∧
      (c.pos ≤ off → Does (.brdd p) s (fun u => u.mem = s.mem ∧
        { c with unacked := c.unacked - 1, asked := false, buf := c.buf ++ [(off, bs)] } ∈ u.copies))) ∧
    -- invocations, launches, counters, questions
    (∀ (p : Packet) i o, s.Admits p → p.type = 1 → p.dep ≠ 255 → p.payload = .inv i → s.storeFull p.ddie = false → s.ended i.launch = false →
      isOref i.target = true → s.objs.find? (fun o => o.name = i.target) = some o → o.deleted = false → o.float = false → Does (.inv p) s (fun u =>
        ∃ r ∈ u.invs, r.stage = .held ∧ r.die = o.home.die ∧ r.core = some o.home ∧ r.obj = some o.name ∧ r.i.target = i.target ∧ r.i.args = i.args ∧
          r.i.ph = i.ph ∧ r.i.method = i.method ∧ r.i.region = i.region)) ∧
    (∀ (p : Packet) q bs, s.Admits p → p.type = 1 → launchParts p = some (q, bs) → s.ringFull q = false → s.regs.state ≠ 0 →
      (∀ x ∈ s.launches, x.id ≠ ⟨s.pkg, q, (s.queue q).rcvd⟩) → Does (.inv p) s (fun u =>
        ∃ l, u.launches = s.launches ++ [l] ∧ l.id = ⟨s.pkg, q, (s.queue q).rcvd⟩ ∧ l.target = BitVec.ofNat 64 (leNat (bs.take 8)) ∧ l.running = false)) ∧
    (∀ (p : Packet) bs, s.Admits p → p.type = 6 → p.payload = .bytes bs → s.Accepts p.ddie (ctIndex p.aux) → Does (.ctr p) s (fun u =>
      u.cell p.ddie (ctIndex p.aux) = s.cell p.ddie (ctIndex p.aux) + BitVec.ofNat 48 (leNat bs))) ∧
    (∀ (p : Packet), s.Admits p → p.type = 7 →
      (∀ src pkg req c, p.payload = .prm (.ask src pkg req (.ctrd c)) → pkg ≠ s.pkg → Does (.prm p) s (fun u =>
        s.Emits u 7 pkg src.die (.prm (.answer src req ((s.cell (ctDie c) (ctIndex c)).setWidth 64) 0)))) ∧
      (∀ src req val aux id r gd, p.payload = .prm (.answer src req val aux) → req ≠ 0 → s.rems = [r] → r.req = req → r.kind = .value gd →
        (s.ctx id).rem = [r] → Does (.prm p) s (fun u => u.ctx id = { s.ctx id with pend := (s.ctx id).pend ++ gRes gd val, rem := [] }))) ∧
    -- replies and acknowledgements
    (∀ (p : Packet) id r, s.Reaches p → s.rems = [r] → (s.ctx id).rem = [r] → r.dpkg = p.spkg → r.ddie = p.sdie →
      (∀ inv val gd sz sx aseq pseq fseq info, p.type = 0x10 → p.payload = .reply r.src inv r.seq val false true aseq pseq fseq info → r.kind = .load gd sz sx →
        Does (.rpl p) s (fun u => u.ctx id = { s.ctx id with pend := (s.ctx id).pend ++ gRes gd (extend sz sx val), rem := [] })) ∧
      (∀ aseq pseq, p.type = 0x11 → p.payload = .ack aseq pseq none 0 → r.kind = .store → r.ctr = none → r.src.die = p.ddie → r.src.core = p.dep →
        r.src.slot.toNat = p.aux.toNat % 16 → seqLe r.seq pseq = true → s.backlog = [] → Does (.ack p) s (fun u =>
          u.ctx id = { s.ctx id with rem := [] } ∧ ∀ x ∈ u.unacked, ofSeries p x = true → bulkType x.p.type = false → seqLe x.p.seq aseq = true →
            x.p.type = 2 ∨ x.p.type = 4))) ∧
    (∀ (p : Packet) seq x id off pctx rd rop fmt bs, s.Reaches p → p.type = 0x30 → p.payload = .ack seq seq none 0 → s.unacked = [x] → s.backlog = [] →
      ofSeries p x = true → bulkType x.p.type = true → x.p.seq = seq → x.p.payload = .copyData id off pctx rd rop fmt bs → id ≠ 0 →
      Does (.back p) s (fun u => u = { s with
        unacked := []
        copies := s.copies.map (fun c => if c.id = id then
          { c with unacked := c.unacked - 1, landed := c.landed + bs.length, bad := if c.err = 0 then none else c.bad } else c) })) ∧
    (∀ (p : Packet), s.Reaches p → p.type = 0x37 → Does (.hold p) s (fun u =>
      u = { s with unacked := s.unacked.map (fun x => if ofSeries p x = true then
        { x with at_ := x.at_ + BitVec.ofNat 64 (match x.held with | some t => min 1000000 (s.time - t).toNat | none => 0)
                 since := s.time, gap := 20000, held := some s.time } else x) })) ∧
    -- blocks
    (∀ (p : Packet) bid rgen ret strict cidx cslot pctx coded bs, p.payload = .block bid rgen ret strict cidx cslot pctx coded bs →
      (p.type = 0x23 → p.dpkg ≠ s.pkg → p.spkg = s.pkg ∨ headerOk p = true → p.hlv ≠ 3 → let port := s.portTo (s.inDie p) p.dpkg p.ddie
        Does (.blk p) s (fun u => (u.die (portDie port)).egress = (s.die (portDie port)).egress ++ [(port, { p with hlv := p.hlv + 1 })])) ∧
      (∀ pa, p.type = 0x23 → s.Admits p → coded = none → quiet → s.placesOf p (s.protOf pctx) 1 bs.length = .ok [(pa, bs.length)] →
        s.AwaitsBlock p.ddie bid p.addr cidx → Does (.blk p) s (fun u =>
          s.BlockLands u p.ddie bid p.addr cidx pa bs ∧ s.Emits u 0x30 p.spkg p.sdie (.block bid 0 false false cidx cslot 0 none []))) ∧
      (∀ c, p.type = 0x36 → s.Admits p → s.blockColl p.ddie bid = some c → c.slot.setWidth 16 = cslot →
        (∀ f ∈ s.firings, f.e.id = c.start → f.begun = true) → Does (.cerr p) s (fun u => u.coll p.ddie c.slot = none))) ∧
    (∀ (p : Packet) cseq c o g e data pa, p.spkg ≠ s.pkg → headerOk p = true → p.type = 0x24 → p.sag ≠ 8 → s.shut = false → quiet → s.dirty = [] →
      p.payload = .coded cseq [c, o] [0] data → c.dpkg = s.pkg → o.bid ≠ c.bid → c.hg = [g] → c.len ≤ 4096 → data.length = 4096 →
      s.decoding p.via < 64 → (∀ w ∈ (s.rxGet (rxKey true p.spkg p.sdie p.score 9 (portDie p.via))).window, w.1 ≠ cseq) →
      sideFind (s.die c.ddie).side o.bid = some e → e.valid = true → e.gen = g →
      s.placesOf { p with addr := c.daddr } (s.protOf c.pctx) 1 c.len = .ok [(pa, c.len)] → s.AwaitsBlock c.ddie c.bid c.daddr c.cidx →
      Does (.cblk p) s (fun u =>
        s.BlockLands u c.ddie c.bid c.daddr c.cidx pa (((List.range 4096).map (fun k => data.getD k 0 ^^^ s.byte (e.pa + k))).take c.len) ∧
        s.Emits u 0x31 p.spkg p.sdie (.dack cseq 0))) ∧
    (∀ (p : Packet) cseq k x, s.Admits p → p.payload = .dack cseq k → (s.die p.ddie).coded.find? (fun x => x.cseq = cseq) = some x → k ∉ x.done →
      (p.type = 0x31 → k < x.comps.length → x.done.length + 1 < x.comps.length →
        Does (.dack p) s (fun u => { x with done := k :: x.done } ∈ (u.die p.ddie).coded)) ∧
      (∀ c bs, x.comps[k]? = some c → x.blocks[k]? = some bs → p.type = 0x32 →
        (c.strict = false → k ∉ x.fell → Does (.dnak p) s (fun u =>
          s.Emits u 0x23 c.dpkg c.ddie (.block c.bid 0 false false c.cidx c.cslot c.pctx none bs) ∧
          (u.die p.ddie).stats.fallback = (s.die p.ddie).stats.fallback + 1)) ∧
        (c.strict = true → x.done.length + 1 < x.comps.length → Does (.dnak p) s (fun u =>
          s.Emits u 0x36 c.spkg c.sdie (.block c.bid 0 false true c.cidx c.cslot 0 none []) ∧
          { x with done := k :: x.done, void := k :: x.void } ∈ (u.die p.ddie).coded)))) ∧
    (∀ die cseq k x c bs, (s.die die).coded.find? (fun x => x.cseq = cseq) = some x → k ∉ x.done → k ∉ x.fell → 1000000 ≤ (s.time - x.at_).toNat →
      x.comps[k]? = some c → x.blocks[k]? = some bs → Does (.codedFallbackTimeout die cseq k) s (fun u =>
        s.Emits u 0x23 c.dpkg c.ddie (.block c.bid 0 false c.strict c.cidx c.cslot c.pctx none bs) ∧ { x with fell := k :: x.fell } ∈ (u.die die).coded)) ∧
    (∀ die (port : BitVec 6) (p q : Packet) b1 g1 r1 t1 x1 y1 c1 e1 d1 b2 g2 r2 t2 x2 y2 c2 e2 d2, let d := s.die die
      d.egress.filter (fun e => e.1 = port) = [(port, p), (port, q)] → p.payload = .block b1 g1 r1 t1 x1 y1 c1 e1 d1 →
      q.payload = .block b2 g2 r2 t2 x2 y2 c2 e2 d2 → p.sag ≠ 7 → q.sag ≠ 7 → b1 ≠ b2 → (viewGen (s.view die) p.dpkg p.ddie b2).isSome = true →
      (viewGen (s.view die) q.dpkg q.ddie b1).isSome = true → d.coded = [] → d1.length = 4096 → d2.length = 4096 →
      Does (.codedPacketForm die port) s (fun u =>
        (u.die die).stats.codedpkt = d.stats.codedpkt + 1 ∧ (u.die die).stats.codedcmp = d.stats.codedcmp + 2 ∧ (u.die die).cseq = d.cseq + 1 ∧
        ∃ comps, comps.map (·.bid) = [b1, b2] ∧ s.Emits u 0x24 p.dpkg p.ddie (.coded d.cseq comps [0, 1] (d1.zipWith (· ^^^ ·) d2)))) ∧
    (∀ (p : Packet) bid rpkg rdie, s.Admits p → p.type = 0x33 → p.payload = .bid bid rpkg rdie → bid.extractLsb' 36 12 = s.pkg → Does (.rel p) s (fun u =>
      u.mem = s.mem ∧ ∀ d, (u.die d).side = (s.die d).side.map (fun e => if e.bid = bid ∧ e.orig = true then { e with valid := false } else e))) ∧
    (∀ (p : Packet) rpkg rdie first n gen, s.Admits p → p.payload = .notice rpkg rdie first n gen →
      (p.type = 0x34 → n ≤ 16384 → Does (.hnot p) s (fun u => ∀ k, k < n → ∃ h ∈ (u.die p.ddie).holdings,
        h.rpkg = rpkg ∧ h.rdie = rdie ∧ h.bid = first + BitVec.ofNat 48 k ∧ h.gen = gen ∧ h.at_ = 0)) ∧
      (p.type = 0x35 → Does (.hwd p) s (fun u =>
        ∀ h, h ∈ (u.die p.ddie).holdings ↔ h ∈ (s.die p.ddie).holdings ∧ ¬ (h.rpkg = rpkg ∧ h.rdie = rdie ∧ (h.bid - first).toNat < n)))) ∧
    (∀ die, let d := s.die die
      (∀ bid, Does (.retentionExpiry die bid) s (fun u => (u.die die).side = d.side.map (fun e =>
        if e.bid = bid ∧ e.orig = true ∧ (s.time.extractLsb' 20 16 - e.expiry.extractLsb' 0 16).toNat < 2 ^ 15 then { e with valid := false } else e))) ∧
      Does (.holdingsExpiry die) s (fun u => ∀ h, h ∈ (u.die die).holdings ↔ h ∈ d.holdings ∧ (h.at_ = 0 ∨ s.time.toNat < h.at_.toNat)) ∧
      Does (.landedPairExpiry die) s (fun u => ∀ l, l ∈ (u.die die).landed ↔ l ∈ d.landed ∧ (s.time - l.at_).toNat < 10000000) ∧
      ∀ p, Does (.malformedPacket die p) s (fun u => (u.die die).stats.malformed = d.stats.malformed + 1 ∧ u.mem = s.mem ∧ u.ctrs = s.ctrs)) ∧
    -- resends and failures
    (∀ (src : CoreId) sag dpkg ddie, let us := s.unacked.filter (fun u => u.p.sdie = src.die && u.p.score = src.core && u.p.sag = sag && u.p.dpkg = dpkg && u.p.ddie = ddie)
      (∀ u ∈ us, u.acc = false ∧ bulkType u.p.type = false) → (∃ u ∈ us, u.gap ≤ (s.time - u.since).toNat) → Does (.resendTimeout src sag dpkg ddie) s (fun t =>
        t = { s with outbox := s.outbox ++ us.map (·.p), unacked := s.unacked.map (fun u => if u ∈ us then { u with since := s.time, gap := min (2 * u.gap) 1000000 } else u) })) ∧
    (∀ (p : Packet) x bs id w r, s.unacked = [x] → s.backlog = [] → x.p = p → p.payload = .bytes bs → p.type = 6 → x.acc = false → x.held = none →
      5000000 ≤ (s.time - x.at_).toNat → x.who = some w → (s.ctx id).status ≠ .free → (s.ctx id).gidx = w.lane → (s.ctx id).run = some r → r.i.id = w.inv →
      s.regs.hqlen = 0 → Does (.deliveryFailure p) s (fun u =>
        u.unacked = [] ∧ u.ctx id = { s.ctx id with errs := (s.ctx id).errs ++ [⟨18, 0, 0, false, false, (s.ctx id).priv, p.addr⟩] })) ∧
    (∀ p : Packet, let x := s.rxGet (rxKeyOf p)
      (x.holding = none → x.heldSeq = [] → Does (.holdTimer p) s (fun u => u = s)) ∧
      (x.holding ≠ none ∨ x.heldSeq ≠ [] → Does (.holdTimer p) s (fun u => s.Emits u 0x37 p.spkg p.sdie .none ∧
        (u.rxGet (rxKeyOf p)).holding = none ∧ (u.rxGet (rxKeyOf p)).heldAt = s.time))) ∧
    (∀ die spkg sdie score sag b, let k := rxKey b spkg sdie score sag die
      (s.rxGet k).heldSeq = [] → 10000000 ≤ (s.time - (s.rxGet k).last).toNat → Does (.duplicateWindowDrop die spkg sdie score sag) s (fun u =>
        (u.rxGet k).window = [] ∧ (u.rxGet k).next = (s.rxGet k).next))

/-! ## Encoding, the step, memory, reset -/

/-- R62 to R76: the decoder and the encoder agree. The bytes of a well-formed instruction decode to it, whatever follows them, and bytes that decode are those of a
well-formed instruction: no bit of an encoding is dropped, and no two words mean one instruction. -/
def Obligations.DecodeEncodeAgree : Prop :=
  (∀ i : Instr, i.wf = true → (encodeFields i).isSome = true →
    (encodeBytes i).length = i.bytes ∧ ∀ rest, decodeBytes (encodeBytes i ++ rest) = .ok (i, i.bytes)) ∧
  (∀ bs i n, decodeBytes bs = .ok (i, n) → i.wf = true ∧ (encodeFields i).isSome = true ∧ n = i.bytes ∧ encodeBytes i = bs.take n)

/-- The words that the manual writes out stand for the instructions it names: ADD g4, g2, g3; AMO.cas.d g4, q1, [g5], g0, g7 !; CMP.ne q2, g4, g0;
(q2) BR -4 !; ST.d [g5], g0; VFMA a0, p1, p2; MXMUL x0, g4, g5, g10; MBPOST; DISP. -/
def Obligations.DecodedWords : Prop :=
  let m : Mods := ⟨false, 0, false, 0⟩
  decodeTableWord 64 0x0000000061080200 = some (.add m 4 2 (.reg 3) false) ∧
  decodeTableWord 64 0x0000F6380288CA04 = some (.amo ⟨true, 0, false, 0⟩ 4 5 0 7 11 3 1 0 0) ∧
  decodeTableWord 64 0x0000040002744400 = some (.cmp m 2 4 (.reg 0) false 1) ∧
  decodeTableWord 64 0xFFFFF80000008014 = some (.br ⟨true, 2, false, 0⟩ (.short 0x7FFFFC)) ∧
  decodeTableWord 64 0x000006000280C200 = some (.st m 5 (.off 0) 0 3 0) ∧
  decodeTableWord 64 0x0000E18450D11A00 = some (.vfma m 0 (.p 1) (.p 2) 0 0 7) ∧
  decodeTableWord 128 0x00000050A2016202 = some (.mxmul m 0 none 4 5 10 0 0) ∧
  decodeTableWord 64 0x0000240005018C00 = some (.mbpost m 10 2 true) ∧
  decodeTableWord 64 0x000000B8881F8800 = some (.disp m 15 16 4 (.reg 23)) ∧
  decodeTableWord 64 0x0000000000000003 = none ∧ decodeTableWord 64 0x000000000001FE00 = none

/-- R62, R69: where nothing else is due and the issuing context may issue, a step is `exec` of the instruction that the bytes at the program counter decode to; after it
the model may only put down what comes before that context's next instruction (log entry 1). -/
def Obligations.StepRunsDecodedInstruction : Prop :=
  (∀ (s : State) pa f (i : Instr) n, s.agenda = [] → s.issues = true → s.cx.pc.toNat % 4 = 0 → s.poison = [] →
    (s.xlate s.cx.id.coreId s.cx.pctx s.cx.prot.keyslot (!s.cx.priv) false 2 s.cx.pc).1 = .ok (.hbm pa) f →
    let bs := s.bytes s.cx.prot.keyslot pa (min 16 (32 - s.cx.pc.toNat % 32))
    decodeBytes bs = .ok (i, n) → (s.cx.priv = true ∨ supervisorOnly bs = false) →
    step s = match exec i s with
      | .next t => .next t.interleave
      | .fault f => .fault f
      | .refused r => .refused r) ∧
  ∀ t : State, t.interleave = { t with agenda := t.interleave.agenda }

/-- Every step answers a next state, and every step keeps the canonical form of memory: addresses rise strictly, and no listed byte is 0. -/
def Obligations.EveryStepKeepsMemoryForm : Prop :=
  ∀ s : State, ∃ t, step s = .next t ∧ (Memory.wf s.mem = true → Memory.wf t.mem = true)

/-- R17, R39, R42, R43, R383, R395, R404, R436, R438, R440, R447: what reset leaves. The registers of the device pages have the values of their tables, DOMAIN
127 and every other one 0; no task context runs an invocation, its modes are 0, its tokens idle and its pointers 0; tables and counter cells are empty;
nothing is listed in memory. -/
def Obligations.ResetState : Prop :=
  Memory.wf State.reset.mem = true ∧ State.reset.mem = [] ∧ State.reset.ctrs = [] ∧
  (∀ id, (State.reset.ctx id).status = .free ∧ ∀ r : Fin 32, (State.reset.ctx id).g[r] = 0) ∧
  (∀ pa, regExists pa = true → regPage pa ≠ .control → State.reset.readReg pa = 0) ∧
  State.reset.regs.domain = 127 ∧ State.reset.regs.ptpen = false ∧ State.reset.regs.lock = false ∧ State.reset.regs.offset = 0 ∧
  State.reset.regs.ctxtab = 0 ∧ State.reset.regs.wqtab = 0 ∧ State.reset.regs.grptab = 0 ∧ State.reset.regs.grplen = 0 ∧ State.reset.regs.stab = 0 ∧
  State.reset.regs.hqbase = 0 ∧ State.reset.regs.hqlen = 0 ∧ State.reset.regs.hqprod = 0 ∧ State.reset.regs.hqcons = 0 ∧ State.reset.regs.hqlost = 0 ∧
  State.reset.regs.hqctr = 0 ∧ State.reset.regs.state = 0 ∧ State.reset.regs.step = 0 ∧ State.reset.regs.powcap = 0 ∧ State.reset.regs.qstat = 0 ∧
  State.reset.invs = [] ∧ State.reset.launches = [] ∧ State.reset.objs = [] ∧ State.reset.promises = [] ∧ State.reset.phasers = [] ∧
  State.reset.entries = [] ∧ State.reset.firings = [] ∧ State.reset.copies = [] ∧ State.reset.colls = [] ∧ State.reset.poison = [] ∧ State.reset.time = 0 ∧
  (∀ id, let c := State.reset.ctx id
    c.rmode = 0 ∧ c.atmode = false ∧ c.priv = false ∧ c.late = false ∧ c.alog = false ∧ c.rep.act = false ∧ c.fltinfo = 0 ∧
    ∀ r : Fin 8, c.p[r] = 0 ∧ c.t[r].st = .idle) ∧
  ∀ die cell, State.reset.cell die cell = 0

/-- R278 to R280, R403 to R414, R415 to R437, R439 to R450: the links, the device registers, the clocks, the Ethernet ports and media streams, scans and
errors, starts, keys, quotes, alarms and power. -/
def Obligations.DeviceEvents : Prop :=
  ∀ s : State,
    -- links
    (∀ l f, let x := s.link l
      let g : List Flit := if x.inq = [] ∧ f.sop = false then [] else x.inq ++ [f]
      -- a packet that is whole goes to the switch of the die, one whose reserved fields are not 0 as malformed
      let taken : Link → State → Prop := fun y u => match y.packet s.issued l with
        | none => u.link l = y ∧ (f.nak = false → u.agenda = s.agenda)
        | some (p, rest) => u.link l = { y with inq := rest } ∧
            .event (if p.type = 0 then .malformedPacket (s.inDie p) p else packetEvent p) ∈ u.agenda
      x.up = true →
      ((f.crc = flitCrc f ∧ f.lseq = x.rxSeq) → Does (.flitReceive l f) s (fun u => taken { x with
        rxSeq := x.rxSeq + 1, nak := false, dropping := false, inq := g, owes := x.owes || decide (g ≠ [])
        replay := x.replay.filter (fun h => decide (0 < (h.lseq - f.lack).toNat ∧ (h.lseq - f.lack).toNat < 2048)) } u ∧
        (f.nak = true → .event (.linkReplay l f.lack) ∈ u.agenda))) ∧
      (f.crc ≠ flitCrc f → Does (.flitReceive l f) s (taken { x with nak := true, dropping := true })) ∧
      ((f.crc = flitCrc f ∧ f.lseq ≠ x.rxSeq) → Does (.flitReceive l f) s (taken { x with nak := x.nak || !x.dropping, dropping := true })) ∧
      ∀ lack, Does (.linkReplay l lack) s (fun u =>
        let left := (x.replay.filter (fun h => decide (0 < (h.lseq - lack).toNat ∧ (h.lseq - lack).toNat < 2048))).map x.stamp
        (u.link l).replay = left ∧ (u.link l).outq = x.outq ++ left ∧ (u.link l).txSeq = x.txSeq ∧
        (15 ≤ (x.replays.filter (fun t => decide ((s.time - t).toNat < 1000000))).length → (u.link l).training = true))) ∧
    (∀ l, Does (.linkRetrain l true) s (fun u => (u.link l).up = true ∧ (u.link l).training = false ∧ (u.link l).lanes = max 2 (s.link l).lanes) ∧
      (let down : State → Prop := fun u => (u.link l).up = false ∧ (u.link l).replay = [] ∧ (u.link l).txq = [] ∧ l ∈ u.downs ∧
          (l ∉ s.downs → u.routeEra = s.routeEra + 1);
        Does (.linkRetrain l false) s down ∧ Does (.linkDown (.portDown l)) s down ∧ Does (.linkDown (.dieLink l)) s down) ∧
      (s.flash.keys ≠ none → s.flash.repairs.length < 2048 → ∀ mask, Does (.linkDown (.lane l mask)) s (fun u => (u.link l).lanes = 2 ∧
        u.flash.repairs = s.flash.repairs ++ [⟨4, linkDie l, l.setWidth 8, mask.setWidth 64, s.time⟩]))) ∧
    (∀ e, Does (.linkDown (.ethernet e)) s (fun u => u = s.setPort e { s.port e with link := false }) ∧
      Does (.ethernetLinkUp e) s (fun u => u = s.setPort e { s.port e with link := true })) ∧
    -- device registers, TIME
    (∀ v : Word, let b : Nat := 0x300000100000
      Does (.registerWrite b v) s (fun u => u = { s with regs := { s.regs with ctxtab := v } }) ∧
      Does (.registerWrite (b + 8) v) s (fun u => u = { s with regs := { s.regs with wqtab := v } }) ∧
      Does (.registerWrite (b + 16) v) s (fun u => u = { s with regs := { s.regs with grptab := v } }) ∧
      Does (.registerWrite (b + 24) v) s (fun u => u = { s with regs := { s.regs with grplen := v.setWidth 17 } }) ∧
      Does (.registerWrite (b + 32) v) s (fun u => u = { s with regs := { s.regs with stab := v } }) ∧
      (∀ d : BitVec 2, let t := (s.die d).tcb
        let a : Nat := 0x300000000000 + 0x10000 * d.toNat
        (t.go = true → Does (.registerWrite a v) s (fun u => u = { s with heldWrites := s.heldWrites ++ [(a, v)] })) ∧
        (t.go = false → Does (.registerWrite a v) s (fun u => u = s.setDie d { s.die d with tcb := { t with sdva := v } }) ∧
          Does (.registerWrite (a + 24) 1) s (fun u => u =
            { s.setDie d { s.die d with tcb := { t with go := true, urgent := false } } with agenda := s.agenda ++ [.event (.shootdownGo d)] }))) ∧
      exec (.timeWrite v) s = .next { s with time := if s.regs.ptpen = false ∧ s.time.toNat ≤ v.toNat then v else s.time }) ∧
    (∀ e (o : Int), (s.port e).en = true → Does (.ptpEventMessage e o) s (fun u =>
      u.regs.offset = (BitVec.ofInt 32 o).setWidth 64 ∧ (u.regs.lock = true ↔ s.regs.ptpen = true ∧ o.natAbs < 1000) ∧
      u.time = if s.regs.ptpen = true ∧ o < -1000000 then s.time + BitVec.ofInt 64 (-o) else s.time)) ∧
    -- Ethernet
    (∀ e f, let p := s.port e
      let n : Nat := p.rxlen.toNat
      p.en = true →
      (f.fcsOk = false → Does (.ethernetFrameReceive e f) s (fun u => u = s.setPort e { p with rxdrop := p.rxdrop + 1 })) ∧
      (f.fcsOk = true → f.kind = .other → f.bytes.length ≤ 1984 → ringLen n 32768 = true →
        (n ≤ (p.rxprod - p.rxcons).toNat → Does (.ethernetFrameReceive e f) s (fun u => u = s.setPort e { p with rxdrop := p.rxdrop + 1 })) ∧
        ((p.rxprod - p.rxcons).toNat < n → s.fq = [] → s.streams = [] → p.rxctr = 0 →
          let at_ : Word := BitVec.ofNat 64 (p.rxbase.toNat + 2048 * (p.rxprod.toNat % n))
          gpaPkg at_ = s.pkg → Does (.ethernetFrameReceive e f) s (fun u => u.port e = { p with rxprod := p.rxprod + 1 } ∧
            u.Holds (at_.toNat % 2 ^ 46) (leBytes 2 f.bytes.length ++ List.replicate 6 0 ++ leBytes 8 f.first.toNat ++ List.replicate 48 0 ++ f.bytes))))) ∧
    (∀ e, let p := s.port e
      let n : Nat := p.txlen.toNat
      let at_ : Word := BitVec.ofNat 64 (p.txbase.toNat + 2048 * (p.txdone.toNat % n))
      let bs := s.bytes 0 (at_.toNat % 2 ^ 46) 2048
      p.en = true → p.link = true → ringLen n 32768 = true → p.txdone.toNat < p.txprod.toNat → p.txBuf = none → gpaPkg at_ = s.pkg → p.txctr = 0 →
      Does (.ethernetTransmit e) s (fun u => u.port e = { p with txdone := p.txdone + 1, txBuf := none } ∧
        u.txFrames = if 60 ≤ leNat (bs.take 2) ∧ leNat (bs.take 2) ≤ 1984 then s.txFrames ++ [(e, (bs.drop 64).take (leNat (bs.take 2)))] else s.txFrames)) ∧
    -- media streams
    (∀ idx, let d := s.desc idx
      (d.en = true → s.streamOf idx = none → s.descErr d = 0 → Does (.streamEnable idx) s (fun u =>
        u.streams = s.streams ++ [⟨idx, none, [], none, [], []⟩] ∧ ∀ k, k < 40 → u.byte (s.descAt idx + 88 + k) = 0)) ∧
      (d.en = true → s.streamOf idx = none → s.descErr d ≠ 0 → Does (.streamEnable idx) s (fun u =>
        u.streams = s.streams ∧ (u.byte (s.descAt idx)).getLsbD 0 = false)) ∧
      (∀ x, s.streamOf idx = some x →
        (d.en = false → Does (.streamDisable idx) s (fun u => ∀ y ∈ u.streams, y.idx ≠ idx)) ∧
        (∀ f, x.frame = some f → let closed : State → Prop := fun u => ∃ y ∈ u.streams, y = { x with frame := none, closed := (f.rtpTs :: x.closed).take d.nfb }
          ((if d.tmo = 0 then 2000000 else d.tmo * 10000) ≤ (s.time - f.lastAt).toNat → Does (.frameTimeout idx) s closed) ∧
          (∀ t, f.closeAt = some t → t.toNat ≤ s.time.toNat → Does (.mergeWindowClose idx) s closed)))) ∧
    (∀ p x, s.matching p = some x → let d := s.desc x.idx
      let prot := s.protOf d.ctx
      (∀ f r pa, d.kind = 0 → d.packetOk p = true → x.dup d p = false → x.skip ≠ some p.rtpTs → x.frame = some f → f.rtpTs = p.rtpTs → f.closeAt = none →
        p.marker = false → p.srds = [r] → r.field = false → d.lctr = 0 → s.fq = [] →
        let va : Word := BitVec.ofNat 64 (d.fbase.toNat + f.n.toNat % d.nfb * d.fstride.toNat + r.row.toNat * d.lstride + r.off.toNat / d.ppg * d.pgsize)
        rangePieces va r.bytes.length = [(va, r.bytes.length)] → engPlace s prot true 1 va = .ok (.hbm pa) → s.markUsed prot va true = s →
        (∀ k, k < r.bytes.length → ∀ j, j < 8 → (pa + k) / 256 ≠ (s.descAt x.idx + 96 + j) / 256) → Does (.streamPacket p) s (fun u =>
          u.Holds pa r.bytes ∧ ∃ y ∈ u.streams, y.idx = x.idx ∧ ∃ g, y.frame = some g ∧ g.pkts = f.pkts + 1 ∧ g.lastAt = p.first ∧ g.n = f.n)) ∧
      (∀ pa, d.kind ≠ 0 → x.dup d p = false → (d.fclosed - d.fcons).toNat < d.height → d.path p = some 0 → d.fctr = 0 → s.fq = [] →
        let va : Word := BitVec.ofNat 64 (d.fbase.toNat + d.fclosed.toNat % d.height * d.lstride)
        let data := if d.kind = 1 then p.bytes else p.whole
        let entry := leBytes 8 p.first.toNat ++ leBytes 4 p.rtpTs.toNat ++ leBytes 2 (p.extSeq.toNat % 65536) ++ leBytes 2 (data.length % 65536) ++ List.replicate 48 0 ++
          data.take (d.lstride - 64)
        rangePieces va entry.length = [(va, entry.length)] → engPlace s prot true 1 va = .ok (.hbm pa) → s.markUsed prot va true = s →
        (∀ k, k < entry.length → ∀ j, j < 16 → (pa + k) / 256 ≠ (s.descAt x.idx + 88 + j) / 256) → Does (.rawStreamPacket p) s (fun u => u.Holds pa entry))) ∧
    -- scans
    (∀ die, let d := s.die die
      ((∀ r ∈ s.invs, r.drained = false) → (∀ k, k < 192 → (s.core ⟨die, BitVec.ofNat 8 k⟩).wantScan = false) → d.scanSlot < 192 →
        (s.core ⟨die, BitVec.ofNat 8 d.scanSlot⟩).retired = false → d.scanning = none → Does (.scanSlot die) s (fun u =>
          u.die die = { d with scanning := some (BitVec.ofNat 8 d.scanSlot), scanSlot := (d.scanSlot + 1) % 192, slotAt := s.time } ∧
          (u.core ⟨die, BitVec.ofNat 8 d.scanSlot⟩).drain = true)) ∧
      (∀ c, d.scanning = some c → s.vacant ⟨die, c⟩ = false → 10000 ≤ (s.time - d.slotAt).toNat → Does (.scanDrainTimeout die) s (fun u =>
        u.die die = { d with scanning := none } ∧ u.core ⟨die, c⟩ = { s.core ⟨die, c⟩ with drain := false, wantScan := true }))) ∧
    (∀ c, let k := s.core c
      let ended : State → Prop := fun u => (u.core c).unconf = [] ∧ (u.core c).ran = [] ∧ (u.core c).drain = false ∧ (u.core c).scanned = s.time ∧ (u.die c.die).scanning = none
      (s.underTest c = true →
        Does (.scanPass c) s (fun u => ended u ∧ (u.die c.die).stats.scanpass = (s.die c.die).stats.scanpass + 1 ∧
          ∀ ph ∈ k.unconf, ∀ x, ph ≠ 0 → nmPkg ph = s.pkg → s.promise ph = some x → u.promise ph = some { x with conf := true }) ∧
        (k.ran = [] → (∀ ph ∈ k.unconf, ph ≠ 0 ∧ nmPkg ph ≠ s.pkg) → ∀ unit, Does (.scanFail c unit) s (fun u => ended u ∧ (u.core c).retired = true ∧
          (u.die c.die).stats.scanfail = (s.die c.die).stats.scanfail + 1 ∧ ∀ ph ∈ k.unconf, s.Emits u 7 (nmPkg ph) (nmDie ph) (.prm (.hbrk ph 4))))) ∧
      (k.retired = false → k.late = false → 10000000 < (s.time - k.scanned).toNat → Does (.scanlate c) s (fun u => (u.core c).late = true ∧
        (u.regs.hqprod = s.regs.hqprod + 1 ∨ u.regs.hqlost = s.regs.hqlost + 1)))) ∧
    -- errors
    (∀ pa, let die : BitVec 2 := BitVec.ofNat 2 (pa / 2 ^ 37)
      let d := s.die die
      (let fixed : State → Prop := fun u => u = s.setDie die { d with stats := { d.stats with cehbm := d.stats.cehbm + 1 }, rowFix := [(Config.hbmRow pa, s.time)] };
        d.rowFix = [] → Does (.correctableError (.hbm pa)) s fixed ∧ ∀ n, 1 ≤ n → n ≤ 2 → Does (.patrolScrub pa n) s fixed) ∧
      (∀ t1 t2 t3, d.rowFix = [(Config.hbmRow pa, t1), (Config.hbmRow pa, t2), (Config.hbmRow pa, t3)] → s.flash.keys ≠ none → s.flash.repairs.length < 2048 →
        (∀ t ∈ [t1, t2, t3], (s.time - t).toNat < 86400000000000) → Does (.correctableError (.hbm pa)) s (fun u =>
          u.flash.repairs = s.flash.repairs ++ [⟨3, die, 255, (Config.hbmRow pa).setWidth 64, s.time⟩])) ∧
      (let lost : State → Prop := fun u => ∀ k, k < 4 → pa / 32 * 32 + 8 * k ∈ u.poison;
        Does (.uncorrectableError (.hbm pa)) s (fun u => lost u ∧ u.mem = s.mem ∧ (u.die die).stats.ue = d.stats.ue + 4) ∧
        (s.regs.hqbase = 0 → ∀ n, 2 < n → Does (.patrolScrub pa n) s lost)) ∧
      ∀ c, Does (.uncorrectableError (.l1 c pa)) s (fun u => pa / 8 * 8 ∈ u.poison ∧ u.mem = s.mem)) ∧
    (∀ c i j, Does (.correctableError (.coreState c i j)) s (fun u => (u.die c.die).stats.cecore = (s.die c.die).stats.cecore + 1 ∧ u.cx = s.cx ∧ u.mem = s.mem)) ∧
    -- starts
    (∀ t ks, s.flash.keys = some ks → t.alarm = none → t.badWays = [] → t.badCores = [] → t.deadLinks = [] → t.badTag = none → s.flash.repairs = [] → s.flash.record.repairs = [] →
      let bad : Nat := (if s.flash.cfail = 3 then 0 else s.flash.cfail.toNat) + 1
      Does (.coldStart t) s (fun u => u.mem = [] ∧ (∀ c ∈ u.allCtxs, c.status = .free) ∧ u.launches = [] ∧
        if t.selfTest = true ∧ t.pufOk = true ∧ t.hbmOk = true ∧ s.flash.firmwareOk = true ∧ recordOk s.flash.record = true then
          u.regs.state = 1 ∧ u.regs.step = 11 ∧ u.regs.warm = false ∧ u.keys = ks.map (·.1) ∧ u.flash.cfail = 0 ∧ u.flash.wfail = 0
        else u.regs.state = (if bad = 3 then 3 else 0) ∧ u.regs.fstep = u.regs.step ∧ u.flash.cfail = BitVec.ofNat 2 bad) ∧
      (s.regs.state ≠ 3 → s.dirty = [] → (∀ d, (s.die d).mig = none) → Does (.warmStart .watchdog t) s (fun u =>
        (∀ c ∈ u.allCtxs, c.status = .free) ∧ u.launches = [] ∧ u.regs.warm = true ∧ u.regs.ctxtab = s.regs.ctxtab ∧ u.ctrs = s.ctrs ∧ u.objs = s.objs ∧
        if t.selfTest = true ∧ s.flash.firmwareOk = true then u.regs.state = 1 ∧ u.regs.step = 11 ∧ u.flash.wfail = 0
        else u.regs.state = 0 ∧ u.regs.fstep = u.regs.step ∧ u.flash.wfail = BitVec.ofNat 2 (min 3 (s.flash.wfail.toNat + 1))))) ∧
    (∀ t trig v, t.alarm = some (1, trig, v) → let act := s.flash.record.policy.toNat / 4 ^ trig.toNat % 4
      (act = 1 ∨ act = 2) → Does (.coldStart t) s (fun u => u.regs.state = (if act = 2 then 4 else 2) ∧ u.regs.step = 1 ∧ u.launches = [])) ∧
    (s.regs.state = 3 → (∀ c t, Does (.warmStart c t) s (fun u => u = s)) ∧
      (∀ r, Does (.flashImageWrite (.record r)) s (fun u => u.flash.record = if recordOk r = true then r else s.flash.record)) ∧
      ∀ i, Does (.flashImageWrite (.device i)) s (fun u => u.flash.firmware = if imageOk s.flash.record i = true then i else s.flash.firmware)) ∧
    -- keys, quotes, alarms, power
    (∀ r ks, s.flash.keys = some ks → Does (.keySlotRequest r) s (fun u =>
      if Config.wrapValid r.wrapped = true then
        u.keys = ((ks.filter (fun k => k.1 ≠ r.slot)).map (·.1)) ++ (if r.install = true then [r.slot] else []) ∧ u.keyId r.slot = s.keyId r.slot + 256
      else u = s)) ∧
    (∀ l, Does (.wrappedKeyRecordProvision l) s (fun u => u = { s with flash := { s.flash with keys := some (l.map (fun k => (k, []))) } })) ∧
    (Does .attestationGo s (fun u => let refused := s.regs.qgo = true ∨ s.regs.state = 3 ∨ s.regs.state = 4 ∨ 2 ^ 20 ≤ s.flash.leaf
      (refused → u.regs.qstat = 3 ∧ u.flash = s.flash) ∧ (¬ refused → u.regs.qstat = 1 ∧ u.regs.qgo = true ∧ u.flash.leaf = s.flash.leaf + 1))) ∧
    (s.regs.qgo = true → s.tagged 1034 = false → gpaPkg s.regs.qaddr = s.pkg → s.fq = [] → s.streams = [] → Does .quoteComplete s (fun u =>
      u.regs.qstat = 2 ∧ u.regs.qgo = false ∧ u.Holds (s.regs.qaddr.toNat % 2 ^ 46)
        ((List.range 8).flatMap (fun i => leBytes 32 (s.mr.toList.getD i 0).toNat) ++ leBytes 32 s.regs.nonce.toNat))) ∧
    (∀ trig v, let act := s.flash.record.policy.toNat / 4 ^ trig.toNat % 4
      Does (.alarm trig v) s (fun u => u.regs.alarms.getLsbD trig.toNat = true ∧
        (act = 2 → u.keys = [] ∧ u.flash.keys = none ∧ u.regs.state = 4) ∧
        (act = 1 → s.regs.state ≠ 3 → s.regs.state ≠ 4 → u.regs.state = 2) ∧ (act = 0 → u.regs.state = s.regs.state ∧ u.keys = s.keys))) ∧
    (∀ w hot, let cap : Nat := if s.regs.powcap = 0 then 2400 else max 600 s.regs.powcap.toNat
      Does (.powerThrottle w hot) s (fun u => u = { s with throttle := u.throttle } ∧
        ((cap < w ∨ hot = true) → 1 ≤ u.throttle ∧ u.throttle ≤ 15) ∧ (w ≤ cap → hot = false → u.throttle = 0)))
end

