-- ==== Sys2Proof/Laws/Issue.lean ====
section
/-! SUPPORT. What the shared operations of issue and retirement do, said once: a claim about an instruction cites these and
never unfolds `issueWith`, `retire` or `finish`. -/

namespace Sys2Proof.Machine

/-- An instruction that executes: its effect, then retirement. -/
theorem issueWith_executes {m : Mods} {k : Kind} {s : State} (h : s.Executes m k) (len : Nat) (body off : State → Done) :
    issueWith m len k body off s = retireOne (m.sw || k.ends) len (body s) := by
  obtain ⟨-, hs, ho, hq⟩ := h
  simp [issueWith, issueOne, hs, ho, hq]

theorem issue_executes {m : Mods} {k : Kind} {s : State} (h : s.Executes m k) (len : Nat) (body : State → Done) :
    issue m len k s body = retireOne (m.sw || k.ends) len (body s) := issueWith_executes h len body .fall

/-- A guarded-off instruction: what it does when it is guarded off, then retirement (R66). -/
theorem issueWith_guardedOff {m : Mods} {k : Kind} {s : State} (h : s.GuardedOff m k) (len : Nat) (body off : State → Done) :
    issueWith m len k body off s = retireOne m.sw len (off s) := by
  obtain ⟨-, hs, ho, hq⟩ := h
  simp [issueWith, issueOne, hs, ho, hq]

theorem issue_guardedOff {m : Mods} {k : Kind} {s : State} (h : s.GuardedOff m k) (len : Nat) (body : State → Done) :
    issue m len k s body = .next (s.retire len m.sw) := by
  rw [issue, issueWith_guardedOff h]; rfl

/-- R67: a context that owes posted counts parks before the instruction. -/
theorem issueWith_owes {m : Mods} {k : Kind} {s : State} (hg : s.cx.inGang = false) (hs : s.splits m k = false)
    (ho : s.cx.owes m.wt = true) (len : Nat) (body off : State → Done) :
    issueWith m len k body off s =
      .next { s.counted with cx := { s.cx with status := .posted (m.wt.getLsbD 0) (m.wt.getLsbD 1) } } := by
  simp [issueWith, issueOne, hg, hs, ho]

/-- R67 step 1: the run ends before the instruction. -/
theorem issueWith_splits {m : Mods} {k : Kind} {s : State} (hg : s.cx.inGang = false) (hs : s.splits m k = true)
    (len : Nat) (body off : State → Done) : issueWith m len k body off s = .next (s.counted.endBefore m k) := by
  simp [issueWith, issueOne, hg, hs]

theorem finish_eq (u : State) (sw : Bool) :
    u.finish sw = { u with time := u.tick.time, issued := u.issued + 1, cx := u.cx.issuedOne sw } := by
  simp [State.finish, State.counted, State.tick, Ctx.issuedOne]

theorem finish_jumped (u : State) (target : Word) (sw : Bool) : Jumped u (u.jumpTo target sw) target sw := by
  simp [Jumped, State.jumpTo, finish_eq, Ctx.issuedOne]

/-- The state after the REP bookkeeping: only four fields of the context may differ. -/
theorem repStep_eq (u : State) (next : Word) :
    u.repStep next = { u with cx := { u.cx with
      pc := (u.repStep next).cx.pc, rep := (u.repStep next).cx.rep, g := (u.repStep next).cx.g,
      landed := (u.repStep next).cx.landed } } := by
  simp only [State.repStep, State.setG]
  split <;> (try split) <;> (try split) <;> rfl

theorem toFin_ne {n : Nat} {r d : BitVec n} (h : r ≠ d) : d.toNat ≠ r.toNat := fun e => h (BitVec.eq_of_toNat_eq e.symm)

/-- R37: the registers after an F-class write. -/
theorem setG_gregs (s : State) (gd : GReg) (v : Word) (r : GReg) :
    (s.setG gd v).cx.g[r.toFin] = if r = gd ∧ gd ≠ 0 then v else s.cx.g[r.toFin] := by
  unfold State.setG
  split
  · next h => exact (if_neg fun e => e.2 h).symm
  · next h =>
    by_cases hr : r = gd
    · subst hr
      exact Eq.trans (by simp) (if_pos ⟨rfl, h⟩).symm
    · exact Eq.trans (by simp [toFin_ne hr]) (if_neg fun e => hr e.1).symm

theorem setG_sets (s : State) (gd : GReg) (v : Word) : s.SetsG gd v (s.setG gd v) := by
  refine ⟨?_, setG_gregs s gd v⟩
  unfold State.setG
  split <;> simp_all

theorem setQ_sets (s : State) (qd : QReg) (v : Bool) : s.SetsQ qd v (s.setQ qd v) := by
  constructor
  · unfold State.setQ
    split <;> simp_all
  · intro r
    unfold State.setQ
    split
    · next h => exact (if_neg fun e => e.2 h).symm
    · next h =>
      by_cases hr : r = qd
      · subst hr
        exact Eq.trans (by simp) (if_pos ⟨rfl, h⟩).symm
      · exact Eq.trans (by simp [toFin_ne hr]) (if_neg fun e => hr e.1).symm

theorem setP_sets (s : State) (pd : PReg) (v : Word) : s.SetsP pd v (s.setP pd v) := by
  refine ⟨rfl, fun r => ?_⟩
  by_cases hr : r = pd
  · simp [State.setP, hr]
  · simp [State.setP, hr, toFin_ne hr]

theorem laterG_owes (s : State) (gd : GReg) (v : Word) : s.Owes (gRes gd v) (s.laterG gd v) := by
  unfold State.Owes gRes State.laterG
  split <;> simp [State.later]
theorem laterQ_owes (s : State) (qd : QReg) (v : Bool) : s.Owes (qRes qd v) (s.laterQ qd v) := by
  unfold State.Owes qRes State.laterQ
  split <;> simp [State.later]
theorem laterM_owes (s : State) (md : MReg) (v : BitVec 32) : s.Owes (mRes md v) (s.laterM md v) := by
  unfold State.Owes mRes State.laterM
  split <;> simp [State.later]
theorem laterA_owes (s : State) (ad : AReg) (ls : BitVec 32) (v : Vector Lane 32) :
    s.Owes (s.cx.aRes ad ls v) (s.laterA ad ls v) := rfl

/-- R55: the end of a pass. -/
theorem repStep_last {u : State} {next : Word} (h : u.cx.rep.act = true) (hl : ¬ u.cx.rep.pos.toNat + 1 < u.cx.rep.len) :
    let left := u.g u.cx.rep.gn - 1
    let v := u.setG u.cx.rep.gn left
    u.repStep next = { v with cx := { v.cx with
      pc := if left = 0 then next else u.cx.rep.body
      rep := if left = 0 then Rep.none_ else { u.cx.rep with pos := 0, off := u.cx.rep.off + u.cx.rep.stride } } } := by
  intro left v
  have hp : u.cx.rep.passEnd = true := by simp [Rep.passEnd, h, hl]
  have hn : repNext u.cx next = (u.cx.rep.body, { u.cx.rep with pos := 0, off := u.cx.rep.off + u.cx.rep.stride }) := by
    simp [repNext, h, hl]
  unfold State.repStep
  simp only [hn, hp, if_true]
  by_cases h0 : left = 0
  · simp only [left] at h0
    simp only [v, left, h0, if_true]
  · simp only [left] at h0
    simp only [v, left, h0, if_false]

theorem retire_retired (u : State) (len : Nat) (sw : Bool) : Retired u (u.retire len sw) len sw := by
  have he := repStep_eq u (u.cx.pc + natWord len)
  refine ⟨?_, ?_, ?_, ?_⟩
  · rw [State.retire, finish_eq, he]
    simp [Counted, Ctx.issuedOne, State.tick]
  · intro h
    have hp : u.cx.rep.passEnd = false := by simp [Rep.passEnd, h]
    simp [State.retire, finish_eq, State.repStep, repNext, Rep.passEnd, h, Ctx.issuedOne]
  · intro h hl
    simp [State.retire, finish_eq, State.repStep, repNext, Rep.passEnd, h, hl, Ctx.issuedOne]
  · intro h hl hg
    have hone : (u.g u.cx.rep.gn - 1 = 0) ↔ (u.g u.cx.rep.gn = 1) := by
      generalize u.g u.cx.rep.gn = x
      constructor <;> intro h <;> bv_omega
    have hset := setG_gregs u u.cx.rep.gn (u.g u.cx.rep.gn - 1)
    have hland : (u.setG u.cx.rep.gn (u.g u.cx.rep.gn - 1)).cx.landed = .g u.cx.rep.gn :: u.cx.landed := by
      rw [State.setG, if_neg hg]
    rw [State.retire, finish_eq, repStep_last h hl]
    refine ⟨fun r => (hset r).trans (by simp only [hg, ne_eq, not_false_eq_true, and_true]), hland, ?_⟩
    by_cases h1 : u.g u.cx.rep.gn = 1
    · have h0 := hone.mpr h1
      simp only [Ctx.issuedOne, h0, if_true]
      rw [if_pos h1]
      exact ⟨trivial, trivial⟩
    · have h0 : u.g u.cx.rep.gn - 1 ≠ 0 := fun e => h1 (hone.mp e)
      simp only [Ctx.issuedOne, h0, h1, if_false, and_self]

/-! ## The two ways on -/

/-- An instruction whose effect falls through. -/
theorem falls_of {i : Instr} {s : State} {m : Mods} {k : Kind} {len : Nat} {body : State → Done} {E : State → Prop}
    (hi : exec i s = issue m len k s body) (h : s.Executes m k) {u : State} (hb : body s = .fall u) (hE : E u) :
    Falls i s len (m.sw || k.ends) E :=
  ⟨u, _, hE, retire_retired u len _, by rw [hi, issue_executes h, hb]; rfl⟩

/-- The same of the plain kind, which does not end its run. -/
theorem falls_plain {i : Instr} {s : State} {m : Mods} {len : Nat} {body : State → Done} {E : State → Prop}
    (hi : exec i s = issue m len .plain s body) (h : s.Executes m .plain) {u : State} (hb : body s = .fall u) (hE : E u) :
    Falls i s len m.sw E := by simpa [Kind.plain] using falls_of hi h hb hE

/-- An instruction whose check fails. -/
theorem raises_of {i : Instr} {s : State} {m : Mods} {k : Kind} {len : Nat} {body : State → Done}
    (hi : exec i s = issue m len k s body) (h : s.Executes m k) {f : FaultRec} (hb : body s = .raise f s) : Raises i s f := by
  rw [Raises, hi, issue_executes h, hb]; rfl

/-- An instruction that holds issue. -/
theorem stalls_of {i : Instr} {s : State} {m : Mods} {k : Kind} {len : Nat} {body : State → Done}
    (hi : exec i s = issue m len k s body) (h : s.Executes m k) {u : State} (hb : body s = .hold u) : Stalls i s u := by
  rw [issue_executes h, hb] at hi
  refine ⟨u.counted.block, hi, ?_⟩
  unfold State.block
  split
  · next hs => simp [State.counted, State.tick] at hs; simp [State.counted, State.tick, hs]
  · next hs => simp [State.counted, State.tick] at hs; simp [State.counted, State.tick, hs]

/-- A taken transfer. -/
theorem jumps_of {i : Instr} {s : State} {m : Mods} {k : Kind} {len : Nat} {body : State → Done} {E : State → Prop}
    (hi : exec i s = issue m len k s body) (h : s.Executes m k) {u : State} {target : Word} (hb : body s = .jump target u)
    (hE : E u) : Jumps i s target (m.sw || k.ends) E :=
  ⟨u, _, hE, finish_jumped u target _, by rw [hi, issue_executes h, hb]; rfl⟩

end Sys2Proof.Machine
end

