-- ==== Sys2Proof/Laws/State.lean ====
section
/-! SUPPORT. One lemma for each field under each update of the state, so that no later proof unfolds a record update. -/

namespace Sys2Proof.Machine

variable (s : State) (r : GReg) (pr : PReg) (qr : QReg) (mr : MReg) (ar : AReg) (v : Word) (b : Bool) (mv : BitVec 32)
  (ls : BitVec 32) (av : Vector Lane 32) (rv : RegVal) (t : Word) (sw : Bool) (k : CoreSt) (d : BitVec 2) (x : DieSt) (p : Packet) (i : Instr) (c : Ctx)

/-! ### setG -/
@[simp] theorem setG_ctxs : (s.setG r v).ctxs = s.ctxs := by unfold State.setG; split <;> rfl
@[simp] theorem setG_cores : (s.setG r v).cores = s.cores := by unfold State.setG; split <;> rfl
@[simp] theorem setG_die0 : (s.setG r v).die0 = s.die0 := by unfold State.setG; split <;> rfl
@[simp] theorem setG_die1 : (s.setG r v).die1 = s.die1 := by unfold State.setG; split <;> rfl
@[simp] theorem setG_die2 : (s.setG r v).die2 = s.die2 := by unfold State.setG; split <;> rfl
@[simp] theorem setG_die3 : (s.setG r v).die3 = s.die3 := by unfold State.setG; split <;> rfl
@[simp] theorem setG_mem : (s.setG r v).mem = s.mem := by unfold State.setG; split <;> rfl
@[simp] theorem setG_dirty : (s.setG r v).dirty = s.dirty := by unfold State.setG; split <;> rfl
@[simp] theorem setG_poison : (s.setG r v).poison = s.poison := by unfold State.setG; split <;> rfl
@[simp] theorem setG_lineKey : (s.setG r v).lineKey = s.lineKey := by unfold State.setG; split <;> rfl
@[simp] theorem setG_keyVer : (s.setG r v).keyVer = s.keyVer := by unfold State.setG; split <;> rfl
@[simp] theorem setG_ctrs : (s.setG r v).ctrs = s.ctrs := by unfold State.setG; split <;> rfl
@[simp] theorem setG_time : (s.setG r v).time = s.time := by unfold State.setG; split <;> rfl
@[simp] theorem setG_regs : (s.setG r v).regs = s.regs := by unfold State.setG; split <;> rfl
@[simp] theorem setG_pkg : (s.setG r v).pkg = s.pkg := by unfold State.setG; split <;> rfl
@[simp] theorem setG_pods : (s.setG r v).pods = s.pods := by unfold State.setG; split <;> rfl
@[simp] theorem setG_hosts : (s.setG r v).hosts = s.hosts := by unfold State.setG; split <;> rfl
@[simp] theorem setG_objs : (s.setG r v).objs = s.objs := by unfold State.setG; split <;> rfl
@[simp] theorem setG_promises : (s.setG r v).promises = s.promises := by unfold State.setG; split <;> rfl
@[simp] theorem setG_gens : (s.setG r v).gens = s.gens := by unfold State.setG; split <;> rfl
@[simp] theorem setG_invs : (s.setG r v).invs = s.invs := by unfold State.setG; split <;> rfl
@[simp] theorem setG_launches : (s.setG r v).launches = s.launches := by unfold State.setG; split <;> rfl
@[simp] theorem setG_phasers : (s.setG r v).phasers = s.phasers := by unfold State.setG; split <;> rfl
@[simp] theorem setG_entries : (s.setG r v).entries = s.entries := by unfold State.setG; split <;> rfl
@[simp] theorem setG_firings : (s.setG r v).firings = s.firings := by unfold State.setG; split <;> rfl
@[simp] theorem setG_raising : (s.setG r v).raising = s.raising := by unfold State.setG; split <;> rfl
@[simp] theorem setG_heldRaises : (s.setG r v).heldRaises = s.heldRaises := by unfold State.setG; split <;> rfl
@[simp] theorem setG_copies : (s.setG r v).copies = s.copies := by unfold State.setG; split <;> rfl
@[simp] theorem setG_rows : (s.setG r v).rows = s.rows := by unfold State.setG; split <;> rfl
@[simp] theorem setG_landRows : (s.setG r v).landRows = s.landRows := by unfold State.setG; split <;> rfl
@[simp] theorem setG_rowSeq : (s.setG r v).rowSeq = s.rowSeq := by unfold State.setG; split <;> rfl
@[simp] theorem setG_ctWaits : (s.setG r v).ctWaits = s.ctWaits := by unfold State.setG; split <;> rfl
@[simp] theorem setG_leftTiles : (s.setG r v).leftTiles = s.leftTiles := by unfold State.setG; split <;> rfl
@[simp] theorem setG_copyq : (s.setG r v).copyq = s.copyq := by unfold State.setG; split <;> rfl
@[simp] theorem setG_dlseq : (s.setG r v).dlseq = s.dlseq := by unfold State.setG; split <;> rfl
@[simp] theorem setG_colls : (s.setG r v).colls = s.colls := by unfold State.setG; split <;> rfl
@[simp] theorem setG_collNo : (s.setG r v).collNo = s.collNo := by unfold State.setG; split <;> rfl
@[simp] theorem setG_fq : (s.setG r v).fq = s.fq := by unfold State.setG; split <;> rfl
@[simp] theorem setG_rx : (s.setG r v).rx = s.rx := by unfold State.setG; split <;> rfl
@[simp] theorem setG_unacked : (s.setG r v).unacked = s.unacked := by unfold State.setG; split <;> rfl
@[simp] theorem setG_backlog : (s.setG r v).backlog = s.backlog := by unfold State.setG; split <;> rfl
@[simp] theorem setG_links : (s.setG r v).links = s.links := by unfold State.setG; split <;> rfl
@[simp] theorem setG_routeEra : (s.setG r v).routeEra = s.routeEra := by unfold State.setG; split <;> rfl
@[simp] theorem setG_downs : (s.setG r v).downs = s.downs := by unfold State.setG; split <;> rfl
@[simp] theorem setG_ports : (s.setG r v).ports = s.ports := by unfold State.setG; split <;> rfl
@[simp] theorem setG_streams : (s.setG r v).streams = s.streams := by unfold State.setG; split <;> rfl
@[simp] theorem setG_flash : (s.setG r v).flash = s.flash := by unfold State.setG; split <;> rfl
@[simp] theorem setG_mr : (s.setG r v).mr = s.mr := by unfold State.setG; split <;> rfl
@[simp] theorem setG_keys : (s.setG r v).keys = s.keys := by unfold State.setG; split <;> rfl
@[simp] theorem setG_throttle : (s.setG r v).throttle = s.throttle := by unfold State.setG; split <;> rfl
@[simp] theorem setG_reports : (s.setG r v).reports = s.reports := by unfold State.setG; split <;> rfl
@[simp] theorem setG_orphans : (s.setG r v).orphans = s.orphans := by unfold State.setG; split <;> rfl
@[simp] theorem setG_awayRuns : (s.setG r v).awayRuns = s.awayRuns := by unfold State.setG; split <;> rfl
@[simp] theorem setG_awayRegions : (s.setG r v).awayRegions = s.awayRegions := by unfold State.setG; split <;> rfl
@[simp] theorem setG_owing : (s.setG r v).owing = s.owing := by unfold State.setG; split <;> rfl
@[simp] theorem setG_flushes : (s.setG r v).flushes = s.flushes := by unfold State.setG; split <;> rfl
@[simp] theorem setG_heldWrites : (s.setG r v).heldWrites = s.heldWrites := by unfold State.setG; split <;> rfl
@[simp] theorem setG_lateRaises : (s.setG r v).lateRaises = s.lateRaises := by unfold State.setG; split <;> rfl
@[simp] theorem setG_net : (s.setG r v).net = s.net := by unfold State.setG; split <;> rfl
@[simp] theorem setG_outbox : (s.setG r v).outbox = s.outbox := by unfold State.setG; split <;> rfl
@[simp] theorem setG_txFrames : (s.setG r v).txFrames = s.txFrames := by unfold State.setG; split <;> rfl
@[simp] theorem setG_agenda : (s.setG r v).agenda = s.agenda := by unfold State.setG; split <;> rfl
@[simp] theorem setG_issued : (s.setG r v).issued = s.issued := by unfold State.setG; split <;> rfl
@[simp] theorem setG_fresh : (s.setG r v).fresh = s.fresh := by unfold State.setG; split <;> rfl
@[simp] theorem setG_cx_id : (s.setG r v).cx.id = s.cx.id := by unfold State.setG; split <;> rfl
@[simp] theorem setG_cx_status : (s.setG r v).cx.status = s.cx.status := by unfold State.setG; split <;> rfl
@[simp] theorem setG_cx_pc : (s.setG r v).cx.pc = s.cx.pc := by unfold State.setG; split <;> rfl
@[simp] theorem setG_cx_p : (s.setG r v).cx.p = s.cx.p := by unfold State.setG; split <;> rfl
@[simp] theorem setG_cx_a : (s.setG r v).cx.a = s.cx.a := by unfold State.setG; split <;> rfl
@[simp] theorem setG_cx_m : (s.setG r v).cx.m = s.cx.m := by unfold State.setG; split <;> rfl
@[simp] theorem setG_cx_q : (s.setG r v).cx.q = s.cx.q := by unfold State.setG; split <;> rfl
@[simp] theorem setG_cx_t : (s.setG r v).cx.t = s.cx.t := by unfold State.setG; split <;> rfl
@[simp] theorem setG_cx_x : (s.setG r v).cx.x = s.cx.x := by unfold State.setG; split <;> rfl
@[simp] theorem setG_cx_sums : (s.setG r v).cx.sums = s.cx.sums := by unfold State.setG; split <;> rfl
@[simp] theorem setG_cx_sumBad : (s.setG r v).cx.sumBad = s.cx.sumBad := by unfold State.setG; split <;> rfl
@[simp] theorem setG_cx_rep : (s.setG r v).cx.rep = s.cx.rep := by unfold State.setG; split <;> rfl
@[simp] theorem setG_cx_gen : (s.setG r v).cx.gen = s.cx.gen := by unfold State.setG; split <;> rfl
@[simp] theorem setG_cx_seed : (s.setG r v).cx.seed = s.cx.seed := by unfold State.setG; split <;> rfl
@[simp] theorem setG_cx_lnum : (s.setG r v).cx.lnum = s.cx.lnum := by unfold State.setG; split <;> rfl
@[simp] theorem setG_cx_fltva : (s.setG r v).cx.fltva = s.cx.fltva := by unfold State.setG; split <;> rfl
@[simp] theorem setG_cx_fltinfo : (s.setG r v).cx.fltinfo = s.cx.fltinfo := by unfold State.setG; split <;> rfl
@[simp] theorem setG_cx_region : (s.setG r v).cx.region = s.cx.region := by unfold State.setG; split <;> rfl
@[simp] theorem setG_cx_deadline : (s.setG r v).cx.deadline = s.cx.deadline := by unfold State.setG; split <;> rfl
@[simp] theorem setG_cx_prio : (s.setG r v).cx.prio = s.cx.prio := by unfold State.setG; split <;> rfl
@[simp] theorem setG_cx_rmode : (s.setG r v).cx.rmode = s.cx.rmode := by unfold State.setG; split <;> rfl
@[simp] theorem setG_cx_atmode : (s.setG r v).cx.atmode = s.cx.atmode := by unfold State.setG; split <;> rfl
@[simp] theorem setG_cx_priv : (s.setG r v).cx.priv = s.cx.priv := by unfold State.setG; split <;> rfl
@[simp] theorem setG_cx_gang : (s.setG r v).cx.gang = s.cx.gang := by unfold State.setG; split <;> rfl
@[simp] theorem setG_cx_gidx : (s.setG r v).cx.gidx = s.cx.gidx := by unfold State.setG; split <;> rfl
@[simp] theorem setG_cx_late : (s.setG r v).cx.late = s.cx.late := by unfold State.setG; split <;> rfl
@[simp] theorem setG_cx_alog : (s.setG r v).cx.alog = s.cx.alog := by unfold State.setG; split <;> rfl
@[simp] theorem setG_cx_sepc : (s.setG r v).cx.sepc = s.cx.sepc := by unfold State.setG; split <;> rfl
@[simp] theorem setG_cx_spriv : (s.setG r v).cx.spriv = s.cx.spriv := by unfold State.setG; split <;> rfl
@[simp] theorem setG_cx_snum : (s.setG r v).cx.snum = s.cx.snum := by unfold State.setG; split <;> rfl
@[simp] theorem setG_cx_sscr : (s.setG r v).cx.sscr = s.cx.sscr := by unfold State.setG; split <;> rfl
@[simp] theorem setG_cx_pctx : (s.setG r v).cx.pctx = s.cx.pctx := by unfold State.setG; split <;> rfl
@[simp] theorem setG_cx_pceil : (s.setG r v).cx.pceil = s.cx.pceil := by unfold State.setG; split <;> rfl
@[simp] theorem setG_cx_dbgen : (s.setG r v).cx.dbgen = s.cx.dbgen := by unfold State.setG; split <;> rfl
@[simp] theorem setG_cx_prot : (s.setG r v).cx.prot = s.cx.prot := by unfold State.setG; split <;> rfl
@[simp] theorem setG_cx_pend : (s.setG r v).cx.pend = s.cx.pend := by unfold State.setG; split <;> rfl
@[simp] theorem setG_cx_runLen : (s.setG r v).cx.runLen = s.cx.runLen := by unfold State.setG; split <;> rfl
@[simp] theorem setG_cx_fault : (s.setG r v).cx.fault = s.cx.fault := by unfold State.setG; split <;> rfl
@[simp] theorem setG_cx_errs : (s.setG r v).cx.errs = s.cx.errs := by unfold State.setG; split <;> rfl
@[simp] theorem setG_cx_rgfail : (s.setG r v).cx.rgfail = s.cx.rgfail := by unfold State.setG; split <;> rfl
@[simp] theorem setG_cx_got : (s.setG r v).cx.got = s.cx.got := by unfold State.setG; split <;> rfl
@[simp] theorem setG_cx_code : (s.setG r v).cx.code = s.cx.code := by unfold State.setG; split <;> rfl
@[simp] theorem setG_cx_poll : (s.setG r v).cx.poll = s.cx.poll := by unfold State.setG; split <;> rfl
@[simp] theorem setG_cx_thawed : (s.setG r v).cx.thawed = s.cx.thawed := by unfold State.setG; split <;> rfl
@[simp] theorem setG_cx_toldHalt : (s.setG r v).cx.toldHalt = s.cx.toldHalt := by unfold State.setG; split <;> rfl
@[simp] theorem setG_cx_joined : (s.setG r v).cx.joined = s.cx.joined := by unfold State.setG; split <;> rfl
@[simp] theorem setG_cx_rem : (s.setG r v).cx.rem = s.cx.rem := by unfold State.setG; split <;> rfl
@[simp] theorem setG_cx_wrote : (s.setG r v).cx.wrote = s.cx.wrote := by unfold State.setG; split <;> rfl
@[simp] theorem setG_cx_mbox : (s.setG r v).cx.mbox = s.cx.mbox := by unfold State.setG; split <;> rfl
@[simp] theorem setG_cx_lists : (s.setG r v).cx.lists = s.cx.lists := by unfold State.setG; split <;> rfl
@[simp] theorem setG_cx_flushes : (s.setG r v).cx.flushes = s.cx.flushes := by unfold State.setG; split <;> rfl
@[simp] theorem setG_cx_opened : (s.setG r v).cx.opened = s.cx.opened := by unfold State.setG; split <;> rfl
@[simp] theorem setG_cx_invks : (s.setG r v).cx.invks = s.cx.invks := by unfold State.setG; split <;> rfl
@[simp] theorem setG_cx_run : (s.setG r v).cx.run = s.cx.run := by unfold State.setG; split <;> rfl
@[simp] theorem setG_cx_gdone : (s.setG r v).cx.gdone = s.cx.gdone := by unfold State.setG; split <;> rfl
@[simp] theorem setG_cx_arrived : (s.setG r v).cx.arrived = s.cx.arrived := by unfold State.setG; split <;> rfl
@[simp] theorem setG_cx_firm : (s.setG r v).cx.firm = s.cx.firm := by unfold State.setG; split <;> rfl
@[simp] theorem setG_cx_haltReq : (s.setG r v).cx.haltReq = s.cx.haltReq := by unfold State.setG; split <;> rfl
@[simp] theorem setG_cx_yielded : (s.setG r v).cx.yielded = s.cx.yielded := by unfold State.setG; split <;> rfl
@[simp] theorem setG_cx_victim : (s.setG r v).cx.victim = s.cx.victim := by unfold State.setG; split <;> rfl
@[simp] theorem setG_cx_unpin : (s.setG r v).cx.unpin = s.cx.unpin := by unfold State.setG; split <;> rfl

/-! ### setQ -/
@[simp] theorem setQ_ctxs : (s.setQ qr b).ctxs = s.ctxs := by unfold State.setQ; split <;> rfl
@[simp] theorem setQ_cores : (s.setQ qr b).cores = s.cores := by unfold State.setQ; split <;> rfl
@[simp] theorem setQ_die0 : (s.setQ qr b).die0 = s.die0 := by unfold State.setQ; split <;> rfl
@[simp] theorem setQ_die1 : (s.setQ qr b).die1 = s.die1 := by unfold State.setQ; split <;> rfl
@[simp] theorem setQ_die2 : (s.setQ qr b).die2 = s.die2 := by unfold State.setQ; split <;> rfl
@[simp] theorem setQ_die3 : (s.setQ qr b).die3 = s.die3 := by unfold State.setQ; split <;> rfl
@[simp] theorem setQ_mem : (s.setQ qr b).mem = s.mem := by unfold State.setQ; split <;> rfl
@[simp] theorem setQ_dirty : (s.setQ qr b).dirty = s.dirty := by unfold State.setQ; split <;> rfl
@[simp] theorem setQ_poison : (s.setQ qr b).poison = s.poison := by unfold State.setQ; split <;> rfl
@[simp] theorem setQ_lineKey : (s.setQ qr b).lineKey = s.lineKey := by unfold State.setQ; split <;> rfl
@[simp] theorem setQ_keyVer : (s.setQ qr b).keyVer = s.keyVer := by unfold State.setQ; split <;> rfl
@[simp] theorem setQ_ctrs : (s.setQ qr b).ctrs = s.ctrs := by unfold State.setQ; split <;> rfl
@[simp] theorem setQ_time : (s.setQ qr b).time = s.time := by unfold State.setQ; split <;> rfl
@[simp] theorem setQ_regs : (s.setQ qr b).regs = s.regs := by unfold State.setQ; split <;> rfl
@[simp] theorem setQ_pkg : (s.setQ qr b).pkg = s.pkg := by unfold State.setQ; split <;> rfl
@[simp] theorem setQ_pods : (s.setQ qr b).pods = s.pods := by unfold State.setQ; split <;> rfl
@[simp] theorem setQ_hosts : (s.setQ qr b).hosts = s.hosts := by unfold State.setQ; split <;> rfl
@[simp] theorem setQ_objs : (s.setQ qr b).objs = s.objs := by unfold State.setQ; split <;> rfl
@[simp] theorem setQ_promises : (s.setQ qr b).promises = s.promises := by unfold State.setQ; split <;> rfl
@[simp] theorem setQ_gens : (s.setQ qr b).gens = s.gens := by unfold State.setQ; split <;> rfl
@[simp] theorem setQ_invs : (s.setQ qr b).invs = s.invs := by unfold State.setQ; split <;> rfl
@[simp] theorem setQ_launches : (s.setQ qr b).launches = s.launches := by unfold State.setQ; split <;> rfl
@[simp] theorem setQ_phasers : (s.setQ qr b).phasers = s.phasers := by unfold State.setQ; split <;> rfl
@[simp] theorem setQ_entries : (s.setQ qr b).entries = s.entries := by unfold State.setQ; split <;> rfl
@[simp] theorem setQ_firings : (s.setQ qr b).firings = s.firings := by unfold State.setQ; split <;> rfl
@[simp] theorem setQ_raising : (s.setQ qr b).raising = s.raising := by unfold State.setQ; split <;> rfl
@[simp] theorem setQ_heldRaises : (s.setQ qr b).heldRaises = s.heldRaises := by unfold State.setQ; split <;> rfl
@[simp] theorem setQ_copies : (s.setQ qr b).copies = s.copies := by unfold State.setQ; split <;> rfl
@[simp] theorem setQ_rows : (s.setQ qr b).rows = s.rows := by unfold State.setQ; split <;> rfl
@[simp] theorem setQ_landRows : (s.setQ qr b).landRows = s.landRows := by unfold State.setQ; split <;> rfl
@[simp] theorem setQ_rowSeq : (s.setQ qr b).rowSeq = s.rowSeq := by unfold State.setQ; split <;> rfl
@[simp] theorem setQ_ctWaits : (s.setQ qr b).ctWaits = s.ctWaits := by unfold State.setQ; split <;> rfl
@[simp] theorem setQ_leftTiles : (s.setQ qr b).leftTiles = s.leftTiles := by unfold State.setQ; split <;> rfl
@[simp] theorem setQ_copyq : (s.setQ qr b).copyq = s.copyq := by unfold State.setQ; split <;> rfl
@[simp] theorem setQ_dlseq : (s.setQ qr b).dlseq = s.dlseq := by unfold State.setQ; split <;> rfl
@[simp] theorem setQ_colls : (s.setQ qr b).colls = s.colls := by unfold State.setQ; split <;> rfl
@[simp] theorem setQ_collNo : (s.setQ qr b).collNo = s.collNo := by unfold State.setQ; split <;> rfl
@[simp] theorem setQ_fq : (s.setQ qr b).fq = s.fq := by unfold State.setQ; split <;> rfl
@[simp] theorem setQ_rx : (s.setQ qr b).rx = s.rx := by unfold State.setQ; split <;> rfl
@[simp] theorem setQ_unacked : (s.setQ qr b).unacked = s.unacked := by unfold State.setQ; split <;> rfl
@[simp] theorem setQ_backlog : (s.setQ qr b).backlog = s.backlog := by unfold State.setQ; split <;> rfl
@[simp] theorem setQ_links : (s.setQ qr b).links = s.links := by unfold State.setQ; split <;> rfl
@[simp] theorem setQ_routeEra : (s.setQ qr b).routeEra = s.routeEra := by unfold State.setQ; split <;> rfl
@[simp] theorem setQ_downs : (s.setQ qr b).downs = s.downs := by unfold State.setQ; split <;> rfl
@[simp] theorem setQ_ports : (s.setQ qr b).ports = s.ports := by unfold State.setQ; split <;> rfl
@[simp] theorem setQ_streams : (s.setQ qr b).streams = s.streams := by unfold State.setQ; split <;> rfl
@[simp] theorem setQ_flash : (s.setQ qr b).flash = s.flash := by unfold State.setQ; split <;> rfl
@[simp] theorem setQ_mr : (s.setQ qr b).mr = s.mr := by unfold State.setQ; split <;> rfl
@[simp] theorem setQ_keys : (s.setQ qr b).keys = s.keys := by unfold State.setQ; split <;> rfl
@[simp] theorem setQ_throttle : (s.setQ qr b).throttle = s.throttle := by unfold State.setQ; split <;> rfl
@[simp] theorem setQ_reports : (s.setQ qr b).reports = s.reports := by unfold State.setQ; split <;> rfl
@[simp] theorem setQ_orphans : (s.setQ qr b).orphans = s.orphans := by unfold State.setQ; split <;> rfl
@[simp] theorem setQ_awayRuns : (s.setQ qr b).awayRuns = s.awayRuns := by unfold State.setQ; split <;> rfl
@[simp] theorem setQ_awayRegions : (s.setQ qr b).awayRegions = s.awayRegions := by unfold State.setQ; split <;> rfl
@[simp] theorem setQ_owing : (s.setQ qr b).owing = s.owing := by unfold State.setQ; split <;> rfl
@[simp] theorem setQ_flushes : (s.setQ qr b).flushes = s.flushes := by unfold State.setQ; split <;> rfl
@[simp] theorem setQ_heldWrites : (s.setQ qr b).heldWrites = s.heldWrites := by unfold State.setQ; split <;> rfl
@[simp] theorem setQ_lateRaises : (s.setQ qr b).lateRaises = s.lateRaises := by unfold State.setQ; split <;> rfl
@[simp] theorem setQ_net : (s.setQ qr b).net = s.net := by unfold State.setQ; split <;> rfl
@[simp] theorem setQ_outbox : (s.setQ qr b).outbox = s.outbox := by unfold State.setQ; split <;> rfl
@[simp] theorem setQ_txFrames : (s.setQ qr b).txFrames = s.txFrames := by unfold State.setQ; split <;> rfl
@[simp] theorem setQ_agenda : (s.setQ qr b).agenda = s.agenda := by unfold State.setQ; split <;> rfl
@[simp] theorem setQ_issued : (s.setQ qr b).issued = s.issued := by unfold State.setQ; split <;> rfl
@[simp] theorem setQ_fresh : (s.setQ qr b).fresh = s.fresh := by unfold State.setQ; split <;> rfl
@[simp] theorem setQ_cx_id : (s.setQ qr b).cx.id = s.cx.id := by unfold State.setQ; split <;> rfl
@[simp] theorem setQ_cx_status : (s.setQ qr b).cx.status = s.cx.status := by unfold State.setQ; split <;> rfl
@[simp] theorem setQ_cx_pc : (s.setQ qr b).cx.pc = s.cx.pc := by unfold State.setQ; split <;> rfl
@[simp] theorem setQ_cx_g : (s.setQ qr b).cx.g = s.cx.g := by unfold State.setQ; split <;> rfl
@[simp] theorem setQ_cx_p : (s.setQ qr b).cx.p = s.cx.p := by unfold State.setQ; split <;> rfl
@[simp] theorem setQ_cx_a : (s.setQ qr b).cx.a = s.cx.a := by unfold State.setQ; split <;> rfl
@[simp] theorem setQ_cx_m : (s.setQ qr b).cx.m = s.cx.m := by unfold State.setQ; split <;> rfl
@[simp] theorem setQ_cx_t : (s.setQ qr b).cx.t = s.cx.t := by unfold State.setQ; split <;> rfl
@[simp] theorem setQ_cx_x : (s.setQ qr b).cx.x = s.cx.x := by unfold State.setQ; split <;> rfl
@[simp] theorem setQ_cx_sums : (s.setQ qr b).cx.sums = s.cx.sums := by unfold State.setQ; split <;> rfl
@[simp] theorem setQ_cx_sumBad : (s.setQ qr b).cx.sumBad = s.cx.sumBad := by unfold State.setQ; split <;> rfl
@[simp] theorem setQ_cx_rep : (s.setQ qr b).cx.rep = s.cx.rep := by unfold State.setQ; split <;> rfl
@[simp] theorem setQ_cx_gen : (s.setQ qr b).cx.gen = s.cx.gen := by unfold State.setQ; split <;> rfl
@[simp] theorem setQ_cx_seed : (s.setQ qr b).cx.seed = s.cx.seed := by unfold State.setQ; split <;> rfl
@[simp] theorem setQ_cx_lnum : (s.setQ qr b).cx.lnum = s.cx.lnum := by unfold State.setQ; split <;> rfl
@[simp] theorem setQ_cx_fltva : (s.setQ qr b).cx.fltva = s.cx.fltva := by unfold State.setQ; split <;> rfl
@[simp] theorem setQ_cx_fltinfo : (s.setQ qr b).cx.fltinfo = s.cx.fltinfo := by unfold State.setQ; split <;> rfl
@[simp] theorem setQ_cx_region : (s.setQ qr b).cx.region = s.cx.region := by unfold State.setQ; split <;> rfl
@[simp] theorem setQ_cx_deadline : (s.setQ qr b).cx.deadline = s.cx.deadline := by unfold State.setQ; split <;> rfl
@[simp] theorem setQ_cx_prio : (s.setQ qr b).cx.prio = s.cx.prio := by unfold State.setQ; split <;> rfl
@[simp] theorem setQ_cx_rmode : (s.setQ qr b).cx.rmode = s.cx.rmode := by unfold State.setQ; split <;> rfl
@[simp] theorem setQ_cx_atmode : (s.setQ qr b).cx.atmode = s.cx.atmode := by unfold State.setQ; split <;> rfl
@[simp] theorem setQ_cx_priv : (s.setQ qr b).cx.priv = s.cx.priv := by unfold State.setQ; split <;> rfl
@[simp] theorem setQ_cx_gang : (s.setQ qr b).cx.gang = s.cx.gang := by unfold State.setQ; split <;> rfl
@[simp] theorem setQ_cx_gidx : (s.setQ qr b).cx.gidx = s.cx.gidx := by unfold State.setQ; split <;> rfl
@[simp] theorem setQ_cx_late : (s.setQ qr b).cx.late = s.cx.late := by unfold State.setQ; split <;> rfl
@[simp] theorem setQ_cx_alog : (s.setQ qr b).cx.alog = s.cx.alog := by unfold State.setQ; split <;> rfl
@[simp] theorem setQ_cx_sepc : (s.setQ qr b).cx.sepc = s.cx.sepc := by unfold State.setQ; split <;> rfl
@[simp] theorem setQ_cx_spriv : (s.setQ qr b).cx.spriv = s.cx.spriv := by unfold State.setQ; split <;> rfl
@[simp] theorem setQ_cx_snum : (s.setQ qr b).cx.snum = s.cx.snum := by unfold State.setQ; split <;> rfl
@[simp] theorem setQ_cx_sscr : (s.setQ qr b).cx.sscr = s.cx.sscr := by unfold State.setQ; split <;> rfl
@[simp] theorem setQ_cx_pctx : (s.setQ qr b).cx.pctx = s.cx.pctx := by unfold State.setQ; split <;> rfl
@[simp] theorem setQ_cx_pceil : (s.setQ qr b).cx.pceil = s.cx.pceil := by unfold State.setQ; split <;> rfl
@[simp] theorem setQ_cx_dbgen : (s.setQ qr b).cx.dbgen = s.cx.dbgen := by unfold State.setQ; split <;> rfl
@[simp] theorem setQ_cx_prot : (s.setQ qr b).cx.prot = s.cx.prot := by unfold State.setQ; split <;> rfl
@[simp] theorem setQ_cx_pend : (s.setQ qr b).cx.pend = s.cx.pend := by unfold State.setQ; split <;> rfl
@[simp] theorem setQ_cx_runLen : (s.setQ qr b).cx.runLen = s.cx.runLen := by unfold State.setQ; split <;> rfl
@[simp] theorem setQ_cx_fault : (s.setQ qr b).cx.fault = s.cx.fault := by unfold State.setQ; split <;> rfl
@[simp] theorem setQ_cx_errs : (s.setQ qr b).cx.errs = s.cx.errs := by unfold State.setQ; split <;> rfl
@[simp] theorem setQ_cx_rgfail : (s.setQ qr b).cx.rgfail = s.cx.rgfail := by unfold State.setQ; split <;> rfl
@[simp] theorem setQ_cx_got : (s.setQ qr b).cx.got = s.cx.got := by unfold State.setQ; split <;> rfl
@[simp] theorem setQ_cx_code : (s.setQ qr b).cx.code = s.cx.code := by unfold State.setQ; split <;> rfl
@[simp] theorem setQ_cx_poll : (s.setQ qr b).cx.poll = s.cx.poll := by unfold State.setQ; split <;> rfl
@[simp] theorem setQ_cx_thawed : (s.setQ qr b).cx.thawed = s.cx.thawed := by unfold State.setQ; split <;> rfl
@[simp] theorem setQ_cx_toldHalt : (s.setQ qr b).cx.toldHalt = s.cx.toldHalt := by unfold State.setQ; split <;> rfl
@[simp] theorem setQ_cx_joined : (s.setQ qr b).cx.joined = s.cx.joined := by unfold State.setQ; split <;> rfl
@[simp] theorem setQ_cx_rem : (s.setQ qr b).cx.rem = s.cx.rem := by unfold State.setQ; split <;> rfl
@[simp] theorem setQ_cx_wrote : (s.setQ qr b).cx.wrote = s.cx.wrote := by unfold State.setQ; split <;> rfl
@[simp] theorem setQ_cx_mbox : (s.setQ qr b).cx.mbox = s.cx.mbox := by unfold State.setQ; split <;> rfl
@[simp] theorem setQ_cx_lists : (s.setQ qr b).cx.lists = s.cx.lists := by unfold State.setQ; split <;> rfl
@[simp] theorem setQ_cx_flushes : (s.setQ qr b).cx.flushes = s.cx.flushes := by unfold State.setQ; split <;> rfl
@[simp] theorem setQ_cx_opened : (s.setQ qr b).cx.opened = s.cx.opened := by unfold State.setQ; split <;> rfl
@[simp] theorem setQ_cx_invks : (s.setQ qr b).cx.invks = s.cx.invks := by unfold State.setQ; split <;> rfl
@[simp] theorem setQ_cx_run : (s.setQ qr b).cx.run = s.cx.run := by unfold State.setQ; split <;> rfl
@[simp] theorem setQ_cx_gdone : (s.setQ qr b).cx.gdone = s.cx.gdone := by unfold State.setQ; split <;> rfl
@[simp] theorem setQ_cx_arrived : (s.setQ qr b).cx.arrived = s.cx.arrived := by unfold State.setQ; split <;> rfl
@[simp] theorem setQ_cx_firm : (s.setQ qr b).cx.firm = s.cx.firm := by unfold State.setQ; split <;> rfl
@[simp] theorem setQ_cx_haltReq : (s.setQ qr b).cx.haltReq = s.cx.haltReq := by unfold State.setQ; split <;> rfl
@[simp] theorem setQ_cx_yielded : (s.setQ qr b).cx.yielded = s.cx.yielded := by unfold State.setQ; split <;> rfl
@[simp] theorem setQ_cx_victim : (s.setQ qr b).cx.victim = s.cx.victim := by unfold State.setQ; split <;> rfl
@[simp] theorem setQ_cx_unpin : (s.setQ qr b).cx.unpin = s.cx.unpin := by unfold State.setQ; split <;> rfl

/-! ### setP -/
@[simp] theorem setP_ctxs : (s.setP pr v).ctxs = s.ctxs := rfl
@[simp] theorem setP_cores : (s.setP pr v).cores = s.cores := rfl
@[simp] theorem setP_die0 : (s.setP pr v).die0 = s.die0 := rfl
@[simp] theorem setP_die1 : (s.setP pr v).die1 = s.die1 := rfl
@[simp] theorem setP_die2 : (s.setP pr v).die2 = s.die2 := rfl
@[simp] theorem setP_die3 : (s.setP pr v).die3 = s.die3 := rfl
@[simp] theorem setP_mem : (s.setP pr v).mem = s.mem := rfl
@[simp] theorem setP_dirty : (s.setP pr v).dirty = s.dirty := rfl
@[simp] theorem setP_poison : (s.setP pr v).poison = s.poison := rfl
@[simp] theorem setP_lineKey : (s.setP pr v).lineKey = s.lineKey := rfl
@[simp] theorem setP_keyVer : (s.setP pr v).keyVer = s.keyVer := rfl
@[simp] theorem setP_ctrs : (s.setP pr v).ctrs = s.ctrs := rfl
@[simp] theorem setP_time : (s.setP pr v).time = s.time := rfl
@[simp] theorem setP_regs : (s.setP pr v).regs = s.regs := rfl
@[simp] theorem setP_pkg : (s.setP pr v).pkg = s.pkg := rfl
@[simp] theorem setP_pods : (s.setP pr v).pods = s.pods := rfl
@[simp] theorem setP_hosts : (s.setP pr v).hosts = s.hosts := rfl
@[simp] theorem setP_objs : (s.setP pr v).objs = s.objs := rfl
@[simp] theorem setP_promises : (s.setP pr v).promises = s.promises := rfl
@[simp] theorem setP_gens : (s.setP pr v).gens = s.gens := rfl
@[simp] theorem setP_invs : (s.setP pr v).invs = s.invs := rfl
@[simp] theorem setP_launches : (s.setP pr v).launches = s.launches := rfl
@[simp] theorem setP_phasers : (s.setP pr v).phasers = s.phasers := rfl
@[simp] theorem setP_entries : (s.setP pr v).entries = s.entries := rfl
@[simp] theorem setP_firings : (s.setP pr v).firings = s.firings := rfl
@[simp] theorem setP_raising : (s.setP pr v).raising = s.raising := rfl
@[simp] theorem setP_heldRaises : (s.setP pr v).heldRaises = s.heldRaises := rfl
@[simp] theorem setP_copies : (s.setP pr v).copies = s.copies := rfl
@[simp] theorem setP_rows : (s.setP pr v).rows = s.rows := rfl
@[simp] theorem setP_landRows : (s.setP pr v).landRows = s.landRows := rfl
@[simp] theorem setP_rowSeq : (s.setP pr v).rowSeq = s.rowSeq := rfl
@[simp] theorem setP_ctWaits : (s.setP pr v).ctWaits = s.ctWaits := rfl
@[simp] theorem setP_leftTiles : (s.setP pr v).leftTiles = s.leftTiles := rfl
@[simp] theorem setP_copyq : (s.setP pr v).copyq = s.copyq := rfl
@[simp] theorem setP_dlseq : (s.setP pr v).dlseq = s.dlseq := rfl
@[simp] theorem setP_colls : (s.setP pr v).colls = s.colls := rfl
@[simp] theorem setP_collNo : (s.setP pr v).collNo = s.collNo := rfl
@[simp] theorem setP_fq : (s.setP pr v).fq = s.fq := rfl
@[simp] theorem setP_rx : (s.setP pr v).rx = s.rx := rfl
@[simp] theorem setP_unacked : (s.setP pr v).unacked = s.unacked := rfl
@[simp] theorem setP_backlog : (s.setP pr v).backlog = s.backlog := rfl
@[simp] theorem setP_links : (s.setP pr v).links = s.links := rfl
@[simp] theorem setP_routeEra : (s.setP pr v).routeEra = s.routeEra := rfl
@[simp] theorem setP_downs : (s.setP pr v).downs = s.downs := rfl
@[simp] theorem setP_ports : (s.setP pr v).ports = s.ports := rfl
@[simp] theorem setP_streams : (s.setP pr v).streams = s.streams := rfl
@[simp] theorem setP_flash : (s.setP pr v).flash = s.flash := rfl
@[simp] theorem setP_mr : (s.setP pr v).mr = s.mr := rfl
@[simp] theorem setP_keys : (s.setP pr v).keys = s.keys := rfl
@[simp] theorem setP_throttle : (s.setP pr v).throttle = s.throttle := rfl
@[simp] theorem setP_reports : (s.setP pr v).reports = s.reports := rfl
@[simp] theorem setP_orphans : (s.setP pr v).orphans = s.orphans := rfl
@[simp] theorem setP_awayRuns : (s.setP pr v).awayRuns = s.awayRuns := rfl
@[simp] theorem setP_awayRegions : (s.setP pr v).awayRegions = s.awayRegions := rfl
@[simp] theorem setP_owing : (s.setP pr v).owing = s.owing := rfl
@[simp] theorem setP_flushes : (s.setP pr v).flushes = s.flushes := rfl
@[simp] theorem setP_heldWrites : (s.setP pr v).heldWrites = s.heldWrites := rfl
@[simp] theorem setP_lateRaises : (s.setP pr v).lateRaises = s.lateRaises := rfl
@[simp] theorem setP_net : (s.setP pr v).net = s.net := rfl
@[simp] theorem setP_outbox : (s.setP pr v).outbox = s.outbox := rfl
@[simp] theorem setP_txFrames : (s.setP pr v).txFrames = s.txFrames := rfl
@[simp] theorem setP_agenda : (s.setP pr v).agenda = s.agenda := rfl
@[simp] theorem setP_issued : (s.setP pr v).issued = s.issued := rfl
@[simp] theorem setP_fresh : (s.setP pr v).fresh = s.fresh := rfl
@[simp] theorem setP_cx_id : (s.setP pr v).cx.id = s.cx.id := rfl
@[simp] theorem setP_cx_status : (s.setP pr v).cx.status = s.cx.status := rfl
@[simp] theorem setP_cx_pc : (s.setP pr v).cx.pc = s.cx.pc := rfl
@[simp] theorem setP_cx_g : (s.setP pr v).cx.g = s.cx.g := rfl
@[simp] theorem setP_cx_a : (s.setP pr v).cx.a = s.cx.a := rfl
@[simp] theorem setP_cx_m : (s.setP pr v).cx.m = s.cx.m := rfl
@[simp] theorem setP_cx_q : (s.setP pr v).cx.q = s.cx.q := rfl
@[simp] theorem setP_cx_t : (s.setP pr v).cx.t = s.cx.t := rfl
@[simp] theorem setP_cx_x : (s.setP pr v).cx.x = s.cx.x := rfl
@[simp] theorem setP_cx_sums : (s.setP pr v).cx.sums = s.cx.sums := rfl
@[simp] theorem setP_cx_sumBad : (s.setP pr v).cx.sumBad = s.cx.sumBad := rfl
@[simp] theorem setP_cx_rep : (s.setP pr v).cx.rep = s.cx.rep := rfl
@[simp] theorem setP_cx_gen : (s.setP pr v).cx.gen = s.cx.gen := rfl
@[simp] theorem setP_cx_seed : (s.setP pr v).cx.seed = s.cx.seed := rfl
@[simp] theorem setP_cx_lnum : (s.setP pr v).cx.lnum = s.cx.lnum := rfl
@[simp] theorem setP_cx_fltva : (s.setP pr v).cx.fltva = s.cx.fltva := rfl
@[simp] theorem setP_cx_fltinfo : (s.setP pr v).cx.fltinfo = s.cx.fltinfo := rfl
@[simp] theorem setP_cx_region : (s.setP pr v).cx.region = s.cx.region := rfl
@[simp] theorem setP_cx_deadline : (s.setP pr v).cx.deadline = s.cx.deadline := rfl
@[simp] theorem setP_cx_prio : (s.setP pr v).cx.prio = s.cx.prio := rfl
@[simp] theorem setP_cx_rmode : (s.setP pr v).cx.rmode = s.cx.rmode := rfl
@[simp] theorem setP_cx_atmode : (s.setP pr v).cx.atmode = s.cx.atmode := rfl
@[simp] theorem setP_cx_priv : (s.setP pr v).cx.priv = s.cx.priv := rfl
@[simp] theorem setP_cx_gang : (s.setP pr v).cx.gang = s.cx.gang := rfl
@[simp] theorem setP_cx_gidx : (s.setP pr v).cx.gidx = s.cx.gidx := rfl
@[simp] theorem setP_cx_late : (s.setP pr v).cx.late = s.cx.late := rfl
@[simp] theorem setP_cx_alog : (s.setP pr v).cx.alog = s.cx.alog := rfl
@[simp] theorem setP_cx_sepc : (s.setP pr v).cx.sepc = s.cx.sepc := rfl
@[simp] theorem setP_cx_spriv : (s.setP pr v).cx.spriv = s.cx.spriv := rfl
@[simp] theorem setP_cx_snum : (s.setP pr v).cx.snum = s.cx.snum := rfl
@[simp] theorem setP_cx_sscr : (s.setP pr v).cx.sscr = s.cx.sscr := rfl
@[simp] theorem setP_cx_pctx : (s.setP pr v).cx.pctx = s.cx.pctx := rfl
@[simp] theorem setP_cx_pceil : (s.setP pr v).cx.pceil = s.cx.pceil := rfl
@[simp] theorem setP_cx_dbgen : (s.setP pr v).cx.dbgen = s.cx.dbgen := rfl
@[simp] theorem setP_cx_prot : (s.setP pr v).cx.prot = s.cx.prot := rfl
@[simp] theorem setP_cx_pend : (s.setP pr v).cx.pend = s.cx.pend := rfl
@[simp] theorem setP_cx_runLen : (s.setP pr v).cx.runLen = s.cx.runLen := rfl
@[simp] theorem setP_cx_fault : (s.setP pr v).cx.fault = s.cx.fault := rfl
@[simp] theorem setP_cx_errs : (s.setP pr v).cx.errs = s.cx.errs := rfl
@[simp] theorem setP_cx_rgfail : (s.setP pr v).cx.rgfail = s.cx.rgfail := rfl
@[simp] theorem setP_cx_got : (s.setP pr v).cx.got = s.cx.got := rfl
@[simp] theorem setP_cx_code : (s.setP pr v).cx.code = s.cx.code := rfl
@[simp] theorem setP_cx_poll : (s.setP pr v).cx.poll = s.cx.poll := rfl
@[simp] theorem setP_cx_thawed : (s.setP pr v).cx.thawed = s.cx.thawed := rfl
@[simp] theorem setP_cx_toldHalt : (s.setP pr v).cx.toldHalt = s.cx.toldHalt := rfl
@[simp] theorem setP_cx_joined : (s.setP pr v).cx.joined = s.cx.joined := rfl
@[simp] theorem setP_cx_rem : (s.setP pr v).cx.rem = s.cx.rem := rfl
@[simp] theorem setP_cx_wrote : (s.setP pr v).cx.wrote = s.cx.wrote := rfl
@[simp] theorem setP_cx_mbox : (s.setP pr v).cx.mbox = s.cx.mbox := rfl
@[simp] theorem setP_cx_lists : (s.setP pr v).cx.lists = s.cx.lists := rfl
@[simp] theorem setP_cx_flushes : (s.setP pr v).cx.flushes = s.cx.flushes := rfl
@[simp] theorem setP_cx_opened : (s.setP pr v).cx.opened = s.cx.opened := rfl
@[simp] theorem setP_cx_invks : (s.setP pr v).cx.invks = s.cx.invks := rfl
@[simp] theorem setP_cx_run : (s.setP pr v).cx.run = s.cx.run := rfl
@[simp] theorem setP_cx_gdone : (s.setP pr v).cx.gdone = s.cx.gdone := rfl
@[simp] theorem setP_cx_arrived : (s.setP pr v).cx.arrived = s.cx.arrived := rfl
@[simp] theorem setP_cx_firm : (s.setP pr v).cx.firm = s.cx.firm := rfl
@[simp] theorem setP_cx_haltReq : (s.setP pr v).cx.haltReq = s.cx.haltReq := rfl
@[simp] theorem setP_cx_yielded : (s.setP pr v).cx.yielded = s.cx.yielded := rfl
@[simp] theorem setP_cx_victim : (s.setP pr v).cx.victim = s.cx.victim := rfl
@[simp] theorem setP_cx_unpin : (s.setP pr v).cx.unpin = s.cx.unpin := rfl

/-! ### later -/
@[simp] theorem later_ctxs : (s.later rv).ctxs = s.ctxs := rfl
@[simp] theorem later_cores : (s.later rv).cores = s.cores := rfl
@[simp] theorem later_die0 : (s.later rv).die0 = s.die0 := rfl
@[simp] theorem later_die1 : (s.later rv).die1 = s.die1 := rfl
@[simp] theorem later_die2 : (s.later rv).die2 = s.die2 := rfl
@[simp] theorem later_die3 : (s.later rv).die3 = s.die3 := rfl
@[simp] theorem later_mem : (s.later rv).mem = s.mem := rfl
@[simp] theorem later_dirty : (s.later rv).dirty = s.dirty := rfl
@[simp] theorem later_poison : (s.later rv).poison = s.poison := rfl
@[simp] theorem later_lineKey : (s.later rv).lineKey = s.lineKey := rfl
@[simp] theorem later_keyVer : (s.later rv).keyVer = s.keyVer := rfl
@[simp] theorem later_ctrs : (s.later rv).ctrs = s.ctrs := rfl
@[simp] theorem later_time : (s.later rv).time = s.time := rfl
@[simp] theorem later_regs : (s.later rv).regs = s.regs := rfl
@[simp] theorem later_pkg : (s.later rv).pkg = s.pkg := rfl
@[simp] theorem later_pods : (s.later rv).pods = s.pods := rfl
@[simp] theorem later_hosts : (s.later rv).hosts = s.hosts := rfl
@[simp] theorem later_objs : (s.later rv).objs = s.objs := rfl
@[simp] theorem later_promises : (s.later rv).promises = s.promises := rfl
@[simp] theorem later_gens : (s.later rv).gens = s.gens := rfl
@[simp] theorem later_invs : (s.later rv).invs = s.invs := rfl
@[simp] theorem later_launches : (s.later rv).launches = s.launches := rfl
@[simp] theorem later_phasers : (s.later rv).phasers = s.phasers := rfl
@[simp] theorem later_entries : (s.later rv).entries = s.entries := rfl
@[simp] theorem later_firings : (s.later rv).firings = s.firings := rfl
@[simp] theorem later_raising : (s.later rv).raising = s.raising := rfl
@[simp] theorem later_heldRaises : (s.later rv).heldRaises = s.heldRaises := rfl
@[simp] theorem later_copies : (s.later rv).copies = s.copies := rfl
@[simp] theorem later_rows : (s.later rv).rows = s.rows := rfl
@[simp] theorem later_landRows : (s.later rv).landRows = s.landRows := rfl
@[simp] theorem later_rowSeq : (s.later rv).rowSeq = s.rowSeq := rfl
@[simp] theorem later_ctWaits : (s.later rv).ctWaits = s.ctWaits := rfl
@[simp] theorem later_leftTiles : (s.later rv).leftTiles = s.leftTiles := rfl
@[simp] theorem later_copyq : (s.later rv).copyq = s.copyq := rfl
@[simp] theorem later_dlseq : (s.later rv).dlseq = s.dlseq := rfl
@[simp] theorem later_colls : (s.later rv).colls = s.colls := rfl
@[simp] theorem later_collNo : (s.later rv).collNo = s.collNo := rfl
@[simp] theorem later_fq : (s.later rv).fq = s.fq := rfl
@[simp] theorem later_rx : (s.later rv).rx = s.rx := rfl
@[simp] theorem later_unacked : (s.later rv).unacked = s.unacked := rfl
@[simp] theorem later_backlog : (s.later rv).backlog = s.backlog := rfl
@[simp] theorem later_links : (s.later rv).links = s.links := rfl
@[simp] theorem later_routeEra : (s.later rv).routeEra = s.routeEra := rfl
@[simp] theorem later_downs : (s.later rv).downs = s.downs := rfl
@[simp] theorem later_ports : (s.later rv).ports = s.ports := rfl
@[simp] theorem later_streams : (s.later rv).streams = s.streams := rfl
@[simp] theorem later_flash : (s.later rv).flash = s.flash := rfl
@[simp] theorem later_mr : (s.later rv).mr = s.mr := rfl
@[simp] theorem later_keys : (s.later rv).keys = s.keys := rfl
@[simp] theorem later_throttle : (s.later rv).throttle = s.throttle := rfl
@[simp] theorem later_reports : (s.later rv).reports = s.reports := rfl
@[simp] theorem later_orphans : (s.later rv).orphans = s.orphans := rfl
@[simp] theorem later_awayRuns : (s.later rv).awayRuns = s.awayRuns := rfl
@[simp] theorem later_awayRegions : (s.later rv).awayRegions = s.awayRegions := rfl
@[simp] theorem later_owing : (s.later rv).owing = s.owing := rfl
@[simp] theorem later_flushes : (s.later rv).flushes = s.flushes := rfl
@[simp] theorem later_heldWrites : (s.later rv).heldWrites = s.heldWrites := rfl
@[simp] theorem later_lateRaises : (s.later rv).lateRaises = s.lateRaises := rfl
@[simp] theorem later_net : (s.later rv).net = s.net := rfl
@[simp] theorem later_outbox : (s.later rv).outbox = s.outbox := rfl
@[simp] theorem later_txFrames : (s.later rv).txFrames = s.txFrames := rfl
@[simp] theorem later_agenda : (s.later rv).agenda = s.agenda := rfl
@[simp] theorem later_issued : (s.later rv).issued = s.issued := rfl
@[simp] theorem later_fresh : (s.later rv).fresh = s.fresh := rfl
@[simp] theorem later_cx_id : (s.later rv).cx.id = s.cx.id := rfl
@[simp] theorem later_cx_status : (s.later rv).cx.status = s.cx.status := rfl
@[simp] theorem later_cx_pc : (s.later rv).cx.pc = s.cx.pc := rfl
@[simp] theorem later_cx_g : (s.later rv).cx.g = s.cx.g := rfl
@[simp] theorem later_cx_p : (s.later rv).cx.p = s.cx.p := rfl
@[simp] theorem later_cx_a : (s.later rv).cx.a = s.cx.a := rfl
@[simp] theorem later_cx_m : (s.later rv).cx.m = s.cx.m := rfl
@[simp] theorem later_cx_q : (s.later rv).cx.q = s.cx.q := rfl
@[simp] theorem later_cx_t : (s.later rv).cx.t = s.cx.t := rfl
@[simp] theorem later_cx_x : (s.later rv).cx.x = s.cx.x := rfl
@[simp] theorem later_cx_sums : (s.later rv).cx.sums = s.cx.sums := rfl
@[simp] theorem later_cx_sumBad : (s.later rv).cx.sumBad = s.cx.sumBad := rfl
@[simp] theorem later_cx_rep : (s.later rv).cx.rep = s.cx.rep := rfl
@[simp] theorem later_cx_gen : (s.later rv).cx.gen = s.cx.gen := rfl
@[simp] theorem later_cx_seed : (s.later rv).cx.seed = s.cx.seed := rfl
@[simp] theorem later_cx_lnum : (s.later rv).cx.lnum = s.cx.lnum := rfl
@[simp] theorem later_cx_fltva : (s.later rv).cx.fltva = s.cx.fltva := rfl
@[simp] theorem later_cx_fltinfo : (s.later rv).cx.fltinfo = s.cx.fltinfo := rfl
@[simp] theorem later_cx_region : (s.later rv).cx.region = s.cx.region := rfl
@[simp] theorem later_cx_deadline : (s.later rv).cx.deadline = s.cx.deadline := rfl
@[simp] theorem later_cx_prio : (s.later rv).cx.prio = s.cx.prio := rfl
@[simp] theorem later_cx_rmode : (s.later rv).cx.rmode = s.cx.rmode := rfl
@[simp] theorem later_cx_atmode : (s.later rv).cx.atmode = s.cx.atmode := rfl
@[simp] theorem later_cx_priv : (s.later rv).cx.priv = s.cx.priv := rfl
@[simp] theorem later_cx_gang : (s.later rv).cx.gang = s.cx.gang := rfl
@[simp] theorem later_cx_gidx : (s.later rv).cx.gidx = s.cx.gidx := rfl
@[simp] theorem later_cx_late : (s.later rv).cx.late = s.cx.late := rfl
@[simp] theorem later_cx_alog : (s.later rv).cx.alog = s.cx.alog := rfl
@[simp] theorem later_cx_sepc : (s.later rv).cx.sepc = s.cx.sepc := rfl
@[simp] theorem later_cx_spriv : (s.later rv).cx.spriv = s.cx.spriv := rfl
@[simp] theorem later_cx_snum : (s.later rv).cx.snum = s.cx.snum := rfl
@[simp] theorem later_cx_sscr : (s.later rv).cx.sscr = s.cx.sscr := rfl
@[simp] theorem later_cx_pctx : (s.later rv).cx.pctx = s.cx.pctx := rfl
@[simp] theorem later_cx_pceil : (s.later rv).cx.pceil = s.cx.pceil := rfl
@[simp] theorem later_cx_dbgen : (s.later rv).cx.dbgen = s.cx.dbgen := rfl
@[simp] theorem later_cx_prot : (s.later rv).cx.prot = s.cx.prot := rfl
@[simp] theorem later_cx_landed : (s.later rv).cx.landed = s.cx.landed := rfl
@[simp] theorem later_cx_runLen : (s.later rv).cx.runLen = s.cx.runLen := rfl
@[simp] theorem later_cx_fault : (s.later rv).cx.fault = s.cx.fault := rfl
@[simp] theorem later_cx_errs : (s.later rv).cx.errs = s.cx.errs := rfl
@[simp] theorem later_cx_rgfail : (s.later rv).cx.rgfail = s.cx.rgfail := rfl
@[simp] theorem later_cx_got : (s.later rv).cx.got = s.cx.got := rfl
@[simp] theorem later_cx_code : (s.later rv).cx.code = s.cx.code := rfl
@[simp] theorem later_cx_poll : (s.later rv).cx.poll = s.cx.poll := rfl
@[simp] theorem later_cx_thawed : (s.later rv).cx.thawed = s.cx.thawed := rfl
@[simp] theorem later_cx_toldHalt : (s.later rv).cx.toldHalt = s.cx.toldHalt := rfl
@[simp] theorem later_cx_joined : (s.later rv).cx.joined = s.cx.joined := rfl
@[simp] theorem later_cx_rem : (s.later rv).cx.rem = s.cx.rem := rfl
@[simp] theorem later_cx_wrote : (s.later rv).cx.wrote = s.cx.wrote := rfl
@[simp] theorem later_cx_mbox : (s.later rv).cx.mbox = s.cx.mbox := rfl
@[simp] theorem later_cx_lists : (s.later rv).cx.lists = s.cx.lists := rfl
@[simp] theorem later_cx_flushes : (s.later rv).cx.flushes = s.cx.flushes := rfl
@[simp] theorem later_cx_opened : (s.later rv).cx.opened = s.cx.opened := rfl
@[simp] theorem later_cx_invks : (s.later rv).cx.invks = s.cx.invks := rfl
@[simp] theorem later_cx_run : (s.later rv).cx.run = s.cx.run := rfl
@[simp] theorem later_cx_gdone : (s.later rv).cx.gdone = s.cx.gdone := rfl
@[simp] theorem later_cx_arrived : (s.later rv).cx.arrived = s.cx.arrived := rfl
@[simp] theorem later_cx_firm : (s.later rv).cx.firm = s.cx.firm := rfl
@[simp] theorem later_cx_haltReq : (s.later rv).cx.haltReq = s.cx.haltReq := rfl
@[simp] theorem later_cx_yielded : (s.later rv).cx.yielded = s.cx.yielded := rfl
@[simp] theorem later_cx_victim : (s.later rv).cx.victim = s.cx.victim := rfl
@[simp] theorem later_cx_unpin : (s.later rv).cx.unpin = s.cx.unpin := rfl

/-! ### laterA -/
@[simp] theorem laterA_ctxs : (s.laterA ar ls av).ctxs = s.ctxs := rfl
@[simp] theorem laterA_cores : (s.laterA ar ls av).cores = s.cores := rfl
@[simp] theorem laterA_die0 : (s.laterA ar ls av).die0 = s.die0 := rfl
@[simp] theorem laterA_die1 : (s.laterA ar ls av).die1 = s.die1 := rfl
@[simp] theorem laterA_die2 : (s.laterA ar ls av).die2 = s.die2 := rfl
@[simp] theorem laterA_die3 : (s.laterA ar ls av).die3 = s.die3 := rfl
@[simp] theorem laterA_mem : (s.laterA ar ls av).mem = s.mem := rfl
@[simp] theorem laterA_dirty : (s.laterA ar ls av).dirty = s.dirty := rfl
@[simp] theorem laterA_poison : (s.laterA ar ls av).poison = s.poison := rfl
@[simp] theorem laterA_lineKey : (s.laterA ar ls av).lineKey = s.lineKey := rfl
@[simp] theorem laterA_keyVer : (s.laterA ar ls av).keyVer = s.keyVer := rfl
@[simp] theorem laterA_ctrs : (s.laterA ar ls av).ctrs = s.ctrs := rfl
@[simp] theorem laterA_time : (s.laterA ar ls av).time = s.time := rfl
@[simp] theorem laterA_regs : (s.laterA ar ls av).regs = s.regs := rfl
@[simp] theorem laterA_pkg : (s.laterA ar ls av).pkg = s.pkg := rfl
@[simp] theorem laterA_pods : (s.laterA ar ls av).pods = s.pods := rfl
@[simp] theorem laterA_hosts : (s.laterA ar ls av).hosts = s.hosts := rfl
@[simp] theorem laterA_objs : (s.laterA ar ls av).objs = s.objs := rfl
@[simp] theorem laterA_promises : (s.laterA ar ls av).promises = s.promises := rfl
@[simp] theorem laterA_gens : (s.laterA ar ls av).gens = s.gens := rfl
@[simp] theorem laterA_invs : (s.laterA ar ls av).invs = s.invs := rfl
@[simp] theorem laterA_launches : (s.laterA ar ls av).launches = s.launches := rfl
@[simp] theorem laterA_phasers : (s.laterA ar ls av).phasers = s.phasers := rfl
@[simp] theorem laterA_entries : (s.laterA ar ls av).entries = s.entries := rfl
@[simp] theorem laterA_firings : (s.laterA ar ls av).firings = s.firings := rfl
@[simp] theorem laterA_raising : (s.laterA ar ls av).raising = s.raising := rfl
@[simp] theorem laterA_heldRaises : (s.laterA ar ls av).heldRaises = s.heldRaises := rfl
@[simp] theorem laterA_copies : (s.laterA ar ls av).copies = s.copies := rfl
@[simp] theorem laterA_rows : (s.laterA ar ls av).rows = s.rows := rfl
@[simp] theorem laterA_landRows : (s.laterA ar ls av).landRows = s.landRows := rfl
@[simp] theorem laterA_rowSeq : (s.laterA ar ls av).rowSeq = s.rowSeq := rfl
@[simp] theorem laterA_ctWaits : (s.laterA ar ls av).ctWaits = s.ctWaits := rfl
@[simp] theorem laterA_leftTiles : (s.laterA ar ls av).leftTiles = s.leftTiles := rfl
@[simp] theorem laterA_copyq : (s.laterA ar ls av).copyq = s.copyq := rfl
@[simp] theorem laterA_dlseq : (s.laterA ar ls av).dlseq = s.dlseq := rfl
@[simp] theorem laterA_colls : (s.laterA ar ls av).colls = s.colls := rfl
@[simp] theorem laterA_collNo : (s.laterA ar ls av).collNo = s.collNo := rfl
@[simp] theorem laterA_fq : (s.laterA ar ls av).fq = s.fq := rfl
@[simp] theorem laterA_rx : (s.laterA ar ls av).rx = s.rx := rfl
@[simp] theorem laterA_unacked : (s.laterA ar ls av).unacked = s.unacked := rfl
@[simp] theorem laterA_backlog : (s.laterA ar ls av).backlog = s.backlog := rfl
@[simp] theorem laterA_links : (s.laterA ar ls av).links = s.links := rfl
@[simp] theorem laterA_routeEra : (s.laterA ar ls av).routeEra = s.routeEra := rfl
@[simp] theorem laterA_downs : (s.laterA ar ls av).downs = s.downs := rfl
@[simp] theorem laterA_ports : (s.laterA ar ls av).ports = s.ports := rfl
@[simp] theorem laterA_streams : (s.laterA ar ls av).streams = s.streams := rfl
@[simp] theorem laterA_flash : (s.laterA ar ls av).flash = s.flash := rfl
@[simp] theorem laterA_mr : (s.laterA ar ls av).mr = s.mr := rfl
@[simp] theorem laterA_keys : (s.laterA ar ls av).keys = s.keys := rfl
@[simp] theorem laterA_throttle : (s.laterA ar ls av).throttle = s.throttle := rfl
@[simp] theorem laterA_reports : (s.laterA ar ls av).reports = s.reports := rfl
@[simp] theorem laterA_orphans : (s.laterA ar ls av).orphans = s.orphans := rfl
@[simp] theorem laterA_awayRuns : (s.laterA ar ls av).awayRuns = s.awayRuns := rfl
@[simp] theorem laterA_awayRegions : (s.laterA ar ls av).awayRegions = s.awayRegions := rfl
@[simp] theorem laterA_owing : (s.laterA ar ls av).owing = s.owing := rfl
@[simp] theorem laterA_flushes : (s.laterA ar ls av).flushes = s.flushes := rfl
@[simp] theorem laterA_heldWrites : (s.laterA ar ls av).heldWrites = s.heldWrites := rfl
@[simp] theorem laterA_lateRaises : (s.laterA ar ls av).lateRaises = s.lateRaises := rfl
@[simp] theorem laterA_net : (s.laterA ar ls av).net = s.net := rfl
@[simp] theorem laterA_outbox : (s.laterA ar ls av).outbox = s.outbox := rfl
@[simp] theorem laterA_txFrames : (s.laterA ar ls av).txFrames = s.txFrames := rfl
@[simp] theorem laterA_agenda : (s.laterA ar ls av).agenda = s.agenda := rfl
@[simp] theorem laterA_issued : (s.laterA ar ls av).issued = s.issued := rfl
@[simp] theorem laterA_fresh : (s.laterA ar ls av).fresh = s.fresh := rfl
@[simp] theorem laterA_cx_id : (s.laterA ar ls av).cx.id = s.cx.id := rfl
@[simp] theorem laterA_cx_status : (s.laterA ar ls av).cx.status = s.cx.status := rfl
@[simp] theorem laterA_cx_pc : (s.laterA ar ls av).cx.pc = s.cx.pc := rfl
@[simp] theorem laterA_cx_g : (s.laterA ar ls av).cx.g = s.cx.g := rfl
@[simp] theorem laterA_cx_p : (s.laterA ar ls av).cx.p = s.cx.p := rfl
@[simp] theorem laterA_cx_a : (s.laterA ar ls av).cx.a = s.cx.a := rfl
@[simp] theorem laterA_cx_m : (s.laterA ar ls av).cx.m = s.cx.m := rfl
@[simp] theorem laterA_cx_q : (s.laterA ar ls av).cx.q = s.cx.q := rfl
@[simp] theorem laterA_cx_t : (s.laterA ar ls av).cx.t = s.cx.t := rfl
@[simp] theorem laterA_cx_x : (s.laterA ar ls av).cx.x = s.cx.x := rfl
@[simp] theorem laterA_cx_sums : (s.laterA ar ls av).cx.sums = s.cx.sums := rfl
@[simp] theorem laterA_cx_sumBad : (s.laterA ar ls av).cx.sumBad = s.cx.sumBad := rfl
@[simp] theorem laterA_cx_rep : (s.laterA ar ls av).cx.rep = s.cx.rep := rfl
@[simp] theorem laterA_cx_gen : (s.laterA ar ls av).cx.gen = s.cx.gen := rfl
@[simp] theorem laterA_cx_seed : (s.laterA ar ls av).cx.seed = s.cx.seed := rfl
@[simp] theorem laterA_cx_lnum : (s.laterA ar ls av).cx.lnum = s.cx.lnum := rfl
@[simp] theorem laterA_cx_fltva : (s.laterA ar ls av).cx.fltva = s.cx.fltva := rfl
@[simp] theorem laterA_cx_fltinfo : (s.laterA ar ls av).cx.fltinfo = s.cx.fltinfo := rfl
@[simp] theorem laterA_cx_region : (s.laterA ar ls av).cx.region = s.cx.region := rfl
@[simp] theorem laterA_cx_deadline : (s.laterA ar ls av).cx.deadline = s.cx.deadline := rfl
@[simp] theorem laterA_cx_prio : (s.laterA ar ls av).cx.prio = s.cx.prio := rfl
@[simp] theorem laterA_cx_rmode : (s.laterA ar ls av).cx.rmode = s.cx.rmode := rfl
@[simp] theorem laterA_cx_atmode : (s.laterA ar ls av).cx.atmode = s.cx.atmode := rfl
@[simp] theorem laterA_cx_priv : (s.laterA ar ls av).cx.priv = s.cx.priv := rfl
@[simp] theorem laterA_cx_gang : (s.laterA ar ls av).cx.gang = s.cx.gang := rfl
@[simp] theorem laterA_cx_gidx : (s.laterA ar ls av).cx.gidx = s.cx.gidx := rfl
@[simp] theorem laterA_cx_late : (s.laterA ar ls av).cx.late = s.cx.late := rfl
@[simp] theorem laterA_cx_alog : (s.laterA ar ls av).cx.alog = s.cx.alog := rfl
@[simp] theorem laterA_cx_sepc : (s.laterA ar ls av).cx.sepc = s.cx.sepc := rfl
@[simp] theorem laterA_cx_spriv : (s.laterA ar ls av).cx.spriv = s.cx.spriv := rfl
@[simp] theorem laterA_cx_snum : (s.laterA ar ls av).cx.snum = s.cx.snum := rfl
@[simp] theorem laterA_cx_sscr : (s.laterA ar ls av).cx.sscr = s.cx.sscr := rfl
@[simp] theorem laterA_cx_pctx : (s.laterA ar ls av).cx.pctx = s.cx.pctx := rfl
@[simp] theorem laterA_cx_pceil : (s.laterA ar ls av).cx.pceil = s.cx.pceil := rfl
@[simp] theorem laterA_cx_dbgen : (s.laterA ar ls av).cx.dbgen = s.cx.dbgen := rfl
@[simp] theorem laterA_cx_prot : (s.laterA ar ls av).cx.prot = s.cx.prot := rfl
@[simp] theorem laterA_cx_landed : (s.laterA ar ls av).cx.landed = s.cx.landed := rfl
@[simp] theorem laterA_cx_runLen : (s.laterA ar ls av).cx.runLen = s.cx.runLen := rfl
@[simp] theorem laterA_cx_fault : (s.laterA ar ls av).cx.fault = s.cx.fault := rfl
@[simp] theorem laterA_cx_errs : (s.laterA ar ls av).cx.errs = s.cx.errs := rfl
@[simp] theorem laterA_cx_rgfail : (s.laterA ar ls av).cx.rgfail = s.cx.rgfail := rfl
@[simp] theorem laterA_cx_got : (s.laterA ar ls av).cx.got = s.cx.got := rfl
@[simp] theorem laterA_cx_code : (s.laterA ar ls av).cx.code = s.cx.code := rfl
@[simp] theorem laterA_cx_poll : (s.laterA ar ls av).cx.poll = s.cx.poll := rfl
@[simp] theorem laterA_cx_thawed : (s.laterA ar ls av).cx.thawed = s.cx.thawed := rfl
@[simp] theorem laterA_cx_toldHalt : (s.laterA ar ls av).cx.toldHalt = s.cx.toldHalt := rfl
@[simp] theorem laterA_cx_joined : (s.laterA ar ls av).cx.joined = s.cx.joined := rfl
@[simp] theorem laterA_cx_rem : (s.laterA ar ls av).cx.rem = s.cx.rem := rfl
@[simp] theorem laterA_cx_wrote : (s.laterA ar ls av).cx.wrote = s.cx.wrote := rfl
@[simp] theorem laterA_cx_mbox : (s.laterA ar ls av).cx.mbox = s.cx.mbox := rfl
@[simp] theorem laterA_cx_lists : (s.laterA ar ls av).cx.lists = s.cx.lists := rfl
@[simp] theorem laterA_cx_flushes : (s.laterA ar ls av).cx.flushes = s.cx.flushes := rfl
@[simp] theorem laterA_cx_opened : (s.laterA ar ls av).cx.opened = s.cx.opened := rfl
@[simp] theorem laterA_cx_invks : (s.laterA ar ls av).cx.invks = s.cx.invks := rfl
@[simp] theorem laterA_cx_run : (s.laterA ar ls av).cx.run = s.cx.run := rfl
@[simp] theorem laterA_cx_gdone : (s.laterA ar ls av).cx.gdone = s.cx.gdone := rfl
@[simp] theorem laterA_cx_arrived : (s.laterA ar ls av).cx.arrived = s.cx.arrived := rfl
@[simp] theorem laterA_cx_firm : (s.laterA ar ls av).cx.firm = s.cx.firm := rfl
@[simp] theorem laterA_cx_haltReq : (s.laterA ar ls av).cx.haltReq = s.cx.haltReq := rfl
@[simp] theorem laterA_cx_yielded : (s.laterA ar ls av).cx.yielded = s.cx.yielded := rfl
@[simp] theorem laterA_cx_victim : (s.laterA ar ls av).cx.victim = s.cx.victim := rfl
@[simp] theorem laterA_cx_unpin : (s.laterA ar ls av).cx.unpin = s.cx.unpin := rfl

/-! ### laterG -/
@[simp] theorem laterG_ctxs : (s.laterG r v).ctxs = s.ctxs := by unfold State.laterG; split <;> rfl
@[simp] theorem laterG_cores : (s.laterG r v).cores = s.cores := by unfold State.laterG; split <;> rfl
@[simp] theorem laterG_die0 : (s.laterG r v).die0 = s.die0 := by unfold State.laterG; split <;> rfl
@[simp] theorem laterG_die1 : (s.laterG r v).die1 = s.die1 := by unfold State.laterG; split <;> rfl
@[simp] theorem laterG_die2 : (s.laterG r v).die2 = s.die2 := by unfold State.laterG; split <;> rfl
@[simp] theorem laterG_die3 : (s.laterG r v).die3 = s.die3 := by unfold State.laterG; split <;> rfl
@[simp] theorem laterG_mem : (s.laterG r v).mem = s.mem := by unfold State.laterG; split <;> rfl
@[simp] theorem laterG_dirty : (s.laterG r v).dirty = s.dirty := by unfold State.laterG; split <;> rfl
@[simp] theorem laterG_poison : (s.laterG r v).poison = s.poison := by unfold State.laterG; split <;> rfl
@[simp] theorem laterG_lineKey : (s.laterG r v).lineKey = s.lineKey := by unfold State.laterG; split <;> rfl
@[simp] theorem laterG_keyVer : (s.laterG r v).keyVer = s.keyVer := by unfold State.laterG; split <;> rfl
@[simp] theorem laterG_ctrs : (s.laterG r v).ctrs = s.ctrs := by unfold State.laterG; split <;> rfl
@[simp] theorem laterG_time : (s.laterG r v).time = s.time := by unfold State.laterG; split <;> rfl
@[simp] theorem laterG_regs : (s.laterG r v).regs = s.regs := by unfold State.laterG; split <;> rfl
@[simp] theorem laterG_pkg : (s.laterG r v).pkg = s.pkg := by unfold State.laterG; split <;> rfl
@[simp] theorem laterG_pods : (s.laterG r v).pods = s.pods := by unfold State.laterG; split <;> rfl
@[simp] theorem laterG_hosts : (s.laterG r v).hosts = s.hosts := by unfold State.laterG; split <;> rfl
@[simp] theorem laterG_objs : (s.laterG r v).objs = s.objs := by unfold State.laterG; split <;> rfl
@[simp] theorem laterG_promises : (s.laterG r v).promises = s.promises := by unfold State.laterG; split <;> rfl
@[simp] theorem laterG_gens : (s.laterG r v).gens = s.gens := by unfold State.laterG; split <;> rfl
@[simp] theorem laterG_invs : (s.laterG r v).invs = s.invs := by unfold State.laterG; split <;> rfl
@[simp] theorem laterG_launches : (s.laterG r v).launches = s.launches := by unfold State.laterG; split <;> rfl
@[simp] theorem laterG_phasers : (s.laterG r v).phasers = s.phasers := by unfold State.laterG; split <;> rfl
@[simp] theorem laterG_entries : (s.laterG r v).entries = s.entries := by unfold State.laterG; split <;> rfl
@[simp] theorem laterG_firings : (s.laterG r v).firings = s.firings := by unfold State.laterG; split <;> rfl
@[simp] theorem laterG_raising : (s.laterG r v).raising = s.raising := by unfold State.laterG; split <;> rfl
@[simp] theorem laterG_heldRaises : (s.laterG r v).heldRaises = s.heldRaises := by unfold State.laterG; split <;> rfl
@[simp] theorem laterG_copies : (s.laterG r v).copies = s.copies := by unfold State.laterG; split <;> rfl
@[simp] theorem laterG_rows : (s.laterG r v).rows = s.rows := by unfold State.laterG; split <;> rfl
@[simp] theorem laterG_landRows : (s.laterG r v).landRows = s.landRows := by unfold State.laterG; split <;> rfl
@[simp] theorem laterG_rowSeq : (s.laterG r v).rowSeq = s.rowSeq := by unfold State.laterG; split <;> rfl
@[simp] theorem laterG_ctWaits : (s.laterG r v).ctWaits = s.ctWaits := by unfold State.laterG; split <;> rfl
@[simp] theorem laterG_leftTiles : (s.laterG r v).leftTiles = s.leftTiles := by unfold State.laterG; split <;> rfl
@[simp] theorem laterG_copyq : (s.laterG r v).copyq = s.copyq := by unfold State.laterG; split <;> rfl
@[simp] theorem laterG_dlseq : (s.laterG r v).dlseq = s.dlseq := by unfold State.laterG; split <;> rfl
@[simp] theorem laterG_colls : (s.laterG r v).colls = s.colls := by unfold State.laterG; split <;> rfl
@[simp] theorem laterG_collNo : (s.laterG r v).collNo = s.collNo := by unfold State.laterG; split <;> rfl
@[simp] theorem laterG_fq : (s.laterG r v).fq = s.fq := by unfold State.laterG; split <;> rfl
@[simp] theorem laterG_rx : (s.laterG r v).rx = s.rx := by unfold State.laterG; split <;> rfl
@[simp] theorem laterG_unacked : (s.laterG r v).unacked = s.unacked := by unfold State.laterG; split <;> rfl
@[simp] theorem laterG_backlog : (s.laterG r v).backlog = s.backlog := by unfold State.laterG; split <;> rfl
@[simp] theorem laterG_links : (s.laterG r v).links = s.links := by unfold State.laterG; split <;> rfl
@[simp] theorem laterG_routeEra : (s.laterG r v).routeEra = s.routeEra := by unfold State.laterG; split <;> rfl
@[simp] theorem laterG_downs : (s.laterG r v).downs = s.downs := by unfold State.laterG; split <;> rfl
@[simp] theorem laterG_ports : (s.laterG r v).ports = s.ports := by unfold State.laterG; split <;> rfl
@[simp] theorem laterG_streams : (s.laterG r v).streams = s.streams := by unfold State.laterG; split <;> rfl
@[simp] theorem laterG_flash : (s.laterG r v).flash = s.flash := by unfold State.laterG; split <;> rfl
@[simp] theorem laterG_mr : (s.laterG r v).mr = s.mr := by unfold State.laterG; split <;> rfl
@[simp] theorem laterG_keys : (s.laterG r v).keys = s.keys := by unfold State.laterG; split <;> rfl
@[simp] theorem laterG_throttle : (s.laterG r v).throttle = s.throttle := by unfold State.laterG; split <;> rfl
@[simp] theorem laterG_reports : (s.laterG r v).reports = s.reports := by unfold State.laterG; split <;> rfl
@[simp] theorem laterG_orphans : (s.laterG r v).orphans = s.orphans := by unfold State.laterG; split <;> rfl
@[simp] theorem laterG_awayRuns : (s.laterG r v).awayRuns = s.awayRuns := by unfold State.laterG; split <;> rfl
@[simp] theorem laterG_awayRegions : (s.laterG r v).awayRegions = s.awayRegions := by unfold State.laterG; split <;> rfl
@[simp] theorem laterG_owing : (s.laterG r v).owing = s.owing := by unfold State.laterG; split <;> rfl
@[simp] theorem laterG_flushes : (s.laterG r v).flushes = s.flushes := by unfold State.laterG; split <;> rfl
@[simp] theorem laterG_heldWrites : (s.laterG r v).heldWrites = s.heldWrites := by unfold State.laterG; split <;> rfl
@[simp] theorem laterG_lateRaises : (s.laterG r v).lateRaises = s.lateRaises := by unfold State.laterG; split <;> rfl
@[simp] theorem laterG_net : (s.laterG r v).net = s.net := by unfold State.laterG; split <;> rfl
@[simp] theorem laterG_outbox : (s.laterG r v).outbox = s.outbox := by unfold State.laterG; split <;> rfl
@[simp] theorem laterG_txFrames : (s.laterG r v).txFrames = s.txFrames := by unfold State.laterG; split <;> rfl
@[simp] theorem laterG_agenda : (s.laterG r v).agenda = s.agenda := by unfold State.laterG; split <;> rfl
@[simp] theorem laterG_issued : (s.laterG r v).issued = s.issued := by unfold State.laterG; split <;> rfl
@[simp] theorem laterG_fresh : (s.laterG r v).fresh = s.fresh := by unfold State.laterG; split <;> rfl
@[simp] theorem laterG_cx_id : (s.laterG r v).cx.id = s.cx.id := by unfold State.laterG; split <;> rfl
@[simp] theorem laterG_cx_status : (s.laterG r v).cx.status = s.cx.status := by unfold State.laterG; split <;> rfl
@[simp] theorem laterG_cx_pc : (s.laterG r v).cx.pc = s.cx.pc := by unfold State.laterG; split <;> rfl
@[simp] theorem laterG_cx_g : (s.laterG r v).cx.g = s.cx.g := by unfold State.laterG; split <;> rfl
@[simp] theorem laterG_cx_p : (s.laterG r v).cx.p = s.cx.p := by unfold State.laterG; split <;> rfl
@[simp] theorem laterG_cx_a : (s.laterG r v).cx.a = s.cx.a := by unfold State.laterG; split <;> rfl
@[simp] theorem laterG_cx_m : (s.laterG r v).cx.m = s.cx.m := by unfold State.laterG; split <;> rfl
@[simp] theorem laterG_cx_q : (s.laterG r v).cx.q = s.cx.q := by unfold State.laterG; split <;> rfl
@[simp] theorem laterG_cx_t : (s.laterG r v).cx.t = s.cx.t := by unfold State.laterG; split <;> rfl
@[simp] theorem laterG_cx_x : (s.laterG r v).cx.x = s.cx.x := by unfold State.laterG; split <;> rfl
@[simp] theorem laterG_cx_sums : (s.laterG r v).cx.sums = s.cx.sums := by unfold State.laterG; split <;> rfl
@[simp] theorem laterG_cx_sumBad : (s.laterG r v).cx.sumBad = s.cx.sumBad := by unfold State.laterG; split <;> rfl
@[simp] theorem laterG_cx_rep : (s.laterG r v).cx.rep = s.cx.rep := by unfold State.laterG; split <;> rfl
@[simp] theorem laterG_cx_gen : (s.laterG r v).cx.gen = s.cx.gen := by unfold State.laterG; split <;> rfl
@[simp] theorem laterG_cx_seed : (s.laterG r v).cx.seed = s.cx.seed := by unfold State.laterG; split <;> rfl
@[simp] theorem laterG_cx_lnum : (s.laterG r v).cx.lnum = s.cx.lnum := by unfold State.laterG; split <;> rfl
@[simp] theorem laterG_cx_fltva : (s.laterG r v).cx.fltva = s.cx.fltva := by unfold State.laterG; split <;> rfl
@[simp] theorem laterG_cx_fltinfo : (s.laterG r v).cx.fltinfo = s.cx.fltinfo := by unfold State.laterG; split <;> rfl
@[simp] theorem laterG_cx_region : (s.laterG r v).cx.region = s.cx.region := by unfold State.laterG; split <;> rfl
@[simp] theorem laterG_cx_deadline : (s.laterG r v).cx.deadline = s.cx.deadline := by unfold State.laterG; split <;> rfl
@[simp] theorem laterG_cx_prio : (s.laterG r v).cx.prio = s.cx.prio := by unfold State.laterG; split <;> rfl
@[simp] theorem laterG_cx_rmode : (s.laterG r v).cx.rmode = s.cx.rmode := by unfold State.laterG; split <;> rfl
@[simp] theorem laterG_cx_atmode : (s.laterG r v).cx.atmode = s.cx.atmode := by unfold State.laterG; split <;> rfl
@[simp] theorem laterG_cx_priv : (s.laterG r v).cx.priv = s.cx.priv := by unfold State.laterG; split <;> rfl
@[simp] theorem laterG_cx_gang : (s.laterG r v).cx.gang = s.cx.gang := by unfold State.laterG; split <;> rfl
@[simp] theorem laterG_cx_gidx : (s.laterG r v).cx.gidx = s.cx.gidx := by unfold State.laterG; split <;> rfl
@[simp] theorem laterG_cx_late : (s.laterG r v).cx.late = s.cx.late := by unfold State.laterG; split <;> rfl
@[simp] theorem laterG_cx_alog : (s.laterG r v).cx.alog = s.cx.alog := by unfold State.laterG; split <;> rfl
@[simp] theorem laterG_cx_sepc : (s.laterG r v).cx.sepc = s.cx.sepc := by unfold State.laterG; split <;> rfl
@[simp] theorem laterG_cx_spriv : (s.laterG r v).cx.spriv = s.cx.spriv := by unfold State.laterG; split <;> rfl
@[simp] theorem laterG_cx_snum : (s.laterG r v).cx.snum = s.cx.snum := by unfold State.laterG; split <;> rfl
@[simp] theorem laterG_cx_sscr : (s.laterG r v).cx.sscr = s.cx.sscr := by unfold State.laterG; split <;> rfl
@[simp] theorem laterG_cx_pctx : (s.laterG r v).cx.pctx = s.cx.pctx := by unfold State.laterG; split <;> rfl
@[simp] theorem laterG_cx_pceil : (s.laterG r v).cx.pceil = s.cx.pceil := by unfold State.laterG; split <;> rfl
@[simp] theorem laterG_cx_dbgen : (s.laterG r v).cx.dbgen = s.cx.dbgen := by unfold State.laterG; split <;> rfl
@[simp] theorem laterG_cx_prot : (s.laterG r v).cx.prot = s.cx.prot := by unfold State.laterG; split <;> rfl
@[simp] theorem laterG_cx_landed : (s.laterG r v).cx.landed = s.cx.landed := by unfold State.laterG; split <;> rfl
@[simp] theorem laterG_cx_runLen : (s.laterG r v).cx.runLen = s.cx.runLen := by unfold State.laterG; split <;> rfl
@[simp] theorem laterG_cx_fault : (s.laterG r v).cx.fault = s.cx.fault := by unfold State.laterG; split <;> rfl
@[simp] theorem laterG_cx_errs : (s.laterG r v).cx.errs = s.cx.errs := by unfold State.laterG; split <;> rfl
@[simp] theorem laterG_cx_rgfail : (s.laterG r v).cx.rgfail = s.cx.rgfail := by unfold State.laterG; split <;> rfl
@[simp] theorem laterG_cx_got : (s.laterG r v).cx.got = s.cx.got := by unfold State.laterG; split <;> rfl
@[simp] theorem laterG_cx_code : (s.laterG r v).cx.code = s.cx.code := by unfold State.laterG; split <;> rfl
@[simp] theorem laterG_cx_poll : (s.laterG r v).cx.poll = s.cx.poll := by unfold State.laterG; split <;> rfl
@[simp] theorem laterG_cx_thawed : (s.laterG r v).cx.thawed = s.cx.thawed := by unfold State.laterG; split <;> rfl
@[simp] theorem laterG_cx_toldHalt : (s.laterG r v).cx.toldHalt = s.cx.toldHalt := by unfold State.laterG; split <;> rfl
@[simp] theorem laterG_cx_joined : (s.laterG r v).cx.joined = s.cx.joined := by unfold State.laterG; split <;> rfl
@[simp] theorem laterG_cx_rem : (s.laterG r v).cx.rem = s.cx.rem := by unfold State.laterG; split <;> rfl
@[simp] theorem laterG_cx_wrote : (s.laterG r v).cx.wrote = s.cx.wrote := by unfold State.laterG; split <;> rfl
@[simp] theorem laterG_cx_mbox : (s.laterG r v).cx.mbox = s.cx.mbox := by unfold State.laterG; split <;> rfl
@[simp] theorem laterG_cx_lists : (s.laterG r v).cx.lists = s.cx.lists := by unfold State.laterG; split <;> rfl
@[simp] theorem laterG_cx_flushes : (s.laterG r v).cx.flushes = s.cx.flushes := by unfold State.laterG; split <;> rfl
@[simp] theorem laterG_cx_opened : (s.laterG r v).cx.opened = s.cx.opened := by unfold State.laterG; split <;> rfl
@[simp] theorem laterG_cx_invks : (s.laterG r v).cx.invks = s.cx.invks := by unfold State.laterG; split <;> rfl
@[simp] theorem laterG_cx_run : (s.laterG r v).cx.run = s.cx.run := by unfold State.laterG; split <;> rfl
@[simp] theorem laterG_cx_gdone : (s.laterG r v).cx.gdone = s.cx.gdone := by unfold State.laterG; split <;> rfl
@[simp] theorem laterG_cx_arrived : (s.laterG r v).cx.arrived = s.cx.arrived := by unfold State.laterG; split <;> rfl
@[simp] theorem laterG_cx_firm : (s.laterG r v).cx.firm = s.cx.firm := by unfold State.laterG; split <;> rfl
@[simp] theorem laterG_cx_haltReq : (s.laterG r v).cx.haltReq = s.cx.haltReq := by unfold State.laterG; split <;> rfl
@[simp] theorem laterG_cx_yielded : (s.laterG r v).cx.yielded = s.cx.yielded := by unfold State.laterG; split <;> rfl
@[simp] theorem laterG_cx_victim : (s.laterG r v).cx.victim = s.cx.victim := by unfold State.laterG; split <;> rfl
@[simp] theorem laterG_cx_unpin : (s.laterG r v).cx.unpin = s.cx.unpin := by unfold State.laterG; split <;> rfl

/-! ### laterM -/
@[simp] theorem laterM_ctxs : (s.laterM mr mv).ctxs = s.ctxs := by unfold State.laterM; split <;> rfl
@[simp] theorem laterM_cores : (s.laterM mr mv).cores = s.cores := by unfold State.laterM; split <;> rfl
@[simp] theorem laterM_die0 : (s.laterM mr mv).die0 = s.die0 := by unfold State.laterM; split <;> rfl
@[simp] theorem laterM_die1 : (s.laterM mr mv).die1 = s.die1 := by unfold State.laterM; split <;> rfl
@[simp] theorem laterM_die2 : (s.laterM mr mv).die2 = s.die2 := by unfold State.laterM; split <;> rfl
@[simp] theorem laterM_die3 : (s.laterM mr mv).die3 = s.die3 := by unfold State.laterM; split <;> rfl
@[simp] theorem laterM_mem : (s.laterM mr mv).mem = s.mem := by unfold State.laterM; split <;> rfl
@[simp] theorem laterM_dirty : (s.laterM mr mv).dirty = s.dirty := by unfold State.laterM; split <;> rfl
@[simp] theorem laterM_poison : (s.laterM mr mv).poison = s.poison := by unfold State.laterM; split <;> rfl
@[simp] theorem laterM_lineKey : (s.laterM mr mv).lineKey = s.lineKey := by unfold State.laterM; split <;> rfl
@[simp] theorem laterM_keyVer : (s.laterM mr mv).keyVer = s.keyVer := by unfold State.laterM; split <;> rfl
@[simp] theorem laterM_ctrs : (s.laterM mr mv).ctrs = s.ctrs := by unfold State.laterM; split <;> rfl
@[simp] theorem laterM_time : (s.laterM mr mv).time = s.time := by unfold State.laterM; split <;> rfl
@[simp] theorem laterM_regs : (s.laterM mr mv).regs = s.regs := by unfold State.laterM; split <;> rfl
@[simp] theorem laterM_pkg : (s.laterM mr mv).pkg = s.pkg := by unfold State.laterM; split <;> rfl
@[simp] theorem laterM_pods : (s.laterM mr mv).pods = s.pods := by unfold State.laterM; split <;> rfl
@[simp] theorem laterM_hosts : (s.laterM mr mv).hosts = s.hosts := by unfold State.laterM; split <;> rfl
@[simp] theorem laterM_objs : (s.laterM mr mv).objs = s.objs := by unfold State.laterM; split <;> rfl
@[simp] theorem laterM_promises : (s.laterM mr mv).promises = s.promises := by unfold State.laterM; split <;> rfl
@[simp] theorem laterM_gens : (s.laterM mr mv).gens = s.gens := by unfold State.laterM; split <;> rfl
@[simp] theorem laterM_invs : (s.laterM mr mv).invs = s.invs := by unfold State.laterM; split <;> rfl
@[simp] theorem laterM_launches : (s.laterM mr mv).launches = s.launches := by unfold State.laterM; split <;> rfl
@[simp] theorem laterM_phasers : (s.laterM mr mv).phasers = s.phasers := by unfold State.laterM; split <;> rfl
@[simp] theorem laterM_entries : (s.laterM mr mv).entries = s.entries := by unfold State.laterM; split <;> rfl
@[simp] theorem laterM_firings : (s.laterM mr mv).firings = s.firings := by unfold State.laterM; split <;> rfl
@[simp] theorem laterM_raising : (s.laterM mr mv).raising = s.raising := by unfold State.laterM; split <;> rfl
@[simp] theorem laterM_heldRaises : (s.laterM mr mv).heldRaises = s.heldRaises := by unfold State.laterM; split <;> rfl
@[simp] theorem laterM_copies : (s.laterM mr mv).copies = s.copies := by unfold State.laterM; split <;> rfl
@[simp] theorem laterM_rows : (s.laterM mr mv).rows = s.rows := by unfold State.laterM; split <;> rfl
@[simp] theorem laterM_landRows : (s.laterM mr mv).landRows = s.landRows := by unfold State.laterM; split <;> rfl
@[simp] theorem laterM_rowSeq : (s.laterM mr mv).rowSeq = s.rowSeq := by unfold State.laterM; split <;> rfl
@[simp] theorem laterM_ctWaits : (s.laterM mr mv).ctWaits = s.ctWaits := by unfold State.laterM; split <;> rfl
@[simp] theorem laterM_leftTiles : (s.laterM mr mv).leftTiles = s.leftTiles := by unfold State.laterM; split <;> rfl
@[simp] theorem laterM_copyq : (s.laterM mr mv).copyq = s.copyq := by unfold State.laterM; split <;> rfl
@[simp] theorem laterM_dlseq : (s.laterM mr mv).dlseq = s.dlseq := by unfold State.laterM; split <;> rfl
@[simp] theorem laterM_colls : (s.laterM mr mv).colls = s.colls := by unfold State.laterM; split <;> rfl
@[simp] theorem laterM_collNo : (s.laterM mr mv).collNo = s.collNo := by unfold State.laterM; split <;> rfl
@[simp] theorem laterM_fq : (s.laterM mr mv).fq = s.fq := by unfold State.laterM; split <;> rfl
@[simp] theorem laterM_rx : (s.laterM mr mv).rx = s.rx := by unfold State.laterM; split <;> rfl
@[simp] theorem laterM_unacked : (s.laterM mr mv).unacked = s.unacked := by unfold State.laterM; split <;> rfl
@[simp] theorem laterM_backlog : (s.laterM mr mv).backlog = s.backlog := by unfold State.laterM; split <;> rfl
@[simp] theorem laterM_links : (s.laterM mr mv).links = s.links := by unfold State.laterM; split <;> rfl
@[simp] theorem laterM_routeEra : (s.laterM mr mv).routeEra = s.routeEra := by unfold State.laterM; split <;> rfl
@[simp] theorem laterM_downs : (s.laterM mr mv).downs = s.downs := by unfold State.laterM; split <;> rfl
@[simp] theorem laterM_ports : (s.laterM mr mv).ports = s.ports := by unfold State.laterM; split <;> rfl
@[simp] theorem laterM_streams : (s.laterM mr mv).streams = s.streams := by unfold State.laterM; split <;> rfl
@[simp] theorem laterM_flash : (s.laterM mr mv).flash = s.flash := by unfold State.laterM; split <;> rfl
@[simp] theorem laterM_mr : (s.laterM mr mv).mr = s.mr := by unfold State.laterM; split <;> rfl
@[simp] theorem laterM_keys : (s.laterM mr mv).keys = s.keys := by unfold State.laterM; split <;> rfl
@[simp] theorem laterM_throttle : (s.laterM mr mv).throttle = s.throttle := by unfold State.laterM; split <;> rfl
@[simp] theorem laterM_reports : (s.laterM mr mv).reports = s.reports := by unfold State.laterM; split <;> rfl
@[simp] theorem laterM_orphans : (s.laterM mr mv).orphans = s.orphans := by unfold State.laterM; split <;> rfl
@[simp] theorem laterM_awayRuns : (s.laterM mr mv).awayRuns = s.awayRuns := by unfold State.laterM; split <;> rfl
@[simp] theorem laterM_awayRegions : (s.laterM mr mv).awayRegions = s.awayRegions := by unfold State.laterM; split <;> rfl
@[simp] theorem laterM_owing : (s.laterM mr mv).owing = s.owing := by unfold State.laterM; split <;> rfl
@[simp] theorem laterM_flushes : (s.laterM mr mv).flushes = s.flushes := by unfold State.laterM; split <;> rfl
@[simp] theorem laterM_heldWrites : (s.laterM mr mv).heldWrites = s.heldWrites := by unfold State.laterM; split <;> rfl
@[simp] theorem laterM_lateRaises : (s.laterM mr mv).lateRaises = s.lateRaises := by unfold State.laterM; split <;> rfl
@[simp] theorem laterM_net : (s.laterM mr mv).net = s.net := by unfold State.laterM; split <;> rfl
@[simp] theorem laterM_outbox : (s.laterM mr mv).outbox = s.outbox := by unfold State.laterM; split <;> rfl
@[simp] theorem laterM_txFrames : (s.laterM mr mv).txFrames = s.txFrames := by unfold State.laterM; split <;> rfl
@[simp] theorem laterM_agenda : (s.laterM mr mv).agenda = s.agenda := by unfold State.laterM; split <;> rfl
@[simp] theorem laterM_issued : (s.laterM mr mv).issued = s.issued := by unfold State.laterM; split <;> rfl
@[simp] theorem laterM_fresh : (s.laterM mr mv).fresh = s.fresh := by unfold State.laterM; split <;> rfl
@[simp] theorem laterM_cx_id : (s.laterM mr mv).cx.id = s.cx.id := by unfold State.laterM; split <;> rfl
@[simp] theorem laterM_cx_status : (s.laterM mr mv).cx.status = s.cx.status := by unfold State.laterM; split <;> rfl
@[simp] theorem laterM_cx_pc : (s.laterM mr mv).cx.pc = s.cx.pc := by unfold State.laterM; split <;> rfl
@[simp] theorem laterM_cx_g : (s.laterM mr mv).cx.g = s.cx.g := by unfold State.laterM; split <;> rfl
@[simp] theorem laterM_cx_p : (s.laterM mr mv).cx.p = s.cx.p := by unfold State.laterM; split <;> rfl
@[simp] theorem laterM_cx_a : (s.laterM mr mv).cx.a = s.cx.a := by unfold State.laterM; split <;> rfl
@[simp] theorem laterM_cx_m : (s.laterM mr mv).cx.m = s.cx.m := by unfold State.laterM; split <;> rfl
@[simp] theorem laterM_cx_q : (s.laterM mr mv).cx.q = s.cx.q := by unfold State.laterM; split <;> rfl
@[simp] theorem laterM_cx_t : (s.laterM mr mv).cx.t = s.cx.t := by unfold State.laterM; split <;> rfl
@[simp] theorem laterM_cx_x : (s.laterM mr mv).cx.x = s.cx.x := by unfold State.laterM; split <;> rfl
@[simp] theorem laterM_cx_sums : (s.laterM mr mv).cx.sums = s.cx.sums := by unfold State.laterM; split <;> rfl
@[simp] theorem laterM_cx_sumBad : (s.laterM mr mv).cx.sumBad = s.cx.sumBad := by unfold State.laterM; split <;> rfl
@[simp] theorem laterM_cx_rep : (s.laterM mr mv).cx.rep = s.cx.rep := by unfold State.laterM; split <;> rfl
@[simp] theorem laterM_cx_gen : (s.laterM mr mv).cx.gen = s.cx.gen := by unfold State.laterM; split <;> rfl
@[simp] theorem laterM_cx_seed : (s.laterM mr mv).cx.seed = s.cx.seed := by unfold State.laterM; split <;> rfl
@[simp] theorem laterM_cx_lnum : (s.laterM mr mv).cx.lnum = s.cx.lnum := by unfold State.laterM; split <;> rfl
@[simp] theorem laterM_cx_fltva : (s.laterM mr mv).cx.fltva = s.cx.fltva := by unfold State.laterM; split <;> rfl
@[simp] theorem laterM_cx_fltinfo : (s.laterM mr mv).cx.fltinfo = s.cx.fltinfo := by unfold State.laterM; split <;> rfl
@[simp] theorem laterM_cx_region : (s.laterM mr mv).cx.region = s.cx.region := by unfold State.laterM; split <;> rfl
@[simp] theorem laterM_cx_deadline : (s.laterM mr mv).cx.deadline = s.cx.deadline := by unfold State.laterM; split <;> rfl
@[simp] theorem laterM_cx_prio : (s.laterM mr mv).cx.prio = s.cx.prio := by unfold State.laterM; split <;> rfl
@[simp] theorem laterM_cx_rmode : (s.laterM mr mv).cx.rmode = s.cx.rmode := by unfold State.laterM; split <;> rfl
@[simp] theorem laterM_cx_atmode : (s.laterM mr mv).cx.atmode = s.cx.atmode := by unfold State.laterM; split <;> rfl
@[simp] theorem laterM_cx_priv : (s.laterM mr mv).cx.priv = s.cx.priv := by unfold State.laterM; split <;> rfl
@[simp] theorem laterM_cx_gang : (s.laterM mr mv).cx.gang = s.cx.gang := by unfold State.laterM; split <;> rfl
@[simp] theorem laterM_cx_gidx : (s.laterM mr mv).cx.gidx = s.cx.gidx := by unfold State.laterM; split <;> rfl
@[simp] theorem laterM_cx_late : (s.laterM mr mv).cx.late = s.cx.late := by unfold State.laterM; split <;> rfl
@[simp] theorem laterM_cx_alog : (s.laterM mr mv).cx.alog = s.cx.alog := by unfold State.laterM; split <;> rfl
@[simp] theorem laterM_cx_sepc : (s.laterM mr mv).cx.sepc = s.cx.sepc := by unfold State.laterM; split <;> rfl
@[simp] theorem laterM_cx_spriv : (s.laterM mr mv).cx.spriv = s.cx.spriv := by unfold State.laterM; split <;> rfl
@[simp] theorem laterM_cx_snum : (s.laterM mr mv).cx.snum = s.cx.snum := by unfold State.laterM; split <;> rfl
@[simp] theorem laterM_cx_sscr : (s.laterM mr mv).cx.sscr = s.cx.sscr := by unfold State.laterM; split <;> rfl
@[simp] theorem laterM_cx_pctx : (s.laterM mr mv).cx.pctx = s.cx.pctx := by unfold State.laterM; split <;> rfl
@[simp] theorem laterM_cx_pceil : (s.laterM mr mv).cx.pceil = s.cx.pceil := by unfold State.laterM; split <;> rfl
@[simp] theorem laterM_cx_dbgen : (s.laterM mr mv).cx.dbgen = s.cx.dbgen := by unfold State.laterM; split <;> rfl
@[simp] theorem laterM_cx_prot : (s.laterM mr mv).cx.prot = s.cx.prot := by unfold State.laterM; split <;> rfl
@[simp] theorem laterM_cx_landed : (s.laterM mr mv).cx.landed = s.cx.landed := by unfold State.laterM; split <;> rfl
@[simp] theorem laterM_cx_runLen : (s.laterM mr mv).cx.runLen = s.cx.runLen := by unfold State.laterM; split <;> rfl
@[simp] theorem laterM_cx_fault : (s.laterM mr mv).cx.fault = s.cx.fault := by unfold State.laterM; split <;> rfl
@[simp] theorem laterM_cx_errs : (s.laterM mr mv).cx.errs = s.cx.errs := by unfold State.laterM; split <;> rfl
@[simp] theorem laterM_cx_rgfail : (s.laterM mr mv).cx.rgfail = s.cx.rgfail := by unfold State.laterM; split <;> rfl
@[simp] theorem laterM_cx_got : (s.laterM mr mv).cx.got = s.cx.got := by unfold State.laterM; split <;> rfl
@[simp] theorem laterM_cx_code : (s.laterM mr mv).cx.code = s.cx.code := by unfold State.laterM; split <;> rfl
@[simp] theorem laterM_cx_poll : (s.laterM mr mv).cx.poll = s.cx.poll := by unfold State.laterM; split <;> rfl
@[simp] theorem laterM_cx_thawed : (s.laterM mr mv).cx.thawed = s.cx.thawed := by unfold State.laterM; split <;> rfl
@[simp] theorem laterM_cx_toldHalt : (s.laterM mr mv).cx.toldHalt = s.cx.toldHalt := by unfold State.laterM; split <;> rfl
@[simp] theorem laterM_cx_joined : (s.laterM mr mv).cx.joined = s.cx.joined := by unfold State.laterM; split <;> rfl
@[simp] theorem laterM_cx_rem : (s.laterM mr mv).cx.rem = s.cx.rem := by unfold State.laterM; split <;> rfl
@[simp] theorem laterM_cx_wrote : (s.laterM mr mv).cx.wrote = s.cx.wrote := by unfold State.laterM; split <;> rfl
@[simp] theorem laterM_cx_mbox : (s.laterM mr mv).cx.mbox = s.cx.mbox := by unfold State.laterM; split <;> rfl
@[simp] theorem laterM_cx_lists : (s.laterM mr mv).cx.lists = s.cx.lists := by unfold State.laterM; split <;> rfl
@[simp] theorem laterM_cx_flushes : (s.laterM mr mv).cx.flushes = s.cx.flushes := by unfold State.laterM; split <;> rfl
@[simp] theorem laterM_cx_opened : (s.laterM mr mv).cx.opened = s.cx.opened := by unfold State.laterM; split <;> rfl
@[simp] theorem laterM_cx_invks : (s.laterM mr mv).cx.invks = s.cx.invks := by unfold State.laterM; split <;> rfl
@[simp] theorem laterM_cx_run : (s.laterM mr mv).cx.run = s.cx.run := by unfold State.laterM; split <;> rfl
@[simp] theorem laterM_cx_gdone : (s.laterM mr mv).cx.gdone = s.cx.gdone := by unfold State.laterM; split <;> rfl
@[simp] theorem laterM_cx_arrived : (s.laterM mr mv).cx.arrived = s.cx.arrived := by unfold State.laterM; split <;> rfl
@[simp] theorem laterM_cx_firm : (s.laterM mr mv).cx.firm = s.cx.firm := by unfold State.laterM; split <;> rfl
@[simp] theorem laterM_cx_haltReq : (s.laterM mr mv).cx.haltReq = s.cx.haltReq := by unfold State.laterM; split <;> rfl
@[simp] theorem laterM_cx_yielded : (s.laterM mr mv).cx.yielded = s.cx.yielded := by unfold State.laterM; split <;> rfl
@[simp] theorem laterM_cx_victim : (s.laterM mr mv).cx.victim = s.cx.victim := by unfold State.laterM; split <;> rfl
@[simp] theorem laterM_cx_unpin : (s.laterM mr mv).cx.unpin = s.cx.unpin := by unfold State.laterM; split <;> rfl

/-! ### laterQ -/
@[simp] theorem laterQ_ctxs : (s.laterQ qr b).ctxs = s.ctxs := by unfold State.laterQ; split <;> rfl
@[simp] theorem laterQ_cores : (s.laterQ qr b).cores = s.cores := by unfold State.laterQ; split <;> rfl
@[simp] theorem laterQ_die0 : (s.laterQ qr b).die0 = s.die0 := by unfold State.laterQ; split <;> rfl
@[simp] theorem laterQ_die1 : (s.laterQ qr b).die1 = s.die1 := by unfold State.laterQ; split <;> rfl
@[simp] theorem laterQ_die2 : (s.laterQ qr b).die2 = s.die2 := by unfold State.laterQ; split <;> rfl
@[simp] theorem laterQ_die3 : (s.laterQ qr b).die3 = s.die3 := by unfold State.laterQ; split <;> rfl
@[simp] theorem laterQ_mem : (s.laterQ qr b).mem = s.mem := by unfold State.laterQ; split <;> rfl
@[simp] theorem laterQ_dirty : (s.laterQ qr b).dirty = s.dirty := by unfold State.laterQ; split <;> rfl
@[simp] theorem laterQ_poison : (s.laterQ qr b).poison = s.poison := by unfold State.laterQ; split <;> rfl
@[simp] theorem laterQ_lineKey : (s.laterQ qr b).lineKey = s.lineKey := by unfold State.laterQ; split <;> rfl
@[simp] theorem laterQ_keyVer : (s.laterQ qr b).keyVer = s.keyVer := by unfold State.laterQ; split <;> rfl
@[simp] theorem laterQ_ctrs : (s.laterQ qr b).ctrs = s.ctrs := by unfold State.laterQ; split <;> rfl
@[simp] theorem laterQ_time : (s.laterQ qr b).time = s.time := by unfold State.laterQ; split <;> rfl
@[simp] theorem laterQ_regs : (s.laterQ qr b).regs = s.regs := by unfold State.laterQ; split <;> rfl
@[simp] theorem laterQ_pkg : (s.laterQ qr b).pkg = s.pkg := by unfold State.laterQ; split <;> rfl
@[simp] theorem laterQ_pods : (s.laterQ qr b).pods = s.pods := by unfold State.laterQ; split <;> rfl
@[simp] theorem laterQ_hosts : (s.laterQ qr b).hosts = s.hosts := by unfold State.laterQ; split <;> rfl
@[simp] theorem laterQ_objs : (s.laterQ qr b).objs = s.objs := by unfold State.laterQ; split <;> rfl
@[simp] theorem laterQ_promises : (s.laterQ qr b).promises = s.promises := by unfold State.laterQ; split <;> rfl
@[simp] theorem laterQ_gens : (s.laterQ qr b).gens = s.gens := by unfold State.laterQ; split <;> rfl
@[simp] theorem laterQ_invs : (s.laterQ qr b).invs = s.invs := by unfold State.laterQ; split <;> rfl
@[simp] theorem laterQ_launches : (s.laterQ qr b).launches = s.launches := by unfold State.laterQ; split <;> rfl
@[simp] theorem laterQ_phasers : (s.laterQ qr b).phasers = s.phasers := by unfold State.laterQ; split <;> rfl
@[simp] theorem laterQ_entries : (s.laterQ qr b).entries = s.entries := by unfold State.laterQ; split <;> rfl
@[simp] theorem laterQ_firings : (s.laterQ qr b).firings = s.firings := by unfold State.laterQ; split <;> rfl
@[simp] theorem laterQ_raising : (s.laterQ qr b).raising = s.raising := by unfold State.laterQ; split <;> rfl
@[simp] theorem laterQ_heldRaises : (s.laterQ qr b).heldRaises = s.heldRaises := by unfold State.laterQ; split <;> rfl
@[simp] theorem laterQ_copies : (s.laterQ qr b).copies = s.copies := by unfold State.laterQ; split <;> rfl
@[simp] theorem laterQ_rows : (s.laterQ qr b).rows = s.rows := by unfold State.laterQ; split <;> rfl
@[simp] theorem laterQ_landRows : (s.laterQ qr b).landRows = s.landRows := by unfold State.laterQ; split <;> rfl
@[simp] theorem laterQ_rowSeq : (s.laterQ qr b).rowSeq = s.rowSeq := by unfold State.laterQ; split <;> rfl
@[simp] theorem laterQ_ctWaits : (s.laterQ qr b).ctWaits = s.ctWaits := by unfold State.laterQ; split <;> rfl
@[simp] theorem laterQ_leftTiles : (s.laterQ qr b).leftTiles = s.leftTiles := by unfold State.laterQ; split <;> rfl
@[simp] theorem laterQ_copyq : (s.laterQ qr b).copyq = s.copyq := by unfold State.laterQ; split <;> rfl
@[simp] theorem laterQ_dlseq : (s.laterQ qr b).dlseq = s.dlseq := by unfold State.laterQ; split <;> rfl
@[simp] theorem laterQ_colls : (s.laterQ qr b).colls = s.colls := by unfold State.laterQ; split <;> rfl
@[simp] theorem laterQ_collNo : (s.laterQ qr b).collNo = s.collNo := by unfold State.laterQ; split <;> rfl
@[simp] theorem laterQ_fq : (s.laterQ qr b).fq = s.fq := by unfold State.laterQ; split <;> rfl
@[simp] theorem laterQ_rx : (s.laterQ qr b).rx = s.rx := by unfold State.laterQ; split <;> rfl
@[simp] theorem laterQ_unacked : (s.laterQ qr b).unacked = s.unacked := by unfold State.laterQ; split <;> rfl
@[simp] theorem laterQ_backlog : (s.laterQ qr b).backlog = s.backlog := by unfold State.laterQ; split <;> rfl
@[simp] theorem laterQ_links : (s.laterQ qr b).links = s.links := by unfold State.laterQ; split <;> rfl
@[simp] theorem laterQ_routeEra : (s.laterQ qr b).routeEra = s.routeEra := by unfold State.laterQ; split <;> rfl
@[simp] theorem laterQ_downs : (s.laterQ qr b).downs = s.downs := by unfold State.laterQ; split <;> rfl
@[simp] theorem laterQ_ports : (s.laterQ qr b).ports = s.ports := by unfold State.laterQ; split <;> rfl
@[simp] theorem laterQ_streams : (s.laterQ qr b).streams = s.streams := by unfold State.laterQ; split <;> rfl
@[simp] theorem laterQ_flash : (s.laterQ qr b).flash = s.flash := by unfold State.laterQ; split <;> rfl
@[simp] theorem laterQ_mr : (s.laterQ qr b).mr = s.mr := by unfold State.laterQ; split <;> rfl
@[simp] theorem laterQ_keys : (s.laterQ qr b).keys = s.keys := by unfold State.laterQ; split <;> rfl
@[simp] theorem laterQ_throttle : (s.laterQ qr b).throttle = s.throttle := by unfold State.laterQ; split <;> rfl
@[simp] theorem laterQ_reports : (s.laterQ qr b).reports = s.reports := by unfold State.laterQ; split <;> rfl
@[simp] theorem laterQ_orphans : (s.laterQ qr b).orphans = s.orphans := by unfold State.laterQ; split <;> rfl
@[simp] theorem laterQ_awayRuns : (s.laterQ qr b).awayRuns = s.awayRuns := by unfold State.laterQ; split <;> rfl
@[simp] theorem laterQ_awayRegions : (s.laterQ qr b).awayRegions = s.awayRegions := by unfold State.laterQ; split <;> rfl
@[simp] theorem laterQ_owing : (s.laterQ qr b).owing = s.owing := by unfold State.laterQ; split <;> rfl
@[simp] theorem laterQ_flushes : (s.laterQ qr b).flushes = s.flushes := by unfold State.laterQ; split <;> rfl
@[simp] theorem laterQ_heldWrites : (s.laterQ qr b).heldWrites = s.heldWrites := by unfold State.laterQ; split <;> rfl
@[simp] theorem laterQ_lateRaises : (s.laterQ qr b).lateRaises = s.lateRaises := by unfold State.laterQ; split <;> rfl
@[simp] theorem laterQ_net : (s.laterQ qr b).net = s.net := by unfold State.laterQ; split <;> rfl
@[simp] theorem laterQ_outbox : (s.laterQ qr b).outbox = s.outbox := by unfold State.laterQ; split <;> rfl
@[simp] theorem laterQ_txFrames : (s.laterQ qr b).txFrames = s.txFrames := by unfold State.laterQ; split <;> rfl
@[simp] theorem laterQ_agenda : (s.laterQ qr b).agenda = s.agenda := by unfold State.laterQ; split <;> rfl
@[simp] theorem laterQ_issued : (s.laterQ qr b).issued = s.issued := by unfold State.laterQ; split <;> rfl
@[simp] theorem laterQ_fresh : (s.laterQ qr b).fresh = s.fresh := by unfold State.laterQ; split <;> rfl
@[simp] theorem laterQ_cx_id : (s.laterQ qr b).cx.id = s.cx.id := by unfold State.laterQ; split <;> rfl
@[simp] theorem laterQ_cx_status : (s.laterQ qr b).cx.status = s.cx.status := by unfold State.laterQ; split <;> rfl
@[simp] theorem laterQ_cx_pc : (s.laterQ qr b).cx.pc = s.cx.pc := by unfold State.laterQ; split <;> rfl
@[simp] theorem laterQ_cx_g : (s.laterQ qr b).cx.g = s.cx.g := by unfold State.laterQ; split <;> rfl
@[simp] theorem laterQ_cx_p : (s.laterQ qr b).cx.p = s.cx.p := by unfold State.laterQ; split <;> rfl
@[simp] theorem laterQ_cx_a : (s.laterQ qr b).cx.a = s.cx.a := by unfold State.laterQ; split <;> rfl
@[simp] theorem laterQ_cx_m : (s.laterQ qr b).cx.m = s.cx.m := by unfold State.laterQ; split <;> rfl
@[simp] theorem laterQ_cx_q : (s.laterQ qr b).cx.q = s.cx.q := by unfold State.laterQ; split <;> rfl
@[simp] theorem laterQ_cx_t : (s.laterQ qr b).cx.t = s.cx.t := by unfold State.laterQ; split <;> rfl
@[simp] theorem laterQ_cx_x : (s.laterQ qr b).cx.x = s.cx.x := by unfold State.laterQ; split <;> rfl
@[simp] theorem laterQ_cx_sums : (s.laterQ qr b).cx.sums = s.cx.sums := by unfold State.laterQ; split <;> rfl
@[simp] theorem laterQ_cx_sumBad : (s.laterQ qr b).cx.sumBad = s.cx.sumBad := by unfold State.laterQ; split <;> rfl
@[simp] theorem laterQ_cx_rep : (s.laterQ qr b).cx.rep = s.cx.rep := by unfold State.laterQ; split <;> rfl
@[simp] theorem laterQ_cx_gen : (s.laterQ qr b).cx.gen = s.cx.gen := by unfold State.laterQ; split <;> rfl
@[simp] theorem laterQ_cx_seed : (s.laterQ qr b).cx.seed = s.cx.seed := by unfold State.laterQ; split <;> rfl
@[simp] theorem laterQ_cx_lnum : (s.laterQ qr b).cx.lnum = s.cx.lnum := by unfold State.laterQ; split <;> rfl
@[simp] theorem laterQ_cx_fltva : (s.laterQ qr b).cx.fltva = s.cx.fltva := by unfold State.laterQ; split <;> rfl
@[simp] theorem laterQ_cx_fltinfo : (s.laterQ qr b).cx.fltinfo = s.cx.fltinfo := by unfold State.laterQ; split <;> rfl
@[simp] theorem laterQ_cx_region : (s.laterQ qr b).cx.region = s.cx.region := by unfold State.laterQ; split <;> rfl
@[simp] theorem laterQ_cx_deadline : (s.laterQ qr b).cx.deadline = s.cx.deadline := by unfold State.laterQ; split <;> rfl
@[simp] theorem laterQ_cx_prio : (s.laterQ qr b).cx.prio = s.cx.prio := by unfold State.laterQ; split <;> rfl
@[simp] theorem laterQ_cx_rmode : (s.laterQ qr b).cx.rmode = s.cx.rmode := by unfold State.laterQ; split <;> rfl
@[simp] theorem laterQ_cx_atmode : (s.laterQ qr b).cx.atmode = s.cx.atmode := by unfold State.laterQ; split <;> rfl
@[simp] theorem laterQ_cx_priv : (s.laterQ qr b).cx.priv = s.cx.priv := by unfold State.laterQ; split <;> rfl
@[simp] theorem laterQ_cx_gang : (s.laterQ qr b).cx.gang = s.cx.gang := by unfold State.laterQ; split <;> rfl
@[simp] theorem laterQ_cx_gidx : (s.laterQ qr b).cx.gidx = s.cx.gidx := by unfold State.laterQ; split <;> rfl
@[simp] theorem laterQ_cx_late : (s.laterQ qr b).cx.late = s.cx.late := by unfold State.laterQ; split <;> rfl
@[simp] theorem laterQ_cx_alog : (s.laterQ qr b).cx.alog = s.cx.alog := by unfold State.laterQ; split <;> rfl
@[simp] theorem laterQ_cx_sepc : (s.laterQ qr b).cx.sepc = s.cx.sepc := by unfold State.laterQ; split <;> rfl
@[simp] theorem laterQ_cx_spriv : (s.laterQ qr b).cx.spriv = s.cx.spriv := by unfold State.laterQ; split <;> rfl
@[simp] theorem laterQ_cx_snum : (s.laterQ qr b).cx.snum = s.cx.snum := by unfold State.laterQ; split <;> rfl
@[simp] theorem laterQ_cx_sscr : (s.laterQ qr b).cx.sscr = s.cx.sscr := by unfold State.laterQ; split <;> rfl
@[simp] theorem laterQ_cx_pctx : (s.laterQ qr b).cx.pctx = s.cx.pctx := by unfold State.laterQ; split <;> rfl
@[simp] theorem laterQ_cx_pceil : (s.laterQ qr b).cx.pceil = s.cx.pceil := by unfold State.laterQ; split <;> rfl
@[simp] theorem laterQ_cx_dbgen : (s.laterQ qr b).cx.dbgen = s.cx.dbgen := by unfold State.laterQ; split <;> rfl
@[simp] theorem laterQ_cx_prot : (s.laterQ qr b).cx.prot = s.cx.prot := by unfold State.laterQ; split <;> rfl
@[simp] theorem laterQ_cx_landed : (s.laterQ qr b).cx.landed = s.cx.landed := by unfold State.laterQ; split <;> rfl
@[simp] theorem laterQ_cx_runLen : (s.laterQ qr b).cx.runLen = s.cx.runLen := by unfold State.laterQ; split <;> rfl
@[simp] theorem laterQ_cx_fault : (s.laterQ qr b).cx.fault = s.cx.fault := by unfold State.laterQ; split <;> rfl
@[simp] theorem laterQ_cx_errs : (s.laterQ qr b).cx.errs = s.cx.errs := by unfold State.laterQ; split <;> rfl
@[simp] theorem laterQ_cx_rgfail : (s.laterQ qr b).cx.rgfail = s.cx.rgfail := by unfold State.laterQ; split <;> rfl
@[simp] theorem laterQ_cx_got : (s.laterQ qr b).cx.got = s.cx.got := by unfold State.laterQ; split <;> rfl
@[simp] theorem laterQ_cx_code : (s.laterQ qr b).cx.code = s.cx.code := by unfold State.laterQ; split <;> rfl
@[simp] theorem laterQ_cx_poll : (s.laterQ qr b).cx.poll = s.cx.poll := by unfold State.laterQ; split <;> rfl
@[simp] theorem laterQ_cx_thawed : (s.laterQ qr b).cx.thawed = s.cx.thawed := by unfold State.laterQ; split <;> rfl
@[simp] theorem laterQ_cx_toldHalt : (s.laterQ qr b).cx.toldHalt = s.cx.toldHalt := by unfold State.laterQ; split <;> rfl
@[simp] theorem laterQ_cx_joined : (s.laterQ qr b).cx.joined = s.cx.joined := by unfold State.laterQ; split <;> rfl
@[simp] theorem laterQ_cx_rem : (s.laterQ qr b).cx.rem = s.cx.rem := by unfold State.laterQ; split <;> rfl
@[simp] theorem laterQ_cx_wrote : (s.laterQ qr b).cx.wrote = s.cx.wrote := by unfold State.laterQ; split <;> rfl
@[simp] theorem laterQ_cx_mbox : (s.laterQ qr b).cx.mbox = s.cx.mbox := by unfold State.laterQ; split <;> rfl
@[simp] theorem laterQ_cx_lists : (s.laterQ qr b).cx.lists = s.cx.lists := by unfold State.laterQ; split <;> rfl
@[simp] theorem laterQ_cx_flushes : (s.laterQ qr b).cx.flushes = s.cx.flushes := by unfold State.laterQ; split <;> rfl
@[simp] theorem laterQ_cx_opened : (s.laterQ qr b).cx.opened = s.cx.opened := by unfold State.laterQ; split <;> rfl
@[simp] theorem laterQ_cx_invks : (s.laterQ qr b).cx.invks = s.cx.invks := by unfold State.laterQ; split <;> rfl
@[simp] theorem laterQ_cx_run : (s.laterQ qr b).cx.run = s.cx.run := by unfold State.laterQ; split <;> rfl
@[simp] theorem laterQ_cx_gdone : (s.laterQ qr b).cx.gdone = s.cx.gdone := by unfold State.laterQ; split <;> rfl
@[simp] theorem laterQ_cx_arrived : (s.laterQ qr b).cx.arrived = s.cx.arrived := by unfold State.laterQ; split <;> rfl
@[simp] theorem laterQ_cx_firm : (s.laterQ qr b).cx.firm = s.cx.firm := by unfold State.laterQ; split <;> rfl
@[simp] theorem laterQ_cx_haltReq : (s.laterQ qr b).cx.haltReq = s.cx.haltReq := by unfold State.laterQ; split <;> rfl
@[simp] theorem laterQ_cx_yielded : (s.laterQ qr b).cx.yielded = s.cx.yielded := by unfold State.laterQ; split <;> rfl
@[simp] theorem laterQ_cx_victim : (s.laterQ qr b).cx.victim = s.cx.victim := by unfold State.laterQ; split <;> rfl
@[simp] theorem laterQ_cx_unpin : (s.laterQ qr b).cx.unpin = s.cx.unpin := by unfold State.laterQ; split <;> rfl

/-! ### tick -/
@[simp] theorem tick_cx : (s.tick).cx = s.cx := rfl
@[simp] theorem tick_ctxs : (s.tick).ctxs = s.ctxs := rfl
@[simp] theorem tick_cores : (s.tick).cores = s.cores := rfl
@[simp] theorem tick_die0 : (s.tick).die0 = s.die0 := rfl
@[simp] theorem tick_die1 : (s.tick).die1 = s.die1 := rfl
@[simp] theorem tick_die2 : (s.tick).die2 = s.die2 := rfl
@[simp] theorem tick_die3 : (s.tick).die3 = s.die3 := rfl
@[simp] theorem tick_mem : (s.tick).mem = s.mem := rfl
@[simp] theorem tick_dirty : (s.tick).dirty = s.dirty := rfl
@[simp] theorem tick_poison : (s.tick).poison = s.poison := rfl
@[simp] theorem tick_lineKey : (s.tick).lineKey = s.lineKey := rfl
@[simp] theorem tick_keyVer : (s.tick).keyVer = s.keyVer := rfl
@[simp] theorem tick_ctrs : (s.tick).ctrs = s.ctrs := rfl
@[simp] theorem tick_regs : (s.tick).regs = s.regs := rfl
@[simp] theorem tick_pkg : (s.tick).pkg = s.pkg := rfl
@[simp] theorem tick_pods : (s.tick).pods = s.pods := rfl
@[simp] theorem tick_hosts : (s.tick).hosts = s.hosts := rfl
@[simp] theorem tick_objs : (s.tick).objs = s.objs := rfl
@[simp] theorem tick_promises : (s.tick).promises = s.promises := rfl
@[simp] theorem tick_gens : (s.tick).gens = s.gens := rfl
@[simp] theorem tick_invs : (s.tick).invs = s.invs := rfl
@[simp] theorem tick_launches : (s.tick).launches = s.launches := rfl
@[simp] theorem tick_phasers : (s.tick).phasers = s.phasers := rfl
@[simp] theorem tick_entries : (s.tick).entries = s.entries := rfl
@[simp] theorem tick_firings : (s.tick).firings = s.firings := rfl
@[simp] theorem tick_raising : (s.tick).raising = s.raising := rfl
@[simp] theorem tick_heldRaises : (s.tick).heldRaises = s.heldRaises := rfl
@[simp] theorem tick_copies : (s.tick).copies = s.copies := rfl
@[simp] theorem tick_rows : (s.tick).rows = s.rows := rfl
@[simp] theorem tick_landRows : (s.tick).landRows = s.landRows := rfl
@[simp] theorem tick_rowSeq : (s.tick).rowSeq = s.rowSeq := rfl
@[simp] theorem tick_ctWaits : (s.tick).ctWaits = s.ctWaits := rfl
@[simp] theorem tick_leftTiles : (s.tick).leftTiles = s.leftTiles := rfl
@[simp] theorem tick_copyq : (s.tick).copyq = s.copyq := rfl
@[simp] theorem tick_dlseq : (s.tick).dlseq = s.dlseq := rfl
@[simp] theorem tick_colls : (s.tick).colls = s.colls := rfl
@[simp] theorem tick_collNo : (s.tick).collNo = s.collNo := rfl
@[simp] theorem tick_fq : (s.tick).fq = s.fq := rfl
@[simp] theorem tick_rx : (s.tick).rx = s.rx := rfl
@[simp] theorem tick_unacked : (s.tick).unacked = s.unacked := rfl
@[simp] theorem tick_backlog : (s.tick).backlog = s.backlog := rfl
@[simp] theorem tick_links : (s.tick).links = s.links := rfl
@[simp] theorem tick_routeEra : (s.tick).routeEra = s.routeEra := rfl
@[simp] theorem tick_downs : (s.tick).downs = s.downs := rfl
@[simp] theorem tick_ports : (s.tick).ports = s.ports := rfl
@[simp] theorem tick_streams : (s.tick).streams = s.streams := rfl
@[simp] theorem tick_flash : (s.tick).flash = s.flash := rfl
@[simp] theorem tick_mr : (s.tick).mr = s.mr := rfl
@[simp] theorem tick_keys : (s.tick).keys = s.keys := rfl
@[simp] theorem tick_throttle : (s.tick).throttle = s.throttle := rfl
@[simp] theorem tick_reports : (s.tick).reports = s.reports := rfl
@[simp] theorem tick_orphans : (s.tick).orphans = s.orphans := rfl
@[simp] theorem tick_awayRuns : (s.tick).awayRuns = s.awayRuns := rfl
@[simp] theorem tick_awayRegions : (s.tick).awayRegions = s.awayRegions := rfl
@[simp] theorem tick_owing : (s.tick).owing = s.owing := rfl
@[simp] theorem tick_flushes : (s.tick).flushes = s.flushes := rfl
@[simp] theorem tick_heldWrites : (s.tick).heldWrites = s.heldWrites := rfl
@[simp] theorem tick_lateRaises : (s.tick).lateRaises = s.lateRaises := rfl
@[simp] theorem tick_net : (s.tick).net = s.net := rfl
@[simp] theorem tick_outbox : (s.tick).outbox = s.outbox := rfl
@[simp] theorem tick_txFrames : (s.tick).txFrames = s.txFrames := rfl
@[simp] theorem tick_agenda : (s.tick).agenda = s.agenda := rfl
@[simp] theorem tick_issued : (s.tick).issued = s.issued := rfl
@[simp] theorem tick_fresh : (s.tick).fresh = s.fresh := rfl

/-! ### counted -/
@[simp] theorem counted_cx : (s.counted).cx = s.cx := rfl
@[simp] theorem counted_ctxs : (s.counted).ctxs = s.ctxs := rfl
@[simp] theorem counted_cores : (s.counted).cores = s.cores := rfl
@[simp] theorem counted_die0 : (s.counted).die0 = s.die0 := rfl
@[simp] theorem counted_die1 : (s.counted).die1 = s.die1 := rfl
@[simp] theorem counted_die2 : (s.counted).die2 = s.die2 := rfl
@[simp] theorem counted_die3 : (s.counted).die3 = s.die3 := rfl
@[simp] theorem counted_mem : (s.counted).mem = s.mem := rfl
@[simp] theorem counted_dirty : (s.counted).dirty = s.dirty := rfl
@[simp] theorem counted_poison : (s.counted).poison = s.poison := rfl
@[simp] theorem counted_lineKey : (s.counted).lineKey = s.lineKey := rfl
@[simp] theorem counted_keyVer : (s.counted).keyVer = s.keyVer := rfl
@[simp] theorem counted_ctrs : (s.counted).ctrs = s.ctrs := rfl
@[simp] theorem counted_regs : (s.counted).regs = s.regs := rfl
@[simp] theorem counted_pkg : (s.counted).pkg = s.pkg := rfl
@[simp] theorem counted_pods : (s.counted).pods = s.pods := rfl
@[simp] theorem counted_hosts : (s.counted).hosts = s.hosts := rfl
@[simp] theorem counted_objs : (s.counted).objs = s.objs := rfl
@[simp] theorem counted_promises : (s.counted).promises = s.promises := rfl
@[simp] theorem counted_gens : (s.counted).gens = s.gens := rfl
@[simp] theorem counted_invs : (s.counted).invs = s.invs := rfl
@[simp] theorem counted_launches : (s.counted).launches = s.launches := rfl
@[simp] theorem counted_phasers : (s.counted).phasers = s.phasers := rfl
@[simp] theorem counted_entries : (s.counted).entries = s.entries := rfl
@[simp] theorem counted_firings : (s.counted).firings = s.firings := rfl
@[simp] theorem counted_raising : (s.counted).raising = s.raising := rfl
@[simp] theorem counted_heldRaises : (s.counted).heldRaises = s.heldRaises := rfl
@[simp] theorem counted_copies : (s.counted).copies = s.copies := rfl
@[simp] theorem counted_rows : (s.counted).rows = s.rows := rfl
@[simp] theorem counted_landRows : (s.counted).landRows = s.landRows := rfl
@[simp] theorem counted_rowSeq : (s.counted).rowSeq = s.rowSeq := rfl
@[simp] theorem counted_ctWaits : (s.counted).ctWaits = s.ctWaits := rfl
@[simp] theorem counted_leftTiles : (s.counted).leftTiles = s.leftTiles := rfl
@[simp] theorem counted_copyq : (s.counted).copyq = s.copyq := rfl
@[simp] theorem counted_dlseq : (s.counted).dlseq = s.dlseq := rfl
@[simp] theorem counted_colls : (s.counted).colls = s.colls := rfl
@[simp] theorem counted_collNo : (s.counted).collNo = s.collNo := rfl
@[simp] theorem counted_fq : (s.counted).fq = s.fq := rfl
@[simp] theorem counted_rx : (s.counted).rx = s.rx := rfl
@[simp] theorem counted_unacked : (s.counted).unacked = s.unacked := rfl
@[simp] theorem counted_backlog : (s.counted).backlog = s.backlog := rfl
@[simp] theorem counted_links : (s.counted).links = s.links := rfl
@[simp] theorem counted_routeEra : (s.counted).routeEra = s.routeEra := rfl
@[simp] theorem counted_downs : (s.counted).downs = s.downs := rfl
@[simp] theorem counted_ports : (s.counted).ports = s.ports := rfl
@[simp] theorem counted_streams : (s.counted).streams = s.streams := rfl
@[simp] theorem counted_flash : (s.counted).flash = s.flash := rfl
@[simp] theorem counted_mr : (s.counted).mr = s.mr := rfl
@[simp] theorem counted_keys : (s.counted).keys = s.keys := rfl
@[simp] theorem counted_throttle : (s.counted).throttle = s.throttle := rfl
@[simp] theorem counted_reports : (s.counted).reports = s.reports := rfl
@[simp] theorem counted_orphans : (s.counted).orphans = s.orphans := rfl
@[simp] theorem counted_awayRuns : (s.counted).awayRuns = s.awayRuns := rfl
@[simp] theorem counted_awayRegions : (s.counted).awayRegions = s.awayRegions := rfl
@[simp] theorem counted_owing : (s.counted).owing = s.owing := rfl
@[simp] theorem counted_flushes : (s.counted).flushes = s.flushes := rfl
@[simp] theorem counted_heldWrites : (s.counted).heldWrites = s.heldWrites := rfl
@[simp] theorem counted_lateRaises : (s.counted).lateRaises = s.lateRaises := rfl
@[simp] theorem counted_net : (s.counted).net = s.net := rfl
@[simp] theorem counted_outbox : (s.counted).outbox = s.outbox := rfl
@[simp] theorem counted_txFrames : (s.counted).txFrames = s.txFrames := rfl
@[simp] theorem counted_agenda : (s.counted).agenda = s.agenda := rfl
@[simp] theorem counted_fresh : (s.counted).fresh = s.fresh := rfl

/-! ### endRun -/
@[simp] theorem endRun_ctxs : (s.endRun).ctxs = s.ctxs := rfl
@[simp] theorem endRun_cores : (s.endRun).cores = s.cores := rfl
@[simp] theorem endRun_die0 : (s.endRun).die0 = s.die0 := rfl
@[simp] theorem endRun_die1 : (s.endRun).die1 = s.die1 := rfl
@[simp] theorem endRun_die2 : (s.endRun).die2 = s.die2 := rfl
@[simp] theorem endRun_die3 : (s.endRun).die3 = s.die3 := rfl
@[simp] theorem endRun_mem : (s.endRun).mem = s.mem := rfl
@[simp] theorem endRun_dirty : (s.endRun).dirty = s.dirty := rfl
@[simp] theorem endRun_poison : (s.endRun).poison = s.poison := rfl
@[simp] theorem endRun_lineKey : (s.endRun).lineKey = s.lineKey := rfl
@[simp] theorem endRun_keyVer : (s.endRun).keyVer = s.keyVer := rfl
@[simp] theorem endRun_ctrs : (s.endRun).ctrs = s.ctrs := rfl
@[simp] theorem endRun_time : (s.endRun).time = s.time := rfl
@[simp] theorem endRun_regs : (s.endRun).regs = s.regs := rfl
@[simp] theorem endRun_pkg : (s.endRun).pkg = s.pkg := rfl
@[simp] theorem endRun_pods : (s.endRun).pods = s.pods := rfl
@[simp] theorem endRun_hosts : (s.endRun).hosts = s.hosts := rfl
@[simp] theorem endRun_objs : (s.endRun).objs = s.objs := rfl
@[simp] theorem endRun_promises : (s.endRun).promises = s.promises := rfl
@[simp] theorem endRun_gens : (s.endRun).gens = s.gens := rfl
@[simp] theorem endRun_invs : (s.endRun).invs = s.invs := rfl
@[simp] theorem endRun_launches : (s.endRun).launches = s.launches := rfl
@[simp] theorem endRun_phasers : (s.endRun).phasers = s.phasers := rfl
@[simp] theorem endRun_entries : (s.endRun).entries = s.entries := rfl
@[simp] theorem endRun_firings : (s.endRun).firings = s.firings := rfl
@[simp] theorem endRun_raising : (s.endRun).raising = s.raising := rfl
@[simp] theorem endRun_heldRaises : (s.endRun).heldRaises = s.heldRaises := rfl
@[simp] theorem endRun_copies : (s.endRun).copies = s.copies := rfl
@[simp] theorem endRun_rows : (s.endRun).rows = s.rows := rfl
@[simp] theorem endRun_landRows : (s.endRun).landRows = s.landRows := rfl
@[simp] theorem endRun_rowSeq : (s.endRun).rowSeq = s.rowSeq := rfl
@[simp] theorem endRun_ctWaits : (s.endRun).ctWaits = s.ctWaits := rfl
@[simp] theorem endRun_leftTiles : (s.endRun).leftTiles = s.leftTiles := rfl
@[simp] theorem endRun_copyq : (s.endRun).copyq = s.copyq := rfl
@[simp] theorem endRun_dlseq : (s.endRun).dlseq = s.dlseq := rfl
@[simp] theorem endRun_colls : (s.endRun).colls = s.colls := rfl
@[simp] theorem endRun_collNo : (s.endRun).collNo = s.collNo := rfl
@[simp] theorem endRun_fq : (s.endRun).fq = s.fq := rfl
@[simp] theorem endRun_rx : (s.endRun).rx = s.rx := rfl
@[simp] theorem endRun_unacked : (s.endRun).unacked = s.unacked := rfl
@[simp] theorem endRun_backlog : (s.endRun).backlog = s.backlog := rfl
@[simp] theorem endRun_links : (s.endRun).links = s.links := rfl
@[simp] theorem endRun_routeEra : (s.endRun).routeEra = s.routeEra := rfl
@[simp] theorem endRun_downs : (s.endRun).downs = s.downs := rfl
@[simp] theorem endRun_ports : (s.endRun).ports = s.ports := rfl
@[simp] theorem endRun_streams : (s.endRun).streams = s.streams := rfl
@[simp] theorem endRun_flash : (s.endRun).flash = s.flash := rfl
@[simp] theorem endRun_mr : (s.endRun).mr = s.mr := rfl
@[simp] theorem endRun_keys : (s.endRun).keys = s.keys := rfl
@[simp] theorem endRun_throttle : (s.endRun).throttle = s.throttle := rfl
@[simp] theorem endRun_reports : (s.endRun).reports = s.reports := rfl
@[simp] theorem endRun_orphans : (s.endRun).orphans = s.orphans := rfl
@[simp] theorem endRun_awayRuns : (s.endRun).awayRuns = s.awayRuns := rfl
@[simp] theorem endRun_awayRegions : (s.endRun).awayRegions = s.awayRegions := rfl
@[simp] theorem endRun_owing : (s.endRun).owing = s.owing := rfl
@[simp] theorem endRun_flushes : (s.endRun).flushes = s.flushes := rfl
@[simp] theorem endRun_heldWrites : (s.endRun).heldWrites = s.heldWrites := rfl
@[simp] theorem endRun_lateRaises : (s.endRun).lateRaises = s.lateRaises := rfl
@[simp] theorem endRun_net : (s.endRun).net = s.net := rfl
@[simp] theorem endRun_outbox : (s.endRun).outbox = s.outbox := rfl
@[simp] theorem endRun_txFrames : (s.endRun).txFrames = s.txFrames := rfl
@[simp] theorem endRun_agenda : (s.endRun).agenda = s.agenda := rfl
@[simp] theorem endRun_issued : (s.endRun).issued = s.issued := rfl
@[simp] theorem endRun_fresh : (s.endRun).fresh = s.fresh := rfl
@[simp] theorem endRun_cx_id : (s.endRun).cx.id = s.cx.id := rfl
@[simp] theorem endRun_cx_pc : (s.endRun).cx.pc = s.cx.pc := rfl
@[simp] theorem endRun_cx_g : (s.endRun).cx.g = s.cx.g := rfl
@[simp] theorem endRun_cx_p : (s.endRun).cx.p = s.cx.p := rfl
@[simp] theorem endRun_cx_a : (s.endRun).cx.a = s.cx.a := rfl
@[simp] theorem endRun_cx_m : (s.endRun).cx.m = s.cx.m := rfl
@[simp] theorem endRun_cx_q : (s.endRun).cx.q = s.cx.q := rfl
@[simp] theorem endRun_cx_t : (s.endRun).cx.t = s.cx.t := rfl
@[simp] theorem endRun_cx_x : (s.endRun).cx.x = s.cx.x := rfl
@[simp] theorem endRun_cx_sums : (s.endRun).cx.sums = s.cx.sums := rfl
@[simp] theorem endRun_cx_sumBad : (s.endRun).cx.sumBad = s.cx.sumBad := rfl
@[simp] theorem endRun_cx_rep : (s.endRun).cx.rep = s.cx.rep := rfl
@[simp] theorem endRun_cx_gen : (s.endRun).cx.gen = s.cx.gen := rfl
@[simp] theorem endRun_cx_seed : (s.endRun).cx.seed = s.cx.seed := rfl
@[simp] theorem endRun_cx_lnum : (s.endRun).cx.lnum = s.cx.lnum := rfl
@[simp] theorem endRun_cx_fltva : (s.endRun).cx.fltva = s.cx.fltva := rfl
@[simp] theorem endRun_cx_fltinfo : (s.endRun).cx.fltinfo = s.cx.fltinfo := rfl
@[simp] theorem endRun_cx_region : (s.endRun).cx.region = s.cx.region := rfl
@[simp] theorem endRun_cx_deadline : (s.endRun).cx.deadline = s.cx.deadline := rfl
@[simp] theorem endRun_cx_prio : (s.endRun).cx.prio = s.cx.prio := rfl
@[simp] theorem endRun_cx_rmode : (s.endRun).cx.rmode = s.cx.rmode := rfl
@[simp] theorem endRun_cx_atmode : (s.endRun).cx.atmode = s.cx.atmode := rfl
@[simp] theorem endRun_cx_priv : (s.endRun).cx.priv = s.cx.priv := rfl
@[simp] theorem endRun_cx_gang : (s.endRun).cx.gang = s.cx.gang := rfl
@[simp] theorem endRun_cx_gidx : (s.endRun).cx.gidx = s.cx.gidx := rfl
@[simp] theorem endRun_cx_late : (s.endRun).cx.late = s.cx.late := rfl
@[simp] theorem endRun_cx_alog : (s.endRun).cx.alog = s.cx.alog := rfl
@[simp] theorem endRun_cx_sepc : (s.endRun).cx.sepc = s.cx.sepc := rfl
@[simp] theorem endRun_cx_spriv : (s.endRun).cx.spriv = s.cx.spriv := rfl
@[simp] theorem endRun_cx_snum : (s.endRun).cx.snum = s.cx.snum := rfl
@[simp] theorem endRun_cx_sscr : (s.endRun).cx.sscr = s.cx.sscr := rfl
@[simp] theorem endRun_cx_pctx : (s.endRun).cx.pctx = s.cx.pctx := rfl
@[simp] theorem endRun_cx_pceil : (s.endRun).cx.pceil = s.cx.pceil := rfl
@[simp] theorem endRun_cx_dbgen : (s.endRun).cx.dbgen = s.cx.dbgen := rfl
@[simp] theorem endRun_cx_prot : (s.endRun).cx.prot = s.cx.prot := rfl
@[simp] theorem endRun_cx_pend : (s.endRun).cx.pend = s.cx.pend := rfl
@[simp] theorem endRun_cx_landed : (s.endRun).cx.landed = s.cx.landed := rfl
@[simp] theorem endRun_cx_runLen : (s.endRun).cx.runLen = s.cx.runLen := rfl
@[simp] theorem endRun_cx_fault : (s.endRun).cx.fault = s.cx.fault := rfl
@[simp] theorem endRun_cx_errs : (s.endRun).cx.errs = s.cx.errs := rfl
@[simp] theorem endRun_cx_rgfail : (s.endRun).cx.rgfail = s.cx.rgfail := rfl
@[simp] theorem endRun_cx_got : (s.endRun).cx.got = s.cx.got := rfl
@[simp] theorem endRun_cx_code : (s.endRun).cx.code = s.cx.code := rfl
@[simp] theorem endRun_cx_poll : (s.endRun).cx.poll = s.cx.poll := rfl
@[simp] theorem endRun_cx_thawed : (s.endRun).cx.thawed = s.cx.thawed := rfl
@[simp] theorem endRun_cx_toldHalt : (s.endRun).cx.toldHalt = s.cx.toldHalt := rfl
@[simp] theorem endRun_cx_joined : (s.endRun).cx.joined = s.cx.joined := rfl
@[simp] theorem endRun_cx_rem : (s.endRun).cx.rem = s.cx.rem := rfl
@[simp] theorem endRun_cx_wrote : (s.endRun).cx.wrote = s.cx.wrote := rfl
@[simp] theorem endRun_cx_mbox : (s.endRun).cx.mbox = s.cx.mbox := rfl
@[simp] theorem endRun_cx_lists : (s.endRun).cx.lists = s.cx.lists := rfl
@[simp] theorem endRun_cx_flushes : (s.endRun).cx.flushes = s.cx.flushes := rfl
@[simp] theorem endRun_cx_opened : (s.endRun).cx.opened = s.cx.opened := rfl
@[simp] theorem endRun_cx_invks : (s.endRun).cx.invks = s.cx.invks := rfl
@[simp] theorem endRun_cx_run : (s.endRun).cx.run = s.cx.run := rfl
@[simp] theorem endRun_cx_gdone : (s.endRun).cx.gdone = s.cx.gdone := rfl
@[simp] theorem endRun_cx_arrived : (s.endRun).cx.arrived = s.cx.arrived := rfl
@[simp] theorem endRun_cx_firm : (s.endRun).cx.firm = s.cx.firm := rfl
@[simp] theorem endRun_cx_haltReq : (s.endRun).cx.haltReq = s.cx.haltReq := rfl
@[simp] theorem endRun_cx_yielded : (s.endRun).cx.yielded = s.cx.yielded := rfl
@[simp] theorem endRun_cx_victim : (s.endRun).cx.victim = s.cx.victim := rfl
@[simp] theorem endRun_cx_unpin : (s.endRun).cx.unpin = s.cx.unpin := rfl

/-! ### finish -/
@[simp] theorem finish_ctxs : (s.finish sw).ctxs = s.ctxs := rfl
@[simp] theorem finish_cores : (s.finish sw).cores = s.cores := rfl
@[simp] theorem finish_die0 : (s.finish sw).die0 = s.die0 := rfl
@[simp] theorem finish_die1 : (s.finish sw).die1 = s.die1 := rfl
@[simp] theorem finish_die2 : (s.finish sw).die2 = s.die2 := rfl
@[simp] theorem finish_die3 : (s.finish sw).die3 = s.die3 := rfl
@[simp] theorem finish_mem : (s.finish sw).mem = s.mem := rfl
@[simp] theorem finish_dirty : (s.finish sw).dirty = s.dirty := rfl
@[simp] theorem finish_poison : (s.finish sw).poison = s.poison := rfl
@[simp] theorem finish_lineKey : (s.finish sw).lineKey = s.lineKey := rfl
@[simp] theorem finish_keyVer : (s.finish sw).keyVer = s.keyVer := rfl
@[simp] theorem finish_ctrs : (s.finish sw).ctrs = s.ctrs := rfl
@[simp] theorem finish_regs : (s.finish sw).regs = s.regs := rfl
@[simp] theorem finish_pkg : (s.finish sw).pkg = s.pkg := rfl
@[simp] theorem finish_pods : (s.finish sw).pods = s.pods := rfl
@[simp] theorem finish_hosts : (s.finish sw).hosts = s.hosts := rfl
@[simp] theorem finish_objs : (s.finish sw).objs = s.objs := rfl
@[simp] theorem finish_promises : (s.finish sw).promises = s.promises := rfl
@[simp] theorem finish_gens : (s.finish sw).gens = s.gens := rfl
@[simp] theorem finish_invs : (s.finish sw).invs = s.invs := rfl
@[simp] theorem finish_launches : (s.finish sw).launches = s.launches := rfl
@[simp] theorem finish_phasers : (s.finish sw).phasers = s.phasers := rfl
@[simp] theorem finish_entries : (s.finish sw).entries = s.entries := rfl
@[simp] theorem finish_firings : (s.finish sw).firings = s.firings := rfl
@[simp] theorem finish_raising : (s.finish sw).raising = s.raising := rfl
@[simp] theorem finish_heldRaises : (s.finish sw).heldRaises = s.heldRaises := rfl
@[simp] theorem finish_copies : (s.finish sw).copies = s.copies := rfl
@[simp] theorem finish_rows : (s.finish sw).rows = s.rows := rfl
@[simp] theorem finish_landRows : (s.finish sw).landRows = s.landRows := rfl
@[simp] theorem finish_rowSeq : (s.finish sw).rowSeq = s.rowSeq := rfl
@[simp] theorem finish_ctWaits : (s.finish sw).ctWaits = s.ctWaits := rfl
@[simp] theorem finish_leftTiles : (s.finish sw).leftTiles = s.leftTiles := rfl
@[simp] theorem finish_copyq : (s.finish sw).copyq = s.copyq := rfl
@[simp] theorem finish_dlseq : (s.finish sw).dlseq = s.dlseq := rfl
@[simp] theorem finish_colls : (s.finish sw).colls = s.colls := rfl
@[simp] theorem finish_collNo : (s.finish sw).collNo = s.collNo := rfl
@[simp] theorem finish_fq : (s.finish sw).fq = s.fq := rfl
@[simp] theorem finish_rx : (s.finish sw).rx = s.rx := rfl
@[simp] theorem finish_unacked : (s.finish sw).unacked = s.unacked := rfl
@[simp] theorem finish_backlog : (s.finish sw).backlog = s.backlog := rfl
@[simp] theorem finish_links : (s.finish sw).links = s.links := rfl
@[simp] theorem finish_routeEra : (s.finish sw).routeEra = s.routeEra := rfl
@[simp] theorem finish_downs : (s.finish sw).downs = s.downs := rfl
@[simp] theorem finish_ports : (s.finish sw).ports = s.ports := rfl
@[simp] theorem finish_streams : (s.finish sw).streams = s.streams := rfl
@[simp] theorem finish_flash : (s.finish sw).flash = s.flash := rfl
@[simp] theorem finish_mr : (s.finish sw).mr = s.mr := rfl
@[simp] theorem finish_keys : (s.finish sw).keys = s.keys := rfl
@[simp] theorem finish_throttle : (s.finish sw).throttle = s.throttle := rfl
@[simp] theorem finish_reports : (s.finish sw).reports = s.reports := rfl
@[simp] theorem finish_orphans : (s.finish sw).orphans = s.orphans := rfl
@[simp] theorem finish_awayRuns : (s.finish sw).awayRuns = s.awayRuns := rfl
@[simp] theorem finish_awayRegions : (s.finish sw).awayRegions = s.awayRegions := rfl
@[simp] theorem finish_owing : (s.finish sw).owing = s.owing := rfl
@[simp] theorem finish_flushes : (s.finish sw).flushes = s.flushes := rfl
@[simp] theorem finish_heldWrites : (s.finish sw).heldWrites = s.heldWrites := rfl
@[simp] theorem finish_lateRaises : (s.finish sw).lateRaises = s.lateRaises := rfl
@[simp] theorem finish_net : (s.finish sw).net = s.net := rfl
@[simp] theorem finish_outbox : (s.finish sw).outbox = s.outbox := rfl
@[simp] theorem finish_txFrames : (s.finish sw).txFrames = s.txFrames := rfl
@[simp] theorem finish_agenda : (s.finish sw).agenda = s.agenda := rfl
@[simp] theorem finish_fresh : (s.finish sw).fresh = s.fresh := rfl
@[simp] theorem finish_cx_id : (s.finish sw).cx.id = s.cx.id := rfl
@[simp] theorem finish_cx_pc : (s.finish sw).cx.pc = s.cx.pc := rfl
@[simp] theorem finish_cx_g : (s.finish sw).cx.g = s.cx.g := rfl
@[simp] theorem finish_cx_p : (s.finish sw).cx.p = s.cx.p := rfl
@[simp] theorem finish_cx_a : (s.finish sw).cx.a = s.cx.a := rfl
@[simp] theorem finish_cx_m : (s.finish sw).cx.m = s.cx.m := rfl
@[simp] theorem finish_cx_q : (s.finish sw).cx.q = s.cx.q := rfl
@[simp] theorem finish_cx_t : (s.finish sw).cx.t = s.cx.t := rfl
@[simp] theorem finish_cx_x : (s.finish sw).cx.x = s.cx.x := rfl
@[simp] theorem finish_cx_sums : (s.finish sw).cx.sums = s.cx.sums := rfl
@[simp] theorem finish_cx_sumBad : (s.finish sw).cx.sumBad = s.cx.sumBad := rfl
@[simp] theorem finish_cx_rep : (s.finish sw).cx.rep = s.cx.rep := rfl
@[simp] theorem finish_cx_gen : (s.finish sw).cx.gen = s.cx.gen := rfl
@[simp] theorem finish_cx_seed : (s.finish sw).cx.seed = s.cx.seed := rfl
@[simp] theorem finish_cx_lnum : (s.finish sw).cx.lnum = s.cx.lnum := rfl
@[simp] theorem finish_cx_fltva : (s.finish sw).cx.fltva = s.cx.fltva := rfl
@[simp] theorem finish_cx_fltinfo : (s.finish sw).cx.fltinfo = s.cx.fltinfo := rfl
@[simp] theorem finish_cx_region : (s.finish sw).cx.region = s.cx.region := rfl
@[simp] theorem finish_cx_deadline : (s.finish sw).cx.deadline = s.cx.deadline := rfl
@[simp] theorem finish_cx_prio : (s.finish sw).cx.prio = s.cx.prio := rfl
@[simp] theorem finish_cx_rmode : (s.finish sw).cx.rmode = s.cx.rmode := rfl
@[simp] theorem finish_cx_atmode : (s.finish sw).cx.atmode = s.cx.atmode := rfl
@[simp] theorem finish_cx_priv : (s.finish sw).cx.priv = s.cx.priv := rfl
@[simp] theorem finish_cx_gang : (s.finish sw).cx.gang = s.cx.gang := rfl
@[simp] theorem finish_cx_gidx : (s.finish sw).cx.gidx = s.cx.gidx := rfl
@[simp] theorem finish_cx_late : (s.finish sw).cx.late = s.cx.late := rfl
@[simp] theorem finish_cx_alog : (s.finish sw).cx.alog = s.cx.alog := rfl
@[simp] theorem finish_cx_sepc : (s.finish sw).cx.sepc = s.cx.sepc := rfl
@[simp] theorem finish_cx_spriv : (s.finish sw).cx.spriv = s.cx.spriv := rfl
@[simp] theorem finish_cx_snum : (s.finish sw).cx.snum = s.cx.snum := rfl
@[simp] theorem finish_cx_sscr : (s.finish sw).cx.sscr = s.cx.sscr := rfl
@[simp] theorem finish_cx_pctx : (s.finish sw).cx.pctx = s.cx.pctx := rfl
@[simp] theorem finish_cx_pceil : (s.finish sw).cx.pceil = s.cx.pceil := rfl
@[simp] theorem finish_cx_dbgen : (s.finish sw).cx.dbgen = s.cx.dbgen := rfl
@[simp] theorem finish_cx_prot : (s.finish sw).cx.prot = s.cx.prot := rfl
@[simp] theorem finish_cx_pend : (s.finish sw).cx.pend = s.cx.pend := rfl
@[simp] theorem finish_cx_landed : (s.finish sw).cx.landed = s.cx.landed := rfl
@[simp] theorem finish_cx_fault : (s.finish sw).cx.fault = s.cx.fault := rfl
@[simp] theorem finish_cx_errs : (s.finish sw).cx.errs = s.cx.errs := rfl
@[simp] theorem finish_cx_rgfail : (s.finish sw).cx.rgfail = s.cx.rgfail := rfl
@[simp] theorem finish_cx_poll : (s.finish sw).cx.poll = s.cx.poll := rfl
@[simp] theorem finish_cx_thawed : (s.finish sw).cx.thawed = s.cx.thawed := rfl
@[simp] theorem finish_cx_toldHalt : (s.finish sw).cx.toldHalt = s.cx.toldHalt := rfl
@[simp] theorem finish_cx_joined : (s.finish sw).cx.joined = s.cx.joined := rfl
@[simp] theorem finish_cx_rem : (s.finish sw).cx.rem = s.cx.rem := rfl
@[simp] theorem finish_cx_wrote : (s.finish sw).cx.wrote = s.cx.wrote := rfl
@[simp] theorem finish_cx_mbox : (s.finish sw).cx.mbox = s.cx.mbox := rfl
@[simp] theorem finish_cx_lists : (s.finish sw).cx.lists = s.cx.lists := rfl
@[simp] theorem finish_cx_flushes : (s.finish sw).cx.flushes = s.cx.flushes := rfl
@[simp] theorem finish_cx_opened : (s.finish sw).cx.opened = s.cx.opened := rfl
@[simp] theorem finish_cx_invks : (s.finish sw).cx.invks = s.cx.invks := rfl
@[simp] theorem finish_cx_run : (s.finish sw).cx.run = s.cx.run := rfl
@[simp] theorem finish_cx_gdone : (s.finish sw).cx.gdone = s.cx.gdone := rfl
@[simp] theorem finish_cx_haltReq : (s.finish sw).cx.haltReq = s.cx.haltReq := rfl
@[simp] theorem finish_cx_yielded : (s.finish sw).cx.yielded = s.cx.yielded := rfl
@[simp] theorem finish_cx_victim : (s.finish sw).cx.victim = s.cx.victim := rfl
@[simp] theorem finish_cx_unpin : (s.finish sw).cx.unpin = s.cx.unpin := rfl

/-! ### jumpTo -/
@[simp] theorem jumpTo_ctxs : (s.jumpTo t sw).ctxs = s.ctxs := rfl
@[simp] theorem jumpTo_cores : (s.jumpTo t sw).cores = s.cores := rfl
@[simp] theorem jumpTo_die0 : (s.jumpTo t sw).die0 = s.die0 := rfl
@[simp] theorem jumpTo_die1 : (s.jumpTo t sw).die1 = s.die1 := rfl
@[simp] theorem jumpTo_die2 : (s.jumpTo t sw).die2 = s.die2 := rfl
@[simp] theorem jumpTo_die3 : (s.jumpTo t sw).die3 = s.die3 := rfl
@[simp] theorem jumpTo_mem : (s.jumpTo t sw).mem = s.mem := rfl
@[simp] theorem jumpTo_dirty : (s.jumpTo t sw).dirty = s.dirty := rfl
@[simp] theorem jumpTo_poison : (s.jumpTo t sw).poison = s.poison := rfl
@[simp] theorem jumpTo_lineKey : (s.jumpTo t sw).lineKey = s.lineKey := rfl
@[simp] theorem jumpTo_keyVer : (s.jumpTo t sw).keyVer = s.keyVer := rfl
@[simp] theorem jumpTo_ctrs : (s.jumpTo t sw).ctrs = s.ctrs := rfl
@[simp] theorem jumpTo_regs : (s.jumpTo t sw).regs = s.regs := rfl
@[simp] theorem jumpTo_pkg : (s.jumpTo t sw).pkg = s.pkg := rfl
@[simp] theorem jumpTo_pods : (s.jumpTo t sw).pods = s.pods := rfl
@[simp] theorem jumpTo_hosts : (s.jumpTo t sw).hosts = s.hosts := rfl
@[simp] theorem jumpTo_objs : (s.jumpTo t sw).objs = s.objs := rfl
@[simp] theorem jumpTo_promises : (s.jumpTo t sw).promises = s.promises := rfl
@[simp] theorem jumpTo_gens : (s.jumpTo t sw).gens = s.gens := rfl
@[simp] theorem jumpTo_invs : (s.jumpTo t sw).invs = s.invs := rfl
@[simp] theorem jumpTo_launches : (s.jumpTo t sw).launches = s.launches := rfl
@[simp] theorem jumpTo_phasers : (s.jumpTo t sw).phasers = s.phasers := rfl
@[simp] theorem jumpTo_entries : (s.jumpTo t sw).entries = s.entries := rfl
@[simp] theorem jumpTo_firings : (s.jumpTo t sw).firings = s.firings := rfl
@[simp] theorem jumpTo_raising : (s.jumpTo t sw).raising = s.raising := rfl
@[simp] theorem jumpTo_heldRaises : (s.jumpTo t sw).heldRaises = s.heldRaises := rfl
@[simp] theorem jumpTo_copies : (s.jumpTo t sw).copies = s.copies := rfl
@[simp] theorem jumpTo_rows : (s.jumpTo t sw).rows = s.rows := rfl
@[simp] theorem jumpTo_landRows : (s.jumpTo t sw).landRows = s.landRows := rfl
@[simp] theorem jumpTo_rowSeq : (s.jumpTo t sw).rowSeq = s.rowSeq := rfl
@[simp] theorem jumpTo_ctWaits : (s.jumpTo t sw).ctWaits = s.ctWaits := rfl
@[simp] theorem jumpTo_leftTiles : (s.jumpTo t sw).leftTiles = s.leftTiles := rfl
@[simp] theorem jumpTo_copyq : (s.jumpTo t sw).copyq = s.copyq := rfl
@[simp] theorem jumpTo_dlseq : (s.jumpTo t sw).dlseq = s.dlseq := rfl
@[simp] theorem jumpTo_colls : (s.jumpTo t sw).colls = s.colls := rfl
@[simp] theorem jumpTo_collNo : (s.jumpTo t sw).collNo = s.collNo := rfl
@[simp] theorem jumpTo_fq : (s.jumpTo t sw).fq = s.fq := rfl
@[simp] theorem jumpTo_rx : (s.jumpTo t sw).rx = s.rx := rfl
@[simp] theorem jumpTo_unacked : (s.jumpTo t sw).unacked = s.unacked := rfl
@[simp] theorem jumpTo_backlog : (s.jumpTo t sw).backlog = s.backlog := rfl
@[simp] theorem jumpTo_links : (s.jumpTo t sw).links = s.links := rfl
@[simp] theorem jumpTo_routeEra : (s.jumpTo t sw).routeEra = s.routeEra := rfl
@[simp] theorem jumpTo_downs : (s.jumpTo t sw).downs = s.downs := rfl
@[simp] theorem jumpTo_ports : (s.jumpTo t sw).ports = s.ports := rfl
@[simp] theorem jumpTo_streams : (s.jumpTo t sw).streams = s.streams := rfl
@[simp] theorem jumpTo_flash : (s.jumpTo t sw).flash = s.flash := rfl
@[simp] theorem jumpTo_mr : (s.jumpTo t sw).mr = s.mr := rfl
@[simp] theorem jumpTo_keys : (s.jumpTo t sw).keys = s.keys := rfl
@[simp] theorem jumpTo_throttle : (s.jumpTo t sw).throttle = s.throttle := rfl
@[simp] theorem jumpTo_reports : (s.jumpTo t sw).reports = s.reports := rfl
@[simp] theorem jumpTo_orphans : (s.jumpTo t sw).orphans = s.orphans := rfl
@[simp] theorem jumpTo_awayRuns : (s.jumpTo t sw).awayRuns = s.awayRuns := rfl
@[simp] theorem jumpTo_awayRegions : (s.jumpTo t sw).awayRegions = s.awayRegions := rfl
@[simp] theorem jumpTo_owing : (s.jumpTo t sw).owing = s.owing := rfl
@[simp] theorem jumpTo_flushes : (s.jumpTo t sw).flushes = s.flushes := rfl
@[simp] theorem jumpTo_heldWrites : (s.jumpTo t sw).heldWrites = s.heldWrites := rfl
@[simp] theorem jumpTo_lateRaises : (s.jumpTo t sw).lateRaises = s.lateRaises := rfl
@[simp] theorem jumpTo_net : (s.jumpTo t sw).net = s.net := rfl
@[simp] theorem jumpTo_outbox : (s.jumpTo t sw).outbox = s.outbox := rfl
@[simp] theorem jumpTo_txFrames : (s.jumpTo t sw).txFrames = s.txFrames := rfl
@[simp] theorem jumpTo_agenda : (s.jumpTo t sw).agenda = s.agenda := rfl
@[simp] theorem jumpTo_fresh : (s.jumpTo t sw).fresh = s.fresh := rfl
@[simp] theorem jumpTo_cx_id : (s.jumpTo t sw).cx.id = s.cx.id := rfl
@[simp] theorem jumpTo_cx_g : (s.jumpTo t sw).cx.g = s.cx.g := rfl
@[simp] theorem jumpTo_cx_p : (s.jumpTo t sw).cx.p = s.cx.p := rfl
@[simp] theorem jumpTo_cx_a : (s.jumpTo t sw).cx.a = s.cx.a := rfl
@[simp] theorem jumpTo_cx_m : (s.jumpTo t sw).cx.m = s.cx.m := rfl
@[simp] theorem jumpTo_cx_q : (s.jumpTo t sw).cx.q = s.cx.q := rfl
@[simp] theorem jumpTo_cx_t : (s.jumpTo t sw).cx.t = s.cx.t := rfl
@[simp] theorem jumpTo_cx_x : (s.jumpTo t sw).cx.x = s.cx.x := rfl
@[simp] theorem jumpTo_cx_sums : (s.jumpTo t sw).cx.sums = s.cx.sums := rfl
@[simp] theorem jumpTo_cx_sumBad : (s.jumpTo t sw).cx.sumBad = s.cx.sumBad := rfl
@[simp] theorem jumpTo_cx_rep : (s.jumpTo t sw).cx.rep = s.cx.rep := rfl
@[simp] theorem jumpTo_cx_gen : (s.jumpTo t sw).cx.gen = s.cx.gen := rfl
@[simp] theorem jumpTo_cx_seed : (s.jumpTo t sw).cx.seed = s.cx.seed := rfl
@[simp] theorem jumpTo_cx_lnum : (s.jumpTo t sw).cx.lnum = s.cx.lnum := rfl
@[simp] theorem jumpTo_cx_fltva : (s.jumpTo t sw).cx.fltva = s.cx.fltva := rfl
@[simp] theorem jumpTo_cx_fltinfo : (s.jumpTo t sw).cx.fltinfo = s.cx.fltinfo := rfl
@[simp] theorem jumpTo_cx_region : (s.jumpTo t sw).cx.region = s.cx.region := rfl
@[simp] theorem jumpTo_cx_deadline : (s.jumpTo t sw).cx.deadline = s.cx.deadline := rfl
@[simp] theorem jumpTo_cx_prio : (s.jumpTo t sw).cx.prio = s.cx.prio := rfl
@[simp] theorem jumpTo_cx_rmode : (s.jumpTo t sw).cx.rmode = s.cx.rmode := rfl
@[simp] theorem jumpTo_cx_atmode : (s.jumpTo t sw).cx.atmode = s.cx.atmode := rfl
@[simp] theorem jumpTo_cx_priv : (s.jumpTo t sw).cx.priv = s.cx.priv := rfl
@[simp] theorem jumpTo_cx_gang : (s.jumpTo t sw).cx.gang = s.cx.gang := rfl
@[simp] theorem jumpTo_cx_gidx : (s.jumpTo t sw).cx.gidx = s.cx.gidx := rfl
@[simp] theorem jumpTo_cx_late : (s.jumpTo t sw).cx.late = s.cx.late := rfl
@[simp] theorem jumpTo_cx_alog : (s.jumpTo t sw).cx.alog = s.cx.alog := rfl
@[simp] theorem jumpTo_cx_sepc : (s.jumpTo t sw).cx.sepc = s.cx.sepc := rfl
@[simp] theorem jumpTo_cx_spriv : (s.jumpTo t sw).cx.spriv = s.cx.spriv := rfl
@[simp] theorem jumpTo_cx_snum : (s.jumpTo t sw).cx.snum = s.cx.snum := rfl
@[simp] theorem jumpTo_cx_sscr : (s.jumpTo t sw).cx.sscr = s.cx.sscr := rfl
@[simp] theorem jumpTo_cx_pctx : (s.jumpTo t sw).cx.pctx = s.cx.pctx := rfl
@[simp] theorem jumpTo_cx_pceil : (s.jumpTo t sw).cx.pceil = s.cx.pceil := rfl
@[simp] theorem jumpTo_cx_dbgen : (s.jumpTo t sw).cx.dbgen = s.cx.dbgen := rfl
@[simp] theorem jumpTo_cx_prot : (s.jumpTo t sw).cx.prot = s.cx.prot := rfl
@[simp] theorem jumpTo_cx_pend : (s.jumpTo t sw).cx.pend = s.cx.pend := rfl
@[simp] theorem jumpTo_cx_landed : (s.jumpTo t sw).cx.landed = s.cx.landed := rfl
@[simp] theorem jumpTo_cx_fault : (s.jumpTo t sw).cx.fault = s.cx.fault := rfl
@[simp] theorem jumpTo_cx_errs : (s.jumpTo t sw).cx.errs = s.cx.errs := rfl
@[simp] theorem jumpTo_cx_rgfail : (s.jumpTo t sw).cx.rgfail = s.cx.rgfail := rfl
@[simp] theorem jumpTo_cx_poll : (s.jumpTo t sw).cx.poll = s.cx.poll := rfl
@[simp] theorem jumpTo_cx_thawed : (s.jumpTo t sw).cx.thawed = s.cx.thawed := rfl
@[simp] theorem jumpTo_cx_toldHalt : (s.jumpTo t sw).cx.toldHalt = s.cx.toldHalt := rfl
@[simp] theorem jumpTo_cx_joined : (s.jumpTo t sw).cx.joined = s.cx.joined := rfl
@[simp] theorem jumpTo_cx_rem : (s.jumpTo t sw).cx.rem = s.cx.rem := rfl
@[simp] theorem jumpTo_cx_wrote : (s.jumpTo t sw).cx.wrote = s.cx.wrote := rfl
@[simp] theorem jumpTo_cx_mbox : (s.jumpTo t sw).cx.mbox = s.cx.mbox := rfl
@[simp] theorem jumpTo_cx_lists : (s.jumpTo t sw).cx.lists = s.cx.lists := rfl
@[simp] theorem jumpTo_cx_flushes : (s.jumpTo t sw).cx.flushes = s.cx.flushes := rfl
@[simp] theorem jumpTo_cx_opened : (s.jumpTo t sw).cx.opened = s.cx.opened := rfl
@[simp] theorem jumpTo_cx_invks : (s.jumpTo t sw).cx.invks = s.cx.invks := rfl
@[simp] theorem jumpTo_cx_run : (s.jumpTo t sw).cx.run = s.cx.run := rfl
@[simp] theorem jumpTo_cx_gdone : (s.jumpTo t sw).cx.gdone = s.cx.gdone := rfl
@[simp] theorem jumpTo_cx_haltReq : (s.jumpTo t sw).cx.haltReq = s.cx.haltReq := rfl
@[simp] theorem jumpTo_cx_yielded : (s.jumpTo t sw).cx.yielded = s.cx.yielded := rfl
@[simp] theorem jumpTo_cx_victim : (s.jumpTo t sw).cx.victim = s.cx.victim := rfl
@[simp] theorem jumpTo_cx_unpin : (s.jumpTo t sw).cx.unpin = s.cx.unpin := rfl

/-! ### block -/
@[simp] theorem block_ctxs : (s.block).ctxs = s.ctxs := by unfold State.block; split <;> rfl
@[simp] theorem block_cores : (s.block).cores = s.cores := by unfold State.block; split <;> rfl
@[simp] theorem block_die0 : (s.block).die0 = s.die0 := by unfold State.block; split <;> rfl
@[simp] theorem block_die1 : (s.block).die1 = s.die1 := by unfold State.block; split <;> rfl
@[simp] theorem block_die2 : (s.block).die2 = s.die2 := by unfold State.block; split <;> rfl
@[simp] theorem block_die3 : (s.block).die3 = s.die3 := by unfold State.block; split <;> rfl
@[simp] theorem block_mem : (s.block).mem = s.mem := by unfold State.block; split <;> rfl
@[simp] theorem block_dirty : (s.block).dirty = s.dirty := by unfold State.block; split <;> rfl
@[simp] theorem block_poison : (s.block).poison = s.poison := by unfold State.block; split <;> rfl
@[simp] theorem block_lineKey : (s.block).lineKey = s.lineKey := by unfold State.block; split <;> rfl
@[simp] theorem block_keyVer : (s.block).keyVer = s.keyVer := by unfold State.block; split <;> rfl
@[simp] theorem block_ctrs : (s.block).ctrs = s.ctrs := by unfold State.block; split <;> rfl
@[simp] theorem block_time : (s.block).time = s.time := by unfold State.block; split <;> rfl
@[simp] theorem block_regs : (s.block).regs = s.regs := by unfold State.block; split <;> rfl
@[simp] theorem block_pkg : (s.block).pkg = s.pkg := by unfold State.block; split <;> rfl
@[simp] theorem block_pods : (s.block).pods = s.pods := by unfold State.block; split <;> rfl
@[simp] theorem block_hosts : (s.block).hosts = s.hosts := by unfold State.block; split <;> rfl
@[simp] theorem block_objs : (s.block).objs = s.objs := by unfold State.block; split <;> rfl
@[simp] theorem block_promises : (s.block).promises = s.promises := by unfold State.block; split <;> rfl
@[simp] theorem block_gens : (s.block).gens = s.gens := by unfold State.block; split <;> rfl
@[simp] theorem block_invs : (s.block).invs = s.invs := by unfold State.block; split <;> rfl
@[simp] theorem block_launches : (s.block).launches = s.launches := by unfold State.block; split <;> rfl
@[simp] theorem block_phasers : (s.block).phasers = s.phasers := by unfold State.block; split <;> rfl
@[simp] theorem block_entries : (s.block).entries = s.entries := by unfold State.block; split <;> rfl
@[simp] theorem block_firings : (s.block).firings = s.firings := by unfold State.block; split <;> rfl
@[simp] theorem block_raising : (s.block).raising = s.raising := by unfold State.block; split <;> rfl
@[simp] theorem block_heldRaises : (s.block).heldRaises = s.heldRaises := by unfold State.block; split <;> rfl
@[simp] theorem block_copies : (s.block).copies = s.copies := by unfold State.block; split <;> rfl
@[simp] theorem block_rows : (s.block).rows = s.rows := by unfold State.block; split <;> rfl
@[simp] theorem block_landRows : (s.block).landRows = s.landRows := by unfold State.block; split <;> rfl
@[simp] theorem block_rowSeq : (s.block).rowSeq = s.rowSeq := by unfold State.block; split <;> rfl
@[simp] theorem block_ctWaits : (s.block).ctWaits = s.ctWaits := by unfold State.block; split <;> rfl
@[simp] theorem block_leftTiles : (s.block).leftTiles = s.leftTiles := by unfold State.block; split <;> rfl
@[simp] theorem block_copyq : (s.block).copyq = s.copyq := by unfold State.block; split <;> rfl
@[simp] theorem block_dlseq : (s.block).dlseq = s.dlseq := by unfold State.block; split <;> rfl
@[simp] theorem block_colls : (s.block).colls = s.colls := by unfold State.block; split <;> rfl
@[simp] theorem block_collNo : (s.block).collNo = s.collNo := by unfold State.block; split <;> rfl
@[simp] theorem block_fq : (s.block).fq = s.fq := by unfold State.block; split <;> rfl
@[simp] theorem block_rx : (s.block).rx = s.rx := by unfold State.block; split <;> rfl
@[simp] theorem block_unacked : (s.block).unacked = s.unacked := by unfold State.block; split <;> rfl
@[simp] theorem block_backlog : (s.block).backlog = s.backlog := by unfold State.block; split <;> rfl
@[simp] theorem block_links : (s.block).links = s.links := by unfold State.block; split <;> rfl
@[simp] theorem block_routeEra : (s.block).routeEra = s.routeEra := by unfold State.block; split <;> rfl
@[simp] theorem block_downs : (s.block).downs = s.downs := by unfold State.block; split <;> rfl
@[simp] theorem block_ports : (s.block).ports = s.ports := by unfold State.block; split <;> rfl
@[simp] theorem block_streams : (s.block).streams = s.streams := by unfold State.block; split <;> rfl
@[simp] theorem block_flash : (s.block).flash = s.flash := by unfold State.block; split <;> rfl
@[simp] theorem block_mr : (s.block).mr = s.mr := by unfold State.block; split <;> rfl
@[simp] theorem block_keys : (s.block).keys = s.keys := by unfold State.block; split <;> rfl
@[simp] theorem block_throttle : (s.block).throttle = s.throttle := by unfold State.block; split <;> rfl
@[simp] theorem block_reports : (s.block).reports = s.reports := by unfold State.block; split <;> rfl
@[simp] theorem block_orphans : (s.block).orphans = s.orphans := by unfold State.block; split <;> rfl
@[simp] theorem block_awayRuns : (s.block).awayRuns = s.awayRuns := by unfold State.block; split <;> rfl
@[simp] theorem block_awayRegions : (s.block).awayRegions = s.awayRegions := by unfold State.block; split <;> rfl
@[simp] theorem block_owing : (s.block).owing = s.owing := by unfold State.block; split <;> rfl
@[simp] theorem block_flushes : (s.block).flushes = s.flushes := by unfold State.block; split <;> rfl
@[simp] theorem block_heldWrites : (s.block).heldWrites = s.heldWrites := by unfold State.block; split <;> rfl
@[simp] theorem block_lateRaises : (s.block).lateRaises = s.lateRaises := by unfold State.block; split <;> rfl
@[simp] theorem block_net : (s.block).net = s.net := by unfold State.block; split <;> rfl
@[simp] theorem block_outbox : (s.block).outbox = s.outbox := by unfold State.block; split <;> rfl
@[simp] theorem block_txFrames : (s.block).txFrames = s.txFrames := by unfold State.block; split <;> rfl
@[simp] theorem block_agenda : (s.block).agenda = s.agenda := by unfold State.block; split <;> rfl
@[simp] theorem block_issued : (s.block).issued = s.issued := by unfold State.block; split <;> rfl
@[simp] theorem block_fresh : (s.block).fresh = s.fresh := by unfold State.block; split <;> rfl
@[simp] theorem block_cx_id : (s.block).cx.id = s.cx.id := by unfold State.block; split <;> rfl
@[simp] theorem block_cx_pc : (s.block).cx.pc = s.cx.pc := by unfold State.block; split <;> rfl
@[simp] theorem block_cx_g : (s.block).cx.g = s.cx.g := by unfold State.block; split <;> rfl
@[simp] theorem block_cx_p : (s.block).cx.p = s.cx.p := by unfold State.block; split <;> rfl
@[simp] theorem block_cx_a : (s.block).cx.a = s.cx.a := by unfold State.block; split <;> rfl
@[simp] theorem block_cx_m : (s.block).cx.m = s.cx.m := by unfold State.block; split <;> rfl
@[simp] theorem block_cx_q : (s.block).cx.q = s.cx.q := by unfold State.block; split <;> rfl
@[simp] theorem block_cx_t : (s.block).cx.t = s.cx.t := by unfold State.block; split <;> rfl
@[simp] theorem block_cx_x : (s.block).cx.x = s.cx.x := by unfold State.block; split <;> rfl
@[simp] theorem block_cx_sums : (s.block).cx.sums = s.cx.sums := by unfold State.block; split <;> rfl
@[simp] theorem block_cx_sumBad : (s.block).cx.sumBad = s.cx.sumBad := by unfold State.block; split <;> rfl
@[simp] theorem block_cx_rep : (s.block).cx.rep = s.cx.rep := by unfold State.block; split <;> rfl
@[simp] theorem block_cx_gen : (s.block).cx.gen = s.cx.gen := by unfold State.block; split <;> rfl
@[simp] theorem block_cx_seed : (s.block).cx.seed = s.cx.seed := by unfold State.block; split <;> rfl
@[simp] theorem block_cx_lnum : (s.block).cx.lnum = s.cx.lnum := by unfold State.block; split <;> rfl
@[simp] theorem block_cx_fltva : (s.block).cx.fltva = s.cx.fltva := by unfold State.block; split <;> rfl
@[simp] theorem block_cx_fltinfo : (s.block).cx.fltinfo = s.cx.fltinfo := by unfold State.block; split <;> rfl
@[simp] theorem block_cx_region : (s.block).cx.region = s.cx.region := by unfold State.block; split <;> rfl
@[simp] theorem block_cx_deadline : (s.block).cx.deadline = s.cx.deadline := by unfold State.block; split <;> rfl
@[simp] theorem block_cx_prio : (s.block).cx.prio = s.cx.prio := by unfold State.block; split <;> rfl
@[simp] theorem block_cx_rmode : (s.block).cx.rmode = s.cx.rmode := by unfold State.block; split <;> rfl
@[simp] theorem block_cx_atmode : (s.block).cx.atmode = s.cx.atmode := by unfold State.block; split <;> rfl
@[simp] theorem block_cx_priv : (s.block).cx.priv = s.cx.priv := by unfold State.block; split <;> rfl
@[simp] theorem block_cx_gang : (s.block).cx.gang = s.cx.gang := by unfold State.block; split <;> rfl
@[simp] theorem block_cx_gidx : (s.block).cx.gidx = s.cx.gidx := by unfold State.block; split <;> rfl
@[simp] theorem block_cx_late : (s.block).cx.late = s.cx.late := by unfold State.block; split <;> rfl
@[simp] theorem block_cx_alog : (s.block).cx.alog = s.cx.alog := by unfold State.block; split <;> rfl
@[simp] theorem block_cx_sepc : (s.block).cx.sepc = s.cx.sepc := by unfold State.block; split <;> rfl
@[simp] theorem block_cx_spriv : (s.block).cx.spriv = s.cx.spriv := by unfold State.block; split <;> rfl
@[simp] theorem block_cx_snum : (s.block).cx.snum = s.cx.snum := by unfold State.block; split <;> rfl
@[simp] theorem block_cx_sscr : (s.block).cx.sscr = s.cx.sscr := by unfold State.block; split <;> rfl
@[simp] theorem block_cx_pctx : (s.block).cx.pctx = s.cx.pctx := by unfold State.block; split <;> rfl
@[simp] theorem block_cx_pceil : (s.block).cx.pceil = s.cx.pceil := by unfold State.block; split <;> rfl
@[simp] theorem block_cx_dbgen : (s.block).cx.dbgen = s.cx.dbgen := by unfold State.block; split <;> rfl
@[simp] theorem block_cx_prot : (s.block).cx.prot = s.cx.prot := by unfold State.block; split <;> rfl
@[simp] theorem block_cx_pend : (s.block).cx.pend = s.cx.pend := by unfold State.block; split <;> rfl
@[simp] theorem block_cx_landed : (s.block).cx.landed = s.cx.landed := by unfold State.block; split <;> rfl
@[simp] theorem block_cx_runLen : (s.block).cx.runLen = s.cx.runLen := by unfold State.block; split <;> rfl
@[simp] theorem block_cx_fault : (s.block).cx.fault = s.cx.fault := by unfold State.block; split <;> rfl
@[simp] theorem block_cx_errs : (s.block).cx.errs = s.cx.errs := by unfold State.block; split <;> rfl
@[simp] theorem block_cx_rgfail : (s.block).cx.rgfail = s.cx.rgfail := by unfold State.block; split <;> rfl
@[simp] theorem block_cx_got : (s.block).cx.got = s.cx.got := by unfold State.block; split <;> rfl
@[simp] theorem block_cx_code : (s.block).cx.code = s.cx.code := by unfold State.block; split <;> rfl
@[simp] theorem block_cx_poll : (s.block).cx.poll = s.cx.poll := by unfold State.block; split <;> rfl
@[simp] theorem block_cx_thawed : (s.block).cx.thawed = s.cx.thawed := by unfold State.block; split <;> rfl
@[simp] theorem block_cx_toldHalt : (s.block).cx.toldHalt = s.cx.toldHalt := by unfold State.block; split <;> rfl
@[simp] theorem block_cx_joined : (s.block).cx.joined = s.cx.joined := by unfold State.block; split <;> rfl
@[simp] theorem block_cx_rem : (s.block).cx.rem = s.cx.rem := by unfold State.block; split <;> rfl
@[simp] theorem block_cx_wrote : (s.block).cx.wrote = s.cx.wrote := by unfold State.block; split <;> rfl
@[simp] theorem block_cx_mbox : (s.block).cx.mbox = s.cx.mbox := by unfold State.block; split <;> rfl
@[simp] theorem block_cx_lists : (s.block).cx.lists = s.cx.lists := by unfold State.block; split <;> rfl
@[simp] theorem block_cx_flushes : (s.block).cx.flushes = s.cx.flushes := by unfold State.block; split <;> rfl
@[simp] theorem block_cx_opened : (s.block).cx.opened = s.cx.opened := by unfold State.block; split <;> rfl
@[simp] theorem block_cx_invks : (s.block).cx.invks = s.cx.invks := by unfold State.block; split <;> rfl
@[simp] theorem block_cx_run : (s.block).cx.run = s.cx.run := by unfold State.block; split <;> rfl
@[simp] theorem block_cx_gdone : (s.block).cx.gdone = s.cx.gdone := by unfold State.block; split <;> rfl
@[simp] theorem block_cx_arrived : (s.block).cx.arrived = s.cx.arrived := by unfold State.block; split <;> rfl
@[simp] theorem block_cx_firm : (s.block).cx.firm = s.cx.firm := by unfold State.block; split <;> rfl
@[simp] theorem block_cx_haltReq : (s.block).cx.haltReq = s.cx.haltReq := by unfold State.block; split <;> rfl
@[simp] theorem block_cx_yielded : (s.block).cx.yielded = s.cx.yielded := by unfold State.block; split <;> rfl
@[simp] theorem block_cx_victim : (s.block).cx.victim = s.cx.victim := by unfold State.block; split <;> rfl
@[simp] theorem block_cx_unpin : (s.block).cx.unpin = s.cx.unpin := by unfold State.block; split <;> rfl

/-! ### setCore -/
@[simp] theorem setCore_cx : (s.setCore k).cx = s.cx := rfl
@[simp] theorem setCore_ctxs : (s.setCore k).ctxs = s.ctxs := rfl
@[simp] theorem setCore_die0 : (s.setCore k).die0 = s.die0 := rfl
@[simp] theorem setCore_die1 : (s.setCore k).die1 = s.die1 := rfl
@[simp] theorem setCore_die2 : (s.setCore k).die2 = s.die2 := rfl
@[simp] theorem setCore_die3 : (s.setCore k).die3 = s.die3 := rfl
@[simp] theorem setCore_mem : (s.setCore k).mem = s.mem := rfl
@[simp] theorem setCore_dirty : (s.setCore k).dirty = s.dirty := rfl
@[simp] theorem setCore_poison : (s.setCore k).poison = s.poison := rfl
@[simp] theorem setCore_lineKey : (s.setCore k).lineKey = s.lineKey := rfl
@[simp] theorem setCore_keyVer : (s.setCore k).keyVer = s.keyVer := rfl
@[simp] theorem setCore_ctrs : (s.setCore k).ctrs = s.ctrs := rfl
@[simp] theorem setCore_time : (s.setCore k).time = s.time := rfl
@[simp] theorem setCore_regs : (s.setCore k).regs = s.regs := rfl
@[simp] theorem setCore_pkg : (s.setCore k).pkg = s.pkg := rfl
@[simp] theorem setCore_pods : (s.setCore k).pods = s.pods := rfl
@[simp] theorem setCore_hosts : (s.setCore k).hosts = s.hosts := rfl
@[simp] theorem setCore_objs : (s.setCore k).objs = s.objs := rfl
@[simp] theorem setCore_promises : (s.setCore k).promises = s.promises := rfl
@[simp] theorem setCore_gens : (s.setCore k).gens = s.gens := rfl
@[simp] theorem setCore_invs : (s.setCore k).invs = s.invs := rfl
@[simp] theorem setCore_launches : (s.setCore k).launches = s.launches := rfl
@[simp] theorem setCore_phasers : (s.setCore k).phasers = s.phasers := rfl
@[simp] theorem setCore_entries : (s.setCore k).entries = s.entries := rfl
@[simp] theorem setCore_firings : (s.setCore k).firings = s.firings := rfl
@[simp] theorem setCore_raising : (s.setCore k).raising = s.raising := rfl
@[simp] theorem setCore_heldRaises : (s.setCore k).heldRaises = s.heldRaises := rfl
@[simp] theorem setCore_copies : (s.setCore k).copies = s.copies := rfl
@[simp] theorem setCore_rows : (s.setCore k).rows = s.rows := rfl
@[simp] theorem setCore_landRows : (s.setCore k).landRows = s.landRows := rfl
@[simp] theorem setCore_rowSeq : (s.setCore k).rowSeq = s.rowSeq := rfl
@[simp] theorem setCore_ctWaits : (s.setCore k).ctWaits = s.ctWaits := rfl
@[simp] theorem setCore_leftTiles : (s.setCore k).leftTiles = s.leftTiles := rfl
@[simp] theorem setCore_copyq : (s.setCore k).copyq = s.copyq := rfl
@[simp] theorem setCore_dlseq : (s.setCore k).dlseq = s.dlseq := rfl
@[simp] theorem setCore_colls : (s.setCore k).colls = s.colls := rfl
@[simp] theorem setCore_collNo : (s.setCore k).collNo = s.collNo := rfl
@[simp] theorem setCore_fq : (s.setCore k).fq = s.fq := rfl
@[simp] theorem setCore_rx : (s.setCore k).rx = s.rx := rfl
@[simp] theorem setCore_unacked : (s.setCore k).unacked = s.unacked := rfl
@[simp] theorem setCore_backlog : (s.setCore k).backlog = s.backlog := rfl
@[simp] theorem setCore_links : (s.setCore k).links = s.links := rfl
@[simp] theorem setCore_routeEra : (s.setCore k).routeEra = s.routeEra := rfl
@[simp] theorem setCore_downs : (s.setCore k).downs = s.downs := rfl
@[simp] theorem setCore_ports : (s.setCore k).ports = s.ports := rfl
@[simp] theorem setCore_streams : (s.setCore k).streams = s.streams := rfl
@[simp] theorem setCore_flash : (s.setCore k).flash = s.flash := rfl
@[simp] theorem setCore_mr : (s.setCore k).mr = s.mr := rfl
@[simp] theorem setCore_keys : (s.setCore k).keys = s.keys := rfl
@[simp] theorem setCore_throttle : (s.setCore k).throttle = s.throttle := rfl
@[simp] theorem setCore_reports : (s.setCore k).reports = s.reports := rfl
@[simp] theorem setCore_orphans : (s.setCore k).orphans = s.orphans := rfl
@[simp] theorem setCore_awayRuns : (s.setCore k).awayRuns = s.awayRuns := rfl
@[simp] theorem setCore_awayRegions : (s.setCore k).awayRegions = s.awayRegions := rfl
@[simp] theorem setCore_owing : (s.setCore k).owing = s.owing := rfl
@[simp] theorem setCore_flushes : (s.setCore k).flushes = s.flushes := rfl
@[simp] theorem setCore_heldWrites : (s.setCore k).heldWrites = s.heldWrites := rfl
@[simp] theorem setCore_lateRaises : (s.setCore k).lateRaises = s.lateRaises := rfl
@[simp] theorem setCore_net : (s.setCore k).net = s.net := rfl
@[simp] theorem setCore_outbox : (s.setCore k).outbox = s.outbox := rfl
@[simp] theorem setCore_txFrames : (s.setCore k).txFrames = s.txFrames := rfl
@[simp] theorem setCore_agenda : (s.setCore k).agenda = s.agenda := rfl
@[simp] theorem setCore_issued : (s.setCore k).issued = s.issued := rfl
@[simp] theorem setCore_fresh : (s.setCore k).fresh = s.fresh := rfl

/-! ### setDie -/
@[simp] theorem setDie_cx : (s.setDie d x).cx = s.cx := by unfold State.setDie; split <;> (try split) <;> (try split) <;> rfl
@[simp] theorem setDie_ctxs : (s.setDie d x).ctxs = s.ctxs := by unfold State.setDie; split <;> (try split) <;> (try split) <;> rfl
@[simp] theorem setDie_cores : (s.setDie d x).cores = s.cores := by unfold State.setDie; split <;> (try split) <;> (try split) <;> rfl
@[simp] theorem setDie_mem : (s.setDie d x).mem = s.mem := by unfold State.setDie; split <;> (try split) <;> (try split) <;> rfl
@[simp] theorem setDie_dirty : (s.setDie d x).dirty = s.dirty := by unfold State.setDie; split <;> (try split) <;> (try split) <;> rfl
@[simp] theorem setDie_poison : (s.setDie d x).poison = s.poison := by unfold State.setDie; split <;> (try split) <;> (try split) <;> rfl
@[simp] theorem setDie_lineKey : (s.setDie d x).lineKey = s.lineKey := by unfold State.setDie; split <;> (try split) <;> (try split) <;> rfl
@[simp] theorem setDie_keyVer : (s.setDie d x).keyVer = s.keyVer := by unfold State.setDie; split <;> (try split) <;> (try split) <;> rfl
@[simp] theorem setDie_ctrs : (s.setDie d x).ctrs = s.ctrs := by unfold State.setDie; split <;> (try split) <;> (try split) <;> rfl
@[simp] theorem setDie_time : (s.setDie d x).time = s.time := by unfold State.setDie; split <;> (try split) <;> (try split) <;> rfl
@[simp] theorem setDie_regs : (s.setDie d x).regs = s.regs := by unfold State.setDie; split <;> (try split) <;> (try split) <;> rfl
@[simp] theorem setDie_pkg : (s.setDie d x).pkg = s.pkg := by unfold State.setDie; split <;> (try split) <;> (try split) <;> rfl
@[simp] theorem setDie_pods : (s.setDie d x).pods = s.pods := by unfold State.setDie; split <;> (try split) <;> (try split) <;> rfl
@[simp] theorem setDie_hosts : (s.setDie d x).hosts = s.hosts := by unfold State.setDie; split <;> (try split) <;> (try split) <;> rfl
@[simp] theorem setDie_objs : (s.setDie d x).objs = s.objs := by unfold State.setDie; split <;> (try split) <;> (try split) <;> rfl
@[simp] theorem setDie_promises : (s.setDie d x).promises = s.promises := by unfold State.setDie; split <;> (try split) <;> (try split) <;> rfl
@[simp] theorem setDie_gens : (s.setDie d x).gens = s.gens := by unfold State.setDie; split <;> (try split) <;> (try split) <;> rfl
@[simp] theorem setDie_invs : (s.setDie d x).invs = s.invs := by unfold State.setDie; split <;> (try split) <;> (try split) <;> rfl
@[simp] theorem setDie_launches : (s.setDie d x).launches = s.launches := by unfold State.setDie; split <;> (try split) <;> (try split) <;> rfl
@[simp] theorem setDie_phasers : (s.setDie d x).phasers = s.phasers := by unfold State.setDie; split <;> (try split) <;> (try split) <;> rfl
@[simp] theorem setDie_entries : (s.setDie d x).entries = s.entries := by unfold State.setDie; split <;> (try split) <;> (try split) <;> rfl
@[simp] theorem setDie_firings : (s.setDie d x).firings = s.firings := by unfold State.setDie; split <;> (try split) <;> (try split) <;> rfl
@[simp] theorem setDie_raising : (s.setDie d x).raising = s.raising := by unfold State.setDie; split <;> (try split) <;> (try split) <;> rfl
@[simp] theorem setDie_heldRaises : (s.setDie d x).heldRaises = s.heldRaises := by unfold State.setDie; split <;> (try split) <;> (try split) <;> rfl
@[simp] theorem setDie_copies : (s.setDie d x).copies = s.copies := by unfold State.setDie; split <;> (try split) <;> (try split) <;> rfl
@[simp] theorem setDie_rows : (s.setDie d x).rows = s.rows := by unfold State.setDie; split <;> (try split) <;> (try split) <;> rfl
@[simp] theorem setDie_landRows : (s.setDie d x).landRows = s.landRows := by unfold State.setDie; split <;> (try split) <;> (try split) <;> rfl
@[simp] theorem setDie_rowSeq : (s.setDie d x).rowSeq = s.rowSeq := by unfold State.setDie; split <;> (try split) <;> (try split) <;> rfl
@[simp] theorem setDie_ctWaits : (s.setDie d x).ctWaits = s.ctWaits := by unfold State.setDie; split <;> (try split) <;> (try split) <;> rfl
@[simp] theorem setDie_leftTiles : (s.setDie d x).leftTiles = s.leftTiles := by unfold State.setDie; split <;> (try split) <;> (try split) <;> rfl
@[simp] theorem setDie_copyq : (s.setDie d x).copyq = s.copyq := by unfold State.setDie; split <;> (try split) <;> (try split) <;> rfl
@[simp] theorem setDie_dlseq : (s.setDie d x).dlseq = s.dlseq := by unfold State.setDie; split <;> (try split) <;> (try split) <;> rfl
@[simp] theorem setDie_colls : (s.setDie d x).colls = s.colls := by unfold State.setDie; split <;> (try split) <;> (try split) <;> rfl
@[simp] theorem setDie_collNo : (s.setDie d x).collNo = s.collNo := by unfold State.setDie; split <;> (try split) <;> (try split) <;> rfl
@[simp] theorem setDie_fq : (s.setDie d x).fq = s.fq := by unfold State.setDie; split <;> (try split) <;> (try split) <;> rfl
@[simp] theorem setDie_rx : (s.setDie d x).rx = s.rx := by unfold State.setDie; split <;> (try split) <;> (try split) <;> rfl
@[simp] theorem setDie_unacked : (s.setDie d x).unacked = s.unacked := by unfold State.setDie; split <;> (try split) <;> (try split) <;> rfl
@[simp] theorem setDie_backlog : (s.setDie d x).backlog = s.backlog := by unfold State.setDie; split <;> (try split) <;> (try split) <;> rfl
@[simp] theorem setDie_links : (s.setDie d x).links = s.links := by unfold State.setDie; split <;> (try split) <;> (try split) <;> rfl
@[simp] theorem setDie_routeEra : (s.setDie d x).routeEra = s.routeEra := by unfold State.setDie; split <;> (try split) <;> (try split) <;> rfl
@[simp] theorem setDie_downs : (s.setDie d x).downs = s.downs := by unfold State.setDie; split <;> (try split) <;> (try split) <;> rfl
@[simp] theorem setDie_ports : (s.setDie d x).ports = s.ports := by unfold State.setDie; split <;> (try split) <;> (try split) <;> rfl
@[simp] theorem setDie_streams : (s.setDie d x).streams = s.streams := by unfold State.setDie; split <;> (try split) <;> (try split) <;> rfl
@[simp] theorem setDie_flash : (s.setDie d x).flash = s.flash := by unfold State.setDie; split <;> (try split) <;> (try split) <;> rfl
@[simp] theorem setDie_mr : (s.setDie d x).mr = s.mr := by unfold State.setDie; split <;> (try split) <;> (try split) <;> rfl
@[simp] theorem setDie_keys : (s.setDie d x).keys = s.keys := by unfold State.setDie; split <;> (try split) <;> (try split) <;> rfl
@[simp] theorem setDie_throttle : (s.setDie d x).throttle = s.throttle := by unfold State.setDie; split <;> (try split) <;> (try split) <;> rfl
@[simp] theorem setDie_reports : (s.setDie d x).reports = s.reports := by unfold State.setDie; split <;> (try split) <;> (try split) <;> rfl
@[simp] theorem setDie_orphans : (s.setDie d x).orphans = s.orphans := by unfold State.setDie; split <;> (try split) <;> (try split) <;> rfl
@[simp] theorem setDie_awayRuns : (s.setDie d x).awayRuns = s.awayRuns := by unfold State.setDie; split <;> (try split) <;> (try split) <;> rfl
@[simp] theorem setDie_awayRegions : (s.setDie d x).awayRegions = s.awayRegions := by unfold State.setDie; split <;> (try split) <;> (try split) <;> rfl
@[simp] theorem setDie_owing : (s.setDie d x).owing = s.owing := by unfold State.setDie; split <;> (try split) <;> (try split) <;> rfl
@[simp] theorem setDie_flushes : (s.setDie d x).flushes = s.flushes := by unfold State.setDie; split <;> (try split) <;> (try split) <;> rfl
@[simp] theorem setDie_heldWrites : (s.setDie d x).heldWrites = s.heldWrites := by unfold State.setDie; split <;> (try split) <;> (try split) <;> rfl
@[simp] theorem setDie_lateRaises : (s.setDie d x).lateRaises = s.lateRaises := by unfold State.setDie; split <;> (try split) <;> (try split) <;> rfl
@[simp] theorem setDie_net : (s.setDie d x).net = s.net := by unfold State.setDie; split <;> (try split) <;> (try split) <;> rfl
@[simp] theorem setDie_outbox : (s.setDie d x).outbox = s.outbox := by unfold State.setDie; split <;> (try split) <;> (try split) <;> rfl
@[simp] theorem setDie_txFrames : (s.setDie d x).txFrames = s.txFrames := by unfold State.setDie; split <;> (try split) <;> (try split) <;> rfl
@[simp] theorem setDie_agenda : (s.setDie d x).agenda = s.agenda := by unfold State.setDie; split <;> (try split) <;> (try split) <;> rfl
@[simp] theorem setDie_issued : (s.setDie d x).issued = s.issued := by unfold State.setDie; split <;> (try split) <;> (try split) <;> rfl
@[simp] theorem setDie_fresh : (s.setDie d x).fresh = s.fresh := by unfold State.setDie; split <;> (try split) <;> (try split) <;> rfl

/-! ### send -/
@[simp] theorem send_cx : (s.send p).cx = s.cx := by unfold State.send; split <;> rfl
@[simp] theorem send_ctxs : (s.send p).ctxs = s.ctxs := by unfold State.send; split <;> rfl
@[simp] theorem send_cores : (s.send p).cores = s.cores := by unfold State.send; split <;> rfl
@[simp] theorem send_die0 : (s.send p).die0 = s.die0 := by unfold State.send; split <;> rfl
@[simp] theorem send_die1 : (s.send p).die1 = s.die1 := by unfold State.send; split <;> rfl
@[simp] theorem send_die2 : (s.send p).die2 = s.die2 := by unfold State.send; split <;> rfl
@[simp] theorem send_die3 : (s.send p).die3 = s.die3 := by unfold State.send; split <;> rfl
@[simp] theorem send_mem : (s.send p).mem = s.mem := by unfold State.send; split <;> rfl
@[simp] theorem send_dirty : (s.send p).dirty = s.dirty := by unfold State.send; split <;> rfl
@[simp] theorem send_poison : (s.send p).poison = s.poison := by unfold State.send; split <;> rfl
@[simp] theorem send_lineKey : (s.send p).lineKey = s.lineKey := by unfold State.send; split <;> rfl
@[simp] theorem send_keyVer : (s.send p).keyVer = s.keyVer := by unfold State.send; split <;> rfl
@[simp] theorem send_ctrs : (s.send p).ctrs = s.ctrs := by unfold State.send; split <;> rfl
@[simp] theorem send_time : (s.send p).time = s.time := by unfold State.send; split <;> rfl
@[simp] theorem send_regs : (s.send p).regs = s.regs := by unfold State.send; split <;> rfl
@[simp] theorem send_pkg : (s.send p).pkg = s.pkg := by unfold State.send; split <;> rfl
@[simp] theorem send_pods : (s.send p).pods = s.pods := by unfold State.send; split <;> rfl
@[simp] theorem send_hosts : (s.send p).hosts = s.hosts := by unfold State.send; split <;> rfl
@[simp] theorem send_objs : (s.send p).objs = s.objs := by unfold State.send; split <;> rfl
@[simp] theorem send_promises : (s.send p).promises = s.promises := by unfold State.send; split <;> rfl
@[simp] theorem send_gens : (s.send p).gens = s.gens := by unfold State.send; split <;> rfl
@[simp] theorem send_invs : (s.send p).invs = s.invs := by unfold State.send; split <;> rfl
@[simp] theorem send_launches : (s.send p).launches = s.launches := by unfold State.send; split <;> rfl
@[simp] theorem send_phasers : (s.send p).phasers = s.phasers := by unfold State.send; split <;> rfl
@[simp] theorem send_entries : (s.send p).entries = s.entries := by unfold State.send; split <;> rfl
@[simp] theorem send_firings : (s.send p).firings = s.firings := by unfold State.send; split <;> rfl
@[simp] theorem send_raising : (s.send p).raising = s.raising := by unfold State.send; split <;> rfl
@[simp] theorem send_heldRaises : (s.send p).heldRaises = s.heldRaises := by unfold State.send; split <;> rfl
@[simp] theorem send_copies : (s.send p).copies = s.copies := by unfold State.send; split <;> rfl
@[simp] theorem send_rows : (s.send p).rows = s.rows := by unfold State.send; split <;> rfl
@[simp] theorem send_landRows : (s.send p).landRows = s.landRows := by unfold State.send; split <;> rfl
@[simp] theorem send_rowSeq : (s.send p).rowSeq = s.rowSeq := by unfold State.send; split <;> rfl
@[simp] theorem send_ctWaits : (s.send p).ctWaits = s.ctWaits := by unfold State.send; split <;> rfl
@[simp] theorem send_leftTiles : (s.send p).leftTiles = s.leftTiles := by unfold State.send; split <;> rfl
@[simp] theorem send_copyq : (s.send p).copyq = s.copyq := by unfold State.send; split <;> rfl
@[simp] theorem send_dlseq : (s.send p).dlseq = s.dlseq := by unfold State.send; split <;> rfl
@[simp] theorem send_colls : (s.send p).colls = s.colls := by unfold State.send; split <;> rfl
@[simp] theorem send_collNo : (s.send p).collNo = s.collNo := by unfold State.send; split <;> rfl
@[simp] theorem send_fq : (s.send p).fq = s.fq := by unfold State.send; split <;> rfl
@[simp] theorem send_rx : (s.send p).rx = s.rx := by unfold State.send; split <;> rfl
@[simp] theorem send_unacked : (s.send p).unacked = s.unacked := by unfold State.send; split <;> rfl
@[simp] theorem send_backlog : (s.send p).backlog = s.backlog := by unfold State.send; split <;> rfl
@[simp] theorem send_links : (s.send p).links = s.links := by unfold State.send; split <;> rfl
@[simp] theorem send_routeEra : (s.send p).routeEra = s.routeEra := by unfold State.send; split <;> rfl
@[simp] theorem send_downs : (s.send p).downs = s.downs := by unfold State.send; split <;> rfl
@[simp] theorem send_ports : (s.send p).ports = s.ports := by unfold State.send; split <;> rfl
@[simp] theorem send_streams : (s.send p).streams = s.streams := by unfold State.send; split <;> rfl
@[simp] theorem send_flash : (s.send p).flash = s.flash := by unfold State.send; split <;> rfl
@[simp] theorem send_mr : (s.send p).mr = s.mr := by unfold State.send; split <;> rfl
@[simp] theorem send_keys : (s.send p).keys = s.keys := by unfold State.send; split <;> rfl
@[simp] theorem send_throttle : (s.send p).throttle = s.throttle := by unfold State.send; split <;> rfl
@[simp] theorem send_reports : (s.send p).reports = s.reports := by unfold State.send; split <;> rfl
@[simp] theorem send_orphans : (s.send p).orphans = s.orphans := by unfold State.send; split <;> rfl
@[simp] theorem send_awayRuns : (s.send p).awayRuns = s.awayRuns := by unfold State.send; split <;> rfl
@[simp] theorem send_awayRegions : (s.send p).awayRegions = s.awayRegions := by unfold State.send; split <;> rfl
@[simp] theorem send_owing : (s.send p).owing = s.owing := by unfold State.send; split <;> rfl
@[simp] theorem send_flushes : (s.send p).flushes = s.flushes := by unfold State.send; split <;> rfl
@[simp] theorem send_heldWrites : (s.send p).heldWrites = s.heldWrites := by unfold State.send; split <;> rfl
@[simp] theorem send_lateRaises : (s.send p).lateRaises = s.lateRaises := by unfold State.send; split <;> rfl
@[simp] theorem send_txFrames : (s.send p).txFrames = s.txFrames := by unfold State.send; split <;> rfl
@[simp] theorem send_agenda : (s.send p).agenda = s.agenda := by unfold State.send; split <;> rfl
@[simp] theorem send_issued : (s.send p).issued = s.issued := by unfold State.send; split <;> rfl
@[simp] theorem send_fresh : (s.send p).fresh = s.fresh := by unfold State.send; split <;> rfl

/-! ### due -/
@[simp] theorem due_cx : (s.due i).cx = s.cx := rfl
@[simp] theorem due_ctxs : (s.due i).ctxs = s.ctxs := rfl
@[simp] theorem due_cores : (s.due i).cores = s.cores := rfl
@[simp] theorem due_die0 : (s.due i).die0 = s.die0 := rfl
@[simp] theorem due_die1 : (s.due i).die1 = s.die1 := rfl
@[simp] theorem due_die2 : (s.due i).die2 = s.die2 := rfl
@[simp] theorem due_die3 : (s.due i).die3 = s.die3 := rfl
@[simp] theorem due_mem : (s.due i).mem = s.mem := rfl
@[simp] theorem due_dirty : (s.due i).dirty = s.dirty := rfl
@[simp] theorem due_poison : (s.due i).poison = s.poison := rfl
@[simp] theorem due_lineKey : (s.due i).lineKey = s.lineKey := rfl
@[simp] theorem due_keyVer : (s.due i).keyVer = s.keyVer := rfl
@[simp] theorem due_ctrs : (s.due i).ctrs = s.ctrs := rfl
@[simp] theorem due_time : (s.due i).time = s.time := rfl
@[simp] theorem due_regs : (s.due i).regs = s.regs := rfl
@[simp] theorem due_pkg : (s.due i).pkg = s.pkg := rfl
@[simp] theorem due_pods : (s.due i).pods = s.pods := rfl
@[simp] theorem due_hosts : (s.due i).hosts = s.hosts := rfl
@[simp] theorem due_objs : (s.due i).objs = s.objs := rfl
@[simp] theorem due_promises : (s.due i).promises = s.promises := rfl
@[simp] theorem due_gens : (s.due i).gens = s.gens := rfl
@[simp] theorem due_invs : (s.due i).invs = s.invs := rfl
@[simp] theorem due_launches : (s.due i).launches = s.launches := rfl
@[simp] theorem due_phasers : (s.due i).phasers = s.phasers := rfl
@[simp] theorem due_entries : (s.due i).entries = s.entries := rfl
@[simp] theorem due_firings : (s.due i).firings = s.firings := rfl
@[simp] theorem due_raising : (s.due i).raising = s.raising := rfl
@[simp] theorem due_heldRaises : (s.due i).heldRaises = s.heldRaises := rfl
@[simp] theorem due_copies : (s.due i).copies = s.copies := rfl
@[simp] theorem due_rows : (s.due i).rows = s.rows := rfl
@[simp] theorem due_landRows : (s.due i).landRows = s.landRows := rfl
@[simp] theorem due_rowSeq : (s.due i).rowSeq = s.rowSeq := rfl
@[simp] theorem due_ctWaits : (s.due i).ctWaits = s.ctWaits := rfl
@[simp] theorem due_leftTiles : (s.due i).leftTiles = s.leftTiles := rfl
@[simp] theorem due_copyq : (s.due i).copyq = s.copyq := rfl
@[simp] theorem due_dlseq : (s.due i).dlseq = s.dlseq := rfl
@[simp] theorem due_colls : (s.due i).colls = s.colls := rfl
@[simp] theorem due_collNo : (s.due i).collNo = s.collNo := rfl
@[simp] theorem due_fq : (s.due i).fq = s.fq := rfl
@[simp] theorem due_rx : (s.due i).rx = s.rx := rfl
@[simp] theorem due_unacked : (s.due i).unacked = s.unacked := rfl
@[simp] theorem due_backlog : (s.due i).backlog = s.backlog := rfl
@[simp] theorem due_links : (s.due i).links = s.links := rfl
@[simp] theorem due_routeEra : (s.due i).routeEra = s.routeEra := rfl
@[simp] theorem due_downs : (s.due i).downs = s.downs := rfl
@[simp] theorem due_ports : (s.due i).ports = s.ports := rfl
@[simp] theorem due_streams : (s.due i).streams = s.streams := rfl
@[simp] theorem due_flash : (s.due i).flash = s.flash := rfl
@[simp] theorem due_mr : (s.due i).mr = s.mr := rfl
@[simp] theorem due_keys : (s.due i).keys = s.keys := rfl
@[simp] theorem due_throttle : (s.due i).throttle = s.throttle := rfl
@[simp] theorem due_reports : (s.due i).reports = s.reports := rfl
@[simp] theorem due_orphans : (s.due i).orphans = s.orphans := rfl
@[simp] theorem due_awayRuns : (s.due i).awayRuns = s.awayRuns := rfl
@[simp] theorem due_awayRegions : (s.due i).awayRegions = s.awayRegions := rfl
@[simp] theorem due_owing : (s.due i).owing = s.owing := rfl
@[simp] theorem due_flushes : (s.due i).flushes = s.flushes := rfl
@[simp] theorem due_heldWrites : (s.due i).heldWrites = s.heldWrites := rfl
@[simp] theorem due_lateRaises : (s.due i).lateRaises = s.lateRaises := rfl
@[simp] theorem due_net : (s.due i).net = s.net := rfl
@[simp] theorem due_outbox : (s.due i).outbox = s.outbox := rfl
@[simp] theorem due_txFrames : (s.due i).txFrames = s.txFrames := rfl
@[simp] theorem due_issued : (s.due i).issued = s.issued := rfl
@[simp] theorem due_fresh : (s.due i).fresh = s.fresh := rfl

/-! ### The field that an update writes -/
@[simp] theorem setP_cx_p : (s.setP pr v).cx.p = s.cx.p.set pr.toFin v := rfl
@[simp] theorem setP_cx_landed : (s.setP pr v).cx.landed = .p pr :: s.cx.landed := rfl
@[simp] theorem later_cx_pend : (s.later rv).cx.pend = s.cx.pend ++ [rv] := rfl
@[simp] theorem tick_time : s.tick.time = s.time + natWord (Config.elapsed s.issued) := rfl
@[simp] theorem counted_time : s.counted.time = s.time + natWord (Config.elapsed s.issued) := rfl
@[simp] theorem counted_issued : s.counted.issued = s.issued + 1 := rfl
@[simp] theorem endRun_cx_status : s.endRun.cx.status = .atSwitch := rfl
@[simp] theorem finish_issued : (s.finish sw).issued = s.issued + 1 := rfl
@[simp] theorem jumpTo_cx_pc : (s.jumpTo t sw).cx.pc = t := rfl
@[simp] theorem jumpTo_issued : (s.jumpTo t sw).issued = s.issued + 1 := rfl
@[simp] theorem setCore_cores : (s.setCore k).cores = putCoreIn k s.cores := rfl
@[simp] theorem due_agenda : (s.due i).agenda = s.agenda ++ [.event i] := rfl
@[simp] theorem setG_zero : s.setG 0 v = s := if_pos rfl
@[simp] theorem setQ_zero : s.setQ 0 b = s := if_pos rfl
@[simp] theorem laterG_zero : s.laterG 0 v = s := if_pos rfl
@[simp] theorem laterM_zero : s.laterM 0 mv = s := if_pos rfl
@[simp] theorem laterQ_zero : s.laterQ 0 b = s := if_pos rfl

/-! ### A core and a die read back -/
theorem coreIn_putCoreIn (l : List CoreSt) (id : CoreId) :
    coreIn id (putCoreIn k l) = if k.id = id then k else coreIn id l := by
  induction l with
  | nil => simp only [putCoreIn, coreIn]
  | cons e l ih =>
    by_cases he : e.id = k.id
    · by_cases hk : k.id = id
      · simp [putCoreIn, coreIn, he, hk]
      · simp [putCoreIn, coreIn, he, hk]
    · by_cases hk : e.id = id
      · subst hk; simp [putCoreIn, coreIn, he, Ne.symm he]
      · simp [putCoreIn, coreIn, he, hk, ih]

/-- A core reads back as it was put; the others are as before. -/
theorem core_setCore (id : CoreId) : (s.setCore k).core id = if k.id = id then k else s.core id :=
  coreIn_putCoreIn k s.cores id

theorem die_setDie_same : (s.setDie d x).die d = x := by
  unfold State.setDie State.die
  split <;> (try split) <;> (try split) <;> rfl

end Sys2Proof.Machine
end

