-- ==== Sys2Proof/Laws/Memory.lean ====
section
/-! SUPPORT. The laws of sparse tables and of memory: what a read gives after a write, and that every operation that writes memory
keeps its canonical form. -/

namespace Sys2Proof.Machine

/-! ## Tables: reading after writing -/

theorem tget_tdel {α : Type} (d : α) (t : Tbl α) (k j : Nat) : tget d (tdel t k) j = if k = j then d else tget d t j := by
  induction t with
  | nil => simp [tdel, tget]
  | cons e t ih =>
    obtain ⟨a, w⟩ := e
    by_cases h : a = k
    · subst h
      by_cases hj : a = j
      · subst hj; simpa [tdel] using ih
      · simp [tdel, tget, hj, ih]
    · by_cases hj : a = j
      · subst hj; simp [tdel, tget, h, Ne.symm h]
      · simp [tdel, tget, h, hj, ih]

theorem tget_tput {α : Type} (d : α) (t : Tbl α) (k : Nat) (v : α) (j : Nat) :
    tget d (tput t k v) j = if k = j then v else tget d t j := by
  induction t with
  | nil => simp [tput, tget]
  | cons e t ih =>
    obtain ⟨a, w⟩ := e
    simp only [tput]
    split
    · simp [tget]
    · split
      · next h => subst h; by_cases hj : k = j <;> simp [tget, hj]
      · next h =>
        by_cases hj : a = j
        · subst hj; simp [tget, h]
        · simp [tget, hj, ih]

/-- A write reads back at its key, and leaves every other key alone. -/
theorem tget_tset {α : Type} [DecidableEq α] (d : α) (t : Tbl α) (k : Nat) (v : α) (j : Nat) :
    tget d (tset d t k v) j = if k = j then v else tget d t j := by
  unfold tset
  split
  · next h => rw [tget_tdel, h]
  · exact tget_tput d t k v j

/-! ## Tables: the canonical form -/

/-- A lower bound on the first key. -/
def above (lo : Option Nat) (k : Nat) : Prop := match lo with | none => True | some l => l < k

theorem above_trans {lo : Option Nat} {a b : Nat} (h : above lo a) (hab : a < b) : above lo b := by
  cases lo with
  | none => trivial
  | some l => exact Nat.lt_trans h hab

theorem twfFrom_cons {α : Type} [DecidableEq α] {d : α} {lo : Option Nat} {k : Nat} {v : α} {t : Tbl α} :
    twfFrom d lo ((k, v) :: t) = true ↔ above lo k ∧ v ≠ d ∧ twfFrom d (some k) t = true := by
  cases lo <;> simp [twfFrom, above, and_assoc]

/-- A weaker bound is kept. -/
theorem twfFrom_weaken {α : Type} [DecidableEq α] {d : α} {lo lo' : Option Nat} {t : Tbl α}
    (hlo : ∀ k, above lo k → above lo' k) (h : twfFrom d lo t = true) : twfFrom d lo' t = true := by
  cases t with
  | nil => rfl
  | cons e t =>
    rw [twfFrom_cons] at h ⊢
    exact ⟨hlo _ h.1, h.2⟩

theorem twfFrom_tput {α : Type} [DecidableEq α] {d : α} {t : Tbl α} {lo : Option Nat} {k : Nat} {v : α}
    (h : twfFrom d lo t = true) (hk : above lo k) (hv : v ≠ d) : twfFrom d lo (tput t k v) = true := by
  induction t generalizing lo with
  | nil => exact twfFrom_cons.mpr ⟨hk, hv, rfl⟩
  | cons e t ih =>
    obtain ⟨a, w⟩ := e
    rw [twfFrom_cons] at h
    simp only [tput]
    split
    · next hlt => exact twfFrom_cons.mpr ⟨hk, hv, twfFrom_cons.mpr ⟨hlt, h.2⟩⟩
    · split
      · next he => subst he; exact twfFrom_cons.mpr ⟨hk, hv, h.2.2⟩
      · exact twfFrom_cons.mpr ⟨h.1, h.2.1, ih h.2.2 (show a < k by omega)⟩

theorem twfFrom_filter {α : Type} [DecidableEq α] {d : α} (p : Nat × α → Bool) {t : Tbl α} {lo : Option Nat}
    (h : twfFrom d lo t = true) : twfFrom d lo (t.filter p) = true := by
  induction t generalizing lo with
  | nil => rfl
  | cons e t ih =>
    obtain ⟨a, w⟩ := e
    rw [twfFrom_cons] at h
    by_cases hp : p (a, w) = true
    · rw [List.filter_cons_of_pos hp]
      exact twfFrom_cons.mpr ⟨h.1, h.2.1, ih h.2.2⟩
    · rw [List.filter_cons_of_neg hp]
      exact ih (twfFrom_weaken (lo := some a) (fun k hk => above_trans h.1 hk) h.2.2)

theorem tdel_eq_filter {α : Type} (t : Tbl α) (k : Nat) : tdel t k = t.filter (fun e => e.1 ≠ k) := by
  induction t with
  | nil => rfl
  | cons e t ih =>
    obtain ⟨a, w⟩ := e
    by_cases h : a = k <;> simp [tdel, h, ih]

/-- A write keeps the canonical form. -/
theorem twf_tset {α : Type} [DecidableEq α] {d : α} {t : Tbl α} (k : Nat) (v : α) (h : twf d t = true) : twf d (tset d t k v) = true := by
  unfold tset
  split
  · rw [tdel_eq_filter]; exact twfFrom_filter _ h
  · next hv => exact twfFrom_tput h trivial hv

theorem twf_filter {α : Type} [DecidableEq α] {d : α} {t : Tbl α} (p : Nat × α → Bool) (h : twf d t = true) :
    twf d (t.filter p) = true := twfFrom_filter p h

/-- A sequence of writes keeps the canonical form. -/
theorem twf_foldl_tset {α β : Type} [DecidableEq α] {d : α} (at_ : β → Nat) (v : β → α) (l : List β) {t : Tbl α} (h : twf d t = true) :
    twf d (l.foldl (fun t e => tset d t (at_ e) (v e)) t) = true := by
  induction l generalizing t with
  | nil => exact h
  | cons e l ih => exact ih (twf_tset _ _ h)

/-! ## Memory -/

theorem memory_wf_reset : Memory.wf State.reset.mem = true := rfl

theorem memPut_wf {m : Tbl Byte} (pa : Nat) (bs : List Byte) (h : Memory.wf m = true) : Memory.wf (memPut m pa bs) = true := by
  induction bs generalizing m pa with
  | nil => exact h
  | cons b bs ih => exact ih (pa + 1) (twf_tset pa b h)

/-- Bytes outside the range written are as before. -/
theorem tget_memPut_outside {m : Tbl Byte} {pa : Nat} {bs : List Byte} {a : Nat} (h : a < pa ∨ pa + bs.length ≤ a) :
    tget 0 (memPut m pa bs) a = tget 0 m a := by
  induction bs generalizing m pa with
  | nil => rfl
  | cons b bs ih =>
    simp only [List.length_cons] at h
    rw [memPut, ih (by omega), tget_tset, if_neg (by omega)]

/-- The bytes written read back. -/
theorem tget_memPut_inside {m : Tbl Byte} {pa : Nat} {bs : List Byte} {n : Nat} (h : n < bs.length) :
    tget 0 (memPut m pa bs) (pa + n) = bs[n] := by
  induction bs generalizing m pa n with
  | nil => simp at h
  | cons b bs ih =>
    rw [memPut]
    cases n with
    | zero => rw [tget_memPut_outside (by omega), tget_tset]; simp
    | succ n =>
      have := ih (m := tset 0 m pa b) (pa := pa + 1) (n := n) (by simpa using h)
      rw [show pa + (n + 1) = pa + 1 + n by omega, this]
      rfl

theorem rekey_wf {s : State} (key : BitVec 8) (pa : Nat) (h : Memory.wf s.mem = true) : Memory.wf (s.rekey key pa).mem = true := by
  unfold State.rekey
  simp only
  split
  · exact h
  · generalize List.range 256 = l
    exact twf_foldl_tset (fun i => 256 * (pa / 256) + i) (fun i => Config.freeByte s.issued (256 * (pa / 256) + i)) l h

/-- Outside its line a change of key leaves every byte as it was. -/
theorem rekey_outside {s : State} {key : BitVec 8} {pa a : Nat} (h : a / 256 ≠ pa / 256) : (s.rekey key pa).byte a = s.byte a := by
  unfold State.rekey
  simp only
  split
  · rfl
  · have : ∀ (l : List Nat) (m : Tbl Byte), (∀ i ∈ l, i < 256) →
        tget 0 (l.foldl (fun m i => tset 0 m (256 * (pa / 256) + i) (Config.freeByte s.issued (256 * (pa / 256) + i))) m) a = tget 0 m a := by
      intro l
      induction l with
      | nil => intro m _; rfl
      | cons i l ih =>
        intro m hl
        have hi := hl i (List.mem_cons_self ..)
        rw [List.foldl_cons, ih _ (fun j hj => hl j (List.mem_cons_of_mem _ hj)), tget_tset, if_neg (by omega)]
    have hr : ∀ i ∈ List.range 256, i < 256 := fun i hi => List.mem_range.mp hi
    generalize List.range 256 = l at hr
    exact this l s.mem hr

theorem rekeyRange_wf {s : State} (key : BitVec 8) (pa n : Nat) (h : Memory.wf s.mem = true) :
    Memory.wf (s.rekeyRange key pa n).mem = true := by
  unfold State.rekeyRange
  generalize List.range _ = l
  induction l generalizing s with
  | nil => exact h
  | cons k l ih => exact ih (rekey_wf key _ h)

@[simp] theorem watch_mem (s : State) (pa n : Nat) : (s.watch pa n).mem = s.mem := by
  unfold State.watch
  simp only
  split
  · rfl
  · exact setDie_mem _ _ _

@[simp] theorem watchAll_mem (s : State) (pas : List Nat) : (s.watchAll pas).mem = s.mem := by
  unfold State.watchAll
  induction pas generalizing s with
  | nil => rfl
  | cons a pas ih => rw [List.foldl_cons, ih, watch_mem]

@[simp] theorem writeBack_mem (s : State) (p : Nat → Nat → Bool) : (s.writeBack p).mem = s.mem := watchAll_mem s _
@[simp] theorem recallRange_mem (s : State) (owner pa n : Nat) : (s.recallRange owner pa n).mem = s.mem := writeBack_mem s _
@[simp] theorem recallAll_mem (s : State) (pa n : Nat) : (s.recallAll pa n).mem = s.mem := writeBack_mem s _

/-- A write at the home slices keeps the canonical form. -/
theorem putHome_wf {s : State} (key : BitVec 8) (pa : Nat) (bs : List Byte) (h : Memory.wf s.mem = true) :
    Memory.wf (s.putHome key pa bs).mem = true :=
  memPut_wf pa bs (by rw [watch_mem, recallAll_mem]; exact rekeyRange_wf key pa _ h)

/-- A store under a write lease keeps the canonical form. -/
theorem putL1_wf {s : State} (core : Nat) (key : BitVec 8) (pa : Nat) (bs : List Byte) (h : Memory.wf s.mem = true) :
    Memory.wf (s.putL1 core key pa bs).mem = true :=
  memPut_wf pa bs (by rw [watch_mem, recallRange_mem]; exact rekeyRange_wf key pa _ h)

/-- R138: SINV keeps the canonical form. -/
theorem dropEntries_wf {s : State} (w : Window) (h : Memory.wf s.mem = true) : Memory.wf (s.dropEntries w).mem = true :=
  twf_foldl_tset (fun e : Nat × (Byte × Bool) × Nat => e.1) (fun e => e.2.1.1) _ h

/-- R441: the loss of what is not written back keeps the canonical form. -/
theorem loseDirty_wf {s : State} (h : Memory.wf s.mem = true) : Memory.wf s.loseDirty.mem = true :=
  twf_foldl_tset (fun e : Nat × (Byte × Bool) × Nat => e.1) (fun e => e.2.1.1) _ h

theorem clearQueues_wf {s : State} (h : Memory.wf s.mem = true) : Memory.wf s.clearQueues.mem = true := twf_filter _ h

/-- What a home write stores reads back as stored. -/
theorem putHome_byte_inside {s : State} {key : BitVec 8} {pa : Nat} {bs : List Byte} {n : Nat} (h : n < bs.length) :
    (s.putHome key pa bs).byte (pa + n) = bs[n] := tget_memPut_inside h

theorem putL1_byte_inside {s : State} {core : Nat} {key : BitVec 8} {pa : Nat} {bs : List Byte} {n : Nat} (h : n < bs.length) :
    (s.putL1 core key pa bs).byte (pa + n) = bs[n] := tget_memPut_inside h

end Sys2Proof.Machine
end

