-- ==== Sys2Proof/Tests/Slice0.lean ====
section
/-! SUPPORT. Tests and witnesses. Expected values come from the manual: its encodings, tables and worked examples. A witness shows
that the hypotheses of a statement's clause are met together; it says nothing more. -/

open Sys2Proof Sys2Proof.Machine

namespace Sys2Proof.Tests
set_option Elab.async false

/-! ## Decoding: one word for every instruction, written out from R63, R70 and the fields of its entry -/

theorem test_words_scalar_a :
    decodeTableWord 96 0xDEADBEEF0000000000000001 = some (.nop ⟨false, 0, false, 0⟩ (.imm 0xDEADBEEF)) ∧
    decodeTableWord 64 0x00000203E32A021C = some (.add ⟨true, 3, false, 0⟩ 21 6 (.reg 31) true) ∧
    decodeTableWord 96 0x800000010000000008BC04E9 = some (.sub ⟨false, 5, true, 1⟩ 30 17 (.imm 0x80000001) false) ∧
    decodeTableWord 64 0x00000203E32A077C = some (.and ⟨true, 7, true, 2⟩ 21 6 (.reg 31) true) ∧
    decodeTableWord 96 0x800000010000000008BC0991 = some (.or ⟨false, 2, false, 3⟩ 30 17 (.imm 0x80000001) false) ∧
    decodeTableWord 64 0x00000203E32A0A00 = some (.xor ⟨false, 0, false, 0⟩ 21 6 (.reg 31) true) ∧
    decodeTableWord 96 0x800000010000000008BC0C1D = some (.andn ⟨true, 3, false, 0⟩ 30 17 (.imm 0x80000001) false) ∧
    decodeTableWord 64 0x00000203E32A0EE8 = some (.shl ⟨false, 5, true, 1⟩ 21 6 (.reg 31) true) ∧
    decodeTableWord 96 0x800000010000000008BC117D = some (.shr ⟨true, 7, true, 2⟩ 30 17 (.imm 0x80000001) false) ∧
    decodeTableWord 64 0x00000203E32A1390 = some (.sar ⟨false, 2, false, 3⟩ 21 6 (.reg 31) true) ∧
    decodeTableWord 96 0x800000010000000008BC1401 = some (.rot ⟨false, 0, false, 0⟩ 30 17 (.imm 0x80000001) false) := by
  decide +kernel

theorem test_words_scalar_b :
    decodeTableWord 64 0x00000203E32A161C = some (.min ⟨true, 3, false, 0⟩ 21 6 (.reg 31) true) ∧
    decodeTableWord 96 0x800000010000000008BC18E9 = some (.max ⟨false, 5, true, 1⟩ 30 17 (.imm 0x80000001) false) ∧
    decodeTableWord 64 0x00000203E32A1B7C = some (.minu ⟨true, 7, true, 2⟩ 21 6 (.reg 31) true) ∧
    decodeTableWord 96 0x800000010000000008BC1D91 = some (.maxu ⟨false, 2, false, 3⟩ 30 17 (.imm 0x80000001) false) ∧
    decodeTableWord 64 0x00000203E32A1E00 = some (.adds ⟨false, 0, false, 0⟩ 21 6 (.reg 31) true) ∧
    decodeTableWord 96 0x800000010000000008BC201D = some (.subs ⟨true, 3, false, 0⟩ 30 17 (.imm 0x80000001) false) ∧
    decodeTableWord 64 0x00000203E32A22E8 = some (.mul ⟨false, 5, true, 1⟩ 21 6 (.reg 31) true) ∧
    decodeTableWord 96 0x800000010000000008BC297D = some (.div ⟨true, 7, true, 2⟩ 30 17 (.imm 0x80000001) false) ∧
    decodeTableWord 64 0x00000203E32A2B90 = some (.divu ⟨false, 2, false, 3⟩ 21 6 (.reg 31) true) ∧
    decodeTableWord 96 0x800000010000000008BC2C01 = some (.rem ⟨false, 0, false, 0⟩ 30 17 (.imm 0x80000001) false) ∧
    decodeTableWord 64 0x00000203E32A2E1C = some (.remu ⟨true, 3, false, 0⟩ 21 6 (.reg 31) true) ∧
    decodeTableWord 64 0x00000003E32A24E8 = some (.mulh ⟨false, 5, true, 1⟩ 21 6 (.reg 31)) ∧
    decodeTableWord 96 0x800000010000000008BC277D = some (.mulhu ⟨true, 7, true, 2⟩ 30 17 (.imm 0x80000001)) := by
  decide +kernel

theorem test_words_scalar_c :
    decodeTableWord 64 0x000002000B123190 = some (.clz ⟨false, 2, false, 3⟩ 9 22 true) ∧
    decodeTableWord 64 0x000002000B123200 = some (.ctz ⟨false, 0, false, 0⟩ 9 22 true) ∧
    decodeTableWord 64 0x000002000B12341C = some (.popc ⟨true, 3, false, 0⟩ 9 22 true) ∧
    decodeTableWord 64 0x000002000B1236E8 = some (.brev ⟨false, 5, true, 1⟩ 9 22 true) ∧
    decodeTableWord 64 0x000F42000986397C = some (.extr ⟨true, 7, true, 2⟩ 3 19 33 30) ∧
    decodeTableWord 64 0x0002F40389863B90 = some (.insr ⟨false, 2, false, 3⟩ 3 19 28 58 5) ∧
    decodeTableWord 64 0x001F800009083C00 = some (.sext ⟨false, 0, false, 0⟩ 4 18 63) ∧
    decodeTableWord 64 0x0000800009083E1C = some (.zext ⟨true, 3, false, 0⟩ 4 18 1) ∧
    decodeTableWord 64 0x000006016A0A40E8 = some (.lea ⟨false, 5, true, 1⟩ 5 20 (.idx 11 3)) ∧
    decodeTableWord 128 0x0123456789ABCDEF00000000000C437E = some (.movi ⟨true, 7, true, 2⟩ 6 (.w64 0x0123456789ABCDEF)) ∧
    decodeTableWord 64 0x0000260303FC4590 = some (.cmp ⟨false, 2, false, 3⟩ 6 7 (.reg 24) true 9) ∧
    decodeTableWord 64 0x000001E9CB904600 = some (.csel ⟨false, 0, false, 0⟩ 8 5 23 14) ∧
    decodeTableWord 64 0x000016079D72481C = some (.qop ⟨true, 3, false, 0⟩ 1 2 4 11) := by
  decide +kernel

theorem test_words_float :
    decodeTableWord 64 0x00000601AC9450E8 = some (.fadd ⟨false, 5, true, 1⟩ 10 25 13 3) ∧
    decodeTableWord 64 0x00000601AC94537C = some (.fsub ⟨true, 7, true, 2⟩ 10 25 13 3) ∧
    decodeTableWord 64 0x00000601AC945590 = some (.fmul ⟨false, 2, false, 3⟩ 10 25 13 3) ∧
    decodeTableWord 64 0x00000601AC945C00 = some (.fdiv ⟨false, 0, false, 0⟩ 10 25 13 3) ∧
    decodeTableWord 64 0x00000EB1AC94561C = some (.ffma ⟨true, 3, false, 0⟩ 10 25 13 22 7) ∧
    decodeTableWord 64 0x00000E01AC9458E8 = some (.fmin ⟨false, 5, true, 1⟩ 10 25 13 7) ∧
    decodeTableWord 64 0x00000001AC945B7C = some (.fmax ⟨true, 7, true, 2⟩ 10 25 13 0) ∧
    decodeTableWord 64 0x000004000C945F90 = some (.fsqrt ⟨false, 2, false, 3⟩ 10 25 2) ∧
    decodeTableWord 64 0x000028018D7E6000 = some (.fcmp ⟨false, 0, false, 0⟩ 7 26 12 10) ∧
    decodeTableWord 64 0x001018000D96621C = some (.fcvt ⟨true, 3, false, 0⟩ 11 27 4 1 0 1) ∧
    decodeTableWord 64 0x000D04000D9662E8 = some (.fcvt ⟨false, 5, true, 1⟩ 11 27 2 0 13 0) := by
  decide +kernel

theorem test_words_control :
    decodeTableWord 64 0x800002000000817C = some (.br ⟨true, 7, true, 2⟩ (.short 0x400001)) ∧
    decodeTableWord 96 0x8000000100000000003A8391 = some (.call ⟨false, 2, false, 3⟩ 29 (.long 0x80000001)) ∧
    decodeTableWord 64 0x0000000007B88400 = some (.jmp ⟨false, 0, false, 0⟩ 28 15) ∧
    decodeTableWord 64 0x000000000E80861C = some (.ret ⟨true, 3, false, 0⟩ 29) ∧
    decodeTableWord 64 0x0000B000068088E8 = some (.rep ⟨false, 5, true, 1⟩ 13 8 5) ∧
    decodeTableWord 64 0x0000000000008B7C = some (.yield ⟨true, 7, true, 2⟩) ∧
    decodeTableWord 64 0x0000000000008D90 = some (.halt ⟨false, 2, false, 3⟩) ∧
    decodeTableWord 64 0x0000000000009200 = some (.eret ⟨false, 0, false, 0⟩) ∧
    decodeTableWord 64 0x0000000000009E1C = some (.gsplit ⟨true, 3, false, 0⟩) ∧
    decodeTableWord 64 0x01579A0000008EE8 = some (.trap ⟨false, 5, true, 1⟩ 0xABCD) ∧
    decodeTableWord 64 0x010002000000917C = some (.brk ⟨true, 7, true, 2⟩ 0x8001) ∧
    decodeTableWord 64 0x01FFFC0000009590 = some (.sysc ⟨false, 2, false, 3⟩ 0xFFFE) ∧
    decodeTableWord 64 0x00104600001C9600 = some (.mfs ⟨false, 0, false, 0⟩ 14 0x823) ∧
    decodeTableWord 64 0x000080000700981C = some (.mts ⟨true, 3, false, 0⟩ 14 0x040) ∧
    decodeTableWord 64 0x0000000008809AE8 = some (.atinv ⟨false, 5, true, 1⟩ 17 0) ∧
    decodeTableWord 64 0x000004001D929D7C = some (.gvote ⟨true, 7, true, 2⟩ (.ballot 9) 3) ∧
    decodeTableWord 64 0x000002001F789D90 = some (.gvote ⟨false, 2, false, 3⟩ (.all 4) 6) := by
  decide +kernel

theorem test_words_memory :
    decodeTableWord 64 0x80400A00080EC000 = some (.ld ⟨false, 0, false, 0⟩ 7 16 (.off 0x201) 1 true) ∧
    decodeTableWord 64 0x00005603C80EC01C = some (.ld ⟨true, 3, false, 0⟩ 7 16 (.idx 30 2) 3 false) ∧
    decodeTableWord 96 0x80000010000984A80900C2E9 = some (.st ⟨false, 5, true, 1⟩ 18 (.imm 0x80000010) 21 2 19) ∧
    decodeTableWord 64 0x7FC00800080EC57C = some (.ldro ⟨true, 7, true, 2⟩ 7 16 (.off 0x1FF) 0 true) ∧
    decodeTableWord 64 0x000070010800C990 = some (.pref ⟨false, 2, false, 3⟩ 16 (.idx 8 3)) ∧
    decodeTableWord 64 0x000000000000C600 = some (.roinv ⟨false, 0, false, 0⟩) ∧
    decodeTableWord 64 0x014774012A18CA1C = some (.amo ⟨true, 3, false, 0⟩ 12 20 9 0 10 3 6 17 2) ∧
    decodeTableWord 64 0x00C450012A00CCE8 = some (.red ⟨false, 5, true, 1⟩ 20 9 8 2 17 1) ∧
    decodeTableWord 64 0x000004000000CF7C = some (.fence ⟨true, 7, true, 2⟩ 2) := by
  decide +kernel

theorem test_words_stash :
    decodeTableWord 128 0x3000100000FFFFF000000000004D0192 = some (.pset ⟨false, 2, false, 3⟩ 6 (.imm 0x3000100000FFFFF0)) ∧
    decodeTableWord 96 0xFFFFFFF000000000004F0201 = some (.padv ⟨false, 0, false, 0⟩ 7 (.imm 0xFFFFFFF0)) ∧
    decodeTableWord 64 0x00000030A201041C = some (.smap ⟨true, 3, false, 0⟩ 4 5 6) ∧
    decodeTableWord 64 0x000000000D8106E8 = some (.sunmap ⟨false, 5, true, 1⟩ 27) ∧
    decodeTableWord 64 0x000000000D81097C = some (.sflush ⟨true, 7, true, 2⟩ 27) ∧
    decodeTableWord 64 0x000000000D810B90 = some (.sinv ⟨false, 2, false, 3⟩ 27) := by
  decide +kernel

theorem test_words_vector_a :
    decodeTableWord 64 0x0000F398135B1000 = some (.vlda ⟨false, 0, false, 0⟩ 5 6 3 9 7) ∧
    decodeTableWord 64 0x0000199DB301121C = some (.vsta ⟨true, 3, false, 0⟩ 6 5 3 12 0) ∧
    decodeTableWord 64 0x0000E398175B3EE8 = some (.vmova ⟨false, 5, true, 1⟩ 5 (.a 6) 3 1 7) ∧
    decodeTableWord 64 0x0000E998135B217C = some (.vabs ⟨true, 7, true, 2⟩ 5 (.p 6) 3 4 7) ∧
    decodeTableWord 64 0x000047A437D51590 = some (.vadd ⟨false, 2, false, 3⟩ 2 (.a 7) (.p 1) 4 3 2) ∧
    decodeTableWord 64 0x000047A437D51600 = some (.vsub ⟨false, 0, false, 0⟩ 2 (.a 7) (.p 1) 4 3 2) ∧
    decodeTableWord 64 0x000047A437D5181C = some (.vmul ⟨true, 3, false, 0⟩ 2 (.a 7) (.p 1) 4 3 2) ∧
    decodeTableWord 64 0x000047A437D51AE8 = some (.vfma ⟨false, 5, true, 1⟩ 2 (.a 7) (.p 1) 4 3 2) ∧
    decodeTableWord 64 0x0000F1A533D51D7C = some (.vmin ⟨true, 7, true, 2⟩ 2 (.p 7) (.a 1) 4 8 7) ∧
    decodeTableWord 64 0x0000F1A533D51F90 = some (.vmax ⟨false, 2, false, 3⟩ 2 (.p 7) (.a 1) 4 8 7) ∧
    decodeTableWord 64 0x0000F1A533D52600 = some (.vsel ⟨false, 0, false, 0⟩ 2 (.p 7) (.a 1) 4 8 7) ∧
    decodeTableWord 64 0x0000F1A533D52A1C = some (.vperm ⟨true, 3, false, 0⟩ 2 (.p 7) (.a 1) 4 8 7) := by
  decide +kernel

theorem test_words_vector_b :
    decodeTableWord 64 0x000017A537D530E8 = some (.vand ⟨false, 5, true, 1⟩ 2 (.a 7) (.a 1) 4 11 0) ∧
    decodeTableWord 64 0x000017A537D5337C = some (.vor ⟨true, 7, true, 2⟩ 2 (.a 7) (.a 1) 4 11 0) ∧
    decodeTableWord 64 0x000017A537D53590 = some (.vxor ⟨false, 2, false, 3⟩ 2 (.a 7) (.a 1) 4 11 0) ∧
    decodeTableWord 64 0x000017A537D53600 = some (.vshl ⟨false, 0, false, 0⟩ 2 (.a 7) (.a 1) 4 11 0) ∧
    decodeTableWord 64 0x000017A537D5381C = some (.vshr ⟨true, 3, false, 0⟩ 2 (.a 7) (.a 1) 4 11 0) ∧
    decodeTableWord 64 0x0000DFB815D322E8 = some (.vcvt ⟨false, 5, true, 1⟩ 1 (.a 3) 7 7 13 0 0) ∧
    decodeTableWord 64 0x0009F5ADD567257C = some (.vcmp ⟨true, 7, true, 2⟩ 3 (.a 2) (.a 6) 5 10 7 9) ∧
    decodeTableWord 64 0x000A1990121F2990 = some (.vred ⟨false, 2, false, 3⟩ 15 (.p 4) 2 12 0 10) ∧
    decodeTableWord 64 0x0000E1B009D92C00 = some (.vbcast ⟨false, 0, false, 0⟩ 4 19 6 7) ∧
    decodeTableWord 64 0x000001B009D9401C = some (.viota ⟨true, 3, false, 0⟩ 4 19 6 0) ∧
    decodeTableWord 64 0x000465B016D92EE8 = some (.vspec ⟨false, 5, true, 1⟩ 4 (.a 5) 6 2 3 4) ∧
    decodeTableWord 64 0x0000F1B5A9D93B7C = some (.vgath ⟨true, 7, true, 2⟩ 4 19 5 6 8 7) ∧
    decodeTableWord 64 0x0000F1B5A9D93D90 = some (.vscat ⟨false, 2, false, 3⟩ 19 5 4 6 8 7) ∧
    decodeTableWord 64 0x01F0F00016A74200 = some (.vextr ⟨false, 0, false, 0⟩ 19 5 31 8 7) ∧
    decodeTableWord 64 0x0110000009DB441C = some (.vins ⟨true, 3, false, 0⟩ 5 19 17 0 0) ∧
    decodeTableWord 64 0x00001206FB6B46E8 = some (.mkopTt ⟨false, 5, true, 1⟩ 5 6 7 9) ∧
    decodeTableWord 64 0x000020000F6B477C = some (.mkopReg ⟨true, 7, true, 2⟩ 5 30) ∧
    decodeTableWord 64 0x000004001ABD4990 = some (.mkpop ⟨false, 2, false, 3⟩ 30 5 2) := by
  decide +kernel

theorem test_words_engine :
    decodeTableWord 64 0x0000060000016000 = some (.mxz ⟨false, 0, false, 0⟩ 3) ∧
    decodeTableWord 128 0x00000040FFFFFFF000006C50A201621E = some (.mxmul ⟨true, 3, false, 0⟩ 2 (some 6) 4 5 10 0xFFFFFFF0 0x40) ∧
    decodeTableWord 128 0x800000000000001000010250A22F64EA = some (.mxq ⟨false, 5, true, 1⟩ 1 none 4 5 10 23 2 0x10 0x80000000) ∧
    decodeTableWord 128 0x000003FF0000010000609E00030F677E = some (.mxdrn ⟨true, 7, true, 2⟩ 3 (some 1) 6 7 1 4 1 (some ⟨0x100, 63, 15⟩)) ∧
    decodeTableWord 64 0x0002040003016990 = some (.mxldx ⟨false, 2, false, 3⟩ 2 none 6 4 none) ∧
    decodeTableWord 96 0x000000000019D80144918001 = some (.cpy ⟨false, 0, false, 0⟩ 8 9 10 0 ⟨some 5, true, 9, 1, false⟩ (.imm 0)) ∧
    decodeTableWord 128 0x0000008000000001018780580491801E = some (.cpy ⟨true, 3, false, 0⟩ 8 9 0 11 ⟨none, true, 7, 8, true⟩ (.ext 0x8000000001)) ∧
    decodeTableWord 128 0xFFFFFFC00000004000003859449182EA = some (.cpy2d ⟨false, 5, true, 1⟩ 8 9 10 11 ⟨some 3, false, 0, 0, false⟩ (.two 0x40 0xFFFFFFC0)) ∧
    decodeTableWord 64 0x000102600077857C = some (.twait ⟨true, 7, true, 2⟩ 3 0x81 12) ∧
    decodeTableWord 64 0x0000FC6000778790 = some (.ttest ⟨false, 2, false, 3⟩ 3 0x7E 12) ∧
    decodeTableWord 96 0x0000FFFE00000000881F8801 = some (.disp ⟨false, 0, false, 0⟩ 15 16 4 (.imm 0xFFFE)) ∧
    decodeTableWord 64 0x0000680000018A1C = some (.dflush ⟨true, 3, false, 0⟩ 6) ∧
    decodeTableWord 64 0x0000300005018CE8 = some (.mbpost ⟨false, 5, true, 1⟩ 10 8 true) ∧
    decodeTableWord 64 0x00000E0000178F7C = some (.mbtake ⟨true, 7, true, 2⟩ 11 7) ∧
    decodeTableWord 64 0x01BFFE2881819190 = some (.lbset ⟨false, 2, false, 3⟩ 3 4 5 0x1FFF 6) := by
  decide +kernel

theorem test_words_objects :
    decodeTableWord 64 0x00000A206103A000 = some (.onew ⟨false, 0, false, 0⟩ 1 2 3 4 true 2) ∧
    decodeTableWord 64 0x000000000F81A21C = some (.odel ⟨true, 3, false, 0⟩ 31) ∧
    decodeTableWord 64 0x00000003AF01A4E8 = some (.omove ⟨false, 5, true, 1⟩ 30 29) ∧
    decodeTableWord 128 0x00000000000000FE0015FC498529A77E = some (.invk ⟨true, 7, true, 2⟩ 20 10 12 9 6 true 3 true 21 0xFE) ∧
    decodeTableWord 64 0x000003D1038DA990 = some (.await ⟨false, 2, false, 3⟩ 6 7 8 2 true) ∧
    decodeTableWord 64 0x00000400038DAA00 = some (.htest ⟨false, 0, false, 0⟩ 6 7 2) ∧
    decodeTableWord 64 0x000202000381AC1C = some (.rslv ⟨true, 3, false, 0⟩ 7 1 64) ∧
    decodeTableWord 64 0x000186000381AEE8 = some (.hbrk ⟨false, 5, true, 1⟩ 7 0xC3) ∧
    decodeTableWord 64 0x000000000381B17C = some (.hfree ⟨true, 7, true, 2⟩ 7) ∧
    decodeTableWord 64 0x000000012401B390 = some (.rgopen ⟨false, 2, false, 3⟩ 8 9) ∧
    decodeTableWord 64 0x000000000401B400 = some (.rgclose ⟨false, 0, false, 0⟩ 8) ∧
    decodeTableWord 64 0x000006000413B61C = some (.rgqry ⟨true, 3, false, 0⟩ 9 8 3) ∧
    decodeTableWord 64 0x000100000401B8E8 = some (.rgfail ⟨false, 5, true, 1⟩ 8 0x80) := by
  decide +kernel

theorem test_words_vat :
    decodeTableWord 64 0x000004000501C17C = some (.phreg ⟨true, 7, true, 2⟩ 10 2) ∧
    decodeTableWord 64 0x000000000501C390 = some (.phdrop ⟨false, 2, false, 3⟩ 10) ∧
    decodeTableWord 64 0x000000000501C400 = some (.pharr ⟨false, 0, false, 0⟩ 10) ∧
    decodeTableWord 64 0x00000061657BC61C = some (.phwait ⟨true, 3, false, 0⟩ 5 10 11 12) ∧
    decodeTableWord 64 0x00000061657BC8E8 = some (.phaw ⟨false, 5, true, 1⟩ 5 10 11 12) ∧
    decodeTableWord 64 0x00000000001BDB7C = some (.phnew ⟨true, 7, true, 2⟩ 13) ∧
    decodeTableWord 96 0xFFFFFFFF000004000701CB91 = some (.ctadd ⟨false, 2, false, 3⟩ 14 (.imm 0xFFFFFFFF) 2) ∧
    decodeTableWord 64 0x00000000071FCC00 = some (.ctrd ⟨false, 0, false, 0⟩ 15 14) ∧
    decodeTableWord 128 0x800000000000000100000002077DCE1E = some (.ctwait ⟨true, 3, false, 0⟩ 6 14 16 (.imm 0x8000000000000001)) ∧
    decodeTableWord 64 0x000000000923D0E8 = some (.trpost ⟨false, 5, true, 1⟩ 17 18) ∧
    decodeTableWord 64 0x0000000008FFD37C = some (.trcan ⟨true, 7, true, 2⟩ 7 17) ∧
    decodeTableWord 64 0x000004000A27D590 = some (.coll ⟨false, 2, false, 3⟩ 19 20 false true) ∧
    decodeTableWord 64 0x000000000B2BD600 = some (.siadv ⟨false, 0, false, 0⟩ 21 22) ∧
    decodeTableWord 64 0x000000000B2BD81C = some (.siret ⟨true, 3, false, 0⟩ 21 22) := by
  decide +kernel

/-! ## Well-formedness: an ill-formed term for each check -/

def m0 : Mods := ⟨false, 0, false, 0⟩

theorem test_wf_refuses_scalar :
    (Instr.extr m0 1 2 33 31).wf = false ∧ (Instr.insr m0 1 2 3 63 1).wf = false ∧ (Instr.cmp m0 1 2 (.reg 3) false 10).wf = false ∧
    (Instr.fadd m0 1 2 3 4).wf = false ∧ (Instr.fsub m0 1 2 3 5).wf = false ∧ (Instr.fmul m0 1 2 3 6).wf = false ∧
    (Instr.ffma m0 1 2 3 4 4).wf = false ∧ (Instr.fdiv m0 1 2 3 4).wf = false ∧ (Instr.fsqrt m0 1 2 4).wf = false ∧
    (Instr.fmin m0 1 2 3 1).wf = false ∧ (Instr.fmax m0 1 2 3 3).wf = false ∧ (Instr.fcmp m0 1 2 3 6).wf = false ∧
    -- R105: SF = DF; integer to integer; an integer and FP16; .sat to FP32; .nosat to E5M2; SR with an integer; code 5
    (Instr.fcvt m0 1 2 7 1 1 0).wf = false ∧ (Instr.fcvt m0 1 2 7 8 9 0).wf = false ∧ (Instr.fcvt m0 1 2 7 8 1 0).wf = false ∧
    (Instr.fcvt m0 1 2 7 0 1 1).wf = false ∧ (Instr.fcvt m0 1 2 7 4 0 2).wf = false ∧ (Instr.fcvt m0 1 2 4 8 0 0).wf = false ∧
    (Instr.fcvt m0 1 2 5 1 0 0).wf = false ∧ (Instr.fcvt m0 1 2 7 5 0 0).wf = false := by decide

theorem test_wf_refuses_control_and_memory :
    (Instr.rep m0 1 0 1).wf = false ∧ (Instr.rep m0 1 9 1).wf = false ∧ (Instr.atinv m0 0 3).wf = false ∧ (Instr.atinv m0 1 1).wf = false ∧
    (Instr.ld m0 1 2 (.off 0) 3 true).wf = false ∧ (Instr.ldro m0 1 2 (.off 0) 3 true).wf = false ∧
    (Instr.amo m0 1 2 3 0 12 3 0 0 0).wf = false ∧ (Instr.amo m0 1 2 3 4 0 3 0 0 0).wf = false ∧ (Instr.amo m0 1 2 3 0 8 3 0 0 0).wf = false ∧
    (Instr.amo m0 1 2 3 0 0 3 0 0 1).wf = false ∧ (Instr.amo m0 1 2 3 0 0 3 0 1 3).wf = false ∧ (Instr.red m0 1 2 10 3 0 0).wf = false ∧
    (Instr.red m0 1 2 9 1 0 0).wf = false ∧ (Instr.fence m0 3).wf = false := by decide

theorem test_wf_refuses_vector :
    (Instr.vlda m0 1 2 0 5 7).wf = false ∧ (Instr.vsta m0 1 2 0 13 7).wf = false ∧ (Instr.vmova m0 1 (.a 2) 0 0 1).wf = false ∧
    (Instr.vabs m0 1 (.a 2) 0 0 2).wf = false ∧ (Instr.vadd m0 1 (.a 2) (.a 3) 0 0 4).wf = false ∧ (Instr.vsub m0 1 (.a 2) (.a 3) 0 8 1).wf = false ∧
    (Instr.vmul m0 1 (.a 2) (.a 3) 0 7 0).wf = false ∧ (Instr.vfma m0 1 (.a 2) (.a 3) 0 1 5).wf = false ∧
    (Instr.vmin m0 1 (.a 2) (.a 3) 0 0 1).wf = false ∧ (Instr.vsel m0 1 (.a 2) (.a 3) 0 14 0).wf = false ∧
    (Instr.vcvt m0 1 (.a 2) 0 7 14 0 0).wf = false ∧ (Instr.vcvt m0 1 (.a 2) 0 7 0 15 0).wf = false ∧
    (Instr.vcmp m0 1 (.a 2) (.a 3) 0 0 7 6).wf = false ∧ (Instr.vcmp m0 1 (.a 2) (.a 3) 0 8 7 10).wf = false ∧
    (Instr.vred m0 1 (.a 2) 0 0 7 11).wf = false ∧ (Instr.vbcast m0 1 2 0 1).wf = false ∧ (Instr.viota m0 1 2 0 4).wf = false ∧
    (Instr.vspec m0 1 (.a 2) 0 8 7 0).wf = false ∧ (Instr.vspec m0 1 (.a 2) 0 0 7 5).wf = false ∧ (Instr.vextr m0 1 2 0 1 7).wf = false ∧
    (Instr.vins m0 1 2 0 0 1).wf = false ∧ (Instr.mkpop m0 1 2 3).wf = false := by decide

theorem test_wf_refuses_engines_and_objects :
    (Instr.mxq m0 0 none 1 2 3 4 3 0 0).wf = false ∧ (Instr.mxdrn m0 0 none 1 2 5 7 0 none).wf = false ∧
    (Instr.mxdrn m0 0 none 1 2 0 5 0 none).wf = false ∧ (Instr.mxdrn m0 0 none 1 2 0 7 1 none).wf = false ∧ (Instr.mxldx m0 0 none 1 5 none).wf = false ∧
    (Instr.cpy m0 1 2 0 0 ⟨none, true, 10, 8, false⟩ (.imm 8)).wf = false ∧ (Instr.cpy m0 1 2 0 0 ⟨none, true, 0, 1, false⟩ (.imm 8)).wf = false ∧
    (Instr.cpy m0 1 2 0 0 ⟨none, false, 1, 0, false⟩ (.imm 8)).wf = false ∧ (Instr.cpy m0 1 2 0 0 ⟨none, true, 0, 8, true⟩ (.imm 8)).wf = false ∧
    (Instr.cpy m0 1 2 3 0 ⟨none, false, 0, 0, false⟩ (.imm 8)).wf = false ∧
    (Instr.cpy2d m0 1 2 3 0 ⟨none, false, 0, 0, true⟩ (.both 8)).wf = false ∧ (Instr.mbpost m0 1 0 false).wf = false ∧
    (Instr.mbpost m0 1 9 false).wf = false ∧ (Instr.lbset m0 1 2 3 0 0).wf = false ∧ (Instr.lbset m0 1 2 3 1 7).wf = false ∧
    (Instr.onew m0 1 2 3 4 false 3).wf = false ∧ (Instr.invk m0 1 2 0 0 1 false 0 false 0 0).wf = false ∧
    (Instr.invk m0 1 2 31 0 2 false 0 false 0 0).wf = false ∧ (Instr.invk m0 1 2 3 4 1 false 0 false 0 0).wf = false ∧
    (Instr.invk m0 1 2 3 0 7 false 0 false 0 0).wf = false ∧ (Instr.htest m0 1 2 3).wf = false ∧
    (Instr.rslv m0 1 0 9).wf = false ∧ (Instr.rslv m0 1 1 0).wf = false ∧ (Instr.rslv m0 1 1 65).wf = false ∧ (Instr.rslv m0 1 2 1).wf = false ∧
    (Instr.rslv m0 1 3 0).wf = false ∧ (Instr.hbrk m0 1 127).wf = false ∧ (Instr.phreg m0 1 3).wf = false ∧
    (Instr.ctadd m0 1 (.reg 2) 3).wf = false := by decide

/-- R70, R72, R74, R75: an unassigned OP; a length that is not allowed; a reserved FN bit; an unused slot; a specifier of the
wrong kind; MULH with W; LEN 11 that is no marker. -/
theorem test_decode_refuses :
    decodeTableWord 64 0x4A00 = none ∧ decodeTableWord 96 0x4601 = none ∧ decodeTableWord 64 0x0000040000000200 = none ∧
    decodeTableWord 64 0x0000000800000200 = none ∧ decodeTableWord 64 0x0000000010000200 = none ∧ decodeTableWord 64 0x0000020000002400 = none ∧
    decodeTableWord 64 0x0000000000000007 = none := by decide +kernel

/-! ## Small states -/

/-- A context that runs at 0x1000 at user level, with general registers as listed. -/
def cx0 (gs : List (GReg × Word)) : Ctx :=
  { Ctx.blank ⟨0, 0, 0⟩ with status := .running, pc := 0x1000, g := gs.foldl (fun v e => v.set e.1.toFin e.2) (Vector.replicate 32 0) }
def st (gs : List (GReg × Word)) : State := { State.reset with cx := cx0 gs }

/-- The general register after an F-class instruction. -/
def gAfter (i : Instr) (s : State) (r : GReg) : Option Word :=
  match exec i s with | .next t => some t.cx.g[r.toFin] | _ => none
def qAfter (i : Instr) (s : State) (r : QReg) : Option Bool :=
  match exec i s with | .next t => some t.cx.q[r.toFin] | _ => none
def pcAfter (i : Instr) (s : State) : Option Word :=
  match exec i s with | .next t => some t.cx.pc | _ => none
/-- The results that a V-class instruction leaves outstanding. -/
def owedAfter (i : Instr) (s : State) : Option (List RegVal) :=
  match exec i s with | .next t => some t.cx.pend | _ => none

/-! ## Results given by the manual's tables and examples -/

/-- The sample results below R97. -/
theorem test_sample_results :
    gAfter (.sar m0 4 5 (.imm 4) true) (st [(5, 0x80000010)]) 4 = some 0xFFFFFFFFF8000001 ∧
    gAfter (.shr m0 4 5 (.imm 4) true) (st [(5, 0x80000010)]) 4 = some 0x08000001 ∧
    gAfter (.rot m0 4 5 (.imm 68) false) (st [(5, 0xF1)]) 4 = some 0x100000000000000F ∧
    gAfter (.mulhu m0 4 5 (.reg 6)) (st [(5, 0x8000000000000000), (6, 4)]) 4 = some 2 ∧
    gAfter (.adds m0 4 5 (.imm 1) true) (st [(5, 0x7FFFFFFF)]) 4 = some 0x7FFFFFFF ∧
    owedAfter (.div m0 4 5 (.imm 0xFFFFFFFF) true) (st [(5, 0x80000000)]) = some [.g 4 0xFFFFFFFF80000000] ∧
    gAfter (.clz m0 4 0 true) (st []) 4 = some 32 := by decide +kernel

/-- R23: every divisor has a result: division by zero gives all ones and the dividend. -/
theorem test_divide_by_zero :
    owedAfter (.div m0 4 5 (.reg 0) false) (st [(5, 7)]) = some [.g 4 0xFFFFFFFFFFFFFFFF] ∧
    owedAfter (.rem m0 4 5 (.reg 0) true) (st [(5, 0x80000000)]) = some [.g 4 0xFFFFFFFF80000000] := by decide +kernel

/-- R98, R101, R102: a field that ends at bit 63; the guard of CSEL; QOP table 4 is qa AND NOT qb. -/
theorem test_fields_and_predicates :
    gAfter (.insr m0 3 1 2 60 3) (st [(1, 0x0123456789ABCDEF), (2, 0xFE)]) 3 = some 0xE123456789ABCDEF ∧
    gAfter (.extr m0 3 1 4 7) (st [(1, 0xABCD)]) 3 = some 0xBC ∧ gAfter (.sext m0 3 1 7) (st [(1, 0x80)]) 3 = some 0xFFFFFFFFFFFFFF80 ∧
    gAfter (.csel m0 3 0 1 2) (st [(1, 5), (2, 6)]) 3 = some 5 ∧ gAfter (.csel m0 3 1 1 2) (st [(1, 5), (2, 6)]) 3 = some 6 ∧
    qAfter (.qop m0 2 0 1 4) (st []) 2 = some true ∧ qAfter (.qop m0 2 0 0 4) (st []) 2 = some false := by decide +kernel

/-- R107, R108: a branch back by four words; JMP reads its target before it writes the link. -/
theorem test_transfers :
    pcAfter (.br m0 (.short 0x7FFFFC)) (st []) = some 0xFF0 ∧ gAfter (.jmp m0 5 5) (st [(5, 0x2000)]) 5 = some 0x1008 ∧
    pcAfter (.jmp m0 5 5) (st [(5, 0x2000)]) = some 0x2000 ∧ gAfter (.call m0 29 (.long 2)) (st []) 29 = some 0x100C := by decide +kernel

/-- R19: 460 and 464 convert to E4M3 448; above 464 the variant without saturation gives NaN, the default 448. -/
theorem test_e4m3_overflow :
    owedAfter (.fcvt m0 4 5 0 3 0 0) (st [(5, 0x43E60000)]) = some [.g 4 0x7E] ∧
    owedAfter (.fcvt m0 4 5 0 3 0 2) (st [(5, 0x43E80000)]) = some [.g 4 0x7E] ∧
    owedAfter (.fcvt m0 4 5 0 3 0 2) (st [(5, 0x43E90000)]) = some [.g 4 0x7F] ∧
    owedAfter (.fcvt m0 4 5 0 3 0 0) (st [(5, 0x43E90000)]) = some [.g 4 0x7E] := by decide +kernel

/-- R14: 1 / 0 is infinite, 0 / 0 the canonical NaN, and 2 × 3 + 1 is 7. -/
theorem test_fp32_results :
    owedAfter (.fdiv m0 4 5 6 0) (st [(5, 0x3F800000)]) = some [.g 4 0x7F800000] ∧
    owedAfter (.fdiv m0 4 5 6 0) (st []) = some [.g 4 0x7FC00000] ∧
    owedAfter (.ffma m0 4 5 6 7 0) (st [(5, 0x40000000), (6, 0x40400000), (7, 0x3F800000)]) = some [.g 4 0x40E00000] := by decide +kernel

/-- The worked example of R26: the group sum is exactly 2, in the table's order and in another. -/
theorem test_group_sum :
    mulAcc 0 ([0x46000000, 0x3F800000, 0xC6000000, 0x3F820000].zipWith (fun a b => fvMul (fv32 a) (fv32 b))
      [0x45800000, 0x3F800000, 0x45800000, 0x3F800000]) = 0x40000000 ∧
    mulAcc 0 ([0x46000000, 0xC6000000, 0x3F800000, 0x3F820000].zipWith (fun a b => fvMul (fv32 a) (fv32 b))
      [0x45800000, 0x45800000, 0x3F800000, 0x3F800000]) = 0x40000000 := by decide +kernel

/-- The example of R34: 1 + 2 ^ -9 to BF16 is 1.0078125 when the top 16 bits of the step are 0xC000 or more, and 1 otherwise. -/
theorem test_stochastic_rounding :
    convert 2 0 0 (.sr 0xC000000000000000) 0x3F804000 = 0x3F81 ∧ convert 2 0 0 (.sr 0xBFFFFFFFFFFFFFFF) 0x3F804000 = 0x3F80 := by decide +kernel

/-! ## Witnesses: that the hypotheses of each clause are met together -/

theorem executes_of {s : State} {m : Mods} {k : Kind}
    (h : (decide (s.cx.status = .running) && !s.cx.inGang && !s.splits m k && !s.cx.owes m.wt && s.guard m) = true) : s.Executes m k := by
  simpa [State.Executes, and_assoc] using h
theorem guardedOff_of {s : State} {m : Mods} {k : Kind}
    (h : (decide (s.cx.status = .running) && !s.cx.inGang && !s.splits m k && !s.cx.owes m.wt && !s.guard m) = true) : s.GuardedOff m k := by
  simpa [State.GuardedOff, and_assoc] using h

/-- A guard that is never true (R65). -/
def mOff : Mods := ⟨false, 0, true, 0⟩

/-- Translations of the core: [0, 2 ^ 29) to HBM at the same address; [2 ^ 29, 2 ^ 30) to package 1; 0x40000000 to the control page of
the package; 0x40010000 to HBM, with D = 0; 0x40020000 without permissions. -/
def tlb0 : List TlbE :=
  [⟨0, 0, 2, 0xFE, 0x3000⟩, ⟨0, 1, 2, 0x4000000000FE, 0x3008⟩, ⟨0, 0x4000, 3, 0x3000001002FE, 0x3010⟩, ⟨0, 0x4001, 3, 0x10007E, 0x3018⟩,
   ⟨0, 0x4002, 3, 0x1000C2, 0x3020⟩]

/-- The protection context: its table at 0x10000 maps [0, 2 ^ 42) to the same address. -/
def prot0 : Prot := { Prot.none_ with ttroot := 0x10000 }

/-- A state with memory: the bytes given, and the one entry of the translation table. -/
def mm (gs : List (GReg × Word)) (m : List (Nat × Byte)) : State :=
  let s := st gs
  { s with
    cx := { s.cx with prot := prot0 }
    cores := [{ CoreSt.blank ⟨0, 0⟩ with tlb := tlb0 }]
    pods := [1]
    mem := m.foldl (fun t e => tset 0 t e.1 e.2) [(0x10000, 0xFE)] }

/-- The same after a change of the context. -/
def onCx (s : State) (f : Ctx → Ctx) : State := { s with cx := f s.cx }

/-- The table at 0x10000 points to one at 0x20000, which maps [0, 2 ^ 29) to the same address and [2 ^ 29, 2 ^ 30) to package 1; a range from g8 on
reaches into the second. -/
def straddling : State :=
  mm [(1, 0x1FFFFFC0), (2, 0x2008), (8, 0x1FFFFF00), (9, 0x200)] [(0x10000, 1), (0x10002, 2), (0x20000, 0xFE), (0x20008, 0xFE), (0x2000D, 0x40)]

theorem test_state_canonical : Memory.wf (mm [] [(0x8009, 0x40), (0x10000, 0xFE), (5, 0)]).mem = true := by decide +kernel

/-! ### Scalar instructions, transfers, traps and special registers -/

theorem witness_IntegerTwoSource : ∃ o, intOps (.mulh m0 1 2 (.imm 0x80000000)) = some o ∧ (st []).Executes o.m .plain :=
  ⟨_, rfl, executes_of (by decide +kernel)⟩
theorem witness_IntegerDivision : ∃ o, divOps (.rem m0 0 2 (.reg 0) true) = some o ∧ (st []).Executes o.m .plain :=
  ⟨_, rfl, executes_of (by decide +kernel)⟩
theorem witness_FieldAndMoveResults :
    ∃ o, fieldOps (.insr m0 1 2 3 58 5) = some o ∧ (Instr.insr m0 1 2 3 58 5).wf = true ∧ (st []).Executes o.m .plain :=
  ⟨_, rfl, by decide +kernel, executes_of (by decide +kernel)⟩
theorem witness_CompareAndPredicateResults : (st [(1, 5)]).Executes ⟨true, 0, false, 0⟩ .plain := executes_of (by decide +kernel)
theorem witness_FloatingPointScalar :
    (∃ o, floatOps (.ffma m0 1 2 3 4 7) = some o ∧ (st []).Executes o.m .plain) ∧
    -- FCVT to BF16 under RMODE SR, and to an integer
    ((7 : BitVec 3) = 7 ∧ (onCx (st []) (fun c => { c with rmode := 4 })).cx.rmode = 4 ∧ ¬ (fmtInt 2 = true ∨ fmtInt 0 = true) ∧
      (onCx (st []) (fun c => { c with rmode := 4 })).Executes m0 .plain) ∧ fmtInt 8 = true :=
  ⟨⟨_, rfl, executes_of (by decide +kernel)⟩, ⟨rfl, rfl, by decide, executes_of (by decide +kernel)⟩, rfl⟩
theorem witness_RegisterReads :
    ∃ s : State, (∀ v, RegVal.g 3 v ∉ s.cx.pend) ∧ (RegVal.g 5 7 ∈ s.cx.pend) ∧ (3 : GReg) ≠ 0 :=
  ⟨onCx (st []) (fun c => { c with pend := [.g 5 7] }), by intro v; simp [onCx], by decide +kernel, by decide⟩
theorem witness_TransfersAndReplay_transfers :
    (st []).Executes m0 .transfer ∧ ((st []).cx.pc + 4 * brWords (.short 0x7FFFFC)).toNat % 4 = 0 ∧
    ((st [(5, 0xFFFFFFFFFFFFFFFC)]).Executes m0 .transfer ∧ ((st [(5, 0xFFFFFFFFFFFFFFFC)]).g 5).toNat % 4 = 0) ∧
    ((st [(5, 0x1001)]).Executes m0 .transfer ∧ ((st [(5, 0x1001)]).g 5).toNat % 4 ≠ 0) :=
  ⟨executes_of (by decide +kernel), by decide +kernel, ⟨executes_of (by decide +kernel), by decide +kernel⟩,
    executes_of (by decide +kernel), by decide +kernel⟩
theorem witness_TransfersAndReplay_replay :
    ((mm [(5, 4)] []).repCheck 5 8 = none ∧ (mm [(5, 4)] []).Executes m0 .transfer ∧ (mm [(5, 4)] []).g 5 ≠ 0) ∧
    ((mm [] []).repCheck 0 1 = none ∧ (mm [] []).Executes m0 .transfer ∧ (mm [] []).g 0 = 0) ∧ (mm [] []).GuardedOff mOff .transfer :=
  ⟨⟨by decide +kernel, executes_of (by decide +kernel), by decide +kernel⟩,
   ⟨by decide +kernel, executes_of (by decide +kernel), by decide +kernel⟩, guardedOff_of (by decide +kernel)⟩
theorem witness_NopYieldPrefetch :
    (st []).Executes m0 .plain ∧ (st []).Executes m0 .ending ∧ (st []).Executes m0 ⟨false, false, false, true⟩ :=
  ⟨executes_of (by decide +kernel), executes_of (by decide +kernel), executes_of (by decide +kernel)⟩

/-- A context with an open region at 0x8000 whose handler is at 0x4000. -/
def inRegion : State := onCx (mm [] [(0x8009, 0x40), (0x8038, 1)]) (fun c => { c with opened := [0x8000], region := 0x8000 })

theorem witness_SoftwareTraps_handler :
    let s := inRegion
    let f : FaultRec := ⟨13, 7, 0, false, false, false, 0x1000⟩
    trapOps s (.trap m0 7) = some (m0, f) ∧ s.Executes m0 .acting ∧ s.cx.priv = false ∧ s.retiring = false ∧ s.cx.opened = 0x8000 :: [] ∧
      (s.atSwitchPoint.failedRegion 0x8000 f).blkHandler s.cx.prot 0x8000 ≠ 0 :=
  ⟨by decide +kernel, executes_of (by decide +kernel), rfl, rfl, rfl, by decide +kernel⟩
theorem witness_SoftwareTraps_end :
    trapOps (st []) (.brk m0 9) = some (m0, ⟨14, 9, 0, false, false, false, 0x1000⟩) ∧
    trapOps (st []) (.sysc m0 9) = some (m0, ⟨13, 9, 0, false, false, false, 0x1000⟩) ∧ (st []).Executes m0 .acting ∧ (st []).retiring = false ∧
    (st []).cx.opened = [] ∧ (onCx (st []) (fun c => { c with dbgen := true })).Executes m0 .acting :=
  ⟨by decide +kernel, by decide +kernel, executes_of (by decide +kernel), rfl, rfl, executes_of (by decide +kernel)⟩

def atS : State := onCx (st []) (fun c => { c with priv := true, sepc := 0x3004, prot := { c.prot with sventry := 0x7000 } })

theorem witness_SupervisorCallAndReturn :
    (atS.Executes m0 .acting ∧ atS.cx.prot.sventry ≠ 0) ∧ (atS.Executes m0 .transfer ∧ atS.cx.priv = true ∧ atS.cx.sepc.toNat % 4 = 0) :=
  ⟨⟨executes_of (by decide +kernel), by decide +kernel⟩, executes_of (by decide +kernel), rfl, by decide +kernel⟩
theorem witness_PrivilegedInstructions : (st []).cx.priv = false ∧ 0x800 ≤ (0x800 : BitVec 12).toNat ∧ 0x800 ≤ (0xFFF : BitVec 12).toNat := by
  decide
theorem witness_SpecialRegisters :
    (atS.Executes m0 .plain ∧ atS.cx.priv = true ∧ (sprWord atS 0x800).isSome = true ∧ sprWord atS 0xFFF = none ∧
      (sprPut atS.cx 7 0x812).isSome = true ∧ (sprPut atS.cx 7 0x820).isSome = false) ∧
    ((0x7FF : BitVec 12).toNat < 0x800 ∧ sprWord (st []) 0x7FF = none ∧ (sprPut (st []).cx 7 0x000).isSome = false) :=
  ⟨⟨executes_of (by decide +kernel), rfl, by decide +kernel, by decide +kernel, by decide +kernel, by decide +kernel⟩,
    by decide +kernel, by decide +kernel, by decide +kernel⟩
theorem witness_InvalidateTranslations : atS.Executes m0 .plain ∧ atS.cx.priv = true := ⟨executes_of (by decide +kernel), rfl⟩
theorem witness_HaltAndAtomicError :
    ((st []).Executes m0 .acting ∧ (st []).cx.alog = false ∧ (st []).commitRun.canHalt = true) ∧
    (let s := onCx (st []) (fun c => { c with alog := true })
     s.Executes m0 .acting ∧ s.Executes m0 .wait ∧ s.cx.alog = true ∧ s.reading = false ∧ s.cx.owes 3 = false) :=
  ⟨⟨executes_of (by decide +kernel), rfl, by decide +kernel⟩,
    executes_of (by decide +kernel), executes_of (by decide +kernel), rfl, by decide +kernel, by decide +kernel⟩

/-! ### Memory -/

def okWith {ε α : Type} (x : Except ε α) (p : α → Bool) : Bool := match x with | .ok a => p a | .error _ => false
theorem ok_of {ε α : Type} {x : Except ε α} (p : α → Bool) (h : okWith x p = true) : ∃ a, x = .ok a ∧ p a = true := by
  cases x with
  | error e => exact absurd h (by simp [okWith])
  | ok a => exact ⟨a, rfl, h⟩
/-- Translated to that place, with a test of the state after it. -/
theorem place_with {x : Try (Place × State)} (pl : Place) (p : State → Bool) (h : okWith x (fun a => (a.1 = pl : Bool) && p a.2) = true) :
    ∃ s1, x = .ok (pl, s1) ∧ p s1 = true := by
  obtain ⟨⟨pl', s1⟩, hx, hp⟩ := ok_of _ h
  simp only [Bool.and_eq_true, decide_eq_true_eq] at hp
  exact ⟨s1, by rw [hx, hp.1], hp.2⟩
theorem place_of {x : Try (Place × State)} (pl : Place) (h : okWith x (fun a => (a.1 = pl : Bool) && true) = true) : ∃ s1, x = .ok (pl, s1) :=
  let ⟨s1, hx, _⟩ := place_with pl (fun _ => true) h
  ⟨s1, hx⟩

theorem witness_AccessChecks_aligned :
    (∃ o, memOps (mm [(5, 0xFFF)] []) (.amo m0 1 5 2 0 0 1 0 0 0) = some o ∧ (mm [(5, 0xFFF)] []).Executes o.m .plain ∧
      o.va.toNat % 2 ^ o.sz.toNat ≠ 0) ∧
    -- a permission that fails, a translation that is not held, an address that is not canonical
    (∃ o, memOps (mm [(5, 0x40020000)] []) (.ld m0 1 5 (.off 0) 3 false) = some o ∧ (mm [(5, 0x40020000)] []).Executes o.m .plain ∧
      o.va.toNat % 2 ^ o.sz.toNat = 0 ∧
      ((mm [(5, 0x40020000)] []).xlate ⟨0, 0⟩ 0 0 true o.dw o.acc o.va).1 = .fault 12 4 ∧
      ((mm [] []).xlate ⟨0, 0⟩ 0 0 true false 0 0x70000000).1 = .miss ∧
      ((mm [] []).xlate ⟨0, 0⟩ 0 0 true false 0 0x40000000000000).1 = .fault 10 1) :=
  ⟨⟨_, rfl, executes_of (by decide +kernel), by decide +kernel⟩,
   ⟨_, rfl, executes_of (by decide +kernel), by decide +kernel, by decide +kernel, by decide +kernel, by decide +kernel⟩⟩

/-- A state whose leaf at 0x3018 has A = 1 and D = 0. -/
def notDirty : State := mm [(5, 0x40010008)] [(0x3018, 0x7E), (0x301A, 0x10)]

theorem witness_AccessChecks_state :
    (∃ s1, (mm [] []).access 0 true 0x100 = .ok (.hbm 0x100, s1)) ∧ (∃ s1, notDirty.access 1 true 0x40010008 = .ok (.hbm 0x100008, s1)) :=
  ⟨place_of _ (by decide +kernel), place_of _ (by decide +kernel)⟩
/-- R380: the first write sets D in the leaf. -/
theorem test_first_write_sets_dirty :
    (match notDirty.access 1 true 0x40010008 with | .ok (_, t) => t.byte 0x3018 | .error _ => 0) = 0xFE := by decide +kernel

theorem witness_LoadsAndDeviceRegisters_load :
    let s := mm [(5, 0x101)] [(0x100, 0x80)]
    s.Executes m0 .plain ∧ (s.address 5 (.off 0x3FF) 0).toNat % 2 ^ (0 : BitVec 2).toNat = 0 ∧
      (∃ s1, s.access 0 (decide ((0 : BitVec 2) = 3)) (s.address 5 (.off 0x3FF) 0) = .ok (.hbm 0x100, s1)) ∧ s.badWord 0x100 1 = none :=
  ⟨executes_of (by decide +kernel), by decide +kernel, place_of _ (by decide +kernel), by decide +kernel⟩
/-- R117 to R119: LD.b.s at 0x101 − 1. -/
theorem test_load_sign : owedAfter (.ld m0 4 5 (.off 0x3FF) 0 true) (mm [(5, 0x101)] [(0x100, 0x80)]) = some [.g 4 0xFFFFFFFFFFFFFF80] := by
  decide +kernel
theorem witness_LoadsAndDeviceRegisters_device :
    let s := mm [(5, 0x40000000)] []
    s.Executes m0 .plain ∧ (s.address 5 (.off 0) 3).toNat % 8 = 0 ∧
      (∃ s1, s.access 0 true (s.address 5 (.off 0) 3) = .ok (.dev 0x300000100000, s1)) ∧
      (∃ s1, s.access 1 true (s.address 5 (.off 0) 3) = .ok (.dev 0x300000100000, s1)) :=
  ⟨executes_of (by decide +kernel), by decide +kernel, place_of _ (by decide +kernel), place_of _ (by decide +kernel)⟩

/-- A word of memory at 0x100 that is poisoned. -/
def poisoned : State := { mm [(5, 0x104)] [(0x100, 0x80)] with poison := [0x100] }

theorem witness_PoisonedWords :
    poisoned.Executes m0 .plain ∧ (poisoned.address 5 (.off 0) 2).toNat % 2 ^ (2 : BitVec 2).toNat = 0 ∧
      (∃ s1, poisoned.access 0 (decide ((2 : BitVec 2) = 3)) (poisoned.address 5 (.off 0) 2) = .ok (.hbm 0x104, s1)) ∧
      poisoned.badWord 0x104 4 = some 0x100 ∧
      ∃ s1, poisoned.access 3 false (poisoned.g 5) = .ok (.hbm 0x104, s1) ∧ decide (s1.badWord 0x104 4 = some 0x100) = true :=
  ⟨executes_of (by decide +kernel), by decide +kernel, place_of _ (by decide +kernel), by decide +kernel,
    place_with _ (fun s1 => decide (s1.badWord 0x104 4 = some 0x100)) (by decide +kernel)⟩

theorem witness_StoreToPackage :
    let s := mm [(5, 0xF8)] []
    s.Executes m0 .plain ∧ (s.address 5 (.imm 0) 3).toNat % 2 ^ (3 : BitVec 2).toNat = 0 ∧
      ∃ s1, s.access 1 (decide ((3 : BitVec 2) = 3)) (s.address 5 (.imm 0) 3) = .ok (.hbm 0xF8, s1) ∧
        (!s1.overPoison 0xF8 (2 ^ (3 : BitVec 2).toNat)) = true :=
  ⟨executes_of (by decide +kernel), by decide +kernel, place_with _ (fun s1 => !s1.overPoison 0xF8 (2 ^ (3 : BitVec 2).toNat)) (by decide +kernel)⟩
theorem witness_AtomicsInPackage :
    let s := mm [(5, 0xFC)] []
    s.Executes m0 .plain ∧ (s.g 5).toNat % 2 ^ (2 : BitVec 2).toNat = 0 ∧
      (∃ s1, s.access 3 false (s.g 5) = .ok (.hbm 0xFC, s1) ∧ (s1.badWord 0xFC (2 ^ (2 : BitVec 2).toNat)).isNone = true) ∧
      (11 : BitVec 4).toNat < 12 ∧ (9 : BitVec 4).toNat < 10 :=
  ⟨executes_of (by decide +kernel), by decide +kernel,
    place_with _ (fun s1 => (s1.badWord 0xFC (2 ^ (2 : BitVec 2).toNat)).isNone) (by decide +kernel), by decide, by decide⟩

/-- The memory byte that an instruction of the small state leaves. -/
def byteAfter (i : Instr) (s : State) (a : Nat) : Option Byte :=
  match exec i s with | .next t => some (t.byte a) | _ => none
/-- R120: ST.h stores two bytes, little-endian; R125: AMO.swap.w stores gb and owes the old word. -/
theorem test_store_bytes :
    byteAfter (.st m0 5 (.off 1) 6 1 0) (mm [(5, 0x100), (6, 0xABCD1234)] []) 0x103 = some 0x12 ∧
    byteAfter (.st m0 5 (.off 1) 6 1 0) (mm [(5, 0x100), (6, 0xABCD1234)] []) 0x104 = some 0 ∧
    byteAfter (.amo m0 4 5 6 0 10 2 1 0 0) (mm [(5, 0x100), (6, 0xABCD1234)] [(0x100, 7)]) 0x103 = some 0xAB ∧
    owedAfter (.amo m0 4 5 6 0 10 2 1 0 0) (mm [(5, 0x100), (6, 0xABCD1234)] [(0x100, 7)]) = some [.g 4 7, .q 1 true] := by decide +kernel

theorem witness_RemoteAccesses :
    let s := mm [(5, 0x20000000)] []
    ∃ o, memOps s (.red m0 5 6 0 3 0 0) = some o ∧ s.Executes o.m .plain ∧ o.va.toNat % 2 ^ o.sz.toNat = 0 ∧
      ∃ pl s1, s.access o.acc o.dw o.va = .ok (pl, s1) ∧ (∀ pa, pl ≠ .hbm pa) ∧ (∀ pa, pl ≠ .dev pa) ∧
        s1.cx.full pl.isHost o.out.counted = false := by
  refine ⟨_, rfl, executes_of (by decide +kernel), by decide +kernel, ?_⟩
  obtain ⟨s1, hx, hp⟩ := place_with (x := (mm [(5, 0x20000000)] []).access 3 false ((mm [(5, 0x20000000)] []).g 5)) (.pod 1)
    (fun s1 => !s1.cx.full false true) (by decide +kernel)
  exact ⟨.pod 1, s1, hx, by simp, by simp, by simpa [Place.isHost] using hp⟩

theorem witness_ReadOnlyPathAndFence :
    (let s := mm [(5, 0x13C)] []
     s.Executes m0 .plain ∧ (s.address 5 (.off 0) 2).toNat % 4 = 0 ∧ (∃ s1, s.access 0 false (s.address 5 (.off 0) 2) = .ok (.hbm 0x13C, s1)) ∧
       s.badWord 0x13C 4 = none) ∧
    (let s := { mm [] [] with dirty := [(0x100, (0, false), 0)] }
     s.Executes m0 .plain ∧ s.Executes m0 .wait ∧ s.reading = false ∧ s.cx.postedPod = 0 ∧ s.cx.postedHost = 0 ∧ s.cx.alog = false) :=
  ⟨⟨executes_of (by decide +kernel), by decide +kernel, place_of _ (by decide +kernel), by decide +kernel⟩,
    executes_of (by decide +kernel), executes_of (by decide +kernel), by decide +kernel, rfl, rfl, rfl⟩
theorem witness_HomeWriteReadsBack : 0xF8 % 256 + (zeros 8).length ≤ 256 := by decide

/-! ### Pointers, the stash and vectors -/

/-- A state whose p1 holds a descriptor. -/
def atP (gs : List (GReg × Word)) (d : Word) : State := onCx (mm gs []) (fun c => { c with p := c.p.set 1 d })

theorem witness_PointerInstructions :
    (atP [] 0x3000000000000000).Executes m0 .plain ∧ (0x3FFFFFFFFFFFFFFF : Word).toNat / 2 ^ 60 < 4 ∧ (0x0000800001000010 : Word).toNat / 2 ^ 60 < 4 :=
  ⟨executes_of (by decide +kernel), by decide, by decide⟩
/-- R44: cursor 0x0E, stride 4, WRAP 0x10: the access is at 0x0E, and the cursor wraps to 0x02. -/
theorem test_pointer_wraps : pointerStep 0x000010000400000E = (0x0E, 0x0000100004000002) := by decide +kernel

/-- The last stash operand of FP32 that fits is at 262,016. -/
theorem witness_VectorSources :
    (4 ≤ ((atP [] 0x4000000000000000).p 1).toNat / 2 ^ 60) ∧
    (((atP [] 2).p 1).toNat / 2 ^ 60 < 4 ∧ (pointerAccess ((atP [] 2).p 1)).1 % stashW 0 ≠ 0) ∧
    (((atP [] 262020).p 1).toNat / 2 ^ 60 < 4 ∧ (pointerAccess ((atP [] 262020).p 1)).1 % stashW 0 = 0 ∧
      262144 < (pointerAccess ((atP [] 262020).p 1)).1 + 32 * stashW 0) ∧
    (let s := atP [] 262016
     s.myCore.windows = [] ∧ s.poison = [] ∧ (s.p 1).toNat / 2 ^ 60 < 4 ∧ (pointerAccess (s.p 1)).1 % stashW 0 = 0 ∧ 0 < stashW 0 ∧
       (pointerAccess (s.p 1)).1 + 32 * stashW 0 ≤ 262144) := by decide +kernel

theorem witness_VectorLaneResults :
    (∃ o, vec2Ops (.vfma m0 1 (.p 1) (.a 2) 3 1 7) = some o ∧ (atP [] 0).Executes o.m .plain ∧
      okWith ((atP [] 0).src2 o.fmt o.sa o.sb) (fun _ => true) = true) ∧
    (∃ o, vec1Ops (.vlda m0 1 1 3 12 7) = some o ∧ (atP [] 7).Executes o.m .plain ∧ okWith ((atP [] 7).src1 o.fmt o.sa) (fun _ => true) = true) :=
  ⟨⟨_, rfl, executes_of (by decide +kernel), by decide +kernel⟩, ⟨_, rfl, executes_of (by decide +kernel), by decide +kernel⟩⟩
theorem witness_ConvertCompareSelectReduce :
    (atP [] 0).Executes m0 .plain ∧ okWith ((atP [] 0).srcBy (rawLanes 1) 1 (.p 1)) (fun _ => true) = true ∧
    okWith ((atP [] 0).src2 0 (.p 1) (.a 2)) (fun _ => true) = true ∧ okWith ((atP [] 0).src1 8 (.a 2)) (fun _ => true) = true :=
  ⟨executes_of (by decide +kernel), by decide +kernel, by decide +kernel, by decide +kernel⟩
theorem witness_LaneAndMaskResults : (st [(1, 0x80000000)]).Executes ⟨true, 0, false, 0⟩ .plain := executes_of (by decide +kernel)

/-- R145, R148, R152: VIOTA with m0 counts the lanes; MKPOP fn 1 of m0 is 0; VRED `.add` of a stash of zeros is 0. -/
theorem test_vector_results :
    (match owedAfter (.viota m0 1 5 0 0) (st [(5, 10)]) with | some [.a 1 _ v] => (v[0], v[31]) | _ => (0, 0)) = (10, 41) ∧
    owedAfter (.mkpop m0 4 0 1) (st []) = some [.g 4 0] ∧ owedAfter (.mkpop m0 4 0 0) (st []) = some [.g 4 32] ∧
    owedAfter (.vred m0 4 (.p 1) 0 8 0 0) (atP [] 0) = some [.g 4 0] := by decide +kernel

theorem witness_VectorStoresAndGather_store :
    (let s := atP [] 261632
     s.Executes m0 .plain ∧ (s.p 1).toNat / 2 ^ 60 < 4 ∧ okWith (s.spanAt 1 (stashW 0) 1) (fun _ => true) = true ∧ s.myCore.windows = [] ∧
       0 < stashW 0 ∧ (pointerAccess (s.p 1)).1 % stashW 0 = 0 ∧ (pointerAccess (s.p 1)).1 + 32 * stashW 0 ≤ 262144) ∧
    (let s := mm [(5, 262142)] []
     s.Executes m0 .plain ∧ s.myCore.windows = [] ∧ 0 < stashW 2 ∧ ∀ l : Fin 32, (s.m 0).getLsbD l.val = true →
       (s.g 5 + BitVec.ofNat 64 ((s.a 1)[l].toNat * stashW 2)).toNat % stashW 2 = 0 ∧
       (s.g 5 + BitVec.ofNat 64 ((s.a 1)[l].toNat * stashW 2)).toNat + stashW 2 ≤ 262144) :=
  ⟨⟨executes_of (by decide +kernel), by decide +kernel, by decide +kernel, by decide +kernel, by decide +kernel, by decide +kernel, by decide +kernel⟩,
   ⟨executes_of (by decide +kernel), by decide +kernel, by decide +kernel, by decide +kernel⟩⟩
theorem witness_VectorStoresAndGather_gather :
    let e := fun (s : State) (l : Fin 32) => (s.g 5 + BitVec.ofNat 64 ((s.a 1)[l].toNat * stashW 0)).toNat
    (let s := mm [(5, 262140)] []
     s.Executes m0 .plain ∧ s.myCore.windows = [] ∧ s.poison = [] ∧ 0 < stashW 0 ∧
       ∀ l : Fin 32, (s.m 0).getLsbD l.val = true → e s l % stashW 0 = 0 ∧ e s l + stashW 0 ≤ 262144) ∧
    (let s := mm [(5, 2)] []
     (s.m 0).getLsbD 0 = true ∧ e s 0 % stashW 0 ≠ 0) ∧
    (let s := mm [(5, 262144)] []
     (s.m 0).getLsbD 0 = true ∧ e s 0 % stashW 0 = 0 ∧ 262144 < e s 0 + stashW 0) :=
  ⟨⟨executes_of (by decide +kernel), by decide +kernel, by decide +kernel, by decide +kernel, by decide +kernel⟩, by decide +kernel, by decide +kernel⟩

/-- A core with one window of the context at 0x100 of the stash, with its first line filled and dirty. -/
def windowed : State :=
  { mm [(5, 0x100), (6, 0x2000), (7, 0x100), (8, 0x3FF00)] [] with
    cores := [{ CoreSt.blank ⟨0, 0⟩ with tlb := tlb0, windows := [⟨0x100, 0x4000, 0x100, 0, [(0, 0x4000)]⟩] }]
    dirty := [(0x4000, 9, 1000), (0x5000, 9, 0)] }

theorem witness_StashWindows :
    windowed.Executes m0 .plain ∧ windowed.Executes m0 .ending ∧
    smapRefused windowed.myCore.windows (windowed.g 8).toNat (windowed.g 6).toNat (windowed.g 7).toNat = none ∧
    smapRefused windowed.myCore.windows (windowed.g 5).toNat (windowed.g 6).toNat (windowed.g 7).toNat = some 3 ∧
    windowed.ownWindow (windowed.g 6) = none ∧ windowed.ownWindow (windowed.g 5) = some ⟨0x100, 0x4000, 0x100, 0, [(0, 0x4000)]⟩ ∧
    (windowed.dirty.map Prod.fst).Nodup :=
  ⟨executes_of (by decide +kernel), executes_of (by decide +kernel), by decide +kernel, by decide +kernel, by decide +kernel, by decide +kernel,
    by decide +kernel⟩

/-! ### Engines -/

def anIssuer : Issuer := ⟨⟨0, 0, 0⟩, 0, 0, Prot.none_, true, 0, 0, ⟨0, 0, 0⟩, []⟩
def aCopy : Copy := ⟨1, anIssuer, none, none, 0x100, 0x200, 8, 1, 0, 0, false, 0, 0, false, none, 0, 0, false, false, none, none, 0, [], none, false, false, 0, none⟩

theorem witness_EngineHoldsAndTiles :
    (let s := { mm [] [] with cores := [{ CoreSt.blank ⟨0, 0⟩ with mxq := [⟨anIssuer, 0, none, .zero, [], 1, []⟩, ⟨anIssuer, 0, none, .zero, [], 2, []⟩] }]
                              copies := [aCopy, aCopy] }
     s.Executes m0 .plain ∧ 2 ≤ s.myCore.mxq.length ∧ 2 ≤ s.copyQueued s.cx.id.coreId) ∧
    (let s := onCx (mm [] []) (fun c => { c with t := c.t.set 3 ⟨.busy, 0⟩ })
     s.Executes m0 .plain ∧ s.tokIsBusy (some 3) = true) ∧
    (let bs := leBytes 16 0xFFFF0000FFF6
     bs.length = 16 ∧ leNat (bs.take 8) % 16 ≤ 6 ∧ leNat (bs.take 8) / 2 ^ 16 % 2 ^ 16 = 0 ∧ leNat (bs.drop 8) = 0) ∧
    (let bs := leBytes 16 7
     bs.length = 16 ∧ ¬ leNat (bs.take 8) % 16 ≤ 6) :=
  ⟨⟨executes_of (by decide +kernel), by decide +kernel, by decide +kernel⟩, ⟨executes_of (by decide +kernel), by decide +kernel⟩,
    by decide +kernel, by decide +kernel⟩

/-- Descriptors at 0x200 and 0x210. -/
def tiles (a b : Nat) : State :=
  let put := fun (at_ n : Nat) => (List.range 8).map (fun k => (at_ + k, BitVec.ofNat 8 (n / 256 ^ k)))
  mm [(1, 0x1000), (2, 0x2000), (3, 0x200), (4, 0x3000)] (put 0x200 a ++ put 0x210 b)

/-- Two BF16 operands of 2 × 2. -/
def bf : State := tiles 0x400000412 0x400000412
theorem witness_MatrixIssue_multiply :
    bf.Executes m0 .plain ∧ bf.myCore.mxq.length < 2 ∧ bf.tokIsBusy (some 7) = false ∧
    okWith (bf.readTile (fun f => f ≠ 0 && f ≤ 4) (bf.g 3)) (fun (a, s1) =>
      okWith (s1.readTile (mulFmts a.fmt) (bf.g 3 + 16)) (fun (b, s2) =>
      okWith (s2.operand 0 (tileAlign a.fmt) (bf.g 1) a.stride (rowBytes a.fmt a.cols) a.rows []) (fun (ps, s3) =>
      okWith (s3.operand 0 (tileAlign b.fmt) (bf.g 2) b.stride (rowBytes b.fmt b.cols) b.rows ps) (fun _ => decide (a.cols = b.rows))))) = true :=
  ⟨executes_of (by decide +kernel), by decide +kernel, by decide +kernel, by decide +kernel⟩
/-- Q8G operands of 2 × 32 and 32 × 2. -/
def q8 : State := tiles 0x2000007C15 0x2000005F5
theorem witness_MatrixIssue_grouped :
    q8.Executes m0 .plain ∧
    okWith (q8.readTile (fun f => f = 5 || f = 6) (q8.g 3)) (fun (a, s1) =>
      okWith (s1.readTile (fun f => f = 5 || f = 6) (q8.g 3 + 16)) (fun (b, s2) =>
      okWith (s2.operand 0 1 (q8.g 1) a.stride (rowBytes a.fmt a.cols) a.rows []) (fun (ps, s3) =>
      okWith (s3.operand 0 1 (q8.g 2) b.stride (rowBytes b.fmt b.cols) b.rows ps) (fun (qs, s4) =>
      okWith (s4.operand 0 4 (q8.g 4) 0 (4 * (a.rows * quantGroups a 0 + quantGroups a 0 * b.cols)) 1 qs) (fun _ =>
        !oddQ4 a && !oddQ4 b && decide (b.rows = a.cols)))))) = true :=
  ⟨executes_of (by decide +kernel), by decide +kernel⟩
/-- Q8G operands of 2 × 64 and 64 × 2, with GS = 128. -/
def q8wide : State := tiles 0x800000FC15 0x2000007F5
theorem witness_MatrixIssue_wide :
    okWith (q8wide.readTile (fun f => f = 5 || f = 6) (q8wide.g 3)) (fun (a, s1) =>
      okWith (s1.readTile (fun f => f = 5 || f = 6) (q8wide.g 3 + 16)) (fun (b, s2) =>
      okWith (s2.operand 0 1 (q8wide.g 1) a.stride (rowBytes a.fmt a.cols) a.rows []) (fun (ps, s3) =>
      okWith (s3.operand 0 1 (q8wide.g 1 + natWord (quantHalf a)) a.stride (rowBytes a.fmt a.cols) a.rows ps) (fun (ps', s4) =>
      okWith (s4.operand 0 1 (q8wide.g 2) b.stride (rowBytes b.fmt b.cols) (2 * b.rows) ps') (fun (qs, s5) =>
      okWith (s5.operand 0 4 (q8wide.g 4) 0 (4 * (a.rows + b.cols)) 1 qs) (fun _ =>
        decide (a.cols = 64) && decide (b.rows = 64) && decide (b.cols % 2 = 0))))))) = true := by decide +kernel
theorem witness_MatrixIssue_tiles :
    (Machine.shapeOf 0 none = (64, 64, 256) ∧ okWith (bf.shapeOperand 0 (bf.g 1) 0 64 64 256) (fun _ => true) = true) ∧
    (Machine.shapeOf 3 (some ⟨0x40, 63, 0⟩) = (64, 1, 0x40) ∧ okWith (bf.shapeOperand 1 (bf.g 1) 3 64 1 0x40) (fun _ => true) = true) := by decide +kernel

/-- A core whose matrix engine has an operation at the head of its queue. -/
def queuedOp (k : MxKind) : State :=
  { mm [] [] with cores := [{ CoreSt.blank ⟨0, 0⟩ with mxq := [⟨anIssuer, 2, none, k, [(0, 0)], 1, []⟩] }] }
theorem witness_MatrixCompletes :
    (let s := queuedOp .zero
     (s.core ⟨0, 0⟩).mxq = [⟨anIssuer, 2, none, .zero, [(0, 0)], 1, []⟩] ∧ anIssuer.isRun (s.ctx anIssuer.ctx) = true ∧ s.forked anIssuer = true) ∧
    (let k : MxKind := .mul ⟨2, 2, 2, 4⟩ ⟨2, 2, 2, 4⟩ 0x1000 0x2000
     let s := queuedOp k
     (s.core ⟨0, 0⟩).mxq = [⟨anIssuer, 2, none, k, [(0, 0)], 1, []⟩] ∧ anIssuer.isRun (s.ctx anIssuer.ctx) = true ∧ s.forked anIssuer = true ∧ s.poison = [] ∧ 2 ≤ 64) := by
  decide +kernel

/-- A protection context with the counter cells 0 to 15. -/
def counters (gs : List (GReg × Word)) : State := onCx (mm gs []) (fun c => { c with prot := { c.prot with clen := 16 } })

theorem witness_CopyIssue :
    let s := counters [(1, 0x1000), (2, 0x2000), (3, 5), (4, 0x40000000), (5, 0x10000000000), (6, 0x2000040), (7, 3)]
    let plain : CpyMode := ⟨some 1, false, 0, 0, false⟩
    let red : CpyMode := ⟨none, true, 0, 8, false⟩
    (s.Executes m0 .plain ∧ s.copyQueued s.cx.id.coreId < 2 ∧ s.tokIsBusy plain.tok = false) ∧
    -- cause 1: 2 ^ 40 bytes; cause 3; cause 2: an address that is not a multiple of 4; length 0; a whole copy
    (¬ (s.g 5).toNat < 2 ^ 40 ∧ (0xFFFFFFFF : Nat) < 2 ^ 40 ∧ ctrOk s s.cx.prot (s.g 4) = false ∧ ctrOk s s.cx.prot (s.g 3) = true ∧
      ((s.g 7).toNat : Int) % (redBytes red.fmt : Int) ≠ 0 ∧ ((s.g 1).toNat : Int) % (redBytes red.fmt : Int) = 0) ∧
    okWith (s.firstPages plain (s.g 1) (s.g 2)) (fun _ => true) = true ∧ okWith (s.firstPages red (s.g 1) (s.g 2)) (fun _ => true) = true ∧
    -- CPY2D: a shape of 64 bytes by 2 rows, and one with no bytes in a row
    ((s.g 6).toNat % 2 ^ 24 ≠ 0 ∧ (s.g 6).toNat / 2 ^ 24 % 2 ^ 16 ≠ 0 ∧ (s.g 6).toNat / 2 ^ 40 = 0) ∧ ¬ (s.g 0).toNat % 2 ^ 24 ≠ 0 :=
  ⟨⟨executes_of (by decide +kernel), by decide +kernel, by decide +kernel⟩, by decide +kernel, by decide +kernel, by decide +kernel, by decide +kernel,
    by decide +kernel⟩

theorem witness_TokenWaitAndTest :
    (let s := onCx (st []) (fun c => { c with t := c.t.set 2 ⟨.fault, 0x0203⟩ })
     s.Executes m0 .wait ∧ s.Executes m0 .plain ∧ ∀ k : Fin 8, (0x84 : BitVec 8).getLsbD k.val = true → s.cx.t[k].st ≠ .busy) ∧
    (let s := onCx (st []) (fun c => { c with t := c.t.set 7 ⟨.busy, 0⟩ })
     s.Executes m0 .wait ∧ ¬ ∀ k : Fin 8, (0x84 : BitVec 8).getLsbD k.val = true → s.cx.t[k].st ≠ .busy) :=
  ⟨⟨executes_of (by decide +kernel), executes_of (by decide +kernel), by decide +kernel⟩, executes_of (by decide +kernel), by decide +kernel⟩

/-! ### Mailbox and dispatch -/

theorem witness_MailboxAndLandingBuffer :
    (let s := counters [(1, 0x1040), (2, 0x4000), (3, 5), (4, 16)]
     s.Executes m0 .plain ∧ s.copyQueued s.cx.id.coreId < 2 ∧ s.cx.t[(6 : Tok).toFin].st ≠ .busy ∧ ctrOk s s.cx.prot (s.g 4) = false ∧
       ctrOk s s.cx.prot (s.g 3) = true ∧ (s.g 1).toNat % 64 = 0 ∧
       okWith (s.access 1 false (s.g 1)) (fun (pl, s1) => decide (pl = .hbm 0x1040) && !s1.overPoison 0x1040 64) = true) :=
  ⟨executes_of (by decide +kernel), by decide +kernel, by decide +kernel, by decide +kernel, by decide +kernel, by decide +kernel, by decide +kernel⟩

/-- A dispatch table at 0x3000: expert 0 at package 1 with rows of 64 bytes, expert 1 absent, expert 2 here with rows of 65. -/
def dispatching (mbox : List Word) (lists : List SendList) : State :=
  onCx (mm [(1, 0x3000), (2, 0x2008)] [(0x3003, 0x20), (0x3008, 0x40), (0x3021, 0x50), (0x3028, 0x41)]) (fun c => { c with mbox := mbox, lists := lists })
def aRow : SendRow := ⟨0, 0, 0, 64, [], 0x3000, [], 0⟩
def listTo (pkg : BitVec 12) (n : Nat) : SendList := ⟨pkg, 0x3000, List.replicate n aRow⟩
/-- The table entry of the first choice, with the state after it. -/
def entryOf (s : State) (p : List Byte × State → Bool) : Bool :=
  okWith (s.load homed9 (s.g 1 + BitVec.ofNat 64 (16 * ((s.cx.mbox.headD 0).toNat % 256))) 16) p
def lbOf (bs : List Byte) : Word := BitVec.ofNat 64 (leNat (bs.take 8))
def rowbOf (bs : List Byte) : BitVec 16 := BitVec.ofNat 16 (leNat (bs.drop 8))
/-- The landing buffer is at package 1, and the open lists are those. -/
def sendsTo (s : State) (lists : List SendList) : Bool :=
  entryOf s (fun (bs, s1) => decide (lbOf bs ≠ 0) && decide (rowbOf bs = 64) &&
    okWith (s1.access 0 false (lbOf bs)) (fun (pl, s2) => decide (pl = .pod 1) && !pl.isHost && decide (s2.cx.lists = lists)))

theorem witness_DispatchRow_first :
    (dispatching [] []).Executes m0 .plain ∧ (dispatching [] []).cx.mbox = [] ∧
    (let s := { dispatching [0x100] [] with copies := [aCopy, aCopy] }
     s.cx.mbox = 0x100 :: [] ∧ 2 ≤ s.copyQueued s.cx.id.coreId) ∧
    (let s := dispatching [1, 2] []
     s.Executes m0 .plain ∧ s.copyQueued s.cx.id.coreId < 2 ∧ (s.g 1).toNat % 64 = 0 ∧ (s.g 2).toNat % 8 = 0 ∧
       entryOf s (fun (bs, s1) => s1.rangeHere (s.g 1) 4160 && decide (lbOf bs = 0)) = true) ∧
    entryOf (onCx straddling (fun c => { c with mbox := [0] })) (fun (_, s1) => !s1.rangeHere 0x1FFFFFC0 4160) = true ∧
    entryOf (dispatching [2] []) (fun (bs, _) => decide (lbOf bs ≠ 0) && decide ((rowbOf bs).toNat % 64 ≠ 0)) = true :=
  ⟨executes_of (by decide +kernel), rfl, by decide +kernel,
    ⟨executes_of (by decide +kernel), by decide +kernel, by decide +kernel, by decide +kernel, by decide +kernel⟩, by decide +kernel, by decide +kernel⟩
theorem witness_DispatchRow_lists :
    sendsTo (dispatching [0] [listTo 2 1, listTo 1 14]) ([listTo 2 1] ++ listTo 1 14 :: []) = true ∧ (listTo 1 14).rows.length < 15 ∧
    sendsTo (dispatching [0] [listTo 1 15, listTo 2 1]) ([] ++ listTo 1 15 :: [listTo 2 1]) = true ∧ 15 ≤ (listTo 1 15).rows.length ∧
    (listTo 1 15).pkg = 1 ∧ (listTo 2 1).pkg ≠ 1 ∧
    sendsTo (dispatching [0] ([2, 3, 4, 5, 6, 7, 8].map (listTo · 1))) ([2, 3, 4, 5, 6, 7, 8].map (listTo · 1)) = true ∧
    ([2, 3, 4, 5, 6, 7, 8].map (listTo · 1)).length < 8 ∧
    sendsTo (dispatching [0] ([2, 3, 4, 5, 6, 7, 8, 9].map (listTo · 1))) ([2, 3, 4, 5, 6, 7, 8, 9].map (listTo · 1)) = true ∧
    (∀ x ∈ [2, 3, 4, 5, 6, 7, 8, 9].map (listTo · 1), x.pkg ≠ 1) ∧ (∀ x ∈ [3, 4, 5, 6, 7, 8, 9].map (listTo · 1), x.pkg ≠ (listTo 2 1).pkg) := by
  decide +kernel

/-! ### Objects, promises, regions -/

def oref : Word := mkName 1 0 0 5 7 1
def orefAway : Word := mkName 1 1 2 5 7 1
def ph0 : Word := mkName 2 0 0 5 9 1
def phAway : Word := mkName 2 1 2 5 9 1
def anObj (name : Word) (float : Bool) : Obj := { (default : Obj) with name := name, body := 0x2000, len := 256, float := float, home := ⟨0, 5⟩ }
def aPromise (ph : Word) (st : PState) : Promise := { (default : Promise) with ph := ph, st := st, conf := true }
/-- A state with names in g1 to g6, one object and one promise; its context runs an invocation whose promise that is. -/
def naming (st : PState) : State :=
  { onCx (mm [(1, oref), (2, orefAway), (3, ph0), (4, phAway), (5, 0x2000), (6, 0x10000000000), (7, 0x100)] [])
      (fun c => { c with run := some ⟨{ (default : Inv) with ph := ph0 }, 0, 0, false, 0⟩ }) with
    objs := [anObj oref false], promises := [aPromise ph0 st] }

/-- A state in which the series of the context toward a die of another package has no room (R287). -/
def fullSeries (s : State) (pkg : BitVec 12) (die : BitVec 2) : State :=
  { s with unacked := [⟨{ (default : Packet) with type := 7, dpkg := pkg, ddie := die, seq := 0xFFFFF000 }, 0, false, false, 0, 20000, none, none⟩] }

theorem nmDie_mkName (k p d c s g) : nmDie (mkName k p d c s g) = d := by
  apply BitVec.eq_of_getLsbD_eq
  intro i hi
  simp only [nmDie, mkName, fld, BitVec.getLsbD_extractLsb', BitVec.getLsbD_append]
  have : i = 0 ∨ i = 1 := by omega
  rcases this with rfl | rfl <;> simp
theorem nmSlot_mkName (k p d c s g) : nmSlot (mkName k p d c s g) = s := by
  apply BitVec.eq_of_getLsbD_eq
  intro i hi
  simp only [nmSlot, mkName, fld, BitVec.getLsbD_extractLsb', BitVec.getLsbD_append]
  have h1 : ¬ 16 + i < 16 := by omega
  simp [h1, hi]
/-- Object tables whose n slots are all in use, die by die. -/
@[irreducible] def manyObjs (n : Nat) : List Obj :=
  (List.range n).map (fun k => anObj (mkName 1 0 (BitVec.ofNat 2 (k / 1048576)) 0 (BitVec.ofNat 24 (k % 1048576)) 1) false)
theorem mem_manyObjs (n : Nat) (d : BitVec 2) (k : Nat) (hk : k < 1048576) (h : d.toNat * 1048576 + k < n) :
    ∃ o ∈ manyObjs n, nmDie o.name = d ∧ (nmSlot o.name).toNat = k := by
  unfold manyObjs
  refine ⟨_, List.mem_map.mpr ⟨d.toNat * 1048576 + k, List.mem_range.mpr h, rfl⟩, ?_, ?_⟩
  · simp only [anObj, nmDie_mkName]
    rw [show (d.toNat * 1048576 + k) / 1048576 = d.toNat by omega]
    simp
  · simp only [anObj, nmSlot_mkName, BitVec.toNat_ofNat]
    omega
theorem witness_ObjectInstructions_full :
    let s := { naming .pending with objs := manyObjs 4194304 }
    ∀ (d : BitVec 2) k, k < 1048576 → ∃ o ∈ s.objs, nmDie o.name = d ∧ (nmSlot o.name).toNat = k :=
  fun d k hk => mem_manyObjs _ d k hk (by have := d.isLt; omega)

theorem witness_ObjectInstructions_new :
    let s := naming .pending
    s.Executes m0 .plain ∧ 2 ^ 40 < (0x10000000001 : Word).toNat ∧
      ((s.g 6).toNat ≤ 2 ^ 40 ∧ (s.g 5).toNat % 256 = 0 ∧ (s.g 6).toNat % 256 = 0 ∧ 256 ≤ (s.g 6).toNat) ∧ ¬ 256 ≤ (s.g 0).toNat ∧
      (okWith (s.access 0 false (s.g 5)) (fun (pl, _) => decide (pl = .hbm 0x2000)) = true ∧ s.rangeHere (s.g 5) 256 = true) ∧
      (okWith (straddling.access 0 false (straddling.g 8)) (fun (pl, _) => decide (pl = .hbm 0x1FFFFF00)) = true ∧
        straddling.rangeHere (straddling.g 8) (straddling.g 9).toNat = false) ∧
      (0 < 1048576 ∧ ∀ o ∈ s.objs, nmDie o.name = homeDie 0x2000 → (nmSlot o.name).toNat ≠ 0) ∧
      ((191 : BitVec 8).toNat < 192 ∧ (s.core ⟨0, 191⟩).retired = false ∧ clusterOf 7 = clusterOf s.cx.id.core) :=
  ⟨executes_of (by decide +kernel), by decide, by decide +kernel, by decide +kernel, by decide +kernel, by decide +kernel, by decide +kernel, by decide +kernel⟩
theorem witness_ObjectInstructions_named :
    let s := naming .pending
    let isObj := fun (n : Word) => nameOk s n = true ∧ n.toNat / 2 ^ 62 = 1
    (isObj (s.g 1) ∧ nmPkg (s.g 1) = s.pkg ∧ (∃ o ∈ s.objs, o.name = s.g 1) ∧ (∀ r ∈ s.invs, r.obj ≠ some (s.g 1))) ∧
    (isObj (s.g 2) ∧ nmPkg (s.g 2) ≠ s.pkg ∧ ¬ isObj (s.g 3) ∧ ¬ isObj (s.g 0)) ∧
    (s.mustWait (nmPkg (s.g 2)) (nmDie (s.g 2)) = false ∧ (fullSeries s 1 2).mustWait (nmPkg (s.g 2)) (nmDie (s.g 2)) = true) ∧
    s.objs.find? (fun o => o.name = s.g 2) = none ∧ s.objs.find? (fun o => o.name = s.g 1) = some (anObj oref false) ∧
    ({ s with objs := [anObj oref true] } : State).objs.find? (fun o => o.name = s.g 1) = some (anObj oref true) ∧
    (∃ c : CoreId, c.die = (0 : BitVec 2) ∧ c.core.toNat < 192 ∧ clusterOf c.core = clusterOf 5 ∧ (s.core c).retired = false) := by
  refine ⟨by decide +kernel, by decide +kernel, by decide +kernel, by decide +kernel, by decide +kernel, by decide +kernel, ⟨⟨0, 5⟩, rfl, by decide +kernel, rfl, by decide +kernel⟩⟩
def anInv (obj : Option Word) : InvRec :=
  ⟨default, 0, .queued 0, obj, none, none, none, false, [], [], false, none, none, false, 0, none, [], [], [], false, none⟩
theorem witness_ObjectInstructions_used :
    ∃ r ∈ ({ naming .pending with invs := [anInv (some oref)] } : State).invs, r.obj = some ((naming .pending).g 1) := by decide +kernel

theorem witness_InvokeInstruction :
    let s := naming .pending
    s.Executes m0 .plain ∧ nameOk s (s.g 0) = false ∧ (nmPkg (s.g 1) = s.pkg ∧ nameOk s (s.g 1) = true) ∧
    (0 < 4194304 ∧ ∀ p ∈ s.promises, nmDie p.ph = nmDie (s.g 1) → (nmSlot p.ph).toNat ≠ 0) ∧
    (s.effPrio s.cx.prot s.cx.region ≠ 0 ∨ s.awayEnd s.cx.prot s.cx.region = none) ∧
    okWith (s.readList 0) (fun (_, s0) => !s0.homeFull (s.g 1) && !s0.othersSend (s.g 1) && !s0.mustWait 0 0 && (s0.takePh s0.cx.id (s0.cx.id.slot.setWidth 4) (s.g 1)).1.isSome && okWith s0.regionPrio (fun _ => true)) = true ∧
    -- a target of another package, toward which the series has no room
    okWith ((fullSeries s 1 2).readList 0) (fun (_, s0) => s0.mustWait (nmPkg (s.g 2)) (nmDie (s.g 2)) && okWith s0.regionPrio (fun _ => true)) = true :=
  ⟨executes_of (by decide +kernel), by decide +kernel, by decide +kernel, by decide +kernel, by decide +kernel, by decide +kernel, by decide +kernel⟩

theorem witness_AwaitAndTest_await :
    let s := naming
    (s .pending).Executes m0 .wait ∧ nameOk (s .pending) 0 = false ∧ nameOk (s .pending) oref = true ∧ oref.toNat / 2 ^ 62 = 1 ∧
    nameOk (s .pending) ph0 = true ∧ ph0.toNat / 2 ^ 62 = 2 ∧ nmPkg ph0 = (s .pending).pkg ∧
    (s (.value [1, 2])).chainNew ph0 = .value ph0 [1, 2] true ∧ (s (.name oref)).chainNew ph0 = .oref oref true ∧
    (s (.broken 7 ph0)).chainNew ph0 = .broken ph0 7 ph0 ∧ (s .pending).chainNew (mkName 2 0 0 5 10 1) = .stale ∧
    (s .pending).chainNew ph0 = .pending ph0 ∧
    ({ s .pending with promises := [{ aPromise ph0 (.value [1]) with conf := false }] } : State).chainNew ph0 = .value ph0 [1] false ∧
    okWith ((s (.value [1, 2])).scatter ((s .pending).g 5) [1, 2]) (fun _ => true) = true ∧
    (s .pending).flushesOver (chainToks (s .pending) (s .pending).chaseFuel ph0) = true :=
  ⟨executes_of (by decide +kernel), by decide +kernel, by decide +kernel, by decide +kernel, by decide +kernel, by decide +kernel, by decide +kernel,
    by decide +kernel, by decide +kernel, by decide +kernel, by decide +kernel, by decide +kernel, by decide +kernel, by decide +kernel, by decide +kernel⟩
/-- A release of package 2 that has accessed memory of package 0. -/
def aTok : FlushTok := ⟨2, 7, 9, false, [0]⟩
theorem witness_AwaitAndTest_release :
    let s := { naming (.value [1]) with owing := [(ph0, aTok)] }
    s.Executes m0 .wait ∧ nameOk s ph0 = true ∧ s.flushesOver (chainToks s s.chaseFuel ph0) = false ∧ awaitEnd false (s.chainNew ph0) = some (1, true, [1]) :=
  ⟨executes_of (by decide +kernel), by decide +kernel, by decide +kernel, by decide +kernel⟩
theorem witness_AwaitAndTest_test :
    let s := naming
    (s .pending).Executes m0 .plain ∧
    (nameOk (s .pending) phAway = true ∧ phAway.toNat / 2 ^ 62 = 2 ∧ nmPkg phAway ≠ (s .pending).pkg ∧ (s .pending).mustWait 1 2 = false ∧ (fullSeries (s .pending) 1 2).mustWait 1 2 = true) ∧
    (s .pending).pstate true (mkName 2 0 0 5 10 1) = none ∧ (s .pending).pstate true ph0 = some (.pending, true) ∧
    (s (.value [1, 2])).pstate true ph0 = some (.value [1, 2], true) ∧ (s (.name oref)).pstate true ph0 = some (.name oref, true) ∧
    (s (.broken 7 ph0)).pstate true ph0 = some (.broken 7 ph0, true) :=
  ⟨executes_of (by decide +kernel), by decide +kernel, by decide +kernel, by decide +kernel, by decide +kernel, by decide +kernel, by decide +kernel⟩

theorem witness_ResolveBreakFree_resolve :
    let s := naming .pending
    s.Executes m0 .plain ∧ s.cx.run = some ⟨{ (default : Inv) with ph := ph0 }, 0, 0, false, 0⟩ ∧ ph0 ≠ 0 ∧ nmPkg ph0 = s.pkg ∧
    s.myCore.unconf.length < 32768 ∧ s.promise ph0 = some (aPromise ph0 .pending) ∧ (aPromise ph0 .pending).freed = false ∧
    okWith (s.gather (s.g 5) 64) (fun (_, s1) => decide (s1 = s)) = true ∧
    nameOk s (s.g 1) = true ∧ (s.Chain ph0 (s.g 1) oref ∧ s.ChainOver ph0 oref) ∧ s.Chain ph0 (s.g 3) ph0 ∧
    (s.Chain ph0 (s.g 4) phAway ∧ phAway ≠ ph0 ∧ phAway.toNat / 2 ^ 62 ≠ 1 ∧ nmPkg phAway ≠ s.pkg ∧ s.present (nmPkg phAway) = true ∧
      (aPromise ph0 .pending).trying = none) ∧ nameOk s (s.g 0) = false :=
  ⟨executes_of (by decide +kernel), rfl, by decide +kernel, by decide +kernel, by decide +kernel, by decide +kernel, rfl, by decide +kernel,
    by decide +kernel, ⟨.here _, by decide +kernel, .inl (by decide +kernel)⟩, .here _,
    ⟨.here _, by decide +kernel, by decide +kernel, by decide +kernel, by decide +kernel, rfl⟩, by decide +kernel⟩
theorem witness_ResolveBreakFree_break :
    let s := naming (.value [1])
    let named := fun (h : Word) => nameOk s h = true ∧ h.toNat / 2 ^ 62 = 2
    ¬ named (s.g 1) ∧ (named (s.g 4) ∧ nmPkg (s.g 4) ≠ s.pkg ∧ s.mustWait 1 2 = false ∧ (fullSeries s 1 2).mustWait 1 2 = true) ∧ (named (mkName 2 0 0 5 10 1) ∧ s.promise (mkName 2 0 0 5 10 1) = none) ∧
    (named (s.g 3) ∧ s.promise (s.g 3) = some (aPromise ph0 (.value [1])) ∧ PState.value [1] ≠ .pending) ∧
    (naming .pending).promise ph0 = some (aPromise ph0 .pending) ∧ 128 ≤ (128 : BitVec 8).toNat := by decide +kernel

/-- A state with blocks at 0x8000 (open), 0x8080 (closed); the first is the context's present region. -/
def regions : State :=
  onCx (mm [(1, 0x8000), (2, 0x8080), (3, 0x8040)] [(0x8038, 1)]) (fun c => { c with opened := [0x8000], region := 0x8000 })

theorem witness_RegionInstructions_open :
    regions.Executes m0 .plain ∧ (regions.g 3).toNat % 128 ≠ 0 ∧ ((regions.g 2).toNat % 128 = 0 ∧ (regions.g 1).toNat % 128 = 0) ∧
    okWith (regions.access 1 false (regions.g 1)) (fun (pl, s1) => decide (pl = .hbm 0x8000) && decide (s1.blkState prot0 0x8000 = 1)) = true ∧
    okWith (regions.access 1 false (regions.g 2)) (fun (pl, s1) => decide (pl = .hbm 0x8080) && decide (s1.blkState prot0 0x8080 ≠ 1)) = true ∧
    regions.cx.opened.length < 64 ∧ 64 ≤ (onCx regions (fun c => { c with opened := List.replicate 64 0x8000 })).cx.opened.length :=
  ⟨executes_of (by decide +kernel), by decide +kernel, by decide +kernel, by decide +kernel, by decide +kernel, by decide +kernel, by decide +kernel⟩
theorem witness_RegionInstructions_other :
    regions.cx.opened.head? ≠ some (regions.g 2) ∧ regions.cx.opened = regions.g 1 :: [] ∧
    (okWith (regions.access 0 true (regions.g 1)) (fun (pl, _) => decide (pl = .hbm 0x8000)) = true ∧ regions.badWord (0x8000 + 88) 8 = none) ∧
    okWith (regions.access 1 false (regions.g 1)) (fun (_, s1) => decide (s1.cx.status ≠ .free) && decide (s1.cx.status ≠ .halting) &&
      decide (0x8000 ∈ s1.cx.regions) && s1.cx.rgfail.isNone && s1.invs.isEmpty && s1.flying.isEmpty && s1.entries.isEmpty) = true := by decide +kernel

/-! ### Phasers, counters, triggers -/

def aRem : RemAcc := ⟨1, ⟨0, 0, 0⟩, 0, 1, 0, false, true, .store, 0, 0, 0, none, false, [], 0, false, false, 0, 0, 0, 0⟩
def meParty : Party := ⟨0, 0, 0⟩
def other (arr : Nat) : Member := ⟨⟨0, 9, 0⟩, 0, none, 1, arr, 0, false⟩
def mine (arr : Nat) : Member := ⟨meParty, 0, none, 1, arr, 0, false⟩
def aPhaser (ms : List Member) : Phaser := ⟨3, ⟨0, 0, 0⟩, 4, false, true, ms, [2], none, 0⟩
/-- The phaser 3 of die 0 at phase 4, with those members; g1 to g3 name it, one of another package, and none. -/
def phasing (ms : List Member) : State :=
  { onCx (mm [(1, 3), (2, 0x4003), (3, 0x40000000000), (4, 5), (5, 100)] []) (fun c => { c with run := none }) with phasers := [aPhaser ms] }

theorem witness_PhaserMembership_names :
    (phasing []).Executes m0 .plain ∧ (∃ k, k < 4096 ∧ ∀ p ∈ (phasing []).phasers, phDie p.id = (phasing []).cx.id.die → p.id.toNat % 4096 ≠ k) ∧
    phOk (phasing []) ((phasing []).g 3) = false ∧ (phOk (phasing []) ((phasing []).g 2) = true ∧ phPkg ((phasing []).g 2) ≠ (phasing []).pkg) ∧
    ((phasing []).cx.postedPod = 0 ∧ (phasing []).cx.postedHost = 0 ∧ (phasing []).mustWait 1 0 = false ∧ (fullSeries (phasing []) 1 0).mustWait 1 0 = true ∧
      (phasing []).cx.poll = none) ∧
    (∃ r ∈ (onCx (phasing []) (fun c => { c with poll := some (1, none), rem := [{ aRem with kind := .poll, counted := false }] })).cx.rem, r.req = 1) :=
  ⟨executes_of (by decide +kernel), ⟨0, by decide, by decide +kernel⟩, by decide +kernel, by decide +kernel, by decide +kernel, by decide +kernel⟩
/-- The first n phasers of die 0. -/
@[irreducible] def manyPhasers (n : Nat) : List Phaser := (List.range n).map (fun k => { aPhaser [] with id := BitVec.ofNat 64 k })
theorem mem_manyPhasers (n k : Nat) (h : k < n) (hk : k < 4096) : ∃ p ∈ manyPhasers n, phDie p.id = 0 ∧ p.id.toNat % 4096 = k := by
  unfold manyPhasers
  refine ⟨_, List.mem_map.mpr ⟨k, List.mem_range.mpr h, rfl⟩, ?_, ?_⟩
  · apply BitVec.eq_of_toNat_eq
    simp [phDie, fld, BitVec.extractLsb'_toNat, Nat.shiftRight_eq_div_pow]
    omega
  · simp only [BitVec.toNat_ofNat]; omega
theorem witness_PhaserMembership_full :
    let s := { phasing [] with phasers := manyPhasers 4096 }
    ∀ k, k < 4096 → ∃ p ∈ s.phasers, phDie p.id = s.cx.id.die ∧ p.id.toNat % 4096 = k :=
  fun k hk => mem_manyPhasers 4096 k hk hk
theorem witness_PhaserMembership_members :
    let id := (phasing []).g 1
    (phOk (phasing []) id = true ∧ phPkg id = (phasing []).pkg ∧ (phasing [mine 4, other 4]).phaser id = some (aPhaser [mine 4, other 4])) ∧
    -- an arrival is wanted; there is another member; this one alone; it has the last arrival; it has run two phases ahead; it is none
    (∃ x ∈ [mine 4, other 4], x.mode ≠ 1 ∧ x.since ≤ 4 ∧ x.arr ≤ 4) ∧ (∃ x ∈ [mine 4, other 4], x.who ≠ meParty) ∧ (∀ x ∈ [mine 4], x.who = meParty) ∧
    [mine 4, other 5].find? (fun x => x.who = meParty && x.mode ≠ 1) = some (mine 4) ∧ (mine 4).arr < 4 + 2 ∧ 4 + 2 ≤ (mine 6).arr ∧
    (∀ y ∈ [mine 4, other 5], y.who ≠ meParty → y.mode ≠ 1 → y.since ≤ 4 → 4 < y.arr) ∧ (mine 4).since ≤ 4 ∧ (mine 4).arr ≤ 4 ∧
    [other 5].find? (fun x => x.who = meParty && x.mode ≠ 1) = none := by decide +kernel
theorem witness_PhaserWaits :
    (phasing [mine 4]).Executes m0 .wait ∧ ({ phasing [] with phasers := [] } : State).phaser 3 = none ∧
    ((aPhaser [mine 3]).waitFor meParty < 4 ∧ (aPhaser [mine 3]).waitFor meParty ∈ (aPhaser []).shorts) ∧
    (4 ≤ (aPhaser [mine 5, other 4]).waitFor meParty ∧ ∃ x ∈ [mine 5, other 4], x.mode ≠ 1 ∧ x.since ≤ 4) ∧
    ((phasing [mine 4, other 4]).cx.arrived = false ∧ ((phasing [mine 4, other 4]).phArr 3 meParty).isSome = true ∧ (phasing [mine 6]).phArr 3 meParty = none) :=
  ⟨executes_of (by decide +kernel), rfl, by decide +kernel, by decide +kernel, by decide +kernel⟩

/-- Counter 5 is valid, 16 is not; 0x40005 is counter 5 of package 1. -/
def counting : State := { counters [(1, 5), (2, 16), (3, 0x40005), (4, 7)] with ctrs := [(5, 6)] }

theorem witness_CounterInstructions :
    (counting.Executes m0 .plain ∧ counting.Executes m0 .wait) ∧ ctrOk counting counting.cx.prot (counting.g 2) = false ∧
    (ctrOk counting counting.cx.prot (counting.g 1) = true ∧ ctPkg (counting.g 1) = counting.pkg ∧ ¬ (∃ r ∈ counting.cx.rem, RemAcc.before 5 true r = true) ∧ counting.reading = false ∧
      counting.raisable 0 5 = true ∧ counting.cellBusy 0 5 = false ∧
      (∀ h ∈ (counting.die 0).held, h.con.idx ≠ 5)) ∧
    (∃ r ∈ (onCx counting (fun c => { c with rem := [aRem] })).cx.rem, RemAcc.before 5 true r = true) ∧
    ({ counting with heldRaises := [⟨0, 5, 1⟩] } : State).cellBusy 0 5 = true ∧
    (ctrOk counting counting.cx.prot (counting.g 3) = true ∧ ctPkg (counting.g 3) ≠ counting.pkg ∧ counting.mustWait 1 0 = false ∧ (fullSeries counting 1 0).mustWait 1 0 = true) ∧
    ((counting.cell 0 5 - 6#48).toNat < 2 ^ 47 ∧ ¬ (counting.cell 0 5 - 7#48).toNat < 2 ^ 47) :=
  ⟨⟨executes_of (by decide +kernel), executes_of (by decide +kernel)⟩, by decide +kernel, by decide +kernel, by decide +kernel, by decide +kernel,
    by decide +kernel, by decide +kernel⟩

/-- A descriptor at 0x1000: a counter add (OPER 5) triggered by counter 5 at `thr`. -/
def posting (trig oper thr : Byte) : State :=
  { counters [(1, 0x1000), (2, 0x1040), (3, 0x4003), (4, 0x14003), (5, 0x100000000000)] with
    mem := [(0x1000, trig), (0x1008, thr), (0x100E, oper), (0x10000, 0xFE)], ctrs := [(5, 6)] }
def anEntry : Entry := { (default : Entry) with id := 0x4003, fired := false, coll := none }

theorem witness_TriggersAndCollectives_post :
    (posting 5 5 7).Executes m0 .plain ∧ ((posting 5 5 7).g 2).toNat % 128 ≠ 0 ∧
    okWith ((posting 5 5 7).readDesc 0x1000) (fun (d, s1) => ctrOk s1 s1.cx.prot (d.getD 0 0) && decide ((d.getD 1 0).toNat / 2 ^ 48 % 2 ^ 8 = 5) &&
      s1.entries.isEmpty && !reached (s1.cell 0 5) (BitVec.ofNat 48 (d.getD 1 0).toNat)) = true ∧
    okWith ((posting 5 1 6).readDesc 0x1000) (fun (d, s1) => ctrOk s1 s1.cx.prot (d.getD 0 0) && reached (s1.cell 0 5) (BitVec.ofNat 48 (d.getD 1 0).toNat)) = true ∧
    okWith ((posting 5 6 6).readDesc 0x1000) (fun (d, _) => decide (5 < (d.getD 1 0).toNat / 2 ^ 48 % 2 ^ 8)) = true ∧
    okWith ((posting 16 5 6).readDesc 0x1000) (fun (d, s1) => !ctrOk s1 s1.cx.prot (d.getD 0 0)) = true :=
  ⟨executes_of (by decide +kernel), by decide +kernel, by decide +kernel, by decide +kernel, by decide +kernel, by decide +kernel⟩
theorem witness_TriggersAndCollectives_cancel :
    let s := { posting 5 5 7 with entries := [anEntry] }
    entryOk s (s.g 5) = false ∧ (entryOk s (s.g 3) = true ∧ enPkg (s.g 3) = s.pkg ∧ s.entries.find? (fun e => e.id = s.g 3) = some anEntry ∧
      s.trBusy (s.g 3) = false ∧ ({ s with raising := [⟨0, 0, 0, [0x4003]⟩] } : State).trBusy (s.g 3) = true ∧
      anEntry.fired = false ∧ anEntry.launch = ⟨0, 0, 0⟩ ∧ anEntry.coll = none ∧ s.cx.run = none) ∧
    (posting 5 5 7).entries.find? (fun e => e.id = 0x4003) = none ∧
    (entryOk s (s.g 4) = true ∧ enPkg (s.g 4) ≠ s.pkg ∧ s.mustWait (enPkg (s.g 4)) (enDie (s.g 4)) = false ∧
      (fullSeries s (enPkg (s.g 4)) (enDie (s.g 4))).mustWait (enPkg (s.g 4)) (enDie (s.g 4)) = true) := by decide +kernel

/-! ### Collectives, side information, issue, gangs -/

/-- A parameter block at 0x1000 (a barrier of group 0, counters 5 to 7) and the group of two ranks at 0x6000. -/
def joining (oper : Byte) (len : BitVec 17) : State :=
  { counters [(1, 0x1000), (2, 0x1008)] with
    mem := [(0x1000, oper), (0x1001, 0x80), (0x1021, 1), (0x1028, 5), (0x1030, 6), (0x1038, 7), (0x6000, 2), (0x6004, 1), (0x6009, 0x61),
      (0x6109, 0x10), (0x10000, 0xFE)]
    regs := { Regs.reset with grptab := 0x6000, grplen := len } }
theorem witness_TriggersAndCollectives_collectives :
    (joining 6 1).Executes m0 .plain ∧ ((joining 6 1).g 2).toNat % 128 ≠ 0 ∧
    okWith ((joining 6 1).readDesc ((joining 6 1).g 1)) (fun (d, s1) => let w := fun n => d.getD n (0 : Word)
      !blockBad w false && (let r := s1.collStatus 0x1000 w false false; decide (r.1 = 0) && r.2.isSome)) = true ∧
    okWith ((joining 7 1).readDesc ((joining 7 1).g 1)) (fun (d, _) => blockBad (fun n => d.getD n (0 : Word)) false) = true ∧
    okWith ((joining 6 0).readDesc ((joining 6 0).g 1)) (fun (d, s1) => let w := fun n => d.getD n (0 : Word)
      (s1.collStatus 0x1000 w false false) = (3, none)) = true :=
  ⟨executes_of (by decide +kernel), by decide +kernel, by decide +kernel, by decide +kernel, by decide +kernel⟩

/-- A record at 0x1000 of one block, number 5, at 0x2000. -/
def adverting : State := mm [(1, 0x1000)] [(0x1000, 5), (0x1006, 1), (0x1009, 0x20)]
theorem witness_SideInformation :
    adverting.Executes m0 .plain ∧ okWith (adverting.gather (adverting.g 1) 32) (fun (bs, _) => decide (leNat (bs.take 8) = 0x0001000000000005)) = true ∧
    okWith (adverting.advert 1) (fun (a, s1) => decide (((s1.die 0).side.filter (fun e => e.valid)).length + a.n ≤ 65536) && decide (a.n = 1) &&
      decide (a.first = 5)) = true :=
  ⟨executes_of (by decide +kernel), by decide +kernel, by decide +kernel⟩

theorem witness_IssueRules :
    let i := Instr.add ⟨false, 0, false, 1⟩ 1 2 (.reg 3) false
    let f := Instr.fence ⟨false, 0, false, 0⟩ 0
    let off := Instr.add mOff 1 2 (.reg 3) false
    (encodeFields i).isSome = true ∧ actsGuardedOff i = false ∧ (encodeFields off).isSome = true ∧
    (onCx (st []) (fun c => { c with rem := [aRem] })).cx.inGang = false ∧
    (onCx (st []) (fun c => { c with rem := [aRem] })).splits ⟨false, 0, false, 1⟩ (kindOf i) = false ∧
    (onCx (st []) (fun c => { c with rem := [aRem] })).cx.owes 1 = true ∧
    (encodeFields f).isSome = true ∧ (onCx (st []) (fun c => { c with runLen := 3 })).splits m0 (kindOf f) = true ∧
    (st []).GuardedOff mOff (kindOf off) :=
  ⟨by decide +kernel, by decide +kernel, by decide +kernel, by decide +kernel, by decide +kernel, by decide +kernel, by decide +kernel, by decide +kernel,
    guardedOff_of (by decide +kernel)⟩

/-- A gang of two: slot 0, which leads, and slot 1; whether it has issued GSPLIT. -/
def gangedBy (split : Bool) : State :=
  let g : Gang := ⟨[⟨0, 0, 0⟩, ⟨0, 0, 1⟩], 1, true, split⟩
  let s := onCx (st []) (fun c => { c with gang := some g })
  { s with ctxs := [{ cx0 [] with id := ⟨0, 0, 1⟩, status := .follow, gang := some g, gidx := 1 }] }
def ganged : State := gangedBy false
theorem witness_GangExecution_dissolves :
    let s := onCx (gangedBy true) (fun c => { c with status := .atSwitch })
    s.Leads [⟨0, 0, 0⟩, ⟨0, 0, 1⟩] ∧ s.cx.status = .atSwitch ∧ s.retiring = false ∧ s.cx.run = none ∧
      ∀ id ∈ [(⟨0, 0, 0⟩ : CtxId), ⟨0, 0, 1⟩], (s.ctx id).gang.any (fun g => g.split) = true ∧ (s.ctx id).errs = [] ∧ (s.ctx id).rgfail = none ∧
        (s.ctx id).fault = none ∧ (s.ctx id).haltReq = false ∧ (s.ctx id).awaits = false :=
  ⟨⟨by decide +kernel, by decide +kernel, by decide +kernel, by decide +kernel, rfl, rfl, by decide +kernel⟩, rfl, by decide +kernel, rfl, by decide +kernel⟩
theorem witness_GangExecution :
    (st []).Executes m0 .plain ∧ (intOps (.add m0 1 2 (.reg 3) false)).isSome = true ∧ ganged.Leads [⟨0, 0, 0⟩, ⟨0, 0, 1⟩] ∧ ganged.guard m0 = true ∧
    ganged.splits m0 ⟨false, true, true, true⟩ = false :=
  ⟨executes_of (by decide +kernel), by decide +kernel,
    ⟨by decide +kernel, by decide +kernel, by decide +kernel, by decide +kernel, rfl, rfl, by decide +kernel⟩, by decide +kernel, by decide +kernel⟩

/-! ### Events of contexts and engines -/

def c0 : CtxId := ⟨0, 0, 0⟩
def withStatus (s : State) (x : Status) : State := onCx s (fun c => { c with status := x })

theorem untroubled_of {s : State} (h : (!s.cx.inGang && !s.cx.awaits && !s.retiring && s.cx.errs.isEmpty && s.cx.rgfail.isNone && s.cx.fault.isNone &&
    !s.cx.haltReq && s.cx.victim.isNone && !s.cx.unpin && s.drainNow.isNone && s.cx.run.isNone) = true) : s.Untroubled := by
  simp only [Bool.and_eq_true, Bool.not_eq_true', List.isEmpty_iff, Option.isNone_iff_eq_none] at h
  obtain ⟨⟨⟨⟨⟨⟨⟨⟨⟨⟨h1, h2⟩, h3⟩, h4⟩, h5⟩, h6⟩, h7⟩, h8⟩, h9⟩, h10⟩, h11⟩ := h
  exact ⟨h1, h2, h3, h4, h5, h6, h7, h8, h9, h10, fun r hr => by rw [h11] at hr; cases hr⟩

theorem witness_RunEvents :
    (let s := onCx (st []) (fun c => { c with pend := [.g 5 7] }); (s.ctx c0).pend[0]? = some (.g 5 7) ∧ (RegVal.g 5 7).name ∉ (s.ctx c0).landed) ∧
    ((withStatus (st []) .atSwitch).Untroubled ∧ (withStatus (st []) .atSwitch).cx.status = .atSwitch) ∧
    (let s := onCx (st []) (fun c => { c with runLen := 512 }); s.Untroubled ∧ s.cx.status = .running ∧ 512 ≤ s.cx.runLen) ∧
    (let s := withStatus (st []) .ready
     s.Untroubled ∧ s.cx.status = .ready ∧ (s.allCtxs.map (·.id)).Nodup ∧
       s.coreHeld s.cx.id.coreId = false ∧ s.nextRun s.cx.id.coreId = some c0) :=
  ⟨by decide +kernel, ⟨untroubled_of (by decide +kernel), rfl⟩, ⟨untroubled_of (by decide +kernel), rfl, by decide +kernel⟩,
    untroubled_of (by decide +kernel), rfl, by decide +kernel, by decide +kernel, by decide +kernel⟩

theorem witness_WaitEvents_waits :
    let s := withStatus counting
    let on := fun (x : Wait) => s (.waiting x (some 0) false 8)
    ((s (.posted true true)).ctx c0).postedPod = 0 ∧ ((s (.posted true true)).ctx c0).postedHost = 0 ∧ ((on (.counter 1 5 6)).ctx c0).inGang = false ∧
    ((on (.counter 1 5 6)).ctx c0).rep.act = false ∧ ((on (.counter 1 5 6)).ctx c0).status = .waiting (.counter 1 5 6) (some 0) false 8 ∧
    ctPkg 5 = counting.pkg ∧ reached (counting.cell (ctDie 5) (ctIndex 5)) 6 = true ∧ reached (counting.cell (ctDie 5) (ctIndex 5)) 7 = false ∧ counting.cx.poll = none ∧
    (0 : Word).toNat ≤ counting.time.toNat ∧
    (∀ k : Tok, (1 : BitVec 8).getLsbD k.toNat = true → counting.cx.t[k.toFin].st = .done ∨ counting.cx.t[k.toFin].st = .idle) := by decide +kernel
theorem witness_WaitEvents_walks :
    let s := withStatus (mm [] []) (.walking 0x5000 0)
    let none_ := withStatus (st []) (.walking 0x5000 0)
    (s.ctx c0).status = .walking 0x5000 0 ∧ walk s (s.ctx c0).prot 0x5000 = .leaf 0xFE 1 0x10000 ∧ pteMig 0xFE = false ∧ s.dirty = [] ∧
    walk none_ (none_.ctx c0).prot 0x5000 = .fault 4 ∧ (none_.ctx c0).awaits = false ∧ (none_.focus c0).retiring = false ∧
    (none_.ctx c0).errs = [] ∧ (none_.ctx c0).rgfail = none := by decide +kernel
theorem witness_WaitEvents_posts :
    let f : FaultRec := ⟨11, 1, 0, false, false, false, 0x5000⟩
    let s := onCx (withStatus (st []) (.faulted f)) (fun c => { c with prot := { c.prot with fqbase := 0x4000, fqlen := 16 } })
    (s.ctx c0).status = .faulted f ∧ walk s (s.ctx c0).prot f.va = .fault 4 ∧ (s.ctx c0).prot.hasFq = true ∧ s.fqRoom (s.ctx c0).prot = true ∧
    (let s := onCx (st []) (fun c => { c with run := some ⟨default, 0, 0, false, 0⟩ })
     (s.ctx c0).status ≠ .free ∧ (s.ctx c0).run = some ⟨default, 0, 0, false, 0⟩) := by decide +kernel

/-- A state whose protection context 0 has its table at 0x10000, for the engines of the dies. -/
def served (m : List (Nat × Byte)) : State := mm [] ((10, 1) :: m)
def begunCopy (pos : Nat) : Copy := { aCopy with by_ := { anIssuer with prot := prot0 }, tok := some 2, begun := true, pos := pos }
/-- Whether a Vat accepts a raise, as a test. -/
def acceptsB (s : State) (die : BitVec 2) (idx : BitVec 16) : Bool :=
  s.raisable die idx && !s.cellBusy die idx && (s.die die).held.all (fun h => h.con.idx ≠ idx)
theorem accepts_of {s : State} {die : BitVec 2} {idx : BitVec 16} (h : acceptsB s die idx = true) : s.Accepts die idx := by
  simpa [acceptsB, State.Accepts, and_assoc] using h
theorem written {x : State × Option EngErr} (p : State → Bool) (h : (x.2.isNone && p x.1) = true) : ∃ s1, x = (s1, none) ∧ p s1 = true := by
  obtain ⟨s1, e⟩ := x
  simp only [Bool.and_eq_true, Option.isNone_iff_eq_none] at h
  exact ⟨s1, by rw [h.1], h.2⟩

theorem witness_EngineEvents_copies :
    let s := fun (c : Copy) => { served [] with copies := [c] }
    let c := begunCopy 8
    let d := begunCopy 0
    let k := { c with ctr := some 5 }
    let f : FaultRec := ⟨11, 1, 0, false, true, false, 0x5000⟩
    let by_ := { anIssuer with prot := { prot0 with fqbase := 0x4000, fqlen := 16 } }
    ((s c).copies.find? (fun x => x.id = 1 && x.canGo && (s c).forked x.by_) = some c ∧ (∀ x ∈ (s c).copies, x.id = 1 → x = c) ∧ c.trig = none ∧
      c.err = 0 ∧ c.bad = none ∧ c.through = true ∧ c.unacked = 0 ∧ c.ctr = none ∧ c.by_.isRun ((s c).ctx c.by_.ctx) = true) ∧
    (k.det = false ∧ k.through = true ∧ ctPkg 5 = (s k).pkg ∧ (s k).Accepts (ctDie 5) (ctIndex 5)) ∧
    ((s d).copies.find? (fun x => x.id = 1 && x.canGo && (s d).forked x.by_) = some d ∧ (∀ x ∈ (s d).copies, x.id = 1 → x = d) ∧ d.pos = 0 ∧
      d.buf = [] ∧ d.rd = false ∧ d.det = false ∧ d.rows = 1 ∧ 0 < d.rowb ∧ d.elemLen 0 = d.rowb ∧ d.rowb ≤ pageRoom (d.srcAt 0)) ∧
    (okWith (engPlace (s d) prot0 true 0 (d.srcAt 0)) (fun pl => decide (pl = .hbm 0x200)) = true ∧
      okWith (engPlace (s d) prot0 true 1 (d.dstAt 0)) (fun pl => decide (pl = .hbm 0x100)) = true) ∧
    ((s d).poison = [] ∧ (s d).fq = [] ∧ (s d).streams = []) ∧
    (∃ c, ({ st [] with copies := [{ aCopy with stall := some f, by_ := by_ }] } : State).copies.find? (fun x => x.id = 1 && x.onEntry.isNone) = some c ∧
      c.stall = some f ∧ (st []).fqRoom c.by_.prot = true) ∧
    (let s : State := { st [] with rows := [{ (default : FlightRow) with id := 1, stall := some f, by_ := by_ }] }
     s.copies.find? (fun x => x.id = 1 && x.onEntry.isNone) = none ∧ ∃ r, s.rows.find? (fun x => x.id = 1 && x.onEntry.isNone) = some r ∧
       r.stall = some f ∧ s.fqRoom r.by_.prot = true) := by
  refine ⟨by decide +kernel, ⟨rfl, by decide +kernel, by decide +kernel, accepts_of (by decide +kernel)⟩, by decide +kernel, by decide +kernel,
    ⟨rfl, rfl, rfl⟩, ⟨_, rfl, rfl, by decide +kernel⟩, rfl, _, rfl, rfl, by decide +kernel⟩
def aCon (exp : BitVec 32) : Contrib := ⟨0, 5, exp, true, 0x2000, 0, 0, 8, [], 8, 8, none, none, ⟨0, 0, 0⟩⟩
def aLandRow : LandRow := ⟨1, ⟨0, 0x1040, 64, 0, 0, true, false, List.replicate 64 1, 0, 0, 0, 0, 0⟩, 0, 0, (1, 0, 0), none, [], none, false⟩
theorem witness_EngineEvents_rows :
    let s := { served [(0x1041, 0x40), (0x1048, 4), (0x1058, 5)] with ctrs := [(5, 6)], landRows := [aLandRow] }
    (∀ h ∈ (s.die 0).held, h.con.idx ≠ 5) ∧
    ((aCon 6).exp = (s.cell 0 5).setWidth 32 ∧ s.applyCon (aCon 6) = (s, none) ∧ s.Accepts 0 5) ∧
    (1 ≤ ((aCon 9).exp - (s.cell 0 5).setWidth 32).toNat ∧ ((aCon 9).exp - (s.cell 0 5).setWidth 32).toNat ≤ 3 ∧ s.staged 0 < 512) ∧
    2 ^ 31 < ((aCon 5).exp - (s.cell 0 5).setWidth 32).toNat ∧
    (s.landRows.find? (fun x => x.id = 1) = some aLandRow ∧ aLandRow.onEntry = none ∧ aLandRow.slot = none ∧ s.rowTurn aLandRow = true) ∧
    (let p := s.protOf 0
     let w := fun (k : Nat) => leNat (((s.bytes p.keyslot 0x1040 64).drop (8 * k)).take 8)
     okWith (engPlace s p true 0 0x1040) (fun pl => decide (pl = .hbm 0x1040)) = true ∧ s.poison = [] ∧ s.markUsed p 0x1040 true = s ∧
       aLandRow.row.rowb.toNat = 64 * 2 ^ (w 1 / 2 ^ 13 % 8) ∧ w 2 < w 1 % 2 ^ 13) ∧
    (let s := onCx (st []) (fun c => { c with flushes := [3] }); (3 : Tok) ∈ (s.ctx c0).flushes ∧ s.rows = [] ∧ s.copyq = []) := by
  refine ⟨by decide +kernel, ⟨by decide +kernel, by decide +kernel, accepts_of (by decide +kernel)⟩, by decide +kernel, by decide +kernel, by decide +kernel,
    by decide +kernel, by decide +kernel⟩
/-- The last write of a slot: its header at 0x3000; then counter 5 rises. -/
theorem witness_EngineEvents_last_write :
    let w : LandWrite := ⟨true, none, none, false, []⟩
    let x := { aLandRow with slot := some (0x2000, 0x3000, 5), writes := [w] }
    let s := { served [(20, 16)] with landRows := [x] }
    let p := s.protOf x.row.pctx
    s.landRows.find? (fun y => y.id = 1) = some x ∧ x.onEntry = none ∧ w.onEntry = none ∧ s.behind x w = false ∧
    ∃ s1, engWrite s p true 0x3000 (wordBytes x.row.header) = (s1, none) ∧ ctrOk s1 p 5 = true ∧ ctPkg 5 = s1.pkg ∧ s1.Accepts (ctDie 5) (ctIndex 5) := by
  refine ⟨by decide +kernel, rfl, rfl, by decide +kernel, ?_⟩
  obtain ⟨s1, h, hp⟩ := written (x := engWrite { served [(20, 16)] with
      landRows := [{ aLandRow with slot := some (0x2000, 0x3000, 5), writes := [⟨true, none, none, false, []⟩] }] }
      (({ served [(20, 16)] with landRows := [{ aLandRow with slot := some (0x2000, 0x3000, 5), writes := [⟨true, none, none, false, []⟩] }] } : State).protOf 0)
      true 0x3000 (wordBytes 0))
    (fun s1 => ctrOk s1 ((served [(20, 16)]).protOf 0) 5 && decide (ctPkg 5 = s1.pkg) && acceptsB s1 (ctDie 5) (ctIndex 5)) (by decide +kernel)
  simp only [Bool.and_eq_true, decide_eq_true_eq] at hp
  exact ⟨s1, h, hp.1.1, hp.1.2, accepts_of hp.2⟩

/-! ### Invocations in the store -/

theorem chosen_one {s : State} {die : BitVec 2} {r : InvRec} {c : CoreId} {id : CtxId} (h1 : s.readyOn die = [r]) (h2 : coreSets r = [[c]])
    (h3 : s.freeSlots c = [id]) (h4 : s.windowsFit r 0 c = true) (h5 : (r.frame.isEmpty && (s.owed c || s.overdue c)) = false) :
    s.chosen die = some (r, [id]) := by
  have e : ∀ (α : Type) (x : α) n, [x][n % 1]? = some x := fun α x n => by rw [Nat.mod_one]; rfl
  have hz : [c].zip (List.range 1) = [(c, 0)] := rfl
  have hp : s.pickCtxs r [c] = some [id] := by
    simp only [State.pickCtxs, hz, List.map_cons, List.map_nil, h3, h4, h5, List.isEmpty_cons, Bool.false_or, Bool.not_true,
      Bool.false_eq_true, if_false, List.length_singleton, e]
    rfl
  simp only [State.chosen, h1, State.options, h2, List.filterMap_cons, hp, List.filterMap_nil, List.findSome?_cons, List.length_singleton, e, Option.map_some]

/-- An invocation 4 in the store of die 0, at cluster 0. -/
def stored (stage : Stage) : InvRec :=
  { anInv none with i := { (default : Inv) with id := 4 }, stage := stage, entry := some 0x4000, place := some (0, 0), tiles := true }
/-- Its core has one free context, in slot 3. -/
def crowded (r : InvRec) : State :=
  { st [] with
    ctxs := [{ cx0 [] with id := ⟨0, 0, 1⟩ }, { cx0 [] with id := ⟨0, 0, 2⟩ }], cores := [CoreSt.blank ⟨0, 0⟩], invs := [r] }

theorem witness_InvocationEvents_ready :
    (let r := stored .held
     let s := crowded r
     s.invOf 4 = some r ∧ r.tiles = true ∧ r.onEntry = none ∧ r.i.resolve = false ∧ r.entry.isSome = true ∧ r.place.isSome = true ∧
       s.heldBack r = false ∧ s.flushesOver r.i.toks = true ∧ s.mayRun r = true) ∧
    (let r := { stored .held with i := { (stored .held).i with toks := [aTok] } }; (crowded r).flushesOver r.i.toks = false) ∧
    (let r := stored .preempted; (crowded r).invOf 4 = some r ∧ (crowded r).sentOut r = true) := by decide +kernel
theorem witness_InvocationEvents_dispatch :
    (let r := { stored .ready with core := some ⟨0, 0⟩ }
     (crowded r).chosen 0 = some (r, [⟨0, 0, 3⟩]) ∧ r.frame = [] ∧ r.entry = some 0x4000 ∧ r.i.gang = 0 ∧ r.i.deadline = 0) ∧
    (let c := { cx0 [] with id := ⟨0, 1, 2⟩ }
     let r := { stored .ready with core := some ⟨0, 0⟩, frame := [c] }
     (crowded r).chosen 0 = some (r, [⟨0, 0, 3⟩]) ∧ r.frame = [c] ∧ r.windows = [] ∧ (crowded r).invOf 4 = some r ∧ r.place.map (·.1) = some 0) :=
  ⟨⟨chosen_one (by decide +kernel) rfl (by decide +kernel) (by decide +kernel) (by decide +kernel), rfl, rfl, rfl, rfl⟩,
   ⟨chosen_one (by decide +kernel) rfl (by decide +kernel) (by decide +kernel) (by decide +kernel), rfl, rfl, by decide +kernel, rfl⟩⟩
theorem witness_InvocationEvents_place :
    (let r := { stored .held with place := none, turn := some 1 }
     (crowded r).invOf 4 = some r ∧ r.place = none ∧ (crowded r).otherwiseReady r = true ∧ r.turn ≠ none ∧ (crowded r).eligible r.die r.i.gang ≠ []) ∧
    (let r := { stored .preempted with tiles := false, turn := some 1 }
     let s := crowded r
     s.invOf 4 = some r ∧ r.place = some (0, 0) ∧ r.tiles = false ∧ r.stage = .preempted ∧ r.turn ≠ none ∧ s.shooting r = false ∧
       (∀ x ∈ s.invs, x.place = some (0, 0) → s.wantsTiles x = true → r.turn.getD 0 ≤ x.turn.getD 0) ∧
       ∀ k, k < 8 → (((s.pinned (0, 0) ++ (s.loaderLines r).map (fun l => l.2)).eraseDups).filter (fun l => (homeSlice (256 * l)).toNat % 8 = k)).length ≤ 12 * 1024) := by decide +kernel
/-- Two invocations are ready at cluster 0, whose cores are retired. -/
def levelling : State :=
  { st [] with
    time := 2000, invs := [stored .ready, { stored .ready with i := { (default : Inv) with id := 5 } }]
    cores := (clusterCores 0 0).map (fun c => { CoreSt.blank c with retired := true }) }
theorem witness_InvocationEvents_level :
    let s := levelling
    2000 ≤ (s.time - (s.die 0).levelled).toNat ∧ (s.invs.map (·.i.id)).Nodup ∧ (∀ i, i < 24 → i ≠ 0 → s.surplus 0 i ≤ 0) ∧ 0 < s.surplus 0 0 ∧
    (∀ i, i < 24 → (i + 1 = 0 ∨ i = 0 + 1) → s.surplus 0 1 ≤ s.surplus 0 i ∧ (s.surplus 0 1 = s.surplus 0 i → 1 ≤ i)) ∧
    s.surplus 0 1 < s.surplus 0 0 - 1 := by decide +kernel
theorem witness_InvocationEvents_move :
    let s := { naming .pending with invs := [anInv (some oref)] }
    s.objs.find? (fun o => o.name = oref) = some (anObj oref false) ∧ (anObj oref false).moving = none ∧ s.mayMove (anObj oref false) ⟨0, 191⟩ = true ∧
    s.staysFor (anObj oref false) = false ∧ ∃ r ∈ s.invs, r.obj = some oref := by decide +kernel

/-! ### Launches, pages, the debugger -/

def aLaunch : Launch :=
  ⟨⟨0, 3, 5⟩, oref, [1, 2], 0, 5, 0, false, 0, false, 0, 0, .pending, none, false, 0, [], false, false, [], 0, [], none, true⟩
/-- A queue table at 0x8000 whose entry 3 has its pool at 0xA000, its template at 0xB000 and a ring of 16 at 0xC000. -/
def queues (valid : Byte) (ls : List Launch) : State :=
  { served [(0, valid), (0x8191, 0xA0), (0x8199, 0xB0), (0x81A1, 0xC0), (0x81A8, 16)] with
    regs := { Regs.reset with wqtab := 0x8000 }, keys := [0], launches := ls }
theorem witness_LaunchPageAndDebugEvents_launches :
    ((queues 0 [aLaunch]).unchecked 3 = none ∧ aLaunch.checked = true ∧ (queues 0 [aLaunch]).waitingLaunch 3 = some aLaunch ∧ ((queues 0 [aLaunch]).runningLaunches 3).length < ((queues 0 [aLaunch]).queue 3).mout ∧
      (queues 0 [aLaunch]).startChecks ((queues 0 [aLaunch]).queue 3) aLaunch = some 2 ∧
      (queues 0 [aLaunch]).launchAsk ((queues 0 [aLaunch]).queue 3) aLaunch = none) ∧
    (let s := queues 1 [aLaunch]
     s.unchecked 3 = none ∧ s.waitingLaunch 3 = some aLaunch ∧ (s.runningLaunches 3).length < (s.queue 3).mout ∧ s.startChecks (s.queue 3) aLaunch = none ∧
       s.launchAsk (s.queue 3) aLaunch = none ∧
       nmPkg aLaunch.target = s.pkg) ∧
    (let x := { aLaunch with res := .value [1], running := true }
     let s := queues 1 [x]
     s.launches.find? (fun x => x.id = ⟨0, 3, 5⟩) = some x ∧ x.res ≠ .pending ∧ x.refused = none ∧ x.freed = false ∧ x.ending = false ∧
       aLaunch.id.pkg = s.pkg ∧ (∀ i ∈ s.flying, i.launch ≠ ⟨0, 3, 5⟩) ∧ s.runsOf ⟨0, 3, 5⟩ = [] ∧ x.out = [] ∧ s.unacked = [] ∧ s.firings = [] ∧
       x.cut = false ∧ (queues 1 [{ x with ending := true, cut := true }]).launches.find? (fun x => x.id = ⟨0, 3, 5⟩) = some { x with ending := true, cut := true }) ∧
    (let x := { aLaunch with refused := some 2 }
     let s := queues 1 [x]
     let e := s.queue 3
     x.refused = some 2 ∧ s.fq = [] ∧ s.streams = [] ∧ gpaPkg e.cring = s.pkg ∧
       (∀ i, i < 32 → ∀ j, j < 4 → ((BitVec.ofNat 64 (e.cring.toNat + 32 * (5 % e.crlen))).toNat % 2 ^ 46 + i) / 256 ≠ (s.queueAt 3 + 52 + j) / 256)) := by
  decide +kernel
/-- Die 0 with a shootdown under way, and with the page of 0x40010000 being moved to the frame at 0x50000. -/
def shooting : State := { st [] with die0 := { DieSt.reset with tcb := { Tcb.reset with go := true } } }
/-- A shootdown of the page of 0x10000, on which an invocation of that stage has a pin. -/
def pinning (stage : Stage) : State :=
  { st [] with
    invs := [{ stored stage with pins := [(0x100, 0x100)] }]
    die0 := { DieSt.reset with tcb := { Tcb.reset with go := true, sdva := 0x10000, sdnp := 1 } } }
theorem witness_LaunchPageAndDebugEvents_pins :
    (let s := pinning .running; ∃ x ∈ s.invs, x.tiles = true ∧ x.stage = .running ∧ (s.die 0).tcb.range.pins x ≠ []) ∧
    (let s := pinning .ready; ∃ x ∈ s.invs, x.tiles = true ∧ x.stage ≠ .running ∧ (s.die 0).tcb.range.pins x ≠ []) := by decide +kernel
def aMig : Mig := ⟨0, 0x40010000, 0x3018, 0x10047E, 0x50000, 0, 0, 0⟩
def moving : State :=
  { served [(0x3018, 0x7E), (0x3019, 4), (0x301A, 0x10)] with
    time := 1000000, die0 := { DieSt.reset with mig := some aMig, tcb := { Tcb.reset with pgpool := 0x4000 } } }
theorem witness_LaunchPageAndDebugEvents_pages :
    (let s := mm [] []
     canonical 0x40010008 = true ∧ (s.ctx c0).status ≠ .free ∧ s.tlbFind c0.coreId (s.ctx c0).pctx 0x40010008 = some ⟨0, 0x4001, 3, 0x10007E, 0x3018⟩ ∧
       pteNospec 0x10007E = false ∧ permCause 0x10007E 0 (!(s.ctx c0).priv) false = none ∧ placeOf s 0x10007E 3 0x40010008 = .hbm 0x100008) ∧
    (let t := (shooting.die 0).tcb
     t.go = true ∧ shooting.holdsOn t.range = false ∧ shooting.pinsOn t.range = false ∧ t.sdctr = 0 ∧ shooting.heldWrites = []) ∧
    (let key := (moving.protOf 0).keyslot
     (moving.die 0).mig = some aMig ∧ wordOf (moving.bytes key 0x3018 8) = aMig.old ∧ moving.pinsOn (pageRange 0 0x40010000) = false ∧
       moving.holdsOn (pageRange 0 0x40010000) = false ∧ aMig.ptePa % 8 = 0 ∧ aMig.frame % 65536 = 0 ∧
       (aMig.ptePa / 65536 ≠ aMig.frame / 65536 ∧ 0x4000 / 65536 ≠ aMig.frame / 65536 ∧ 0x4000 / 256 ≠ aMig.ptePa / 256) ∧
       1000000 ≤ (moving.time - aMig.begun).toNat) := by decide +kernel
/-- The debug page of die 0 names slot 0 of core 0. -/
def debugging (item : BitVec 16) (x : Status) (gen : Bool) : State :=
  { onCx (withStatus (st []) x) (fun c => { c with dbgen := gen }) with die0 := { DieSt.reset with dbg := { DebugPage.reset with item := item } } }
theorem witness_LaunchPageAndDebugEvents_debugger :
    (let s := debugging 1 (.debug 7 0x1000 true) true
     (s.ctx c0).status = .debug 7 0x1000 true ∧ (s.die 0).dbg.index = 0 ∧ ((1 : GReg) ≠ 0 ∧ (s.die 0).dbg.item.toNat = (1 : GReg).toNat) ∧
       (s.ctx c0).inGang = false ∧ s.phasers = [] ∧ (∀ x ∈ s.runners, x.joined = []) ∧ (s.ctx c0).rep.act = false) ∧
    ((debugging 64 (.debug 7 0x1000 true) true).die 0).dbg.item.toNat = 64 ∧
    (let s := debugging 0 .running true; (s.ctx c0).status.halted = false ∧ (s.ctx c0).status ≠ .free ∧ (s.ctx c0).dbgen = true) := by decide +kernel

/-! ### Packets of other packages -/

theorem admits_of {s : State} {p : Packet}
    (h : (decide (p.dpkg = s.pkg) && decide (p.spkg ≠ s.pkg) && headerOk p && !s.shut && !s.landFull p &&
      (bulkType p.type || decide (p.seq = (s.rxGet (rxKeyOf p)).next)) && (s.rxGet (rxKeyOf p)).window.all (fun e => e.1 ≠ p.seq)) = true) :
    s.Admits p := by
  simp only [Bool.and_eq_true, decide_eq_true_eq, Bool.not_eq_true', Bool.or_eq_true, List.all_eq_true] at h
  obtain ⟨⟨⟨⟨⟨⟨h1, h2⟩, h3⟩, h4⟩, h5⟩, h6⟩, h7⟩ := h
  exact ⟨h1, h2, h3, h4, h5, fun hb => h6.resolve_left (by simp [hb]), fun _ => h7⟩

/-- A packet of package 1 with a payload; its header keeps to the tables. -/
def pk (type : BitVec 8) (b : Payload) : Packet :=
  let block := type = 0x23 || type = 0x24
  { (default : Packet) with
    type := type, vch := channelOf type, coded := decide (type = 0x24), spkg := 1, payload := b
    ndf := if block then 64 else 0, plen := if block then 4096 else if type = 8 then 8 else 0 }
def reqAt (va : Word) : MemReq := { (default : MemReq) with va := va, sz := 2, opnd := 5, user := true }
/-- Counters 0 to 15 belong to protection context 0. -/
def protC : Prot := { prot0 with clen := 16 }
def anOp (oper : BitVec 8) (comp : Word) : Entry := { (default : Entry) with oper := oper, comp := comp, args := [0, 0, 0, 0, 6, 3, 0, 0], prot := protC }
def firing (f : Firing) : State := { st [] with firings := [f] }

theorem witness_PacketEvents_triggered :
    (let f : Firing := { (default : Firing) with e := anOp 5 0 }
     let s := firing f
     (∀ x ∈ s.firings, x.die = 0 → x.stall = none) ∧ s.firings.find? (fun x => x.die = 0 && !x.begun && x.onEntry.isNone) = some f ∧ f.e.coll = none ∧
       f.e.oper = 5 ∧ f.reserved = false ∧ s.heldRaises = [] ∧ ctrOk s f.e.prot (f.w 4) = true ∧ ctPkg (f.w 4) = s.pkg ∧
       s.Accepts (ctDie (f.w 4)) (ctIndex (f.w 4))) ∧
    (let f : Firing := { (default : Firing) with e := anOp 1 0 }
     let s := firing f
     s.firings.find? (fun x => x.die = 0 && !x.begun && x.onEntry.isNone) = some f ∧ f.reserved = false ∧ s.channelFree 0 = true ∧
       f.mode.any (fun m => !m.det) = true) ∧
    (let f : Firing := { (default : Firing) with id := 9, e := anOp 5 7, fin := some (0, 3) }
     let g : Firing := { f with e := anOp 5 0 }
     (firing f).firings.find? (fun x => x.id = 9) = some f ∧ f.e.comp ≠ 0 ∧ ctrOk (firing f) f.e.prot f.e.comp = true ∧ ctPkg f.e.comp = (firing f).pkg ∧
       (firing f).Accepts (ctDie f.e.comp) (ctIndex f.e.comp) ∧ (firing g).firings.find? (fun x => x.id = 9) = some g ∧ g.e.comp = 0) :=
  ⟨⟨by decide +kernel, by decide +kernel, rfl, rfl, by decide +kernel, by decide +kernel, by decide +kernel, by decide +kernel,
      accepts_of (by decide +kernel)⟩,
    by decide +kernel,
    by decide +kernel, by decide +kernel, by decide +kernel, by decide +kernel, accepts_of (by decide +kernel), by decide +kernel, rfl⟩

/-- A collective of dies 0 of packages 0 and 1 in slot 2. -/
def aColl (oper algo : BitVec 4) : Coll :=
  { (default : Coll) with slot := 2, oper := oper, algo := algo, count := 1024, chunk := 4096, doneC := 7, ranks := [(0, 0), (1, 0)], started := true }
def collecting (c : Coll) : State := { served [] with colls := [c] }
theorem witness_PacketEvents_collectives :
    let c := { aColl 6 2 with ready := [0, 1] }
    let s := collecting c
    let d := { aColl 6 2 with flight := [{ (default : CollMsg) with defer := true }] }
    s.coll 0 2 = some c ∧ c.err = 0 ∧ ctPkg c.doneC = s.pkg ∧ s.Accepts (ctDie c.doneC) (ctIndex c.doneC) ∧
    (∀ f ∈ s.firings, f.e.id = c.start → f.begun = true) ∧ (c.complete = true ∧ c.stall = none ∧ c.onEntry = none ∧ s.resumes c = false) ∧
    (collecting d).coll 0 2 = some d ∧ (∀ m ∈ d.flight, m.at_.toNat + 1000000 < 2 ^ 64) :=
  ⟨by decide +kernel, rfl, by decide +kernel, accepts_of (by decide +kernel), fun _ h => (List.not_mem_nil h).elim, by decide +kernel,
    by decide +kernel, by decide +kernel⟩

theorem witness_PacketEvents_memory :
    let p := fun t => pk t (.mem (reqAt 0x1234))
    let s := served []
    (∀ t, t = 2 ∨ t = 3 ∨ t = 4 ∨ t = 5 → s.Admits (p t)) ∧ (p 2).sag ≠ 8 ∧ s.heldBefore (p 2) = false ∧ s.heldBefore (p 3) = false ∧
    s.heldBefore (p 4) = false ∧ s.heldBefore (p 5) = false ∧ s.poison = [] ∧ s.fq = [] ∧ s.streams = [] ∧
    s.markUsed (s.protOf 0) 0x1234 false = s ∧ s.markUsed (s.protOf 0) 0x1234 true = s ∧
    homeWalk s (s.protOf 0) true false 0 0x1234 = .hbm 0x1234 ∧ homeWalk s (s.protOf 0) true false 1 0x1234 = .hbm 0x1234 ∧
    homeWalk s (s.protOf 0) true false 3 0x1234 = .hbm 0x1234 ∧ atomic 0 2 (wordOf (s.bytes (s.protOf 0).keyslot 0x1234 4)) 5 0 = (true, 5) := by
  refine ⟨?_, by decide +kernel, by decide +kernel, by decide +kernel, by decide +kernel, by decide +kernel, rfl, rfl, rfl, by decide +kernel,
    by decide +kernel, by decide +kernel, by decide +kernel, by decide +kernel, by decide +kernel⟩
  rintro t (rfl | rfl | rfl | rfl) <;> exact admits_of (by decide +kernel)

theorem witness_PacketEvents_transfers :
    let s := served []
    let bs : List Byte := [1, 2, 3, 4, 5, 6, 7, 8]
    let p := fun t => { pk t (.copyData 1 0 0 false 0 0 bs) with addr := 0x1234 }
    let q := { pk 0x21 (.readReq 1 0 8 0) with addr := 0x1234 }
    let c := begunCopy 8
    let on := { served [] with copies := [c] }
    (s.Admits (p 8) ∧ s.Admits (p 0x20) ∧ s.Admits q ∧ s.poison = [] ∧ s.fq = [] ∧ s.streams = []) ∧
    (okWith (s.placesOf (p 8) (s.protOf 0) 1 bs.length) (fun l => decide (l = [(0x1234, bs.length)])) = true ∧
      okWith (s.placesOf (p 0x20) (s.protOf 0) 1 bs.length) (fun l => decide (l = [(0x1234, bs.length)])) = true ∧
      okWith (s.placesOf q (s.protOf 0) 0 8) (fun l => decide (l = [(0x1234, 8)])) = true ∧
      s.markRange (s.protOf 0) 0x1234 8 true = s ∧ s.markRange (s.protOf 0) 0x1234 8 false = s ∧ (p 8).aux = 0) ∧
    on.Reaches (p 0x22) ∧
    (on.copies.find? (fun c => c.id = 1) = some c ∧ c.err = 0 ∧ c.det = false ∧ 0 < c.pos ∧ c.rd = false ∧ on.poison = [] ∧ on.fq = [] ∧ on.streams = [] ∧
      okWith (engPlace on c.by_.prot c.by_.user 1 (c.dstAt 0)) (fun pl => decide (pl = .hbm 0x100)) = true ∧ (begunCopy 0).pos ≤ 0) :=
  ⟨⟨admits_of (by decide +kernel), admits_of (by decide +kernel), admits_of (by decide +kernel), rfl, rfl, rfl⟩,
    by decide +kernel, ⟨by decide +kernel, .inr (by decide +kernel)⟩, by decide +kernel⟩

theorem witness_PacketEvents_invocations :
    (let s := naming .pending
     let i : Inv := { (default : Inv) with target := oref }
     s.Admits (pk 1 (.inv i)) ∧ (pk 1 (.inv i)).dep ≠ 255 ∧ s.storeFull 0 = false ∧ s.ended i.launch = false ∧ isOref i.target = true ∧ s.objs.find? (fun o => o.name = i.target) = some (anObj oref false) ∧
       (anObj oref false).deleted = false ∧ (anObj oref false).float = false) ∧
    (let q0 := queues 1 []
     let s := { q0 with regs := { q0.regs with state := 1 } }
     let bs : List Byte := leBytes 8 oref.toNat ++ List.replicate 56 0
     let p := { pk 1 (.bytes bs) with dep := 255, sag := 8, ndf := 1, addr := 3, ddie := queueDie 3 }
     s.Admits p ∧ launchParts p = some (3, bs) ∧ s.ringFull 3 = false ∧ s.regs.state ≠ 0 ∧ s.launches = []) ∧
    (let s := served []
     let p := pk 6 (.bytes [5, 0, 0, 0, 0, 0])
     let q := pk 7 (.prm (.ask ⟨1, 2, 3⟩ 1 4 (.ctrd 7)))
     s.Admits p ∧ s.Accepts p.ddie (ctIndex p.aux) ∧ s.Admits q ∧ (1 : BitVec 12) ≠ s.pkg) ∧
    (let r : RemAcc := { (default : RemAcc) with req := 4, kind := .value 5 }
     let s := onCx (served []) (fun c => { c with rem := [r] })
     s.Admits (pk 7 (.prm (.answer ⟨0, 0, 0⟩ 4 9 0))) ∧ (4 : Nat) ≠ 0 ∧ s.rems = [r] ∧ r.req = 4 ∧ r.kind = .value 5 ∧ (s.ctx c0).rem = [r]) :=
  ⟨⟨admits_of (by decide +kernel), by decide +kernel, by decide +kernel, by decide +kernel, by decide +kernel, by decide +kernel, rfl, rfl⟩,
    ⟨admits_of (by decide +kernel), by decide +kernel, by decide +kernel, by decide +kernel, rfl⟩,
    ⟨admits_of (by decide +kernel), accepts_of (by decide +kernel), admits_of (by decide +kernel), by decide +kernel⟩,
    admits_of (by decide +kernel), by decide +kernel, by decide +kernel, rfl, rfl, by decide +kernel⟩

theorem reaches_of {s : State} {p : Packet} (h : (decide (p.dpkg = s.pkg) && headerOk p) = true) : s.Reaches p := by
  simp only [Bool.and_eq_true, decide_eq_true_eq] at h
  exact ⟨h.1, .inr h.2⟩
theorem witness_PacketEvents_answers :
    (let r : RemAcc := { (default : RemAcc) with req := 4, seq := 6, dpkg := 1, kind := .load 5 2 true }
     let s := onCx (served []) (fun c => { c with rem := [r] })
     let p := pk 0x10 (.reply r.src 0 r.seq 9 false true 6 6 none 0)
     s.Reaches p ∧ s.rems = [r] ∧ (s.ctx c0).rem = [r] ∧ r.dpkg = p.spkg ∧ r.ddie = p.sdie ∧ r.kind = .load 5 2 true) ∧
    (let r : RemAcc := { (default : RemAcc) with req := 4, seq := 6, dpkg := 1, kind := .store }
     let s := onCx (served []) (fun c => { c with rem := [r] })
     let p := pk 0x11 (.ack 6 6 none 0)
     s.Reaches p ∧ s.rems = [r] ∧ (s.ctx c0).rem = [r] ∧ r.dpkg = p.spkg ∧ r.ddie = p.sdie ∧ r.ctr = none ∧ r.src.die = p.ddie ∧ r.src.core = p.dep ∧
       r.src.slot.toNat = p.aux.toNat % 16 ∧ seqLe r.seq 6 = true ∧ s.backlog = []) ∧
    (let x : Unacked := ⟨{ pk 0x20 (.copyData 1 0 0 false 0 0 [1]) with spkg := 0, dpkg := 1, seq := 6 }, 0, false, false, 0, 20000, none, none⟩
     let s := { served [] with unacked := [x] }
     let p := pk 0x30 (.ack 6 6 none 0)
     s.Reaches p ∧ ofSeries p x = true ∧ bulkType x.p.type = true ∧ x.p.seq = 6 ∧ (1 : Nat) ≠ 0 ∧ s.backlog = [] ∧ s.Reaches (pk 0x37 .none)) :=
  ⟨⟨reaches_of (by decide +kernel), by decide +kernel⟩, ⟨reaches_of (by decide +kernel), by decide +kernel⟩,
    reaches_of (by decide +kernel), by decide +kernel, by decide +kernel, rfl, by decide, rfl, reaches_of (by decide +kernel)⟩

/-- A block of 4,096 bytes. -/
def aBlock : List Byte := List.replicate 4096 0
theorem aBlock_length : aBlock.length = 4096 := List.length_replicate ..
/-- Block 1 of collective 3 of group 1, of this package's die 0. -/
def aBid : BitVec 48 := blockId 1 (BitVec.ofNat 20 0) 1
def awaiting : State := collecting (aColl 3 4)
theorem awaits_of {s : State} {die : BitVec 2} {bid : BitVec 48} {addr : Word} {cidx : BitVec 16}
    (h : ((s.die die).landed.isEmpty && decide (bidTag bid ∉ (s.die die).dead) && acceptsB s (s.landsAt die bid) cidx) = true) :
    s.AwaitsBlock die bid addr cidx := by
  simp only [Bool.and_eq_true, List.isEmpty_iff, decide_eq_true_eq] at h
  exact ⟨by simp [h.1.1], h.1.2, accepts_of h.2⟩
theorem witness_PacketEvents_blocks :
    let b := fun (t : BitVec 8) (slot : BitVec 16) => pk t (.block aBid 0 false false 0 slot 0 none aBlock)
    let far := { b 0x23 0 with dpkg := 2 }
    (far.dpkg ≠ (served []).pkg ∧ headerOk far = true ∧ far.hlv ≠ 3) ∧
    (awaiting.Admits (b 0x23 0) ∧ awaiting.poison = [] ∧ awaiting.fq = [] ∧ awaiting.streams = [] ∧ awaiting.AwaitsBlock 0 aBid 0x1000 0) ∧
    okWith (awaiting.placesOf { b 0x23 0 with addr := 0x1000 } (awaiting.protOf 0) 1 4096) (fun l => decide (l = [(0x1000, 4096)])) = true ∧
    (awaiting.Admits (b 0x36 2) ∧ awaiting.blockColl 0 aBid = some (aColl 3 4) ∧ (aColl 3 4).slot.setWidth 16 = (2 : BitVec 16) ∧ awaiting.firings = []) :=
  ⟨⟨by decide +kernel, by decide +kernel, by decide +kernel⟩, ⟨admits_of (by decide +kernel), rfl, rfl, rfl, awaits_of (by decide +kernel)⟩,
    by decide +kernel, admits_of (by decide +kernel), by decide +kernel, by decide +kernel, rfl⟩
theorem witness_PacketEvents_decodes :
    let c : Component := { (default : Component) with bid := aBid, hg := [3], daddr := 0x1000, len := 100 }
    let o : Component := { (default : Component) with bid := 77, dpkg := 2 }
    let e : SideInfo := ⟨77, 3, 0x6000, true, false, 0⟩
    let s := { awaiting with die0 := { DieSt.reset with side := [e] } }
    let p := pk 0x24 (.coded 8 [c, o] [0] aBlock)
    (p.spkg ≠ s.pkg ∧ headerOk p = true ∧ p.sag ≠ 8 ∧ s.shut = false ∧ s.poison = [] ∧ s.fq = [] ∧ s.streams = [] ∧ s.dirty = []) ∧
    (c.dpkg = s.pkg ∧ o.bid ≠ c.bid ∧ c.hg = [3] ∧ c.len ≤ 4096 ∧ s.decoding p.via < 64 ∧
      (s.rxGet (rxKey true p.spkg p.sdie p.score 9 (portDie p.via))).window = []) ∧
    (sideFind (s.die c.ddie).side o.bid = some e ∧ e.valid = true ∧ e.gen = 3) ∧ aBlock.length = 4096 ∧
    okWith (s.placesOf { p with addr := c.daddr } (s.protOf c.pctx) 1 c.len) (fun l => decide (l = [(0x1000, 100)])) = true ∧
    s.AwaitsBlock c.ddie c.bid c.daddr c.cidx :=
  ⟨⟨by decide +kernel, by decide +kernel, by decide +kernel, by decide +kernel, rfl, rfl, rfl, rfl⟩,
    ⟨by decide +kernel, by decide +kernel, rfl, by decide, by decide +kernel, by decide +kernel⟩,
    ⟨by decide +kernel, rfl, rfl⟩, aBlock_length, by decide +kernel, awaits_of (by decide +kernel)⟩

/-- Die 0 has sent a coded packet of two blocks, neither of which has been acknowledged. -/
def aCoded (strict : Bool) : Coded :=
  ⟨8, [{ (default : Component) with bid := 5, dpkg := 2, spkg := 1, strict := strict }, { (default : Component) with bid := 6, dpkg := 3, spkg := 1 }],
    [[1], [2]], [], 0, [], []⟩
def coding (x : Coded) (now : Word) : State := { served [] with time := now, die0 := { DieSt.reset with coded := [x] } }
theorem witness_PacketEvents_coded :
    (let x := aCoded false
     let s := coding x 2000000
     s.Admits (pk 0x31 (.dack 8 0)) ∧ s.Admits (pk 0x32 (.dack 8 0)) ∧ (s.die 0).coded.find? (fun x => x.cseq = 8) = some x ∧ 0 ∉ x.done ∧ 0 ∉ x.fell ∧
       0 < x.comps.length ∧ x.done.length + 1 < x.comps.length ∧ x.comps[0]?.any (fun c => !c.strict) = true ∧
       (aCoded true).comps[0]?.any (fun c => c.strict) = true ∧ x.blocks[0]? = some [1] ∧ 1000000 ≤ (s.time - x.at_).toNat) ∧
    ((served []).Admits (pk 0x33 (.bid (0x000000000005) 1 0)) ∧ (0x000000000005 : BitVec 48).extractLsb' 36 12 = (served []).pkg) ∧
    ((served []).Admits (pk 0x34 (.notice 1 0 5 2 7)) ∧ (served []).Admits (pk 0x35 (.notice 1 0 5 2 7)) ∧ (2 : Nat) ≤ 16384) :=
  ⟨⟨admits_of (by decide +kernel), admits_of (by decide +kernel), by decide +kernel⟩, ⟨admits_of (by decide +kernel), by decide +kernel⟩,
    admits_of (by decide +kernel), admits_of (by decide +kernel), by decide⟩

def blockTo (pkg : BitVec 12) (bid : BitVec 48) : Packet := { pk 0x23 (.block bid 0 false false 0 0 0 none aBlock) with dpkg := pkg }
theorem witness_PacketEvents_pair :
    let d := { DieSt.reset with egress := [(1, blockTo 2 5), (1, blockTo 3 6)], holdings := [⟨2, 0, 6, 0, 0⟩, ⟨3, 0, 5, 0, 0⟩] }
    let s := { served [] with die0 := d }
    d.egress.filter (fun e => e.1 = 1) = [(1, blockTo 2 5), (1, blockTo 3 6)] ∧ (5 : BitVec 48) ≠ 6 ∧ (blockTo 2 5).sag ≠ 7 ∧ (blockTo 3 6).sag ≠ 7 ∧
    (viewGen (s.view 0) (blockTo 2 5).dpkg (blockTo 2 5).ddie 6).isSome = true ∧ (viewGen (s.view 0) (blockTo 3 6).dpkg (blockTo 3 6).ddie 5).isSome = true ∧
    d.coded = [] ∧ aBlock.length = 4096 :=
  ⟨rfl, by decide, by decide +kernel, by decide +kernel, by decide +kernel, by decide +kernel, rfl, aBlock_length⟩

theorem witness_PacketEvents_resends :
    let who : Sent := ⟨4, 0, 0, 0, 0⟩
    let x : Unacked := ⟨{ pk 6 (.bytes [1]) with spkg := 0, dpkg := 1 }, 0, false, false, 0, 20000, some who, none⟩
    (let s := { st [] with time := 6000000, unacked := [x] }
     let us := s.unacked.filter (fun u => u.p.sdie = 0 && u.p.score = 0 && u.p.sag = 0 && u.p.dpkg = 1 && u.p.ddie = 0)
     (∀ u ∈ us, u.acc = false ∧ bulkType u.p.type = false) ∧ (∃ u ∈ us, u.gap ≤ (s.time - u.since).toNat)) ∧
    (let r : Running := ⟨{ (default : Inv) with id := 4 }, 0, 0, false, 0⟩
     let s := { onCx (st []) (fun c => { c with run := some r }) with time := 6000000, unacked := [x] }
     s.unacked = [x] ∧ s.backlog = [] ∧ x.p.payload = .bytes [1] ∧ x.p.type = 6 ∧ x.acc = false ∧ x.held = none ∧ 5000000 ≤ (s.time - x.at_).toNat ∧
       x.who = some who ∧ (s.ctx c0).status ≠ .free ∧ (s.ctx c0).gidx = who.lane ∧ (s.ctx c0).run = some r ∧ r.i.id = who.inv ∧ s.regs.hqlen = 0) ∧
    (let p := pk 6 (.bytes [1])
     let on := { st [] with rx := [(rxKeyOf p, { RxSeries.blank with heldSeq := [3] })] }
     ((st []).rxGet (rxKeyOf p)).holding = none ∧ ((st []).rxGet (rxKeyOf p)).heldSeq = [] ∧ (on.rxGet (rxKeyOf p)).heldSeq ≠ []) ∧
    (let s := { st [] with time := 20000000, rx := [(rxKey false 1 0 0 0 0, { RxSeries.blank with window := [(0, none)] })] }
     (s.rxGet (rxKey false 1 0 0 0 0)).heldSeq = [] ∧ 10000000 ≤ (s.time - (s.rxGet (rxKey false 1 0 0 0 0)).last).toNat) := by decide +kernel

/-! ### Devices -/

def linked (x : Link) : State := { st [] with links := [(3, x)] }
def aLink : Link := { Link.blank with up := true }
theorem witness_DeviceEvents_links :
    (let f : Flit := { (default : Flit) with data := 5, crc := flitCrc { (default : Flit) with data := 5 } }
     let s := linked aLink
     (s.link 3).up = true ∧ f.crc = flitCrc f ∧ f.lseq = (s.link 3).rxSeq ∧ (default : Flit).crc ≠ flitCrc (default : Flit)) ∧
    15 ≤ ((linked { aLink with replays := List.replicate 15 0 }).link 3).replays.length ∧
    (((linked { aLink with replays := List.replicate 15 0 }).link 3).replays.filter (fun t => decide (((st []).time - t).toNat < 1000000))).length = 15 ∧
    ((st []).flash.keys ≠ none ∧ (st []).flash.repairs.length < 2048) := by decide +kernel

theorem witness_DeviceEvents_registers :
    (shooting.die 0).tcb.go = true ∧ ((st []).die 0).tcb.go = false := by decide +kernel

def aPort : Port := { Port.reset with en := true, link := true, rxbase := 0x9000, rxlen := 8, txbase := 0xA000, txlen := 8, txprod := 1 }
def ported (p : Port) : State := { served [(0xA000, 60)] with ports := Vector.replicate 4 p }
def aFrame (ok : Bool) : Frame := ⟨[1, 2, 3], ok, 0, .other⟩
theorem witness_DeviceEvents_ethernet :
    (let s := ported aPort
     (s.port 0).en = true ∧ (aFrame false).fcsOk = false ∧ (aFrame true).fcsOk = true ∧ (aFrame true).kind = .other ∧ (aFrame true).bytes.length ≤ 1984 ∧
       ringLen (s.port 0).rxlen.toNat 32768 = true ∧ ((s.port 0).rxprod - (s.port 0).rxcons).toNat < (s.port 0).rxlen.toNat ∧ s.fq = [] ∧ s.streams = [] ∧
       (s.port 0).rxctr = 0 ∧ gpaPkg 0x9000 = s.pkg) ∧
    (let s := ported { aPort with rxprod := 8 }; (s.port 0).rxlen.toNat ≤ ((s.port 0).rxprod - (s.port 0).rxcons).toNat) ∧
    (let p := (ported aPort).port 0
     p.link = true ∧ ringLen p.txlen.toNat 32768 = true ∧ p.txdone.toNat < p.txprod.toNat ∧ p.txBuf = none ∧ gpaPkg 0xA000 = (ported aPort).pkg ∧ p.txctr = 0) := by
  decide +kernel

/-- Stream 1 has its descriptor at 0x7080: the frames of 4 × 8 pixels at 0x9000, or a ring of 8 entries there. -/
def streaming (w0 : Byte) (width : Byte) (xs : List Stream) : State :=
  let s := served [(0, 1), (20, 16), (0x7080, w0), (0x7090, width), (0x7092, 8), (0x7094, 128), (0x7098, 2), (0x70A1, 0x90), (0x70A9, 0x10), (0x70B8, 7)]
  { s with time := 3000000, regs := { s.regs with stab := 0x7000 }, streams := xs }
def aFrameSt : FrameSt := ⟨0, 5, 0, 0, [], 0, 0, none⟩
def aStream (f : Option FrameSt) : Stream := ⟨1, f, [], none, [], []⟩
theorem witness_DeviceEvents_streams :
    (let s := streaming 1 4 []; (s.desc 1).en = true ∧ s.streamOf 1 = none ∧ s.descErr (s.desc 1) = 0) ∧
    (let s := streaming 1 3 []; (s.desc 1).en = true ∧ s.streamOf 1 = none ∧ s.descErr (s.desc 1) ≠ 0) ∧
    (let s := streaming 0 4 [aStream none]; (s.desc 1).en = false ∧ s.streamOf 1 = some (aStream none)) ∧
    (let f := { aFrameSt with closeAt := some 2000000 }
     let s := streaming 1 4 [aStream (some f)]
     s.streamOf 1 = some (aStream (some f)) ∧ (s.desc 1).tmo = 0 ∧ 2000000 ≤ (s.time - f.lastAt).toNat ∧ (2000000 : Word).toNat ≤ s.time.toNat) := by decide +kernel
theorem witness_DeviceEvents_packets :
    (let r : Srd := ⟨0, 0, false, [1, 2, 3, 4]⟩
     let p : MediaPkt := { (default : MediaPkt) with rtpTs := 5, srds := [r] }
     let x := aStream (some aFrameSt)
     let s := streaming 1 4 [x]
     let d := s.desc 1
     let prot := s.protOf d.ctx
     let va : Word := BitVec.ofNat 64 (d.fbase.toNat + aFrameSt.n.toNat % d.nfb * d.fstride.toNat + r.row.toNat * d.lstride + r.off.toNat / d.ppg * d.pgsize)
     s.matching p = some x ∧ d.kind = 0 ∧ d.packetOk p = true ∧ x.dup d p = false ∧ x.skip ≠ some p.rtpTs ∧ aFrameSt.rtpTs = p.rtpTs ∧ aFrameSt.closeAt = none ∧
       p.marker = false ∧ d.lctr = 0 ∧ s.fq = [] ∧ rangePieces va r.bytes.length = [(va, r.bytes.length)] ∧
       okWith (engPlace s prot true 1 va) (fun pl => decide (pl = .hbm 0x9000)) = true ∧ s.markUsed prot va true = s ∧
       (∀ k, k < r.bytes.length → ∀ j, j < 8 → (0x9000 + k) / 256 ≠ (s.descAt x.idx + 96 + j) / 256)) ∧
    (let p : MediaPkt := { (default : MediaPkt) with bytes := [1, 2] }
     let x := aStream none
     let s := streaming 3 4 [x]
     let d := s.desc 1
     let prot := s.protOf d.ctx
     let va : Word := BitVec.ofNat 64 (d.fbase.toNat + d.fclosed.toNat % d.height * d.lstride)
     s.matching p = some x ∧ d.kind ≠ 0 ∧ x.dup d p = false ∧ (d.fclosed - d.fcons).toNat < d.height ∧ d.path p = some 0 ∧ s.descErr d = 0 ∧ d.fctr = 7 ∧
       rangePieces va 66 = [(va, 66)] ∧ okWith (engPlace s prot true 1 va) (fun pl => decide (pl = .hbm 0x9000)) = true ∧ s.markUsed prot va true = s ∧
       (∀ k, k < 66 → ∀ j, j < 16 → (0x9000 + k) / 256 ≠ (s.descAt x.idx + 88 + j) / 256)) := by decide +kernel

/-- A core of die 0 with its registers, and the core under test there. -/
def scanned (k : CoreSt) (c : Option (BitVec 8)) : State :=
  { st [] with time := 20000000, cores := [k], die0 := { DieSt.reset with scanning := c } }
theorem witness_DeviceEvents_scans :
    (let s := st []
     (∀ r ∈ s.invs, r.drained = false) ∧ (∀ k, k < 192 → (s.core ⟨0, BitVec.ofNat 8 k⟩).wantScan = false) ∧ (s.die 0).scanSlot < 192 ∧
       (s.core ⟨0, BitVec.ofNat 8 (s.die 0).scanSlot⟩).retired = false ∧ (s.die 0).scanning = none) ∧
    (let s := scanned (CoreSt.blank ⟨0, 0⟩) (some 0)
     (s.die 0).scanning = some 0 ∧ s.vacant ⟨0, 0⟩ = false ∧ 10000 ≤ (s.time - (s.die 0).slotAt).toNat ∧
       (s.core ⟨0, 0⟩).retired = false ∧ (s.core ⟨0, 0⟩).late = false ∧ 10000000 < (s.time - (s.core ⟨0, 0⟩).scanned).toNat) ∧
    (let s := scanned { CoreSt.blank ⟨0, 5⟩ with unconf := [phAway] } (some 5)
     s.underTest ⟨0, 5⟩ = true ∧ (s.core ⟨0, 5⟩).ran = [] ∧ (s.core ⟨0, 5⟩).unconf = [phAway] ∧ phAway ≠ 0 ∧ nmPkg phAway ≠ s.pkg) := by decide +kernel

theorem witness_DeviceEvents_errors :
    (((st []).die 0).rowFix = [] ∧ (st []).regs.hqbase = 0) ∧
    (let s := { st [] with die0 := { DieSt.reset with rowFix := [(Config.hbmRow 0x5000, 0), (Config.hbmRow 0x5000, 0), (Config.hbmRow 0x5000, 0)] } }
     s.flash.keys ≠ none ∧ s.flash.repairs.length < 2048 ∧ ∀ t ∈ [(0 : Word), 0, 0], (s.time - t).toNat < 86400000000000) := by
  refine ⟨⟨rfl, rfl⟩, by simp [st, State.reset, Flash.reset], by simp [st, State.reset, Flash.reset], ?_⟩
  intro t ht
  simp only [List.mem_cons, List.not_mem_nil, or_false, or_self] at ht
  subst ht
  simp [st, State.reset]

theorem witness_DeviceEvents_starts :
    (let s := st []
     let t : StartTests := ⟨true, none, true, true, [], [], [], none⟩
     s.flash.keys = some [(0, [])] ∧ t.alarm = none ∧ t.badWays = [] ∧ t.badCores = [] ∧ t.deadLinks = [] ∧ t.badTag = none ∧ s.flash.repairs = [] ∧ s.flash.record.repairs = [] ∧
       s.regs.state ≠ 3 ∧ s.dirty = [] ∧ ∀ d, (s.die d).mig = none) ∧
    (let s : State := { st [] with flash := { Flash.reset with record := { Flash.reset.record with policy := 2 } } }
     let t : StartTests := ⟨true, none, true, true, [], [], [], some (1, 0, 0)⟩
     t.alarm = some (1, 0, 0) ∧ s.flash.record.policy.toNat / 4 ^ (0 : BitVec 2).toNat % 4 = 2) ∧
    ({ st [] with regs := { Regs.reset with state := 3 } } : State).regs.state = 3 ∧
    (let s := { st [] with regs := { Regs.reset with qgo := true, qaddr := 0x9000 } }
     s.regs.qgo = true ∧ s.tagged 1034 = false ∧ gpaPkg s.regs.qaddr = s.pkg ∧ s.fq = [] ∧ s.streams = []) := by decide +kernel

/-- R292: 32 BF16 elements 1.0 take 34 bytes: K is 0, B is 127 and each element leaves one byte 0. Exponents 0 and 255 would take 66 bytes, so that
chunk is raw; what was coded comes back. -/
theorem test_exponent_codec :
    let ones : List Byte := (List.range 32).flatMap (fun _ => [0x80, 0x3F])
    let wide : List Byte := (List.range 16).flatMap (fun _ => [0x01, 0x00, 0x82, 0xFF])
    encodeChunk 1 ones = 0 :: 127 :: List.replicate 32 0 ∧ (decodeChunk 1 64 (encodeChunk 1 ones)).1 = ones ∧ encodeChunk 1 wide = 15 :: wide ∧
    encodeChunk 2 [1, 2, 3] = [15, 1, 2, 3] := by decide +kernel
/-- R281: a header flit of an ACK from package 0x123, die 2, to package 0x456, die 1, is a whole packet; NDF 2 asks for two more flits. -/
theorem test_header_flit :
    let w : BitVec 512 := 0x11#512 ||| (1#512 <<< 8) ||| (0x456#512 <<< 24) ||| (1#512 <<< 36) ||| (0x123#512 <<< 48) ||| (2#512 <<< 60) ||| (9#512 <<< 80)
    let got := fun (v : BitVec 512) => { Link.blank with up := true, inq := [{ (default : Flit) with data := v, sop := true }] }.packet 0 13
    (got w).any (fun e => decide (e.1.type = 0x11 ∧ e.1.vch = 1 ∧ e.1.dpkg = 0x456 ∧ e.1.ddie = 1 ∧ e.1.spkg = 0x123 ∧ e.1.sdie = 2 ∧ e.1.seq = 9 ∧ e.2 = [])) = true ∧
    got (w ||| (2#512 <<< 16)) = none ∧ (got (w ||| (1#512 <<< 23))).any (fun e => e.1.type = 0) = true := by decide +kernel

/-! ### The decoder and the step -/

theorem witness_DecodeEncodeAgree :
    (Instr.add m0 4 2 (.reg 3) false).wf = true ∧ (encodeFields (Instr.add m0 4 2 (.reg 3) false)).isSome = true ∧
    okWith (decodeBytes [0x00, 0x02, 0x08, 0x61, 0, 0, 0, 0, 7]) (fun r => decide (r = (.add m0 4 2 (.reg 3) false, 8))) = true := by decide +kernel

/-- ADD g4, g2, g3 stands at the program counter. -/
def fetching : State := mm [(2, 5), (3, 6)] [(0x1001, 2), (0x1002, 8), (0x1003, 0x61)]
theorem witness_StepRunsDecodedInstruction :
    let s := fetching
    s.agenda = [] ∧ s.issues = true ∧ s.cx.pc.toNat % 4 = 0 ∧ s.poison = [] ∧
    (match (s.xlate s.cx.id.coreId s.cx.pctx s.cx.prot.keyslot (!s.cx.priv) false 2 s.cx.pc).1 with | .ok pl _ => decide (pl = .hbm 0x1000) | _ => false) = true ∧
    okWith (decodeBytes (s.bytes s.cx.prot.keyslot 0x1000 (min 16 (32 - s.cx.pc.toNat % 32)))) (fun r => decide (r = (.add m0 4 2 (.reg 3) false, 8))) = true ∧
    supervisorOnly (s.bytes s.cx.prot.keyslot 0x1000 (min 16 (32 - s.cx.pc.toNat % 32))) = false := by decide +kernel
/-- R62: the step fetches it and runs it. -/
theorem test_step : (match step fetching with | .next t => decide (t.cx.g[4] = 11 ∧ t.cx.pc = 0x1008) | _ => false) = true := by decide +kernel
end Sys2Proof.Tests
end

section
/-! ## Integer division (R23) -/

namespace Sys2Proof.Machine

theorem eq_zero_iff_toNat {n : Nat} (y : BitVec n) : y = 0 ↔ y.toNat = 0 := by simp [← BitVec.toNat_inj]

theorem allOnes_eq_ofInt_neg_one (n : Nat) : BitVec.allOnes n = BitVec.ofInt n (-1) := by
  rw [← BitVec.neg_one_eq_allOnes, BitVec.ofInt_neg]; rfl

theorem allOnes_eq_ofNat (n : Nat) : BitVec.allOnes n = BitVec.ofNat n (2 ^ n - 1) :=
  BitVec.eq_of_toNat_eq (by simp)

theorem divS_spec {n : Nat} (x y : BitVec n) :
    divS x y = if y.toNat = 0 then BitVec.ofInt n (-1) else BitVec.ofInt n (x.toInt.tdiv y.toInt) := by
  simp only [divS, eq_zero_iff_toNat, allOnes_eq_ofInt_neg_one]

theorem divU_spec {n : Nat} (x y : BitVec n) :
    divU x y = if y.toNat = 0 then BitVec.ofNat n (2 ^ n - 1) else BitVec.ofNat n (x.toNat / y.toNat) := by
  have hd : x.udiv y = BitVec.ofNat n (x.toNat / y.toNat) := BitVec.eq_of_toNat_eq (by simp [← BitVec.toNat_udiv])
  simp only [divU, eq_zero_iff_toNat, allOnes_eq_ofNat, hd]

theorem remS_spec {n : Nat} (x y : BitVec n) :
    remS x y = if y.toNat = 0 then x else BitVec.ofInt n (x.toInt.tmod y.toInt) := by
  simp only [remS, eq_zero_iff_toNat]

theorem remU_spec {n : Nat} (x y : BitVec n) :
    remU x y = if y.toNat = 0 then x else BitVec.ofNat n (x.toNat % y.toNat) := by
  have hm : x.umod y = BitVec.ofNat n (x.toNat % y.toNat) := BitVec.eq_of_toNat_eq (by simp [← BitVec.toNat_umod])
  simp only [remU, eq_zero_iff_toNat, hm]

/-- A V-class instruction with two integer sources owes the result of its table row, where the model's functions on 32 and on 64
bits are those of the row (R73). -/
theorem alu2v_falls {i : Instr} {s : State} {o : IntOp} {f32 : BitVec 32 → BitVec 32 → BitVec 32} {f64 : Word → Word → Word}
    (hi : exec i s = alu2v o.m o.gd o.ga o.y (byW o.w f32 f64) s) (h32 : ∀ x y, f32 x y = o.r 32 x y)
    (h64 : ∀ x y, f64 x y = o.r 64 x y) (h : s.Executes o.m .plain) :
    Falls i s o.y.len o.m.sw (s.Owes (gRes o.gd (o.result s))) := by
  have hv : byW o.w f32 f64 (s.g o.ga) (s.src o.y) = o.result s := by simp only [byW, IntOp.result, h32, h64]
  exact falls_plain hi h rfl (hv ▸ laterG_owes s o.gd _)

/-- Settles O2: each of the four divisions is V-class and has the result of R23, also for the divisor 0. -/
theorem integerDivision : Obligations.IntegerDivision := by
  intro i o s hi h
  unfold divOps at hi
  split at hi
  case h_1 => cases hi; exact alu2v_falls rfl divS_spec divS_spec h
  case h_2 => cases hi; exact alu2v_falls rfl divU_spec divU_spec h
  case h_3 => cases hi; exact alu2v_falls rfl remS_spec remS_spec h
  case h_4 => cases hi; exact alu2v_falls rfl remU_spec remU_spec h
  case h_5 => cases hi

end Sys2Proof.Machine
end

section
/-! ## Scalar floating point (R103 to R106) -/

namespace Sys2Proof.Machine

/-- A claim about 4-bit codes holds if it holds of the sixteen codes. -/
theorem forall_code4 {P : BitVec 4 → Prop} (h : ∀ n < 16, P (BitVec.ofNat 4 n)) (c : BitVec 4) : P c := by
  simpa using h c.toNat c.isLt

/-- R104: the model's condition of FCMP is that of the table. -/
theorem f32Cond_iff (cond : BitVec 4) (a b : BitVec 32) : f32Cond cond a b = true ↔ fcmpHolds a b cond.toNat := by
  unfold f32Cond fcmpHolds
  generalize fv32 a = x
  generalize fv32 b = y
  by_cases hn : x.isNan = true ∨ y.isNan = true
  · have hn' : (x.isNan || y.isNan) = true := by simpa using hn
    simp [hn, hn', ← BitVec.toNat_inj]
  · have hn' : (x.isNan || y.isNan) = false := by simpa using hn
    simp only [hn, hn', if_false]
    revert cond
    refine forall_code4 (fun n hlt => ?_)
    interval_cases n <;> simp

/-- R100, R145: the model's conditions 0 to 9 on n bits are those of the table. -/
theorem cmpCond_iff {n : Nat} (cond : BitVec 4) (x y : BitVec n) : cmpCond cond x y = true ↔ cmpHolds x y cond.toNat := by
  unfold cmpCond
  revert cond
  refine forall_code4 (fun k hlt => ?_)
  interval_cases k <;> simp [cmpHolds, BitVec.slt, BitVec.sle, BitVec.ult, BitVec.ule]

/-- A V-class instruction whose body owes the FP32 result of its table row, with bits [63:32] zero. -/
theorem float_falls {i : Instr} {s : State} {o : FOp}
    (hi : exec i s = issue o.m 8 .plain s (fun s => .fall (s.laterG o.gd ((o.v s).setWidth 64)))) (h : s.Executes o.m .plain) :
    Falls i s 8 o.m.sw (s.Owes (gRes o.gd (BitVec.ofNat 64 (o.v s).toNat))) :=
  falls_plain hi h rfl (BitVec.ofNat_toNat 64 (o.v s) ▸ laterG_owes s o.gd _)

theorem floatOps_falls {i : Instr} {o : FOp} {s : State} (hi : floatOps i = some o) (h : s.Executes o.m .plain) :
    Falls i s 8 o.m.sw (s.Owes (gRes o.gd (BitVec.ofNat 64 (o.v s).toNat))) := by
  unfold floatOps at hi
  split at hi <;> cases hi <;> exact float_falls rfl h

theorem fcmp_falls {s : State} {m : Mods} (h : s.Executes m .plain) (qd : QReg) (ga gb : GReg) (cond : BitVec 4) :
    Falls (.fcmp m qd ga gb cond) s 8 m.sw (s.Owes (qRes qd (f32Cond cond (s.f ga) (s.f gb)))) :=
  falls_plain rfl h rfl (laterQ_owes s qd _)

/-! ### Conversions -/

/-- R106: SR is the mode of a conversion exactly where the code in effect is SR and both formats are floating-point. -/
theorem cvtCode_eq_four_iff (rm rmode : BitVec 3) (df sf : BitVec 4) :
    cvtCode rm rmode df sf = 4 ↔ (if rm = 7 then rmode else rm) = 4 ∧ ¬(fmtInt df = true ∨ fmtInt sf = true) := by
  unfold cvtCode
  rw [dynCode]
  generalize (if rm = 7 then rmode else rm) = c
  by_cases hc : c = 4#3 <;> by_cases hi : fmtInt df = true ∨ fmtInt sf = true <;> simp [hc, hi]

/-- R18: a code of SR that is not accepted rounds as its plain mode, RNE. -/
theorem plainMode_cvtCode (rm rmode : BitVec 3) (df sf : BitVec 4) :
    plainMode (cvtCode rm rmode df sf) = plainMode (if rm = 7 then rmode else rm) := by
  unfold cvtCode
  rw [dynCode]
  generalize (if rm = 7 then rmode else rm) = c
  by_cases hc : c = 4#3
  · subst hc; simp only; split <;> rfl
  · simp [hc]

/-- R34: a conversion under SR takes one step of the generator, and its new word rounds. -/
theorem fcvt_falls_sr {s : State} {m : Mods} (h : s.Executes m .plain) (gd ga : GReg) {rm : BitVec 3} {df sf : BitVec 4} (ov : BitVec 2)
    (hc : cvtCode rm s.cx.rmode df sf = 4) :
    Falls (.fcvt m gd ga rm df sf ov) s 8 m.sw (fun u =>
      u = { s with cx := { s.cx with
        gen := genStep s.cx.gen
        pend := s.cx.pend ++ gRes gd (convert df sf ov (.sr (genStep s.cx.gen)) (s.g ga)) } }) := by
  refine falls_plain (u := ({ s with cx := { s.cx with gen := genStep s.cx.gen } } : State).laterG gd
    (convert df sf ov (.sr (genStep s.cx.gen)) (s.g ga))) rfl h ?_ (laterG_owes _ gd _)
  simp only [hc, if_true, cvtMode]

/-- R105, R106: in every other mode the converted bits are owed, and nothing else changes. -/
theorem fcvt_falls_plain {s : State} {m : Mods} (h : s.Executes m .plain) (gd ga : GReg) {rm : BitVec 3} {df sf : BitVec 4} (ov : BitVec 2)
    (hc : cvtCode rm s.cx.rmode df sf ≠ 4) :
    Falls (.fcvt m gd ga rm df sf ov) s 8 m.sw
      (s.Owes (gRes gd (convert df sf ov (plainMode (if rm = 7 then s.cx.rmode else rm)) (s.g ga)))) := by
  refine falls_plain rfl h ?_ (laterG_owes s gd _)
  simp only [hc, if_false, cvtMode, plainMode_cvtCode]

/-- Settles O5: the FP32 instructions by their table, FCMP by its condition, FCVT by whether SR is the mode in effect. -/
theorem floatingPointScalar : Obligations.FloatingPointScalar := by
  refine ⟨⟨fun i o s hi h => floatOps_falls hi h, fun m qd ga gb cond s h =>
    ⟨_, f32Cond_iff cond _ _, fcmp_falls h qd ga gb cond⟩⟩, fun m gd ga rm df sf ov s h => ?_⟩
  intro code integer
  have hsr : cvtCode rm s.cx.rmode df sf = 4 ↔ code = 4 ∧ ¬ integer := cvtCode_eq_four_iff rm s.cx.rmode df sf
  split
  · next hc => exact fcvt_falls_sr h gd ga ov (hsr.mpr hc)
  · next hc => exact fcvt_falls_plain h gd ga ov (fun e => hc (hsr.mp e))

end Sys2Proof.Machine
end

section
/-! ## Special registers (R40 to R42, R115, R371) -/

namespace Sys2Proof.Machine

/-- A concatenation as a sum of its parts. -/
theorem toNat_append_add {m n : Nat} (x : BitVec m) (y : BitVec n) : (x ++ y).toNat = x.toNat * 2 ^ n + y.toNat := by
  rw [BitVec.toNat_append, ← Nat.shiftLeft_add_eq_or_of_lt y.isLt, Nat.shiftLeft_eq]

theorem boolBit_toNat (b : Bool) : (boolBit b).toNat = b.toNat := by cases b <;> rfl

theorem bit_eq_ofNat (b : Bool) : bit b = BitVec.ofNat 64 b.toNat := by cases b <;> rfl

/-- R42: the layout of COREID. -/
theorem coreIdWord_eq (s : State) :
    s.coreIdWord = BitVec.ofNat 64 (s.cx.id.core.toNat + s.cx.id.die.toNat * 2 ^ 8 + s.pkg.toNat * 2 ^ 10) := by
  apply BitVec.eq_of_toNat_eq
  simp only [State.coreIdWord, toNat_append_add, BitVec.toNat_ofNat]
  omega

/-- R42: the layout of GIDX, which has a size only with a gang. -/
theorem gidxWord_eq (c : Ctx) :
    c.gidxWord = BitVec.ofNat 64 (c.gidx.toNat + (match c.gang with | some g => g.size.toNat | none => 0) * 2 ^ 3) := by
  have layout (size : BitVec 2) : (0#59 ++ size ++ c.gidx : Word) = BitVec.ofNat 64 (c.gidx.toNat + size.toNat * 2 ^ 3) := by
    apply BitVec.eq_of_toNat_eq
    simp only [toNat_append_add, BitVec.toNat_ofNat]
    omega
  unfold Ctx.gidxWord
  cases c.gang with
  | none => exact layout 0
  | some g => exact layout g.size

/-- R42: the layout of STATUS. -/
theorem statusWord_eq (c : Ctx) :
    c.statusWord = BitVec.ofNat 64 (c.priv.toNat + c.inGang.toNat * 2 + c.rep.act.toNat * 4 + c.rep.pos.toNat * 2 ^ 3 +
      c.rep.off.toNat * 2 ^ 6 + c.late.toNat * 2 ^ 9 + c.alog.toNat * 2 ^ 10) := by
  apply BitVec.eq_of_toNat_eq
  have := c.priv.toNat_le; have := c.inGang.toNat_le; have := c.rep.act.toNat_le; have := c.late.toNat_le; have := c.alog.toNat_le
  simp only [Ctx.statusWord, toNat_append_add, boolBit_toNat, BitVec.toNat_ofNat]
  omega

/-- R371: the layout of SSTAT. -/
theorem superStatusWord_eq (c : Ctx) :
    (0#32 ++ c.snum ++ 0#15 ++ boolBit c.spriv : Word) = BitVec.ofNat 64 (c.spriv.toNat + c.snum.toNat * 2 ^ 16) := by
  apply BitVec.eq_of_toNat_eq
  have := c.spriv.toNat_le
  simp only [toNat_append_add, boolBit_toNat, BitVec.toNat_ofNat]
  omega

theorem eq_ofNat_of_toNat {w : Nat} {n : BitVec w} {k : Nat} (h : n.toNat = k) : n = BitVec.ofNat w k := by
  subst h; simp

/-- R40, R371: the model reads every special register by its layout, and no other number. -/
theorem spr_eq_sprWord (s : State) (n : BitVec 12) : s.spr n = sprWord s n.toNat := by
  unfold sprWord
  split
  case h_4 h => rw [eq_ofNat_of_toNat h]; exact congrArg some (gidxWord_eq s.cx)
  -- a number outside the table differs from every number that the model tests
  case h_32 => simp_all [State.spr, ← BitVec.toNat_inj]
  all_goals
    rename_i h
    rw [eq_ofNat_of_toNat h]
    simp [State.spr, coreIdWord_eq, statusWord_eq, superStatusWord_eq, bit_eq_ofNat, BitVec.ofNat_toNat]

/-- R75 step 11: the check of a number that the level of the context admits. -/
theorem sprCheck_admitted {s : State} {n : BitVec 12} (hp : s.cx.priv = true ∨ n.toNat < 0x800) (write : Bool) :
    s.sprCheck n write =
      if (sprWord s n.toNat).isNone || (write && !sprWritable n) then some ⟨1, 9, 0, false, false, s.cx.priv, s.cx.pc⟩ else none := by
  have hlevel : (decide (0x800 ≤ n.toNat) && !s.cx.priv) = false := by
    rcases hp with hp | hp
    · simp [hp]
    · simp [Nat.not_le.mpr hp]
  simp only [State.sprCheck, hlevel, Bool.false_eq_true, if_false, spr_eq_sprWord]
  rfl

/-- R17: the field RM of RMODE, in which the codes above SR become RNE. -/
theorem rmodeField_eq (v : Word) :
    (if v.toNat % 8 ≤ 4 then BitVec.ofNat 3 v.toNat else 0) = if fld v 0 3 ≤ 4 then fld v 0 3 else 0 := by
  have hf : fld v 0 3 = BitVec.ofNat 3 v.toNat := BitVec.eq_of_toNat_eq (by simp [fld])
  have hle : BitVec.ofNat 3 v.toNat ≤ 4 ↔ v.toNat % 8 ≤ 4 := by simp [BitVec.le_def]
  simp only [hf, hle]

/-- R40, R41, R371: MTS writes the registers of the table, and those only. -/
theorem sprPut_eq (s : State) (v : Word) (n : BitVec 12) :
    sprPut s.cx v n.toNat = if sprWritable n then some (s.setSpr n v).cx else none := by
  unfold sprPut
  split
  case h_4 h =>
    rw [eq_ofNat_of_toNat h, rmodeField_eq]
    rfl
  -- a number that MTS does not write differs from every number that the model lists as writable
  case h_10 => simp_all [sprWritable, ← BitVec.toNat_inj]
  all_goals
    rename_i h
    rw [eq_ofNat_of_toNat h]
    rfl

/-- Every register that MTS writes can be read. -/
theorem sprWord_ne_none_of_writable {s : State} {n : BitVec 12} (h : sprWritable n = true) : sprWord s n.toNat ≠ none := by
  simp only [sprWritable, Bool.or_eq_true, decide_eq_true_eq] at h
  rcases h with (((((((h | h) | h) | h) | h) | h) | h) | h) | h <;> subst h <;> exact Option.some_ne_none _

/-- An instruction that passes its checks executes as one without checks. -/
theorem checkedIssue_none {pre : Option FaultRec} (h : pre = none) (m : Mods) (len : Nat) (k : Kind) (s : State) (body : State → Done) :
    checkedIssue pre m len k s body = issue m len k s body := by subst h; rfl

/-- An instruction that a check stops raises its fault, whatever its guard (R66). -/
theorem raises_of_check {i : Instr} {s : State} {pre : Option FaultRec} {m : Mods} {len : Nat} {k : Kind} {body : State → Done} {f : FaultRec}
    (hi : exec i s = checkedIssue pre m len k s body) (h : pre = some f) : Raises i s f := by
  subst h; exact hi

/-- R115: MFS of a register that the table lists. -/
theorem mfs_falls {s : State} {m : Mods} {n : BitVec 12} {v : Word} (hp : s.cx.priv = true ∨ n.toNat < 0x800)
    (hv : sprWord s n.toNat = some v) (h : s.Executes m .plain) (gd : GReg) : Falls (.mfs m gd n) s 8 m.sw (s.SetsG gd v) := by
  have hc : s.sprCheck n false = none := by simp [sprCheck_admitted hp, hv]
  refine falls_plain (checkedIssue_none hc ..) h rfl ?_
  simpa [spr_eq_sprWord, hv] using setG_sets s gd v

/-- R115: MTS of a register that MTS writes. -/
theorem mts_falls {s : State} {m : Mods} {ga : GReg} {n : BitVec 12} {c : Ctx} (hp : s.cx.priv = true ∨ n.toNat < 0x800)
    (hv : sprPut s.cx (s.g ga) n.toNat = some c) (h : s.Executes m .plain) :
    Falls (.mts m ga n) s 8 m.sw (fun u => u = { s with cx := c }) := by
  rw [sprPut_eq] at hv
  by_cases hw : sprWritable n = true
  · have hc : s.sprCheck n true = none := by simp [sprCheck_admitted hp, hw, sprWord_ne_none_of_writable hw]
    rw [if_pos hw, Option.some.injEq] at hv
    exact falls_plain (checkedIssue_none hc ..) h rfl (hv ▸ rfl)
  · rw [if_neg hw] at hv
    cases hv

/-- Settles O12: reads and writes by the table of special registers; a number outside it is stopped by the check of R75 step 11. -/
theorem specialRegisters : Obligations.SpecialRegisters := by
  refine ⟨fun s m gd n hp => ⟨fun v hv h => mfs_falls hp hv h gd, fun hv => raises_of_check rfl ?_⟩,
    fun s m ga n hp => ⟨fun c hv h => mts_falls hp hv h, fun hv => raises_of_check rfl ?_⟩⟩
  · simp [sprCheck_admitted hp, hv]
  · have hw : sprWritable n = false := by simpa [sprPut_eq] using hv
    simp [sprCheck_admitted hp, hw]

end Sys2Proof.Machine
end

section
/-! ## Conversion, comparison, selection and reduction of lanes (R34, R144 to R147) -/

namespace Sys2Proof.Machine

/-- R33: the state after n calls of step(). -/
theorem genSteps_state (n : Nat) (g : Word) : (genSteps n g).2 = genStep^[n] g := by
  induction n generalizing g with
  | zero => rfl
  | succ n ih => exact ih (genStep g)

/-- R33: the words that n calls of step() return. -/
theorem genSteps_word {n l : Nat} (h : l < n) (g : Word) : (genSteps n g).1.getD l 0 = genStep^[l + 1] g := by
  induction n generalizing g l with
  | zero => omega
  | succ n ih =>
    cases l with
    | zero => rfl
    | succ l => exact ih (Nat.lt_of_succ_lt_succ h) (genStep g)

/-- R34, R144: what VCVT gives lane l, whose source bits are x: under SR each lane is rounded by a word of its own. -/
def vcvtLane (rm rmode : BitVec 3) (df sf : BitVec 4) (ov : BitVec 2) (gen : Word) (x : Lane) (l : Nat) : Lane :=
  (convert df sf ov (if cvtCode rm rmode df sf = 4 then .sr (genStep^[l + 1] gen) else plainMode (cvtCode rm rmode df sf))
    (x.setWidth 64)).setWidth 32

/-- R144: the effect of VCVT whose source is readable. -/
theorem vcvtBody_eq {s s1 : State} {sa : VSrc} {sf : BitVec 4} {v : Vector Lane 32} (hv : s.srcBy (rawLanes sf) sf sa = .ok (v, s1))
    (ad : AReg) (mc : MReg) (rm : BitVec 3) (df : BitVec 4) (ov : BitVec 2) :
    vcvtBody ad sa mc rm df sf ov s = .ok (.fall
      (({ s1 with cx := { s1.cx with gen := if cvtCode rm s.cx.rmode df sf = 4 then genStep^[32] s1.cx.gen else s1.cx.gen } } : State).laterA
        ad (s.m mc) (Vector.ofFn (fun l : Fin 32 => vcvtLane rm s.cx.rmode df sf ov s1.cx.gen v[l] l.val)))) := by
  have hword (l : Fin 32) : (genSteps 32 s1.cx.gen).1.getD l.val 0 = genStep^[l.val + 1] s1.cx.gen := genSteps_word l.isLt _
  unfold vcvtBody
  rw [hv]
  by_cases hc : cvtCode rm s.cx.rmode df sf = 4
  · simp only [hc, if_true, vcvtLane, ← hword, ← genSteps_state]
    rfl
  · simp only [hc, if_false, vcvtLane]
    rfl

theorem vcvt_falls {s s1 : State} {m : Mods} {sa : VSrc} {sf : BitVec 4} {v : Vector Lane 32} (h : s.Executes m .plain)
    (hv : s.srcBy (rawLanes sf) sf sa = .ok (v, s1)) (ad : AReg) (mc : MReg) (rm : BitVec 3) (df : BitVec 4) (ov : BitVec 2) :
    Falls (.vcvt m ad sa mc rm df sf ov) s 8 m.sw (fun u =>
      u = { s1 with cx := { s1.cx with
        gen := if cvtCode rm s.cx.rmode df sf = 4 then genStep^[32] s1.cx.gen else s1.cx.gen
        pend := s1.cx.pend ++ [.a (s1.cx.aNum ad) (s.m mc)
          (Vector.ofFn (fun l : Fin 32 => vcvtLane rm s.cx.rmode df sf ov s1.cx.gen v[l] l.val))] } }) :=
  falls_plain rfl h (congrArg Try.done (vcvtBody_eq hv ad mc rm df ov)) rfl

/-! ### Comparison and selection -/

/-- R131, R132: a float format is one of the codes 0 to 4. -/
theorem fmtFloat_iff (fmt : BitVec 4) : fmtFloat fmt = true ↔ fmt.toNat < 5 := by
  simp [fmtFloat, BitVec.le_def, Nat.lt_succ_iff]

/-- R145: the condition of a lane. -/
theorem laneCond_iff (fmt cond : BitVec 4) (x y : Lane) :
    laneCond fmt cond x y = true ↔ if fmt.toNat < 5 then fcmpHolds x y cond.toNat else cmpHolds x y cond.toNat := by
  unfold laneCond
  simp only [fmtFloat_iff]
  split
  · exact f32Cond_iff cond x y
  · exact cmpCond_iff cond x y

/-- R145: the mask that VCMP owes. -/
def vcmpMask (fmt cond : BitVec 4) (mask : BitVec 32) (v w : Vector Lane 32) : BitVec 32 :=
  BitVec.ofFnLE (fun l : Fin 32 => mask.getLsbD l.val && laneCond fmt cond v[l] w[l])

theorem vcmpMask_lane (fmt cond : BitVec 4) (mask : BitVec 32) (v w : Vector Lane 32) (l : Fin 32) :
    (vcmpMask fmt cond mask v w).getLsbD l.val = true ↔ mask.getLsbD l.val = true ∧
      (if fmt.toNat < 5 then fcmpHolds v[l] w[l] cond.toNat else cmpHolds v[l] w[l] cond.toNat) := by
  rw [vcmpMask, BitVec.getLsbD_ofFnLE, dif_pos l.isLt, Bool.and_eq_true, laneCond_iff]

theorem vcmp_falls {s s1 : State} {m : Mods} {sa sb : VSrc} {fmt : BitVec 4} {v w : Vector Lane 32} (h : s.Executes m .plain)
    (hv : s.src2 fmt sa sb = .ok (v, w, s1)) (md : MReg) (mc : MReg) (rm : BitVec 3) (cond : BitVec 4) :
    Falls (.vcmp m md sa sb mc fmt rm cond) s 8 m.sw (s1.Owes (mRes md (vcmpMask fmt cond (s.m mc) v w))) :=
  falls_plain rfl h (by rw [hv]; rfl) (laterM_owes s1 md _)

theorem vsel_falls {s s1 : State} {m : Mods} {sa sb : VSrc} {fmt : BitVec 4} {v w : Vector Lane 32} (h : s.Executes m .plain)
    (hv : s.src2 fmt sa sb = .ok (v, w, s1)) (ad : AReg) (mc : MReg) (rm : BitVec 3) :
    Falls (.vsel m ad sa sb mc fmt rm) s 8 m.sw (s1.Owes (s1.cx.aRes ad (BitVec.allOnes 32)
      (Vector.ofFn (fun l : Fin 32 => if (s.m mc).getLsbD l.val = true then v[l] else w[l])))) :=
  falls_plain rfl h (by rw [hv]; rfl) (laterA_owes s1 ad _ _)

/-! ### The reduction tree -/

/-- R147: one level on the list of the first 2n lanes leaves the first n lanes of the next level. -/
theorem redLevel_map (op : BitVec 4) (n : Nat) (f : Nat → Lane) :
    redLevel op ((List.range (n + n)).map f) = (List.range n).map (treeLevel (redOp op) n f) := by
  have hn : (n + n) / 2 = n := by omega
  apply List.ext_getElem
  · simp [redLevel, hn]
  · intro l h1 h2
    have hl : l < n := by simpa using h2
    simp [redLevel, treeLevel, hn, hl, Nat.add_comm]

/-- R147: the value of lane l as it enters the tree; a lane that is not active enters as the identity. -/
def redLane (op : BitVec 4) (mask : BitVec 32) (v : Vector Lane 32) (l : Nat) : Lane :=
  if h : l < 32 then (if mask.getLsbD l = true then v[l] else redUnit op) else 0

/-- R147: the model's tree on a list is the tree of the rule on its lanes. -/
theorem redTree_eq (op : BitVec 4) (mask : BitVec 32) (v : Vector Lane 32) :
    redTree op mask v = treeOf (redOp op) (redLane op mask v) := by
  have h0 : (List.finRange 32).map (fun l => if mask.getLsbD l.val then v[l] else redUnit op) =
      (List.range (16 + 16)).map (redLane op mask v) := by
    rw [← List.map_coe_finRange_eq_range, List.map_map]
    exact List.map_congr_left (fun l _ => by simp [redLane])
  unfold redTree
  simp only [h0]
  rw [redLevel_map op 16, redLevel_map op 8, redLevel_map op 4, redLevel_map op 2, redLevel_map op 1]
  rfl

/-- R147: which results are zero-extended and which sign-extended. -/
theorem redWord_eq (op : BitVec 4) (x : Lane) :
    redWord op x = if 6 ≤ op.toNat then BitVec.ofNat 64 x.toNat else BitVec.ofInt 64 x.toInt := by
  have hop : (6 ≤ op) = (6 ≤ op.toNat) := rfl
  simp only [redWord, hop, BitVec.ofNat_toNat]
  rfl

theorem vred_falls {s s1 : State} {m : Mods} {sa : VSrc} {fmt : BitVec 4} {v : Vector Lane 32} (h : s.Executes m .plain)
    (hv : s.src1 fmt sa = .ok (v, s1)) (gd : GReg) (mc : MReg) (rm : BitVec 3) (op : BitVec 4) :
    Falls (.vred m gd sa mc fmt rm op) s 8 m.sw (s1.Owes (gRes gd (redWord op (redTree op (s.m mc) v)))) :=
  falls_plain rfl h (by rw [hv]; rfl) (laterG_owes s1 gd _)

/-- Settles O26: each instruction by its lanes; VCVT by the generator words of its 32 lanes, VRED by the levels of its tree. -/
theorem convertCompareSelectReduce : Obligations.ConvertCompareSelectReduce := by
  refine ⟨fun s s1 m ad sa mc rm df sf ov v h hv => ?_, fun s s1 m md sa sb mc fmt rm cond v w h hv => ?_,
    fun s s1 m ad sa sb mc fmt rm v w h hv => vsel_falls h hv ad mc rm, fun s s1 m gd sa mc fmt rm op v h hv => ?_⟩
  · simpa only [vcvtLane, cvtCode_eq_four_iff, plainMode_cvtCode] using vcvt_falls h hv ad mc rm df ov
  · exact ⟨_, vcmpMask_lane fmt cond (s.m mc) v w, vcmp_falls h hv md mc rm cond⟩
  · have hr := vred_falls h hv gd mc rm op
    rw [redWord_eq, redTree_eq] at hr
    exact hr

end Sys2Proof.Machine
end

section
/-! ## Reset -/

namespace Sys2Proof.Machine

/-- At reset every context is without an invocation. -/
theorem reset_ctx (id : CtxId) : State.reset.ctx id = Ctx.blank id := by
  unfold State.ctx
  split
  · next h => exact congrArg Ctx.blank h
  · rfl

/-- At reset every die has the same empty tables. -/
theorem reset_die (d : BitVec 2) : State.reset.die d = DieSt.reset := by
  unfold State.die
  split <;> (try split) <;> (try split) <;> rfl

/-- R395: the translation control blocks read as 0. -/
theorem readTcb_reset (n : Nat) : readTcb Tcb.reset n = 0 := by
  unfold readTcb
  split <;> rfl

/-- R406: the registers of an Ethernet port read as 0. -/
theorem readPort_reset (n : Nat) : readPort Port.reset n = 0 := by
  unfold readPort
  split <;> rfl

theorem reset_haltedCtx (id : CtxId) : State.reset.haltedCtx id = none := by
  unfold State.haltedCtx
  rw [reset_ctx]
  rfl

theorem reset_haltCount (d : BitVec 2) : State.reset.haltCount d = 0 := by
  simp [State.haltCount, State.allCtxs, State.reset, Ctx.blank, Status.halted]

/-- R373: the debug pages read as 0, as no context is in debug halt. -/
theorem readDebug_reset (d : BitVec 2) (n : Nat) : readDebug State.reset d n = 0 := by
  simp only [readDebug, reset_die, reset_haltedCtx, reset_haltCount]
  split <;> rfl

/-- R403: a read of a device register is a function of its page and its doubleword. (`readReg` is unfolded as a function, not at its
address: there the kernel would evaluate `regPage`, and count down the literal that it subtracts.) -/
theorem readReg_by_page (s : State) (pa : Nat) :
    (∀ d, regPage pa = .tcb d → s.readReg pa = readTcb (s.die d).tcb (pa % 0x10000 / 8)) ∧
    (∀ e, regPage pa = .port e → s.readReg pa = readPort s.ports[e.toFin] (pa % 0x10000 / 8)) ∧
    (∀ d, regPage pa = .debug d → s.readReg pa = readDebug s d (pa % 0x10000 / 8)) := by
  obtain ⟨r, hr⟩ : ∃ r, r = State.readReg := ⟨_, rfl⟩
  rw [← hr]
  delta State.readReg at hr
  subst hr
  beta_reduce
  exact ⟨fun d h => by rw [h], fun e h => by rw [h], fun d h => by rw [h]⟩

/-- Every device register outside the control page reads as 0. -/
theorem reset_readReg {pa : Nat} (he : regExists pa = true) (hc : regPage pa ≠ .control) : State.reset.readReg pa = 0 := by
  obtain ⟨htcb, hport, hdebug⟩ := readReg_by_page State.reset pa
  cases hp : regPage pa with
  | tcb d =>
    rw [htcb d hp, reset_die]
    exact readTcb_reset _
  | control => exact absurd hp hc
  | port e =>
    have he : State.reset.ports[e.toFin] = Port.reset := by simp [State.reset]
    rw [hport e hp, he]
    exact readPort_reset _
  | debug d =>
    rw [hdebug d hp]
    exact readDebug_reset d _
  | reserved => simp [regExists, hp] at he

/-- R39, R43: the modes, tokens and pointers of a context without an invocation. -/
theorem blank_modes (id : CtxId) :
    let c := Ctx.blank id
    c.rmode = 0 ∧ c.atmode = false ∧ c.priv = false ∧ c.late = false ∧ c.alog = false ∧ c.rep.act = false ∧ c.fltinfo = 0 ∧
      ∀ r : Fin 8, c.p[r] = 0 ∧ c.t[r].st = .idle :=
  ⟨rfl, rfl, rfl, rfl, rfl, rfl, rfl, fun r => by simp [Ctx.blank]⟩

/-- Settles O59: the registers and tables by their reset values, the pages by what each of them reads. -/
theorem resetState : Obligations.ResetState := by
  refine ⟨memory_wf_reset, rfl, rfl, fun id => ?_, fun _ => reset_readReg, rfl, rfl, rfl, rfl, rfl, rfl, rfl, rfl, rfl, rfl, rfl, rfl,
    rfl, rfl, rfl, rfl, rfl, rfl, rfl, rfl, rfl, rfl, rfl, rfl, rfl, rfl, rfl, rfl, rfl, rfl, fun id => ?_, fun _ _ => rfl⟩
  · rw [reset_ctx]
    exact ⟨rfl, fun r => by simp [Ctx.blank]⟩
  · rw [reset_ctx]
    exact blank_modes id

end Sys2Proof.Machine
end

section
/-! ## The matrix engine at the head of its queue (R25, R156, R159, R160) -/

namespace Sys2Proof.Machine

/-! ### Contexts and cores read back -/

theorem ctxIn_putCtxIn (c : Ctx) (l : List Ctx) (id : CtxId) : ctxIn id (putCtxIn c l) = if c.id = id then c else ctxIn id l := by
  induction l with
  | nil => simp only [putCtxIn, ctxIn]
  | cons e l ih =>
    by_cases he : e.id = c.id
    · by_cases hc : c.id = id <;> simp [putCtxIn, ctxIn, he, hc]
    · by_cases hi : e.id = id
      · subst hi; simp [putCtxIn, ctxIn, he, Ne.symm he]
      · simp [putCtxIn, ctxIn, he, hi, ih]

/-- A context reads back as it was put; the others are as before. -/
theorem ctx_setCtx (s : State) (c : Ctx) (id : CtxId) : (s.setCtx c).ctx id = if c.id = id then c else s.ctx id := by
  unfold State.setCtx State.ctx
  by_cases hc : s.cx.id = c.id
  · by_cases hi : c.id = id
    · simp [hc, hi]
    · simp [hc, hi]
  · simp only [hc, if_false]
    rw [ctxIn_putCtxIn]
    by_cases hi : c.id = id
    · subst hi; simp [hc]
    · simp [hi]

theorem setCtx_core (s : State) (c : Ctx) (id : CoreId) : (s.setCtx c).core id = s.core id := by
  unfold State.setCtx
  split <;> rfl

theorem coreIn_id (id : CoreId) (l : List CoreSt) : (coreIn id l).id = id := by
  induction l with
  | nil => rfl
  | cons c l ih =>
    unfold coreIn
    split
    · next h => exact h
    · exact ih

theorem core_id (s : State) (id : CoreId) : (s.core id).id = id := coreIn_id id s.cores

theorem dropTiles_ctx (s : State) (id : CtxId) : s.dropTiles.ctx id = s.ctx id := by
  unfold State.dropTiles
  split <;> rfl

theorem dropTiles_core (s : State) (id : CoreId) : s.dropTiles.core id = s.core id := by
  unfold State.dropTiles
  split <;> rfl

/-! ### What a recall of leases leaves unchanged -/

/-- A state that differs only in what the dies hold and in which bytes are not written back. -/
def State.SameButDies (s u : State) : Prop :=
  u = { s with dirty := u.dirty, die0 := u.die0, die1 := u.die1, die2 := u.die2, die3 := u.die3 }

namespace State.SameButDies

variable {s u v : State}

theorem refl (s : State) : s.SameButDies s := rfl

theorem trans (h : s.SameButDies u) (k : u.SameButDies v) : s.SameButDies v := by
  unfold State.SameButDies at *
  rw [k, h]

theorem ctx (h : s.SameButDies u) (id : CtxId) : u.ctx id = s.ctx id := by rw [h]; rfl
theorem core (h : s.SameButDies u) (id : CoreId) : u.core id = s.core id := by rw [h]; rfl
theorem bytes (h : s.SameButDies u) (key : BitVec 8) (pa n : Nat) : u.bytes key pa n = s.bytes key pa n := by rw [h]; rfl

end State.SameButDies

theorem setDie_sameButDies (s : State) (d : BitVec 2) (x : DieSt) : s.SameButDies (s.setDie d x) := by
  unfold State.setDie
  split
  · rfl
  · split
    · rfl
    · split <;> rfl

theorem watch_sameButDies (s : State) (pa n : Nat) : s.SameButDies (s.watch pa n) := by
  unfold State.watch
  simp only
  split
  · exact .refl s
  · exact setDie_sameButDies s _ _

theorem watchAll_sameButDies (s : State) (pas : List Nat) : s.SameButDies (s.watchAll pas) :=
  List.foldlRecOn pas _ (.refl s) fun u hu pa _ => hu.trans (watch_sameButDies u pa 1)

theorem recallAll_sameButDies (s : State) (pa n : Nat) : s.SameButDies (s.recallAll pa n) :=
  (watchAll_sameButDies s _).trans rfl

theorem heldRecall_sameButDies (ps : List (Nat × Nat)) (va : Word) (n : Nat) (s : State) : s.SameButDies (heldRecall ps va n s) :=
  List.foldlRecOn _ _ (.refl s) fun u hu p _ => hu.trans (recallAll_sameButDies u p.2.1 p.2.2)

/-- R156: what an operation recalls before it reads. -/
theorem recalls_sameButDies (op : MxOp) (s : State) :
    s.SameButDies (op.reads.foldl (fun s r => heldRecall op.pages r.1 r.2 s) s) :=
  List.foldlRecOn _ _ (.refl s) fun u hu r _ => hu.trans (heldRecall_sameButDies op.pages r.1 r.2 u)

theorem heldBytes_congr {s u : State} (h : s.SameButDies u) (key : BitVec 8) (ps : List (Nat × Nat)) (va : Word) (n : Nat) :
    heldBytes u key ps va n = heldBytes s key ps va n := by
  simp only [heldBytes, h.bytes]

/-! ### Poison -/

theorem heldBad_of_no_poison {s : State} (h : s.poison = []) (ps : List (Nat × Nat)) (va : Word) (n : Nat) : heldBad s ps va n = none := by
  have hw (pa k : Nat) : s.badWord pa k = none := by simp [State.badWord, h, sortBy]
  simp [heldBad, hw]

/-! ### Elements of a tile (R155) -/

theorem tileKey_div {i j : Nat} (hi : i < 64) (hj : j < 64) (x : TileNo) : tileKey x i j / 4096 = x.toNat := by
  unfold tileKey
  omega

theorem tileKey_inj {i j k l : Nat} (hj : j < 64) (hl : l < 64) (x : TileNo) :
    tileKey x i j = tileKey x k l ↔ k = i ∧ l = j := by
  unfold tileKey
  omega

/-- An entry of a table survives a filter on keys where its key passes. -/
theorem tget_filter {α : Type} (d : α) (p : Nat → Bool) (t : Tbl α) (k : Nat) :
    tget d (t.filter (fun e => p e.1)) k = if p k = true then tget d t k else d := by
  induction t with
  | nil => simp [tget]
  | cons e t ih =>
    obtain ⟨a, w⟩ := e
    by_cases hp : p a = true
    · rw [List.filter_cons_of_pos (by exact hp)]
      by_cases ha : a = k
      · subst ha; simp [tget, hp]
      · simp [tget, ha, ih]
    · rw [List.filter_cons_of_neg (by exact hp), ih]
      by_cases ha : a = k
      · subst ha; simp [hp]
      · simp [tget, ha]

/-- R159: clearing a tile makes its elements 0 and keeps those of the others. -/
theorem clearTile_elem (c : Ctx) (x y : TileNo) {i j : Nat} (hi : i < 64) (hj : j < 64) :
    (c.clearTile x).elem y i j = if y = x then 0 else c.elem y i j := by
  have h := tget_filter (0 : Lane) (fun k => decide (k / 4096 ≠ x.toNat)) c.x (tileKey y i j)
  rw [tileKey_div hi hj] at h
  refine h.trans ?_
  by_cases hy : y = x
  · simp [hy]
  · simp [hy, BitVec.toNat_inj, Ctx.elem]

theorem contribute_x (c : Ctx) (x : TileNo) (i j : Nat) (vs : List FV) : (c.contribute x i j vs).x = c.x := by
  unfold Ctx.contribute
  simp only
  split <;> rfl

/-- One element after it has been set and its sums have been raised; the others are as before. -/
theorem setElem_contribute_elem (c : Ctx) (x : TileNo) (v : Lane) (vs : List FV) {i j k l : Nat} (hj : j < 64) (hl : l < 64) :
    ((c.setElem x i j v).contribute x i j vs).elem x k l = if k = i ∧ l = j then v else c.elem x k l := by
  unfold Ctx.elem
  rw [contribute_x, Ctx.setElem, tget_tset]
  simp only [tileKey_inj hj hl]

/-! ### The product (R160) -/

/-- A fold over numbered entries whose n-th step changes the n-th of N places by its entry, and no other place. -/
theorem foldl_numbered {α β γ : Type} {N : Nat} {step : β → α × Nat → β} (read : β → Nat → γ) (F : α → γ → γ)
    (hstep : ∀ b a n, n < N → ∀ k < N, read (step b (a, n)) k = if k = n then F a (read b k) else read b k)
    (l : List α) (hl : l.length ≤ N) (b : β) {k : Nat} (hk : k < N) :
    read ((l.zip (List.range l.length)).foldl step b) k = if h : k < l.length then F l[k] (read b k) else read b k := by
  induction l using List.reverseRecOn with
  | nil => rfl
  | append_singleton l a ih =>
    have hlen : l.length < N := by simpa using hl
    have hz : (l ++ [a]).zip (List.range (l ++ [a]).length) = l.zip (List.range l.length) ++ [(a, l.length)] := by
      rw [List.length_append, List.length_singleton, List.range_succ, List.zip_append List.length_range.symm]
      rfl
    rw [hz, List.foldl_append, List.foldl_cons, List.foldl_nil, hstep _ _ _ hlen k hk, ih hlen.le]
    rcases Nat.lt_trichotomy k l.length with h | h | h
    · have h' : k < (l ++ [a]).length := by simp; omega
      rw [if_neg h.ne, dif_pos h, dif_pos h', List.getElem_append_left h]
    · subst h; simp
    · have h' : ¬ k < (l ++ [a]).length := by simp; omega
      rw [if_neg h.ne', dif_neg (by omega), dif_neg h']

/-- R160: one element of a product: what row i of A, which is `a`, and column j of B, which is `bj.1`, add to it. -/
def Ctx.mulElem (c : Ctx) (x : TileNo) (a : List FV) (i : Nat) (bj : List FV × Nat) : Ctx :=
  (c.setElem x i bj.2 (mulAcc (c.elem x i bj.2) (List.zipWith fvMul a bj.1))).contribute x i bj.2 (List.zipWith fvMul a bj.1)
/-- R160: one row of a product. -/
def Ctx.mulRow (c : Ctx) (x : TileNo) (bs : Array (List FV)) (ai : List FV × Nat) : Ctx :=
  (bs.toList.zip (List.range bs.size)).foldl (fun c bj => c.mulElem x ai.1 ai.2 bj) c

theorem mxMul_eq_foldl (c : Ctx) (x : TileNo) (as : List (List FV)) (bs : Array (List FV)) :
    c.mxMul x as bs = (as.zip (List.range as.length)).foldl (fun c ai => c.mulRow x bs ai) c := rfl

/-- A column and a row of a tile, and what one element and one row of a product make of them. -/
def Ctx.tileCol (c : Ctx) (x : TileNo) (j : Nat) : Fin 64 → Lane := fun k => c.elem x k j
def Ctx.tileRow (c : Ctx) (x : TileNo) (i : Nat) : Fin 64 → Lane := fun l => c.elem x i l
def accCol (a : List FV) (i : Nat) (b : List FV) (col : Fin 64 → Lane) : Fin 64 → Lane :=
  fun k => if k.val = i then mulAcc (col k) (List.zipWith fvMul a b) else col k
def accRow (bs : Array (List FV)) (a : List FV) (row : Fin 64 → Lane) : Fin 64 → Lane :=
  fun l => if h : l.val < bs.size then mulAcc (row l) (List.zipWith fvMul a bs[l.val]) else row l

@[simp] theorem tileCol_apply (c : Ctx) (x : TileNo) (j : Nat) (k : Fin 64) : c.tileCol x j k = c.elem x k j := rfl
@[simp] theorem tileRow_apply (c : Ctx) (x : TileNo) (i : Nat) (l : Fin 64) : c.tileRow x i l = c.elem x i l := rfl

theorem mulElem_tileCol (c : Ctx) (x : TileNo) (a : List FV) (i : Nat) (b : List FV) {j l : Nat} (hj : j < 64) (hl : l < 64) :
    (c.mulElem x a i (b, j)).tileCol x l = if l = j then accCol a i b (c.tileCol x l) else c.tileCol x l := by
  funext k
  simp only [tileCol_apply, Ctx.mulElem, setElem_contribute_elem c x _ _ hj hl]
  by_cases hk : k.val = i <;> by_cases hlj : l = j <;> simp [hk, hlj, accCol]

theorem mulRow_tileRow (c : Ctx) (x : TileNo) {bs : Array (List FV)} (hb : bs.size ≤ 64) (a : List FV) {i k : Nat} (hk : k < 64) :
    (c.mulRow x bs (a, i)).tileRow x k = if k = i then accRow bs a (c.tileRow x k) else c.tileRow x k := by
  funext l
  have hcol := foldl_numbered (fun c => Ctx.tileCol c x) (accCol a i)
    (fun c b j hj l hl => mulElem_tileCol c x a i b hj hl) bs.toList (by simpa using hb) c l.isLt
  refine (congrFun hcol ⟨k, hk⟩).trans ?_
  by_cases hki : k = i <;> by_cases hlb : l.val < bs.size <;> simp [hki, hlb, accCol, accRow]

/-- R160: the elements that a product adds to, and those that it leaves as they were. -/
theorem mxMul_elem (c : Ctx) (x : TileNo) {as : List (List FV)} {bs : Array (List FV)} (ha : as.length ≤ 64) (hb : bs.size ≤ 64) {i j : Nat}
    (hi : i < 64) (hj : j < 64) : (c.mxMul x as bs).elem x i j =
      if h : i < as.length ∧ j < bs.size then mulAcc (c.elem x i j) (List.zipWith fvMul as[i] bs[j]) else c.elem x i j := by
  have hrow := foldl_numbered (fun c => Ctx.tileRow c x) (accRow bs)
    (fun c a i _ k hk => mulRow_tileRow c x hb a hk) as ha c hi
  rw [mxMul_eq_foldl]
  refine (congrFun hrow ⟨j, hj⟩).trans ?_
  by_cases hia : i < as.length <;> by_cases hjb : j < bs.size <;> simp [hia, hjb, accRow]

theorem colsOf_size {α : Type} (d : α) (n : Nat) (rows : List (List α)) : (colsOf d n rows).size = n := by simp [colsOf]

/-- The columns of B: the j-th lists the j-th values of the rows. -/
theorem colsOf_getElem {α : Type} (d : α) (n : Nat) (rows : List (List α)) {j : Nat} (h : j < (colsOf d n rows).size) :
    (colsOf d n rows)[j] = rows.map (fun r => r.getD j d) := by
  simp [colsOf]

/-! ### Completion (R156) -/

/-- The operation of an issuer whose context runs works on the tiles of that context. -/
theorem onTiles_of_isRun {s : State} {b : Issuer} (h : b.isRun (s.ctx b.ctx) = true) (f : Ctx → Ctx) :
    s.onTiles b f = s.setCtx (f (s.ctx b.ctx)) := by
  simp [State.onTiles, State.onIssuer, h]

theorem id_of_isRun {b : Issuer} {c : Ctx} (h : b.isRun c = true) : c.id = b.ctx := by
  simp only [Issuer.isRun, Bool.and_eq_true, decide_eq_true_eq] at h
  obtain ⟨⟨hid, -⟩, -⟩ := h
  exact hid

/-- R156: the head of the queue is taken off, the leases on its operands are recalled, and it is performed. -/
theorem mxComplete_performs {s : State} {core : CoreId} {op : MxOp} {rest : List MxOp} (hq : (s.core core).mxq = op :: rest)
    (hf : s.forked op.by_ = true) (hbad : ∀ r ∈ op.reads, heldBad s op.pages r.1 r.2 = none) :
    ∃ u, (s.setCore { s.core core with mxq := rest }).SameButDies u ∧ s.mxComplete core = (u.runMx op).dropTiles := by
  refine ⟨_, recalls_sameButDies op _, ?_⟩
  have hnone : op.reads.findSome? (fun r => heldBad (s.setCore { s.core core with mxq := rest }) op.pages r.1 r.2) = none :=
    List.findSome?_eq_none_iff.mpr hbad
  simp only [State.mxComplete, hq, hf, Bool.not_true, Bool.false_eq_true, if_false, hnone]

/-- R156: an operation that changes the tiles of its running context by `f` frees its entry, and leaves the context as `f` makes it. -/
theorem matrixOpComplete_onTiles {s : State} {core : CoreId} {op : MxOp} {rest : List MxOp} {f : Ctx → Ctx}
    (hq : (s.core core).mxq = op :: rest) (hrun : op.by_.isRun (s.ctx op.by_.ctx) = true) (hf : s.forked op.by_ = true)
    (hbad : ∀ r ∈ op.reads, heldBad s op.pages r.1 r.2 = none) (hid : ∀ c, (f c).id = c.id)
    (hop : ∀ u, (s.setCore { s.core core with mxq := rest }).SameButDies u → u.runMx op = u.onTiles op.by_ f) :
    ∃ t, exec (.matrixOpComplete core) s = .next t ∧ (t.core core).mxq = rest ∧ t.ctx op.by_.ctx = f (s.ctx op.by_.ctx) := by
  obtain ⟨u, hu, hm⟩ := mxComplete_performs hq hf hbad
  have hctx : u.ctx op.by_.ctx = s.ctx op.by_.ctx := hu.ctx _
  have hrun' : op.by_.isRun (u.ctx op.by_.ctx) = true := hctx ▸ hrun
  rw [hop u hu, onTiles_of_isRun hrun', hctx] at hm
  refine ⟨_, rfl, ?_, ?_⟩
  · change ((s.mxComplete core).core core).mxq = rest
    rw [hm, dropTiles_core, setCtx_core, hu.core, core_setCore, if_pos (core_id s core)]
  · change (s.mxComplete core).ctx op.by_.ctx = _
    rw [hm, dropTiles_ctx, ctx_setCtx, if_pos ((hid _).trans (id_of_isRun hrun))]

/-- R159: MXZ clears its tile. -/
theorem mxz_completes {s : State} {core : CoreId} {op : MxOp} {rest : List MxOp} (hq : (s.core core).mxq = op :: rest)
    (hk : op.kind = .zero) (hrun : op.by_.isRun (s.ctx op.by_.ctx) = true) (hf : s.forked op.by_ = true) :
    ∃ t, exec (.matrixOpComplete core) s = .next t ∧ (t.core core).mxq = rest ∧
      t.ctx op.by_.ctx = (s.ctx op.by_.ctx).clearTile op.x := by
  refine matrixOpComplete_onTiles (f := (·.clearTile op.x)) hq hrun hf ?_ (fun _ => rfl) (fun u _ => ?_)
  · simp [MxOp.reads, hk]
  · simp [State.runMx, hk]

theorem contribute_id (c : Ctx) (x : TileNo) (i j : Nat) (vs : List FV) : (c.contribute x i j vs).id = c.id := by
  unfold Ctx.contribute
  simp only
  split <;> rfl

theorem mulRow_id (c : Ctx) (x : TileNo) (bs : Array (List FV)) (ai : List FV × Nat) : (c.mulRow x bs ai).id = c.id :=
  List.foldlRecOn (motive := fun d : Ctx => d.id = c.id) _ _ rfl fun _ hd _ _ => (contribute_id ..).trans hd

theorem mxMul_id (c : Ctx) (x : TileNo) (as : List (List FV)) (bs : Array (List FV)) : (c.mxMul x as bs).id = c.id :=
  List.foldlRecOn (motive := fun d : Ctx => d.id = c.id) _ _ rfl fun _ hd _ _ => (mulRow_id ..).trans hd

/-- R155, R160: the values of row i of an operand of MXMUL, from the pages that the operation holds. -/
def MxOp.valueRow (op : MxOp) (s : State) (base : Word) (d : Tile) (i : Nat) : List FV :=
  floatRow d.fmt d.cols (heldBytes s op.by_.prot.keyslot op.pages (base + natWord (i * d.stride)) (rowBytes d.fmt d.cols))
def MxOp.valueRows (op : MxOp) (s : State) (base : Word) (d : Tile) : List (List FV) := (List.range d.rows).map (op.valueRow s base d)

theorem valueRows_congr {s u : State} (h : s.SameButDies u) (op : MxOp) (base : Word) (d : Tile) :
    op.valueRows u base d = op.valueRows s base d := by
  have hrow : op.valueRow u base d = op.valueRow s base d := funext fun i => by rw [MxOp.valueRow, heldBytes_congr h]; rfl
  rw [MxOp.valueRows, hrow]
  rfl

theorem runMx_mul {op : MxOp} {a b : Tile} {pa pb : Word} (hk : op.kind = .mul a b pa pb) (ht : op.tok = none) (u : State) :
    u.runMx op = u.onTiles op.by_ (·.mxMul op.x (op.valueRows u pa a) (colsOf FV.nan b.cols (op.valueRows u pb b))) := by
  simp only [State.runMx, hk, ht]
  rfl

/-- R160: MXMUL of readable operands accumulates their product. -/
theorem mxmul_completes {s : State} {core : CoreId} {op : MxOp} {rest : List MxOp} {a b : Tile} {pa pb : Word}
    (hq : (s.core core).mxq = op :: rest) (hk : op.kind = .mul a b pa pb) (ht : op.tok = none)
    (hrun : op.by_.isRun (s.ctx op.by_.ctx) = true) (hf : s.forked op.by_ = true) (hp : s.poison = []) :
    ∃ t, exec (.matrixOpComplete core) s = .next t ∧ (t.core core).mxq = rest ∧
      t.ctx op.by_.ctx = (s.ctx op.by_.ctx).mxMul op.x (op.valueRows s pa a) (colsOf FV.nan b.cols (op.valueRows s pb b)) := by
  refine matrixOpComplete_onTiles (f := (·.mxMul op.x (op.valueRows s pa a) (colsOf FV.nan b.cols (op.valueRows s pb b)))) hq hrun hf
    (fun r _ => heldBad_of_no_poison hp op.pages r.1 r.2) (fun c => mxMul_id c op.x _ _) (fun u hu => ?_)
  rw [runMx_mul hk ht, valueRows_congr hu, valueRows_congr hu]
  rfl

/-- Settles O32: MXZ clears its tile; the elements after MXMUL are read off the folds over the rows of A and the columns of B. -/
theorem matrixCompletes : Obligations.MatrixCompletes := by
  refine ⟨fun s core op rest hq hk hrun hf => ?_, fun s core op rest a b pa pb hq hk ht hrun hf hp ha hb => ?_⟩
  · obtain ⟨t, he, hfree, hctx⟩ := mxz_completes hq hk hrun hf
    refine ⟨t, he, hfree, fun i j hi hj => ?_, fun y i j hi hj hy => ?_⟩
    · rw [hctx, clearTile_elem _ _ _ hi hj, if_pos rfl]
    · rw [hctx, clearTile_elem _ _ _ hi hj, if_neg hy]
  · obtain ⟨t, he, hfree, hctx⟩ := mxmul_completes hq hk ht hrun hf hp
    have hlen : (op.valueRows s pa a).length = a.rows := by simp [MxOp.valueRows]
    have hsize : (colsOf FV.nan b.cols (op.valueRows s pb b)).size = b.cols := colsOf_size ..
    refine ⟨t, he, hfree, fun i j hi hj => ?_, fun i j hi hj hout => ?_⟩
    · rw [hctx, mxMul_elem _ _ (hlen.trans_le ha) (hsize.trans_le hb) (hi.trans_le ha) (hj.trans_le hb),
        dif_pos ⟨hi.trans_eq hlen.symm, hj.trans_eq hsize.symm⟩, colsOf_getElem]
      simp only [MxOp.valueRows, List.getElem_map, List.getElem_range, List.map_map]
      rfl
    · rw [hctx, mxMul_elem _ _ (hlen.trans_le ha) (hsize.trans_le hb) hi hj, dif_neg (by rwa [hlen, hsize])]

end Sys2Proof.Machine
end

section
/-! ## Reads of registers (R37, R48, R49) -/

namespace Sys2Proof.Machine

/-- R49: a choice that passes over the outstanding results, and at each keeps its value or takes that of a result `mk` of the register, ends with the
value it began with or with that of one of those results. -/
theorem pick_eq_or_mem {α : Type} {mk : α → RegVal} {pick : Nat → List RegVal → α → α} (hnil : ∀ k v, pick k [] v = v)
    (hcons : ∀ k x ps v, ∃ v', pick k (x :: ps) v = pick (k + 1) ps v' ∧ (v' = v ∨ x = mk v')) (k : Nat) (ps : List RegVal) (v : α) :
    pick k ps v = v ∨ mk (pick k ps v) ∈ ps := by
  induction ps generalizing k v with
  | nil => exact .inl (hnil k v)
  | cons x ps ih =>
    obtain ⟨v', hstep, hv⟩ := hcons k x ps v
    rw [hstep]
    rcases ih (k + 1) v' with h | h
    · rw [h]
      rcases hv with rfl | rfl
      · exact .inl rfl
      · exact .inr List.mem_cons_self
    · exact .inr (List.mem_cons_of_mem _ h)

theorem pickG_eq_or_mem (n c : Nat) (r : GReg) (ps : List RegVal) (v : Word) : pickG n c r 0 ps v = v ∨ .g r (pickG n c r 0 ps v) ∈ ps := by
  refine pick_eq_or_mem (pick := pickG n c r) (fun _ _ => rfl) (fun k x ps v => ?_) 0 ps v
  cases x with
  | g r' w =>
    refine ⟨_, rfl, ?_⟩
    split
    · next h =>
      obtain ⟨rfl, -⟩ : r' = r ∧ _ := by simpa using h
      exact .inr rfl
    · exact .inl rfl
  | _ => exact ⟨v, rfl, .inl rfl⟩

theorem pickM_eq_or_mem (n c : Nat) (r : MReg) (ps : List RegVal) (v : BitVec 32) :
    pickM n c r 0 ps v = v ∨ .m r (pickM n c r 0 ps v) ∈ ps := by
  refine pick_eq_or_mem (pick := pickM n c r) (fun _ _ => rfl) (fun k x ps v => ?_) 0 ps v
  cases x with
  | m r' w =>
    refine ⟨_, rfl, ?_⟩
    split
    · next h =>
      obtain ⟨rfl, -⟩ : r' = r ∧ _ := by simpa using h
      exact .inr rfl
    · exact .inl rfl
  | _ => exact ⟨v, rfl, .inl rfl⟩

theorem pickQ_eq_or_mem (n c : Nat) (r : QReg) (ps : List RegVal) (v : Bool) : pickQ n c r 0 ps v = v ∨ .q r (pickQ n c r 0 ps v) ∈ ps := by
  refine pick_eq_or_mem (pick := pickQ n c r) (fun _ _ => rfl) (fun k x ps v => ?_) 0 ps v
  cases x with
  | q r' w =>
    refine ⟨_, rfl, ?_⟩
    split
    · next h =>
      obtain ⟨rfl, -⟩ : r' = r ∧ _ := by simpa using h
      exact .inr rfl
    · exact .inl rfl
  | _ => exact ⟨v, rfl, .inl rfl⟩

/-- Settles O6: a read is a choice among the register's value and those of its outstanding results. -/
theorem registerReads : Obligations.RegisterReads := by
  intro s
  have hg (r : GReg) (hr : r ≠ 0) : s.g r = s.cx.g[r.toFin] ∨ .g r (s.g r) ∈ s.cx.pend := by
    rw [State.g, if_neg hr]; exact pickG_eq_or_mem ..
  have hq (r : QReg) (hr : r ≠ 0) : s.q r = s.cx.q[r.toFin] ∨ .q r (s.q r) ∈ s.cx.pend := by
    rw [State.q, if_neg hr]; exact pickQ_eq_or_mem ..
  have hm (r : MReg) (hr : r ≠ 0) : s.m r = s.cx.m[r.toFin] ∨ .m r (s.m r) ∈ s.cx.pend := by
    rw [State.m, if_neg hr]; exact pickM_eq_or_mem ..
  exact ⟨rfl, rfl, rfl, fun r hr hnone => (hg r hr).resolve_right (hnone _), fun r hr => (hg r hr).imp_right (⟨_, ·, rfl⟩),
    fun r hr => (hq r hr).imp_right (⟨_, ·, rfl⟩), fun r hr => (hm r hr).imp_right (⟨_, ·, rfl⟩)⟩

end Sys2Proof.Machine
end

section
/-! ## Transfers and REP (R55, R107 to R110) -/

namespace Sys2Proof.Machine

theorem fld_two_eq_zero_iff (w : Word) : fld w 0 2 = 0 ↔ w.toNat % 4 = 0 := by
  rw [← BitVec.toNat_inj]
  simp [fld]

/-- R109: a transfer to a multiple of 4 goes there, and its link is written. -/
theorem transfer_aligned {target : Word} (h : target.toNat % 4 = 0) (s : State) (gd : GReg) (len : Nat) :
    transfer s gd target len = .jump target (s.setG gd (s.cx.pc + natWord len)) :=
  if_neg (not_not.mpr ((fld_two_eq_zero_iff target).mpr h))

/-- R109: a transfer to another address raises Misaligned Fetch, and writes no link. -/
theorem transfer_misaligned {target : Word} (h : target.toNat % 4 ≠ 0) (s : State) (gd : GReg) (len : Nat) :
    transfer s gd target len = .raise ⟨3, 0, 2, false, false, s.cx.priv, s.cx.pc⟩ s :=
  if_pos (mt (fld_two_eq_zero_iff target).mp h)

/-- A transfer whose target is a multiple of 4 jumps there, with its link written. -/
theorem transfer_jumps {i : Instr} {s : State} {m : Mods} {gd : GReg} {target : State → Word} {len : Nat} {E : State → Prop}
    (hi : exec i s = issue m len .transfer s (fun x => transfer x gd (target x) len)) (h : s.Executes m .transfer)
    (ht : (target s).toNat % 4 = 0) (hE : E (s.setG gd (s.cx.pc + natWord len))) : Jumps i s (target s) m.sw E := by
  simpa [Kind.transfer] using jumps_of hi h (transfer_aligned ht s gd len) hE

/-- A transfer to another address raises its fault. -/
theorem transfer_raises {i : Instr} {s : State} {m : Mods} {gd : GReg} {target : State → Word} {len : Nat}
    (hi : exec i s = issue m len .transfer s (fun x => transfer x gd (target x) len)) (h : s.Executes m .transfer)
    (ht : (target s).toNat % 4 ≠ 0) : Raises i s ⟨3, 0, 2, false, false, s.cx.priv, s.cx.pc⟩ :=
  raises_of hi h (transfer_misaligned ht s gd len)

/-- A REP whose body passes the structural check: where it goes, by its guard and its count. -/
theorem rep_jumps {s : State} {m : Mods} {gn : GReg} {len : BitVec 4} (stride : BitVec 3) (hc : s.repCheck gn len = none) :
    (s.Executes m .transfer → s.g gn ≠ 0 → Jumps (.rep m gn len stride) s (s.cx.pc + 8) m.sw (fun u => u = s.repStart gn len stride)) ∧
    (s.Executes m .transfer → s.g gn = 0 → Jumps (.rep m gn len stride) s (s.afterBody len) m.sw (fun u => u = s)) ∧
    (s.GuardedOff m .transfer → Jumps (.rep m gn len stride) s (s.afterBody len) m.sw (fun u => u = s)) := by
  have he (t : Word) (u : State) (h : exec (.rep m gn len stride) s = retireOne m.sw 8 (.jump t u)) :
      Jumps (.rep m gn len stride) s t m.sw (fun v => v = u) := ⟨u, _, rfl, finish_jumped u t m.sw, h⟩
  have hexec : exec (.rep m gn len stride) s = issueWith m 8 .transfer
      (fun x => if s.g gn = 0 then .jump (x.afterBody len) x else .jump (x.cx.pc + 8) (x.repStart gn len stride))
      (fun x => .jump (x.afterBody len) x) s := by
    change execRep m gn len stride s = _
    rw [execRep, hc]
  refine ⟨fun h hn => he _ _ ?_, fun h hn => he _ _ ?_, fun h => he _ _ ?_⟩
  · rw [hexec, issueWith_executes h, if_neg hn]
    simp [Kind.transfer]
  · rw [hexec, issueWith_executes h, if_pos hn]
    simp [Kind.transfer]
  · rw [hexec, issueWith_guardedOff h]

/-- Settles O7: the four transfers by whether their target is a multiple of 4, REP by its guard and its count. -/
theorem transfersAndReplay : Obligations.TransfersAndReplay := by
  refine ⟨⟨fun m off s h ht => ?_, fun m gd off s h ht => ?_, fun m gd ga s h ht => ?_, fun m ga s h ht => ?_⟩,
    fun m gd ga s h ht => ⟨?_, ?_⟩, fun m gn len stride s hc => rep_jumps stride hc⟩
  · exact transfer_jumps (target := (·.brTarget off)) rfl h ht (setG_zero _ _)
  · exact transfer_jumps (target := (·.brTarget off)) rfl h ht (setG_sets s gd _)
  · exact transfer_jumps (target := fun _ => s.g ga) rfl h ht (setG_sets s gd _)
  · exact transfer_jumps (target := fun _ => s.g ga) rfl h ht (setG_zero _ _)
  · exact transfer_raises (target := fun _ => s.g ga) rfl h ht
  · exact transfer_raises (target := fun _ => s.g ga) rfl h ht

end Sys2Proof.Machine
end

section
/-! ## Privileged instructions at user level (R61, R71, R371) -/

namespace Sys2Proof.Machine

/-- R71: at user level a supervisor-only opcode fails its check. -/
theorem needsSuper_user {s : State} (h : s.cx.priv = false) : s.needsSuper = some ⟨2, 0, 0, false, false, false, s.cx.pc⟩ := by
  simp [State.needsSuper, h, State.flt]

/-- R371: at user level a number from 0x800 fails the check of a special register. -/
theorem sprCheck_user {s : State} {n : BitVec 12} (h : s.cx.priv = false) (hn : 0x800 ≤ n.toNat) (write : Bool) :
    s.sprCheck n write = some ⟨2, 0, 0, false, false, false, s.cx.pc⟩ := by
  simp [State.sprCheck, h, hn, State.flt]

/-- Settles O11: each of the four is checked before its guard. -/
theorem privilegedInstructions : Obligations.PrivilegedInstructions := fun _ _ h =>
  ⟨raises_of_check rfl (needsSuper_user h), fun _ _ => raises_of_check rfl (needsSuper_user h),
    fun _ _ hn => raises_of_check rfl (sprCheck_user h hn false), fun _ _ hn => raises_of_check rfl (sprCheck_user h hn true)⟩

end Sys2Proof.Machine
end

section
/-! ## Integer results (R24, R96) -/

namespace Sys2Proof.Machine

theorem add_spec {n : Nat} (x y : BitVec n) : x + y = BitVec.ofNat n (x.toNat + y.toNat) := BitVec.eq_of_toNat_eq (by simp)

theorem sub_spec {n : Nat} (x y : BitVec n) : x - y = BitVec.ofInt n (x.toInt - y.toInt) := by
  apply BitVec.eq_of_toInt_eq
  rw [BitVec.toInt_sub, BitVec.toInt_ofInt]

theorem mul_spec {n : Nat} (x y : BitVec n) : x * y = BitVec.ofNat n (x.toNat * y.toNat) := BitVec.eq_of_toNat_eq (by simp)

theorem shlN_spec {n : Nat} (x y : BitVec n) : shlN x y = BitVec.ofNat n (x.toNat * 2 ^ (y.toNat % n)) :=
  BitVec.eq_of_toNat_eq (by simp [shlN, Nat.shiftLeft_eq])

theorem shrN_spec {n : Nat} (x y : BitVec n) : shrN x y = BitVec.ofNat n (x.toNat / 2 ^ (y.toNat % n)) := by
  apply BitVec.eq_of_toNat_eq
  have hlt : x.toNat / 2 ^ (y.toNat % n) < 2 ^ n := (Nat.div_le_self ..).trans_lt x.isLt
  simp [shrN, Nat.shiftRight_eq_div_pow, Nat.mod_eq_of_lt hlt]

theorem sarN_spec {n : Nat} (x y : BitVec n) : sarN x y = BitVec.ofInt n (x.toInt / 2 ^ (y.toNat % n)) := by
  simp [sarN, BitVec.sshiftRight, Int.shiftRight_eq_div_pow]

theorem rotN_spec {n : Nat} (x y : BitVec n) : rotN x y =
    BitVec.ofNat n (x.toNat / 2 ^ (y.toNat % n) + x.toNat % 2 ^ (y.toNat % n) * 2 ^ (n - y.toNat % n)) := by
  rcases Nat.eq_zero_or_pos n with rfl | hn
  · exact Subsingleton.elim _ _
  rw [rotN]
  apply BitVec.eq_of_toNat_eq
  have hr : y.toNat % n < n := Nat.mod_lt _ hn
  generalize y.toNat % n = r at hr
  have hsplit : 2 ^ n = 2 ^ r * 2 ^ (n - r) := by rw [← pow_add]; congr 1; omega
  have hhigh : x.toNat <<< (n - r) % 2 ^ n = (x.toNat % 2 ^ r) <<< (n - r) := by
    rw [Nat.shiftLeft_eq, Nat.shiftLeft_eq, hsplit, Nat.mul_mod_mul_right]
  have hlow : x.toNat / 2 ^ r < 2 ^ (n - r) := Nat.div_lt_of_lt_mul (hsplit ▸ x.isLt)
  have hsum : x.toNat % 2 ^ r * 2 ^ (n - r) + x.toNat / 2 ^ r < 2 ^ n := by
    have hle := Nat.mul_le_mul_right (2 ^ (n - r)) (Nat.succ_le_of_lt (Nat.mod_lt x.toNat (Nat.two_pow_pos r)))
    rw [Nat.succ_mul] at hle
    omega
  rw [BitVec.toNat_rotateRight, Nat.mod_eq_of_lt hr, hhigh, Nat.shiftRight_eq_div_pow, Nat.or_comm,
    ← Nat.shiftLeft_add_eq_or_of_lt hlow, Nat.shiftLeft_eq, BitVec.toNat_ofNat, Nat.add_comm (x.toNat / 2 ^ r), Nat.mod_eq_of_lt hsum]

theorem minS_spec {n : Nat} (x y : BitVec n) : minS x y = BitVec.ofInt n (min x.toInt y.toInt) := by
  simp only [minS, BitVec.slt, decide_eq_true_eq]
  split
  · next h => rw [min_eq_right h.le, BitVec.ofInt_toInt]
  · next h => rw [min_eq_left (not_lt.mp h), BitVec.ofInt_toInt]

theorem maxS_spec {n : Nat} (x y : BitVec n) : maxS x y = BitVec.ofInt n (max x.toInt y.toInt) := by
  simp only [maxS, BitVec.slt, decide_eq_true_eq]
  split
  · next h => rw [max_eq_right h.le, BitVec.ofInt_toInt]
  · next h => rw [max_eq_left (not_lt.mp h), BitVec.ofInt_toInt]

theorem minU_spec {n : Nat} (x y : BitVec n) : minU x y = BitVec.ofNat n (min x.toNat y.toNat) := by
  simp only [minU, BitVec.ult, decide_eq_true_eq]
  split
  · next h => rw [min_eq_right h.le, BitVec.ofNat_toNat, BitVec.setWidth_eq]
  · next h => rw [min_eq_left (not_lt.mp h), BitVec.ofNat_toNat, BitVec.setWidth_eq]

theorem maxU_spec {n : Nat} (x y : BitVec n) : maxU x y = BitVec.ofNat n (max x.toNat y.toNat) := by
  simp only [maxU, BitVec.ult, decide_eq_true_eq]
  split
  · next h => rw [max_eq_right h.le, BitVec.ofNat_toNat, BitVec.setWidth_eq]
  · next h => rw [max_eq_left (not_lt.mp h), BitVec.ofNat_toNat, BitVec.setWidth_eq]

/-- R96: each F-class instruction with two sources is `alu2` of a function that has the result of its table row. -/
theorem intOps_alu2 {i : Instr} {o : IntOp} (hi : intOps i = some o) :
    ∃ f : Word → Word → Word, (∀ s, exec i s = alu2 o.m o.gd o.ga o.y f s) ∧ ∀ s : State, f (s.g o.ga) (s.src o.y) = o.result s := by
  have row {o : IntOp} (f32 : BitVec 32 → BitVec 32 → BitVec 32) (f64 : Word → Word → Word)
      (hi : ∀ s, exec i s = alu2 o.m o.gd o.ga o.y (byW o.w f32 f64) s) (h32 : ∀ x y, f32 x y = o.r 32 x y) (h64 : ∀ x y, f64 x y = o.r 64 x y) :
      ∃ f : Word → Word → Word, (∀ s, exec i s = alu2 o.m o.gd o.ga o.y f s) ∧ ∀ s : State, f (s.g o.ga) (s.src o.y) = o.result s :=
    ⟨_, hi, fun s => by simp only [byW, IntOp.result, h32, h64]⟩
  unfold intOps at hi
  split at hi <;> cases hi
  case h_1 => exact row _ _ (fun _ => rfl) add_spec add_spec
  case h_2 => exact row _ _ (fun _ => rfl) sub_spec sub_spec
  case h_3 => exact row _ _ (fun _ => rfl) (fun _ _ => rfl) (fun _ _ => rfl)
  case h_4 => exact row _ _ (fun _ => rfl) (fun _ _ => rfl) (fun _ _ => rfl)
  case h_5 => exact row _ _ (fun _ => rfl) (fun _ _ => rfl) (fun _ _ => rfl)
  case h_6 => exact row _ _ (fun _ => rfl) (fun _ _ => rfl) (fun _ _ => rfl)
  case h_7 => exact row _ _ (fun _ => rfl) shlN_spec shlN_spec
  case h_8 => exact row _ _ (fun _ => rfl) shrN_spec shrN_spec
  case h_9 => exact row _ _ (fun _ => rfl) sarN_spec sarN_spec
  case h_10 => exact row _ _ (fun _ => rfl) rotN_spec rotN_spec
  case h_11 => exact row _ _ (fun _ => rfl) minS_spec minS_spec
  case h_12 => exact row _ _ (fun _ => rfl) maxS_spec maxS_spec
  case h_13 => exact row _ _ (fun _ => rfl) minU_spec minU_spec
  case h_14 => exact row _ _ (fun _ => rfl) maxU_spec maxU_spec
  case h_15 => exact row _ _ (fun _ => rfl) (fun _ _ => rfl) (fun _ _ => rfl)
  case h_16 => exact row _ _ (fun _ => rfl) (fun _ _ => rfl) (fun _ _ => rfl)
  case h_17 => exact row _ _ (fun _ => rfl) mul_spec mul_spec
  case h_18 => exact ⟨_, fun _ => rfl, fun _ => rfl⟩
  case h_19 => exact ⟨_, fun _ => rfl, fun _ => rfl⟩

end Sys2Proof.Machine
end

section
/-! ## Masked vector instructions with an accumulator destination (R131, R141 to R143, R148, R151) -/

namespace Sys2Proof.Machine

theorem vector_ofFn_of_lanes {v : Vector Lane 32} {f : Fin 32 → Lane} (h : ∀ l : Fin 32, v[l] = f l) : v = Vector.ofFn f :=
  Vector.ext fun l hl => by simpa using h ⟨l, hl⟩

/-- An instruction with two vector sources owes its lanes, one by one those of its table row. -/
theorem vec2_falls {i : Instr} {o : VOp} {f : State → Vector Lane 32 → Vector Lane 32 → Vector Lane 32} {s s1 : State} {v w : Vector Lane 32}
    (hi : exec i s = vec2 o.m o.ad o.sa o.sb o.mc o.fmt f s) (h : s.Executes o.m .plain) (hv : s.src2 o.fmt o.sa o.sb = .ok (v, w, s1))
    (hf : ∀ l : Fin 32, (f s1 v w)[l] = o.lane s1 v w l) :
    Falls i s 8 o.m.sw (s1.Owes (s1.cx.aRes o.ad (s.m o.mc) (Vector.ofFn (o.lane s1 v w)))) :=
  vector_ofFn_of_lanes hf ▸ falls_plain hi h (by rw [hv]; rfl) (laterA_owes s1 o.ad _ _)

theorem vec1_falls {i : Instr} {o : VOp} {f : State → Lane → Lane} {s s1 : State} {v : Vector Lane 32}
    (hi : exec i s = vec1 o.m o.ad o.sa o.mc o.fmt f s) (h : s.Executes o.m .plain) (hv : s.src1 o.fmt o.sa = .ok (v, s1))
    (hf : ∀ l : Fin 32, f s1 v[l] = o.lane s1 v v l) :
    Falls i s 8 o.m.sw (s1.Owes (s1.cx.aRes o.ad (s.m o.mc) (Vector.ofFn (o.lane s1 v v)))) := by
  have hl : ∀ l : Fin 32, (mapLanes (f s1) v)[l] = o.lane s1 v v l := fun l => (by simp [mapLanes] : _ = f s1 v[l]).trans (hf l)
  exact vector_ofFn_of_lanes hl ▸ falls_plain hi h (by rw [hv]; rfl) (laterA_owes s1 o.ad _ _)

theorem zipLanes_lane (f : Lane → Lane → Lane) (v w : Vector Lane 32) (l : Fin 32) : (zipLanes f v w)[l] = f v[l] w[l] := by
  simp [zipLanes]

/-- R132: the operation of a lane by its format. -/
theorem laneOp_eq_byFmt {fi fj : Lane → Lane → Lane} (hf : ∀ x y, fi x y = fj x y) (fmt : BitVec 4) (rm : BitVec 3)
    (ff : RMode → Lane → Lane → Lane) (s : State) (x y : Lane) : laneOp fmt rm ff fi s x y = byFmt fmt rm s ff fj x y := by
  simp only [laneOp, byFmt, fmtFloat_iff]
  split
  · rfl
  · exact hf x y

/-- R142: a lane of VFMA in the model. -/
def fmaLane (fmt : BitVec 4) (rm : BitVec 3) (s : State) (x y z : Lane) : Lane :=
  if fmtFloat fmt then f32Fma (arithMode rm s.cx.rmode) x y z else x * y + z

theorem fmaLane_eq_byFmt (fmt : BitVec 4) (rm : BitVec 3) (s : State) (x y z : Lane) : fmaLane fmt rm s x y z =
    byFmt fmt rm s (fun r x y => f32Fma r x y z) (fun x y => BitVec.ofNat 32 (x.toNat * y.toNat + z.toNat)) x y := by
  simp only [fmaLane, byFmt, fmtFloat_iff, mul_spec]
  split
  · rfl
  · exact BitVec.eq_of_toNat_eq (by simp)

/-- R142: the magnitude of a float lane. -/
theorem f32Abs_spec (x : BitVec 32) :
    f32Abs x = if (fv32 x).isNan = true then to32 .rne .nan else BitVec.ofNat 32 (x.toNat % 2 ^ 31) := by
  have hand : x &&& 0x7FFFFFFF = BitVec.ofNat 32 (x.toNat % 2 ^ 31) := by
    apply BitVec.eq_of_toNat_eq
    have := Nat.and_two_pow_sub_one_eq_mod x.toNat 31
    have hlt : x.toNat % 2 ^ 31 < 2 ^ 32 := by omega
    rw [BitVec.toNat_ofNat, Nat.mod_eq_of_lt hlt]
    exact this
  unfold f32Abs
  cases fv32 x with
  | nan => rfl
  | inf n => simpa [FV.isNan] using hand
  | fin n m e => simpa [FV.isNan] using hand

/-- R142: the magnitude of an integer lane, modulo 2^32. -/
theorem intAbs_spec (x : Lane) : (if x.slt 0 = true then -x else x) = BitVec.ofNat 32 x.toInt.natAbs := by
  apply BitVec.eq_of_toNat_eq
  have := x.isLt
  have hx := BitVec.toInt_eq_toNat_cond x
  have h0 : (0 : Lane).toInt = 0 := rfl
  simp only [BitVec.slt, h0, decide_eq_true_eq, BitVec.toNat_ofNat]
  split
  · rw [BitVec.toNat_neg]; omega
  · omega

/-- R143: the shift right of a lane by its format. -/
theorem vshr_lane (fmt : BitVec 4) (x y : Lane) : (if (decide (fmt = 8) || decide (fmt = 9) || decide (fmt = 10)) = true then sarN else shrN) x y =
    if fmt = 8 ∨ fmt = 9 ∨ fmt = 10 then BitVec.ofInt 32 (x.toInt / 2 ^ (y.toNat % 32)) else BitVec.ofNat 32 (x.toNat / 2 ^ (y.toNat % 32)) := by
  simp only [Bool.or_eq_true, decide_eq_true_eq, or_assoc]
  split
  · exact sarN_spec x y
  · exact shrN_spec x y

/-- R148: the low five bits of an index lane name a lane. -/
theorem permLanes_lane (v w : Vector Lane 32) (l : Fin 32) : (permLanes v w)[l] = v[w[l].toNat % 32]'(Nat.mod_lt _ (by decide)) := by
  simp [permLanes]

/-- R142, R143, R148: the instructions with two vector sources, by their table. -/
theorem vec2Ops_falls {i : Instr} {o : VOp} {s s1 : State} {v w : Vector Lane 32} (hi : vec2Ops i = some o) (h : s.Executes o.m .plain)
    (hv : s.src2 o.fmt o.sa o.sb = .ok (v, w, s1)) :
    Falls i s 8 o.m.sw (s1.Owes (s1.cx.aRes o.ad (s.m o.mc) (Vector.ofFn (o.lane s1 v w)))) := by
  have zip {o : VOp} (g : State → Lane → Lane → Lane) (hi : exec i s = vec2 o.m o.ad o.sa o.sb o.mc o.fmt (fun s => zipLanes (g s)) s)
      (h : s.Executes o.m .plain) (hv : s.src2 o.fmt o.sa o.sb = .ok (v, w, s1)) (hg : ∀ l : Fin 32, g s1 v[l] w[l] = o.lane s1 v w l) :
      Falls i s 8 o.m.sw (s1.Owes (s1.cx.aRes o.ad (s.m o.mc) (Vector.ofFn (o.lane s1 v w)))) :=
    vec2_falls hi h hv fun l => (zipLanes_lane (g s1) v w l).trans (hg l)
  unfold vec2Ops at hi
  split at hi <;> cases hi
  case h_1 fmt rm => exact zip (laneOp fmt rm f32Add (· + ·)) rfl h hv fun _ => laneOp_eq_byFmt add_spec ..
  case h_2 fmt rm => exact zip (laneOp fmt rm f32Sub (· - ·)) rfl h hv fun _ => laneOp_eq_byFmt sub_spec ..
  case h_3 fmt rm => exact zip (laneOp fmt rm f32Mul (· * ·)) rfl h hv fun _ => laneOp_eq_byFmt mul_spec ..
  case h_4 ad _ _ _ fmt rm =>
    exact vec2_falls (f := fun x v w => Vector.ofFn (fun l : Fin 32 => fmaLane fmt rm x v[l] w[l] (x.a ad)[l])) rfl h hv fun l =>
      (by simp : _ = fmaLane fmt rm s1 v[l] w[l] (s1.a ad)[l]).trans (fmaLane_eq_byFmt ..)
  case h_5 fmt rm => exact zip (laneOp fmt rm (fun _ => f32Min) minS) rfl h hv fun _ => laneOp_eq_byFmt minS_spec ..
  case h_6 fmt rm => exact zip (laneOp fmt rm (fun _ => f32Max) maxS) rfl h hv fun _ => laneOp_eq_byFmt maxS_spec ..
  case h_7 => exact zip (fun _ => (· &&& ·)) rfl h hv fun _ => rfl
  case h_8 => exact zip (fun _ => (· ||| ·)) rfl h hv fun _ => rfl
  case h_9 => exact zip (fun _ => (· ^^^ ·)) rfl h hv fun _ => rfl
  case h_10 => exact zip (fun _ => shlN) rfl h hv fun _ => shlN_spec ..
  case h_11 fmt _ => exact zip (fun _ => if fmt = 8 || fmt = 9 || fmt = 10 then sarN else shrN) rfl h hv fun _ => vshr_lane ..
  case h_12 => exact vec2_falls (f := fun _ => permLanes) rfl h hv fun l => permLanes_lane v w l

/-- R141, R142, R151: the instructions with one vector source, by their table. -/
theorem vec1Ops_falls {i : Instr} {o : VOp} {s s1 : State} {v : Vector Lane 32} (hi : vec1Ops i = some o) (h : s.Executes o.m .plain)
    (hv : s.src1 o.fmt o.sa = .ok (v, s1)) :
    Falls i s 8 o.m.sw (s1.Owes (s1.cx.aRes o.ad (s.m o.mc) (Vector.ofFn (o.lane s1 v v)))) := by
  unfold vec1Ops at hi
  split at hi <;> cases hi
  case h_1 => exact vec1_falls (f := fun _ x => x) rfl h hv fun _ => rfl
  case h_2 => exact vec1_falls (f := fun _ x => x) rfl h hv fun _ => rfl
  case h_3 fmt _ =>
    exact vec1_falls (f := fun _ x => if fmtFloat fmt then f32Abs x else if x.slt 0 then -x else x) rfl h hv fun l => by
      simp only [fmtFloat_iff, f32Abs_spec, intAbs_spec]
  case h_4 rm fn => exact vec1_falls (f := fun s x => specFn fn (arithMode rm s.cx.rmode) x) rfl h hv fun _ => rfl

/-- Settles O25: the two tables of masked vector instructions. -/
theorem vectorLaneResults : Obligations.VectorLaneResults :=
  ⟨fun _ _ _ _ _ _ hi h hv => vec2Ops_falls hi h hv, fun _ _ _ _ _ hi h hv => vec1Ops_falls hi h hv⟩

end Sys2Proof.Machine
end

section
/-! ## Pointers and stash operands (R43 to R45, R131) -/

namespace Sys2Proof.Machine

/-! ### The access address and the descriptor afterwards (R43, R44) -/

theorem fld_toNat {w : Nat} (v : BitVec w) (lo n : Nat) : (fld v lo n).toNat = v.toNat / 2 ^ lo % 2 ^ n := by
  simp [fld, Nat.shiftRight_eq_div_pow]

theorem pMode_toNat (d : Word) : (pMode d).toNat = d.toNat / 2 ^ 60 := by
  rw [pMode, fld_toNat]
  have := d.isLt
  omega

/-- R44: the cursor moves within the multiple of WRAP in which it lies. -/
theorem stepCursor_eq (wrap : Nat) (cur : BitVec 24) (delta : Int) : stepCursor wrap cur delta = stepCur wrap cur.toNat delta := by
  have hbase : cur.toNat - cur.toNat % wrap = cur.toNat / wrap * wrap := by
    have := Nat.div_add_mod' cur.toNat wrap
    omega
  simp only [stepCursor, stepCur, hbase]

/-- R43: the cursor is the field [23:0]. -/
theorem setCur_eq (d : Word) (c : BitVec 24) : setCur d c = withCur d c := by
  have happ (i : Nat) : (withCur d c).getLsbD i = if i < 24 then c.getLsbD i else (d.extractLsb' 24 40).getLsbD (i - 24) := BitVec.getLsbD_append
  apply BitVec.eq_of_getLsbD_eq
  intro i hi
  rw [happ]
  simp only [setCur, putFld, BitVec.getLsbD_or, BitVec.getLsbD_and, BitVec.getLsbD_not, BitVec.shiftLeft_zero, BitVec.getLsbD_setWidth,
    BitVec.getLsbD_allOnes, BitVec.getLsbD_extractLsb', hi, decide_true, Bool.true_and]
  by_cases h : i < 24
  · simp [h]
  · have h40 : i - 24 < 40 := by omega
    simp [h, h40, Nat.add_sub_cancel' (not_lt.mp h), BitVec.getLsbD_of_ge c i (not_lt.mp h)]

/-- R44: a pointer whose MODE is not reserved gives the access address and the descriptor of the rule. -/
theorem pointerStep_eq {d : Word} (h : d.toNat / 2 ^ 60 < 4) : ((pointerStep d).1.toNat, (pointerStep d).2) = pointerAccess d := by
  have hmode (n : BitVec 4) : pMode d = n ↔ d.toNat / 2 ^ 60 = n.toNat := by rw [← BitVec.toNat_inj, pMode_toNat]
  have hcur : (pCur d).toNat = d.toNat % 2 ^ 24 := by simp [pCur, fld_toNat]
  have hwrap : pWrap d = d.toNat / 2 ^ 40 % 2 ^ 20 := fld_toNat d 40 20
  have hstr : d.extractLsb' 24 16 = pStr d := rfl
  simp only [pointerStep, pointerAccess, hmode, stepCursor_eq, setCur_eq, hcur, hwrap, hstr]
  generalize d.toNat / 2 ^ 60 = k at h
  interval_cases k
  · rw [if_pos (by decide), hcur]; rfl
  · rw [if_neg (by decide), if_pos (by decide)]; rfl
  · rw [if_neg (by decide), if_neg (by decide), if_pos (by decide), hcur]; rfl
  · rw [if_neg (by decide), if_neg (by decide), if_neg (by decide), hcur]; rfl

theorem modeOk_of_lt {s : State} {r : PReg} (h : (s.p r).toNat / 2 ^ 60 < 4) : s.modeOk r = .ok () :=
  if_pos (BitVec.lt_def.mpr (by rw [pMode_toNat]; exact h))

theorem modeOk_of_reserved {s : State} {r : PReg} (h : 4 ≤ (s.p r).toNat / 2 ^ 60) :
    s.modeOk r = .error (.raise ⟨1, 10, 0, false, false, s.cx.priv, s.cx.pc⟩ s) :=
  if_neg (mt BitVec.lt_def.mp (by rw [pMode_toNat]; exact not_lt.mpr h))


/-! ### Where the lines of a span lie -/

/-- A stash line in scratch: the address and the number of bytes. -/
def scratchLine (x : Nat × Nat) : StashLine := .scratch x.1 x.2

/-- R136: without windows every line lies in scratch, and finding it changes nothing. -/
theorem stashLines_scratch {s : State} (h : s.myCore.windows = []) (acc : BitVec 2) (ls : List (Nat × Nat)) :
    stashLines acc ls s = .ok (ls.map scratchLine, s) := by
  induction ls with
  | nil => rfl
  | cons x ls ih =>
    have hline : s.stashLine acc x.1 x.2 = .ok (.scratch x.1 x.2, s) := by simp [State.stashLine, h, windowAt]
    simp only [stashLines, hline, ih]
    rfl

/-- R45: a span beyond the stash is refused. -/
theorem stashPlace_beyond {a n : Nat} (h : 262144 < a + n) (s : State) (acc : BitVec 2) :
    s.stashPlace acc a n = .error (.raise (s.flt 5 0) s) := if_pos h

/-- R45, R136: without windows a span within the stash passes its checks. -/
theorem stashPlace_scratch {s : State} {a n : Nat} (hw : s.myCore.windows = []) (h : a + n ≤ 262144) (acc : BitVec 2) :
    s.stashPlace acc a n = .ok ((stashSpan (n / 64 + 2) a n).map scratchLine, s) := by
  have hsize : ¬ stashSize < a + n := not_lt.mpr h
  rw [State.stashPlace, if_neg hsize, if_neg (by simp [hw]), stashLines_scratch hw]

/-! ### Reads of scratch -/

/-- R46: without poison a read of scratch gives the bytes there, and changes nothing. -/
theorem readScratch_clean {s : State} (h : s.poison = []) (a n : Nat) :
    s.readScratch a n = ((List.range n).map (fun k => s.myCore.scratch (a + k)), s) := by
  simp [State.readScratch, h]

/-- The bytes of two adjacent runs. -/
theorem range_map_append (f : Nat → Byte) (a k n : Nat) :
    (List.range k).map (fun i => f (a + i)) ++ (List.range n).map (fun i => f (a + k + i)) = (List.range (k + n)).map (fun i => f (a + i)) := by
  rw [List.range_add, List.map_append, List.map_map]
  congr 1
  exact List.map_congr_left fun i _ => by simp [Nat.add_assoc]

/-- R131: the lines of a span are read as one run of bytes. -/
theorem readStash_span {s : State} (h : s.poison = []) {fuel a n : Nat} (hf : n ≠ 0 → n + a % 64 ≤ 64 * fuel) :
    readStash ((stashSpan fuel a n).map scratchLine) s = ((List.range n).map (fun k => s.myCore.scratch (a + k)), s) := by
  induction fuel generalizing a n with
  | zero =>
    obtain rfl : n = 0 := by omega
    rfl
  | succ fuel ih =>
    rcases Nat.eq_zero_or_pos n with rfl | hn
    · rfl
    · have hrest : n - min n (64 - a % 64) ≠ 0 → n - min n (64 - a % 64) + (a + min n (64 - a % 64)) % 64 ≤ 64 * fuel := by
        have := hf hn.ne'
        omega
      rw [stashSpan, if_neg hn.ne']
      simp only [List.map_cons, scratchLine, readStash, readScratch_clean h]
      rw [ih hrest, range_map_append, Nat.add_sub_cancel' (min_le_left ..)]

/-! ### One stash operand -/

theorem spanAt_misaligned {s : State} {r : PReg} {w : Nat} (hm : (s.p r).toNat / 2 ^ 60 < 4) (h : (pointerAccess (s.p r)).1 % w ≠ 0)
    (acc : BitVec 2) : s.spanAt acc w r =
      .error (.raise ⟨4, 0, acc, false, false, s.cx.priv, BitVec.ofNat 64 (pointerAccess (s.p r)).1⟩ s) := by
  rw [← pointerStep_eq hm] at h ⊢
  exact if_neg h

theorem spanAt_aligned {s : State} {r : PReg} {w : Nat} (hm : (s.p r).toNat / 2 ^ 60 < 4) (h : (pointerAccess (s.p r)).1 % w = 0)
    (acc : BitVec 2) : s.spanAt acc w r = s.stashPlace acc (pointerAccess (s.p r)).1 (32 * w) := by
  rw [← pointerStep_eq hm] at h ⊢
  exact if_pos h

/-- R44: the cursor moves once. -/
theorem advance_eq {s : State} {r : PReg} (hm : (s.p r).toNat / 2 ^ 60 < 4) : s.advance r = s.setP r (pointerAccess (s.p r)).2 := by
  rw [← pointerStep_eq hm]; rfl

/-- R131: a lane of a stash operand is its element, widened. -/
theorem lanesOf_lane (fmt : BitVec 4) (f : Nat → Byte) (a : Nat) (l : Fin 32) :
    (lanesOf fmt ((List.range (32 * stashW fmt)).map (fun k => f (a + k))))[l] =
      widen fmt (leNat ((List.range (stashW fmt)).map (fun k => f (a + l.val * stashW fmt + k)))) := by
  have hlt : stashW fmt * l.val + stashW fmt ≤ 32 * stashW fmt := by
    have := Nat.mul_le_mul_left (stashW fmt) l.isLt
    rw [Nat.mul_succ, Nat.mul_comm _ 32] at this
    exact this
  have hbytes : (((List.range (32 * stashW fmt)).map (fun k => f (a + k))).drop (stashW fmt * l.val)).take (stashW fmt) =
      (List.range (stashW fmt)).map (fun k => f (a + l.val * stashW fmt + k)) := by
    apply List.ext_getElem
    · simp; omega
    · intro k h1 h2
      simp [Nat.mul_comm, Nat.add_assoc]
  simp [lanesOf, hbytes]

/-! ### Two sources -/

theorem src2_reserved {s : State} {r : PReg} (h : 4 ≤ (s.p r).toNat / 2 ^ 60) (fmt : BitVec 4) (y : VSrc) :
    s.src2 fmt (.p r) y = .error (.raise ⟨1, 10, 0, false, false, s.cx.priv, s.cx.pc⟩ s) := by
  simp only [State.src2, State.srcMode, modeOk_of_reserved h]
  rfl

/-- R453: a stash operand whose span fails its checks stops the instruction before anything is read. -/
theorem src2_of_spanAt_error {s : State} {r : PReg} {fmt : BitVec 4} {d : Done} (hm : (s.p r).toNat / 2 ^ 60 < 4)
    (h : s.spanAt 0 (stashW fmt) r = .error d) (z : AReg) : s.src2 fmt (.p r) (.a z) = .error d := by
  simp only [State.src2, State.srcMode, modeOk_of_lt hm, State.vCheck, h]
  rfl

/-- R44, R131: one pointer named twice in scratch gives its elements twice and moves once. -/
theorem src2_same_scratch {s : State} {r : PReg} {fmt : BitVec 4} (hw : s.myCore.windows = []) (hp : s.poison = [])
    (hm : (s.p r).toNat / 2 ^ 60 < 4) (ha : (pointerAccess (s.p r)).1 % stashW fmt = 0)
    (hb : (pointerAccess (s.p r)).1 + 32 * stashW fmt ≤ 262144) :
    let v := lanesOf fmt ((List.range (32 * stashW fmt)).map (fun k => s.myCore.scratch ((pointerAccess (s.p r)).1 + k)))
    s.src2 fmt (.p r) (.p r) = .ok (v, v, s.setP r (pointerAccess (s.p r)).2) := by
  have hcheck : s.vCheck fmt (.p r) = .ok (.lines ((stashSpan (32 * stashW fmt / 64 + 2) (pointerAccess (s.p r)).1 (32 * stashW fmt)).map scratchLine), s) := by
    simp only [State.vCheck, spanAt_aligned hm ha, stashPlace_scratch hw hb]
    rfl
  have hread := readStash_span (s := s) hp (fuel := 32 * stashW fmt / 64 + 2) (a := (pointerAccess (s.p r)).1) (n := 32 * stashW fmt) (by omega)
  rw [← advance_eq hm]
  simp only [State.src2, State.srcMode, modeOk_of_lt hm, Bind.bind, Except.bind, hcheck, State.vRead, hread, if_true]
  rfl

/-- Settles O24: accumulators by their definition, a stash operand by the first of its checks that fails, and in scratch by what its lines hold. -/
theorem vectorSources : Obligations.VectorSources := by
  intro s fmt
  refine ⟨fun x y => rfl, fun r y h => src2_reserved h fmt y, fun r z hm h => ?_, fun r z hm ha h => ?_, fun r hw hp hm ha _ hb => ?_⟩
  · exact src2_of_spanAt_error hm (spanAt_misaligned hm h 0) z
  · exact src2_of_spanAt_error hm ((spanAt_aligned hm ha 0).trans (stashPlace_beyond h s 0)) z
  · exact ⟨_, _, setP_sets s r _, src2_same_scratch hw hp hm ha hb, fun l => lanesOf_lane fmt s.myCore.scratch _ l⟩

end Sys2Proof.Machine
end

section
/-! ## Stores to scratch, scatter and gather (R44, R141, R150) -/

namespace Sys2Proof.Machine

/-- A claim about the effect of an instruction may be weakened. -/
theorem Falls.mono {i : Instr} {s : State} {len : Nat} {sw : Bool} {E F : State → Prop} (h : Falls i s len sw E) (hF : ∀ u, E u → F u) :
    Falls i s len sw F := by
  obtain ⟨u, t, hE, hr, he⟩ := h
  exact ⟨u, t, hF u hE, hr, he⟩

/-! ### Bytes of a value -/

@[simp] theorem leBytes_length (n v : Nat) : (leBytes n v).length = n := by
  induction n generalizing v with
  | zero => rfl
  | succ n ih => simp [leBytes, ih]

/-- The k-th byte of a value. -/
theorem leBytes_getElem {n k : Nat} (v : Nat) (h : k < (leBytes n v).length) : (leBytes n v)[k] = BitVec.ofNat 8 (v / 2 ^ (8 * k)) := by
  induction n generalizing v k with
  | zero => simp at h
  | succ n ih =>
    cases k with
    | zero => simp [leBytes]
    | succ k =>
      have hpow : 2 ^ (8 * (k + 1)) = 256 * 2 ^ (8 * k) := by rw [Nat.mul_succ, pow_add]; omega
      simp only [leBytes, List.getElem_cons_succ, ih, hpow, Nat.div_div_eq_div_mul]

/-! ### One write of scratch -/

/-- The bytes of `f` with those of a list laid over them from an address on; `none` lets the old byte stand. -/
def overlay (f : Nat → Byte) (a : Nat) (bs : List (Option Byte)) : Nat → Byte :=
  fun x => if a ≤ x then (bs.getD (x - a) none).getD (f x) else f x

theorem overlay_outside {a x : Nat} {bs : List (Option Byte)} (h : x < a ∨ a + bs.length ≤ x) (f : Nat → Byte) : overlay f a bs x = f x := by
  unfold overlay
  split
  · rw [List.getD_eq_default _ _ (by omega)]; rfl
  · rfl

theorem overlay_add (f : Nat → Byte) (a k : Nat) (bs : List (Option Byte)) : overlay f a bs (a + k) = (bs.getD k none).getD (f (a + k)) := by
  simp [overlay]

/-- `u` differs from `s` in the stash, whose scratch bytes it holds as `f` gives them, and in poison marks. -/
def State.LeavesScratch (s : State) (f : Nat → Byte) (u : State) : Prop := u.cx = s.cx ∧ u.mem = s.mem ∧ u.myCore.scratch = f

theorem State.LeavesScratch.trans {s u v : State} {f : Nat → Byte} {g : (Nat → Byte) → Nat → Byte} (h : s.LeavesScratch f u)
    (k : u.LeavesScratch (g u.myCore.scratch) v) : s.LeavesScratch (g f) v := by
  obtain ⟨hcx, hmem, hf⟩ := h
  obtain ⟨kcx, kmem, kg⟩ := k
  exact ⟨kcx.trans hcx, kmem.trans hmem, hf ▸ kg⟩

/-- One byte of a write of scratch; `none` is no byte. -/
def putByte (a : Nat) (t : Tbl Byte) (e : Option Byte × Nat) : Tbl Byte := match e.1 with | some b => tput t (a + e.2) b | none => t

theorem tget_putByte (d : Byte) (a : Nat) (t : Tbl Byte) (b : Option Byte) (n x : Nat) :
    tget d (putByte a t (b, n)) x = if x = a + n then b.getD (tget d t x) else tget d t x := by
  cases b with
  | none => simp [putByte]
  | some b => simp [putByte, tget_tput, eq_comm]

/-- The table of a core's stash after a write. -/
theorem tget_putBytes (d : Byte) (a : Nat) (bs : List (Option Byte)) (t : Tbl Byte) (x : Nat) :
    tget d ((bs.zip (List.range bs.length)).foldl (putByte a) t) x =
      if a ≤ x then (bs.getD (x - a) none).getD (tget d t x) else tget d t x := by
  split
  · next h =>
    obtain ⟨k, rfl⟩ := Nat.exists_eq_add_of_le h
    have hstep (t : Tbl Byte) (b : Option Byte) (n : Nat) (_ : n < bs.length + k + 1) (j : Nat) (_ : j < bs.length + k + 1) :
        tget d (putByte a t (b, n)) (a + j) = if j = n then b.getD (tget d t (a + j)) else tget d t (a + j) := by
      rw [tget_putByte]
      simp only [Nat.add_left_cancel_iff]
    rw [foldl_numbered (fun t j => tget d t (a + j)) Option.getD hstep bs (by omega) t (by omega), Nat.add_sub_cancel_left]
    by_cases hk : k < bs.length <;> simp [hk]
  · next h =>
    refine List.foldlRecOn (motive := fun u => tget d u x = tget d t x) _ _ rfl fun u hu e _ => ?_
    rw [show e = (e.1, e.2) from rfl, tget_putByte, if_neg (by omega), hu]

/-- R150: a write of scratch changes the bytes that are given, and no other. -/
theorem writeScratch_leaves (s : State) (a : Nat) (bs : List (Option Byte)) :
    s.LeavesScratch (overlay s.myCore.scratch a bs) (s.writeScratch a bs) := by
  have hcore : (s.writeScratch a bs).myCore =
      { s.myCore with stash := (bs.zip (List.range bs.length)).foldl (putByte a) s.myCore.stash } :=
    (core_setCore ..).trans (if_pos (core_id s _))
  refine ⟨rfl, rfl, funext fun x => ?_⟩
  rw [hcore]
  exact tget_putBytes _ a bs s.myCore.stash x

/-- Two writes of adjacent runs are one write. -/
theorem overlay_append (f : Nat → Byte) (a k : Nat) (bs : List (Option Byte)) :
    overlay (overlay f a (bs.take k)) (a + k) (bs.drop k) = overlay f a bs := by
  funext x
  simp only [overlay]
  rcases Nat.lt_or_ge x a with h | h
  · rw [if_neg (by omega), if_neg (by omega), if_neg (by omega)]
  rcases Nat.lt_or_ge x (a + k) with hk | hk
  · have hlt : x - a < k := by omega
    rw [if_neg (by omega), if_pos h, if_pos h]
    simp [List.getD_eq_getElem?_getD, hlt]
  · have hge : ¬ x - a < k := by omega
    have hsub : k + (x - (a + k)) = x - a := by omega
    rw [if_pos hk, if_pos h, if_pos h]
    simp [List.getD_eq_getElem?_getD, hge, hsub]

/-- A write of the lines of a span in scratch is one write. -/
theorem writeStash_span {fuel a n : Nat} (hf : n ≠ 0 → n + a % 64 ≤ 64 * fuel) {bs : List (Option Byte)} (hb : bs.length = n) (s : State) :
    s.LeavesScratch (overlay s.myCore.scratch a bs) (writeStash ((stashSpan fuel a n).map scratchLine) bs s) := by
  induction fuel generalizing a n bs s with
  | zero =>
    obtain rfl : n = 0 := by omega
    obtain rfl := List.length_eq_zero_iff.mp hb
    exact ⟨rfl, rfl, funext fun x => by simp [overlay]; rfl⟩
  | succ fuel ih =>
    rcases Nat.eq_zero_or_pos n with rfl | hn
    · obtain rfl := List.length_eq_zero_iff.mp hb
      exact ⟨rfl, rfl, funext fun x => by simp [overlay]; rfl⟩
    · have hrest : n - min n (64 - a % 64) ≠ 0 → n - min n (64 - a % 64) + (a + min n (64 - a % 64)) % 64 ≤ 64 * fuel := by
        have := hf hn.ne'
        omega
      rw [stashSpan, if_neg hn.ne', ← overlay_append _ a (min n (64 - a % 64)) bs]
      exact (writeScratch_leaves s a _).trans (g := fun f => overlay f _ _) (ih hrest (by simp [hb]) _)

/-! ### VSTA (R44, R141) -/

/-- An element of a concatenation of blocks of one length. -/
theorem getD_flatMap_blocks {α β : Type} {f : α → List β} {w : Nat} (hf : ∀ x, (f x).length = w) (d : β) {k : Nat} (hk : k < w)
    (l : List α) {i : Nat} (hi : i < l.length) : (l.flatMap f).getD (i * w + k) d = (f l[i]).getD k d := by
  induction l generalizing i with
  | nil => simp at hi
  | cons x l ih =>
    simp only [List.flatMap_cons]
    cases i with
    | zero => rw [Nat.zero_mul, Nat.zero_add, List.getD_append _ _ _ _ (by rw [hf]; exact hk), List.getElem_cons_zero]
    | succ i =>
      have hge : (f x).length ≤ (i + 1) * w + k := by rw [hf, Nat.succ_mul]; omega
      have hsub : (i + 1) * w + k - (f x).length = i * w + k := by rw [hf, Nat.succ_mul]; omega
      rw [List.getD_append_right _ _ _ _ hge, hsub, ih (by simpa using hi), List.getElem_cons_succ]

theorem laneBytes_block_length (w : Nat) (mask : BitVec 32) (v : Vector Lane 32) (l : Fin 32) :
    (if mask.getLsbD l.val then (leBytes w v[l].toNat).map some else List.replicate w none).length = w := by
  split <;> simp

theorem laneBytes_length (w : Nat) (mask : BitVec 32) (v : Vector Lane 32) : (laneBytes w mask v).length = 32 * w := by
  simp only [laneBytes, List.length_flatMap, laneBytes_block_length]
  rw [List.map_const', List.length_finRange, List.sum_replicate, smul_eq_mul]

/-- R141: the k-th byte of a lane, where it is active. -/
theorem laneBytes_getD {w k : Nat} (hk : k < w) (mask : BitVec 32) (v : Vector Lane 32) (l : Fin 32) : (laneBytes w mask v).getD (l.val * w + k) none =
    if mask.getLsbD l.val = true then some (BitVec.ofNat 8 (v[l].toNat / 2 ^ (8 * k))) else none := by
  have hl : (List.finRange 32)[l.val]'(by simp) = l := by simp
  rw [laneBytes, getD_flatMap_blocks (laneBytes_block_length w mask v) none hk (List.finRange 32) (by simp), hl]
  split
  · simp [hk, leBytes_getElem]
  · simp

/-- R141: VSTA whose span passes its checks writes there, and its cursor moves. -/
theorem vsta_falls {s s1 : State} {m : Mods} {p : PReg} {fmt : BitVec 4} {ls : List StashLine} (h : s.Executes m .plain)
    (hm : (s.p p).toNat / 2 ^ 60 < 4) (hs : s.spanAt 1 (stashW fmt) p = .ok (ls, s1)) (ab : AReg) (mc : MReg) (rm : BitVec 3) :
    Falls (.vsta m p ab mc fmt rm) s 8 m.sw (fun u => u = (writeStash ls (laneBytes (stashW fmt) (s.m mc) (s.a ab)) s1).advance p) := by
  refine falls_plain rfl h ?_ rfl
  simp only [vstaBody, modeOk_of_lt hm, hs]
  rfl

/-- R44, R141: VSTA in scratch. -/
theorem vsta_scratch {s : State} {m : Mods} {p : PReg} {fmt : BitVec 4} (h : s.Executes m .plain) (hw : s.myCore.windows = [])
    (hm : (s.p p).toNat / 2 ^ 60 < 4) (ha : (pointerAccess (s.p p)).1 % stashW fmt = 0)
    (hb : (pointerAccess (s.p p)).1 + 32 * stashW fmt ≤ 262144) (ab : AReg) (mc : MReg) (rm : BitVec 3) :
    Falls (.vsta m p ab mc fmt rm) s 8 m.sw (fun u => u.mem = s.mem ∧ u.cx.p[p.toFin] = (pointerAccess (s.p p)).2 ∧
      u.myCore.scratch = overlay s.myCore.scratch (pointerAccess (s.p p)).1 (laneBytes (stashW fmt) (s.m mc) (s.a ab))) := by
  refine (vsta_falls h hm ((spanAt_aligned hm ha 1).trans (stashPlace_scratch hw hb 1)) ab mc rm).mono fun u hu => ?_
  obtain ⟨hcx, hmem, hf⟩ := writeStash_span (by omega) (laneBytes_length (stashW fmt) (s.m mc) (s.a ab)) s
    (fuel := 32 * stashW fmt / 64 + 2) (a := (pointerAccess (s.p p)).1)
  generalize writeStash _ _ s = x at hu hcx hmem hf
  have hp : x.p p = s.p p := congrArg (fun c => c.p[p.toFin]) hcx
  rw [advance_eq (hp ▸ hm), hp] at hu
  subst hu
  exact ⟨hmem, ((setP_sets x p _).2 p).trans (if_pos rfl), hf⟩

/-! ### The active lanes and their elements (R150) -/

def activeLanes (mask : BitVec 32) : List (Fin 32) := (List.finRange 32).filter (fun l => mask.getLsbD l.val)

@[simp] theorem mem_activeLanes {mask : BitVec 32} {l : Fin 32} : l ∈ activeLanes mask ↔ mask.getLsbD l.val = true := by
  simp [activeLanes]

/-- An active lane splits the list of them into the lower and the higher ones. -/
theorem activeLanes_split {mask : BitVec 32} {l : Fin 32} (h : mask.getLsbD l.val = true) :
    ∃ pre post, activeLanes mask = pre ++ l :: post ∧ (∀ x ∈ pre, x < l ∧ mask.getLsbD x.val = true) ∧
      ∀ x ∈ post, l < x ∧ mask.getLsbD x.val = true := by
  obtain ⟨pre, post, hsplit⟩ := List.append_of_mem (mem_activeLanes.mpr h)
  have hactive (x : Fin 32) (hx : x ∈ pre ∨ x ∈ post) : mask.getLsbD x.val = true :=
    mem_activeLanes.mp (hsplit ▸ List.mem_append.mpr (hx.imp_right (List.mem_cons_of_mem _)))
  have hsorted : (pre ++ l :: post).Pairwise (· < ·) := hsplit ▸ (List.pairwise_lt_finRange 32).filter _
  obtain ⟨-, hpost, hcross⟩ := List.pairwise_append.mp hsorted
  exact ⟨pre, post, hsplit, fun x hx => ⟨hcross x hx l List.mem_cons_self, hactive x (.inl hx)⟩,
    fun x hx => ⟨List.rel_of_pairwise_cons hpost hx, hactive x (.inr hx)⟩⟩

/-- R150: the stash address of the element of a lane. -/
def elemAddr (base : Word) (idx : Vector Lane 32) (w : Nat) (l : Fin 32) : Nat := (base + BitVec.ofNat 64 (idx[l].toNat * w)).toNat

theorem laneAddrs_eq (base : Word) (idx : Vector Lane 32) (w : Nat) (mask : BitVec 32) :
    laneAddrs base idx w mask = (activeLanes mask).map (fun l => (l.val, elemAddr base idx w l)) := by
  have helem (l : Fin 32) : (base + idx[l].setWidth 64 * natWord w).toNat = elemAddr base idx w l := by
    refine congrArg (fun x => (base + x).toNat) (BitVec.eq_of_toNat_eq ?_)
    simp [natWord, BitVec.toNat_mul]
  simp only [laneAddrs, helem]
  rfl

/-- R150: the checks pass over the lanes that are aligned and lie in the stash. -/
theorem laneChecks_append {s : State} (hw : s.myCore.windows = []) (acc : BitVec 2) {w : Nat} {pre : List (Nat × Nat)}
    (h : ∀ x ∈ pre, x.2 % w = 0 ∧ x.2 + w ≤ 262144) (es : List (Nat × Nat)) : laneChecks s acc w (pre ++ es) = laneChecks s acc w es := by
  induction pre with
  | nil => rfl
  | cons x pre ih =>
    obtain ⟨ha, hb⟩ := h x List.mem_cons_self
    have hsize : ¬ stashSize < x.2 + w := not_lt.mpr hb
    have hwin : (windowAt s.myCore.windows x.2).any (fun y => decide (y.owner ≠ s.cx.id.slot)) = false := by simp [hw, windowAt]
    simp only [List.cons_append, laneChecks, ha, hsize, hwin, ne_eq, not_true_eq_false, if_false, Bool.false_eq_true,
      ih (fun y hy => h y (List.mem_cons_of_mem _ hy))]

theorem laneChecks_ok {s : State} (hw : s.myCore.windows = []) (acc : BitVec 2) {w : Nat} {es : List (Nat × Nat)}
    (h : ∀ x ∈ es, x.2 % w = 0 ∧ x.2 + w ≤ 262144) : laneChecks s acc w es = .ok () := by
  have := laneChecks_append hw acc h []
  rwa [List.append_nil] at this

/-- R150: the element of every active lane is aligned and lies in the stash. -/
def LanesFit (mask : BitVec 32) (w : Nat) (e : Fin 32 → Nat) : Prop := ∀ l : Fin 32, mask.getLsbD l.val = true → e l % w = 0 ∧ e l + w ≤ 262144

theorem laneChecks_active {s : State} (hw : s.myCore.windows = []) (acc : BitVec 2) {w : Nat} {mask : BitVec 32} {e : Fin 32 → Nat}
    (h : LanesFit mask w e) : laneChecks s acc w ((activeLanes mask).map (fun l => (l.val, e l))) = .ok () :=
  laneChecks_ok hw acc (by simpa using fun l => h l)

/-- The line of the element of a lane in scratch. -/
def scratchElem (w : Nat) (x : Nat × Nat) : Nat × List StashLine := (x.1, [.scratch x.2 w])

theorem laneLines_scratch {s : State} (hw : s.myCore.windows = []) (acc : BitVec 2) (w : Nat) (es : List (Nat × Nat)) :
    laneLines acc w es s = .ok (es.map (scratchElem w), s) := by
  have hzip : (es.zip ((es.map (fun e => (e.2, w))).map scratchLine)).map (fun e => (e.1.1, [e.2])) = es.map (scratchElem w) := by
    induction es with
    | nil => rfl
    | cons x es ih => exact congrArg₂ List.cons rfl ih
  simp only [laneLines, stashLines_scratch hw, Bind.bind, Except.bind, hzip]
  rfl

/-! ### VSCAT -/

/-- The stash after the elements of lanes have been written in their order. -/
def scattered (w : Nat) (v : Vector Lane 32) (e : Fin 32 → Nat) (ls : List (Fin 32)) (f : Nat → Byte) : Nat → Byte :=
  ls.foldl (fun f l => overlay f (e l) ((leBytes w v[l].toNat).map some)) f

theorem scatterLanes_scratch (w : Nat) (v : Vector Lane 32) (e : Fin 32 → Nat) (ls : List (Fin 32)) (s : State) :
    s.LeavesScratch (scattered w v e ls s.myCore.scratch) (scatterLanes w v (ls.map (fun l => scratchElem w (l.val, e l))) s) := by
  induction ls generalizing s with
  | nil => exact ⟨rfl, rfl, rfl⟩
  | cons l ls ih =>
    have hbytes : ((leBytes w ((v[l.val]?).getD 0).toNat).map some).take w = (leBytes w v[l].toNat).map some := by
      simp [List.take_of_length_le]
    have hstep := writeScratch_leaves s (e l) ((leBytes w v[l].toNat).map some)
    simp only [List.map_cons, scratchElem, scatterLanes, writeStash, hbytes]
    exact hstep.trans (g := scattered w v e ls) (ih _)

/-- The bytes of an element that is laid over. -/
theorem overlay_elem (f : Nat → Byte) (a n v x : Nat) :
    overlay f a ((leBytes n v).map some) x = if a ≤ x ∧ x < a + n then BitVec.ofNat 8 (v / 2 ^ (8 * (x - a))) else f x := by
  unfold overlay
  by_cases ha : a ≤ x
  · by_cases hx : x - a < n
    · have hlt : x < a + n := by omega
      simp [ha, hx, hlt, leBytes_getElem]
    · have hge : ¬ x < a + n := by omega
      simp [ha, hx, hge]
  · simp [ha]

/-- R150: a byte of no element keeps its value. -/
theorem scattered_outside {w : Nat} {e : Fin 32 → Nat} {ls : List (Fin 32)} {x : Nat} (h : ∀ l ∈ ls, x < e l ∨ e l + w ≤ x) (v : Vector Lane 32)
    (f : Nat → Byte) : scattered w v e ls f x = f x := by
  refine List.foldlRecOn (motive := fun g : Nat → Byte => g x = f x) _ _ rfl fun g hg l hl => ?_
  have := h l hl
  rw [overlay_elem, if_neg (by omega), hg]

/-- R150: the element of a lane that no later one meets remains. -/
theorem scattered_elem {w k : Nat} (hk : k < w) {e : Fin 32 → Nat} {pre post : List (Fin 32)} {l : Fin 32}
    (h : ∀ x ∈ post, e l + k < e x ∨ e x + w ≤ e l + k) (v : Vector Lane 32) (f : Nat → Byte) :
    scattered w v e (pre ++ l :: post) f (e l + k) = BitVec.ofNat 8 (v[l].toNat / 2 ^ (8 * k)) := by
  have hsplit : scattered w v e (pre ++ l :: post) f =
      scattered w v e post (overlay (scattered w v e pre f) (e l) ((leBytes w v[l].toNat).map some)) := by
    simp [scattered, List.foldl_append]
  rw [hsplit, scattered_outside h, overlay_elem, if_pos (by omega), Nat.add_sub_cancel_left]

/-- R150: VSCAT in scratch. -/
theorem vscat_scratch {s : State} {m : Mods} {ga : GReg} {ab : AReg} {mc : MReg} {fmt : BitVec 4} (h : s.Executes m .plain)
    (hw : s.myCore.windows = []) (hl : LanesFit (s.m mc) (stashW fmt) (elemAddr (s.g ga) (s.a ab) (stashW fmt)))
    (ac : AReg) (rm : BitVec 3) : Falls (.vscat m ga ab ac mc fmt rm) s 8 m.sw
      (s.LeavesScratch (scattered (stashW fmt) (s.a ac) (elemAddr (s.g ga) (s.a ab) (stashW fmt)) (activeLanes (s.m mc)) s.myCore.scratch)) := by
  have hbody : vscatBody ga ab ac mc fmt s = .ok (.fall (scatterLanes (stashW fmt) (s.a ac)
      ((activeLanes (s.m mc)).map (fun l => scratchElem (stashW fmt) (l.val, elemAddr (s.g ga) (s.a ab) (stashW fmt) l))) s)) := by
    simp only [vscatBody, laneAddrs_eq, laneChecks_active hw 1 hl, laneLines_scratch hw, Bind.bind, Except.bind, List.map_map]
    rfl
  exact falls_plain rfl h (congrArg Try.done hbody) (scatterLanes_scratch ..)

/-! ### VGATH -/

/-- R131: the element of a lane as it is read. -/
def gathered (s : State) (fmt : BitVec 4) (a : Nat) : Lane :=
  widen fmt (leNat ((List.range (stashW fmt)).map (fun k => s.myCore.scratch (a + k))))

/-- R150: without poison the lanes that are read receive their elements, and nothing changes. -/
theorem gatherLanes_scratch {s : State} (hp : s.poison = []) (fmt : BitVec 4) (e : Fin 32 → Nat) (ls : List (Fin 32)) (v : Vector Lane 32) :
    ∃ u, gatherLanes fmt (ls.map (fun l => scratchElem (stashW fmt) (l.val, e l))) v s = (u, s) ∧
      ∀ l : Fin 32, u[l] = if l ∈ ls then gathered s fmt (e l) else v[l] := by
  induction ls generalizing v with
  | nil => exact ⟨v, rfl, fun l => by simp⟩
  | cons x ls ih =>
    obtain ⟨u, hu, hlanes⟩ := ih (v.setIfInBounds x.val (gathered s fmt (e x)))
    refine ⟨u, ?_, fun l => ?_⟩
    · rw [← hu]
      simp only [List.map_cons, scratchElem, gatherLanes, readStash, readScratch_clean hp, List.append_nil]
      rfl
    · rw [hlanes]
      by_cases hl : l ∈ ls
      · simp [hl]
      · by_cases hx : l = x
        · subst hx; simp [hl]
        · have hne : x.val ≠ l.val := fun h => hx (Fin.ext h.symm)
          simp [hl, hx, hne]

/-- R150: VGATH in scratch, where the element of every active lane is aligned and lies in the stash. -/
theorem vgath_scratch {s : State} {m : Mods} {ga : GReg} {ab : AReg} {mc : MReg} {fmt : BitVec 4} (h : s.Executes m .plain)
    (hw : s.myCore.windows = []) (hp : s.poison = []) (hl : LanesFit (s.m mc) (stashW fmt) (elemAddr (s.g ga) (s.a ab) (stashW fmt)))
    (ad : AReg) (rm : BitVec 3) : ∃ v : Vector Lane 32,
      (∀ l : Fin 32, (s.m mc).getLsbD l.val = true → v[l] = gathered s fmt (elemAddr (s.g ga) (s.a ab) (stashW fmt) l)) ∧
      Falls (.vgath m ad ga ab mc fmt rm) s 8 m.sw (s.Owes (s.cx.aRes ad (s.m mc) v)) := by
  obtain ⟨v, hv, hlanes⟩ := gatherLanes_scratch hp fmt (elemAddr (s.g ga) (s.a ab) (stashW fmt)) (activeLanes (s.m mc)) (Vector.replicate 32 0)
  refine ⟨v, fun l hact => by rw [hlanes, if_pos (mem_activeLanes.mpr hact)], ?_⟩
  have hbody : vgathBody ad ga ab mc fmt s = .ok (.fall (s.laterA ad (s.m mc) v)) := by
    simp only [vgathBody, laneAddrs_eq, laneChecks_active hw 0 hl, laneLines_scratch hw, Bind.bind, Except.bind, List.map_map, Function.comp_def, hv]
    rfl
  exact falls_plain rfl h (congrArg Try.done hbody) (laterA_owes s ad _ v)

/-- R150, R453: the lowest active lane whose element fails its checks stops VGATH. -/
theorem vgath_raises {s : State} {m : Mods} {ga : GReg} {ab : AReg} {mc : MReg} {fmt : BitVec 4} (h : s.Executes m .plain)
    (hw : s.myCore.windows = []) {l : Fin 32} (hact : (s.m mc).getLsbD l.val = true) (hlow : ∀ x : Fin 32, x < l → (s.m mc).getLsbD x.val = true →
      elemAddr (s.g ga) (s.a ab) (stashW fmt) x % stashW fmt = 0 ∧ elemAddr (s.g ga) (s.a ab) (stashW fmt) x + stashW fmt ≤ 262144)
    {f : FaultRec} (hf : ∀ es, laneChecks s 0 (stashW fmt) ((l.val, elemAddr (s.g ga) (s.a ab) (stashW fmt) l) :: es) = .error (.raise f s))
    (ad : AReg) (rm : BitVec 3) : Raises (.vgath m ad ga ab mc fmt rm) s f := by
  obtain ⟨pre, post, hsplit, hpre, -⟩ := activeLanes_split hact
  have hchecks : laneChecks s 0 (stashW fmt) (laneAddrs (s.g ga) (s.a ab) (stashW fmt) (s.m mc)) = .error (.raise f s) := by
    rw [laneAddrs_eq, hsplit, List.map_append, List.map_cons, laneChecks_append hw 0 ?_, hf]
    simpa using fun x hx => hlow x (hpre x hx).1 (hpre x hx).2
  have hbody : vgathBody ad ga ab mc fmt s = .error (.raise f s) := by
    simp only [vgathBody, hchecks, Bind.bind, Except.bind]
  exact raises_of rfl h (congrArg Try.done hbody)

theorem aligned_apart {w k a b : Nat} (hk : k < w) (ha : a % w = 0) (hb : b % w = 0) (h : a ≠ b) : b + k < a ∨ a + w ≤ b + k := by
  obtain ⟨i, rfl⟩ := Nat.dvd_of_mod_eq_zero ha
  obtain ⟨j, rfl⟩ := Nat.dvd_of_mod_eq_zero hb
  rcases Nat.lt_trichotomy i j with hij | rfl | hij
  · have := Nat.mul_le_mul_left w hij
    rw [Nat.mul_succ] at this
    omega
  · exact absurd rfl h
  · have := Nat.mul_le_mul_left w hij
    rw [Nat.mul_succ] at this
    omega

/-- Settles O28: VSTA as one write of its span, VSCAT as the writes of its active lanes in order, VGATH as their reads. -/
theorem vectorStoresAndGather : Obligations.VectorStoresAndGather := by
  refine ⟨⟨fun s s1 m p ab mc fmt rm ls h hm hs => vsta_falls h hm hs ab mc rm, ?_, ?_⟩, ?_⟩
  · intro s m p ab mc fmt rm h hw hm a w _ ha hb
    refine (vsta_scratch h hw hm ha hb ab mc rm).mono fun u ⟨hmem, hcur, hscratch⟩ => ⟨hmem, hcur, fun x hx => ?_, fun l k hk => ?_⟩
    · rw [hscratch]
      exact overlay_outside (hx.imp_right (by rw [laneBytes_length]; exact id)) _
    · rw [hscratch, Nat.add_assoc, overlay_add, laneBytes_getD hk]
      split <;> rfl
  · intro s m ga ab ac mc fmt rm h hw w e _ hl
    refine (vscat_scratch h hw hl ac rm).mono fun u ⟨hcx, hmem, hscratch⟩ => ⟨hmem, hcx, fun x hx => ?_, fun l k hk hact hlast => ?_⟩
    · rw [hscratch]
      exact scattered_outside (fun l hmem => hx l (mem_activeLanes.mp hmem)) _ _
    · obtain ⟨pre, post, hsplit, -, hpost⟩ := activeLanes_split hact
      have hapart (x : Fin 32) (hx : x ∈ post) : e l + k < e x ∨ e x + w ≤ e l + k :=
        aligned_apart hk (hl x (hpost x hx).2).1 (hl l hact).1 (hlast x (hpost x hx).1 (hpost x hx).2)
      rw [hscratch, hsplit]
      exact scattered_elem hk hapart _ _
  · intro s m ad ga ab mc fmt rm h hw hp w e _
    refine ⟨fun hl => vgath_scratch h hw hp hl ad rm, fun l hact hlow => ⟨fun hmis => ?_, fun hal hbeyond => ?_⟩⟩
    · exact vgath_raises h hw hact hlow (fun es => if_pos hmis) ad rm
    · exact vgath_raises h hw hact hlow (fun es => (if_neg (not_not.mpr hal)).trans (if_pos hbeyond)) ad rm

end Sys2Proof.Machine
end

section
/-! ## A translation at issue (R380) -/

namespace Sys2Proof.Machine

/-- A fold of writes at rising addresses leaves at each of them the byte that was written there. -/
theorem tget_foldl_tset (at_ n : Nat) (v : Nat → Byte) (m : Tbl Byte) {i : Nat} (h : i < n) :
    tget 0 ((List.range n).foldl (fun m i => tset 0 m (at_ + i) (v i)) m) (at_ + i) = v i := by
  induction n with
  | zero => omega
  | succ n ih =>
    rw [List.range_succ, List.foldl_append, List.foldl_cons, List.foldl_nil, tget_tset]
    rcases Nat.lt_succ_iff_lt_or_eq.mp h with hlt | rfl
    · rw [if_neg (by omega), ih hlt]
    · simp

/-- R352: the bytes of a line that is taken under another key become unspecified. -/
theorem rekey_inside {s : State} {key : BitVec 8} {pa a : Nat} (hk : tget 0 s.lineKey (pa / 256) ≠ s.keyId key) (ha : a / 256 = pa / 256) :
    (s.rekey key pa).byte a = Config.freeByte s.issued a := by
  obtain ⟨i, hi, rfl⟩ : ∃ i < 256, a = 256 * (pa / 256) + i := ⟨a % 256, Nat.mod_lt a (by decide), by omega⟩
  rw [State.rekey, if_neg hk]
  generalize 256 = n at hi
  exact tget_foldl_tset (n * (pa / n)) n (fun i => Config.freeByte s.issued (n * (pa / n) + i)) s.mem hi

/-- A home write leaves the bytes outside its range as the change of key of its lines leaves them. -/
theorem putHome_byte_outside {s : State} {key : BitVec 8} {pa a : Nat} {bs : List Byte} (h : a < pa ∨ pa + bs.length ≤ a) :
    (s.putHome key pa bs).byte a = (s.rekeyRange key pa bs.length).byte a := by
  simp only [State.byte, State.putHome, tget_memPut_outside h, watch_mem, recallAll_mem]

/-- R380: a first write through an entry whose D is 0 sets the A and D bits of its leaf, which holds the value read. -/
theorem xlate_first_write {s u : State} {core : CoreId} {pctx : BitVec 12} {key : BitVec 8} {user dw : Bool} {va : Word} {e : TlbE}
    (hcan : canonical va = true) (hfind : s.tlbFind core pctx va = some e) (hperm : permCause e.pte 1 user dw = none) (hd : pteD e.pte = false)
    (hcas : s.pteCas key e.ptePa e.pte (e.pte ||| 192) = some u) : s.xlate core pctx key user dw 1 va =
      (.ok (placeOf s e.pte e.lvl va) (e.pte ||| 192), u.tlbAdd core { e with pte := e.pte ||| 192 }) := by
  rw [State.xlate, if_neg (by simp [hcan])]
  simp only [hfind, hperm, hcas]
  rw [if_pos (by simp [hd])]

/-! ### A leaf that crosses a line -/

namespace LeafAcrossLines

/-- The package with the bytes of a leaf at 252 to 259: user, readable and writable, D = 0. Line 1, which holds its last four bytes, was last written under
another key; byte 300 differs from what a change of its key would leave there. -/
def memory : State :=
  { State.reset with mem := [(252, 0x2C), (300, Config.freeByte 0 300 + 1)], lineKey := [(1, 5)] }

/-- The translation of address 0 through that leaf. -/
def entry : TlbE := ⟨0, 0, 3, wordOf (memory.bytes 0 252 8), 252⟩

/-- The state in which the issuing core holds that translation. -/
def state : State := { memory with cores := [{ CoreSt.blank ⟨0, 0⟩ with tlb := [entry] }] }

/-- The state after a first write through the translation. -/
def after : State := (state.putHome 0 252 (wordBytes (entry.pte ||| 192))).tlbAdd ⟨0, 0⟩ { entry with pte := entry.pte ||| 192 }

theorem tlbFind_entry : state.tlbFind ⟨0, 0⟩ 0 0 = some entry := rfl

/-- The low byte of the leaf lies in line 0, which is read under its own key. -/
theorem entry_pte_low : ∃ r, entry.pte = natWord (0x2C + 256 * r) := ⟨_, rfl⟩

theorem entry_pte_bit {k : Nat} (h : k < 8) : entry.pte.getLsbD k = Nat.testBit 0x2C k := by
  obtain ⟨r, hr⟩ := entry_pte_low
  rw [hr, natWord, BitVec.getLsbD_ofNat, Nat.add_comm, show (256 : Nat) = 2 ^ 8 from rfl, Nat.testBit_two_pow_mul_add _ (by decide)]
  simp [h]
  omega

theorem access_ok : state.access 1 true 0 = .ok (placeOf state entry.pte 3 0, after) := by
  have hw : pteW entry.pte = true := entry_pte_bit (by decide)
  have hu : pteU entry.pte = true := entry_pte_bit (by decide)
  have hd : pteD entry.pte = false := entry_pte_bit (by decide)
  have hperm : permCause entry.pte 1 true true = none := by simp [permCause, hw, hu]
  have hcas : state.pteCas 0 entry.ptePa entry.pte (entry.pte ||| 192) = some (state.putHome 0 252 (wordBytes (entry.pte ||| 192))) := if_pos rfl
  have hx := xlate_first_write (by decide) tlbFind_entry hperm hd hcas
  have hid : state.cx.id.coreId = ⟨0, 0⟩ ∧ state.cx.pctx = 0 ∧ state.cx.prot.keyslot = 0 ∧ state.cx.priv = false := ⟨rfl, rfl, rfl, rfl⟩
  obtain ⟨hcore, hpctx, hkey, hpriv⟩ := hid
  rw [State.access, hcore, hpctx, hkey, hpriv, Bool.not_false, hx]
  rfl

theorem state_byte : state.byte 300 = Config.freeByte 0 300 + 1 := rfl

/-- The write of the leaf takes line 1 under its key too, so that byte 300 becomes a free one. -/
theorem after_byte : after.byte 300 = Config.freeByte 0 300 := by
  have hrange : state.rekeyRange 0 252 8 = (state.rekey 0 252).rekey 0 508 := rfl
  have hline : tget 0 state.lineKey (252 / 256) = state.keyId 0 := rfl
  have hsame : state.rekey 0 252 = state := by simp only [State.rekey, hline, if_true]
  have hput : after.byte 300 = (state.putHome 0 252 (wordBytes (entry.pte ||| 192))).byte 300 := by
    simp [after, State.tlbAdd, State.byte]
  have hlen : (wordBytes (entry.pte ||| 192)).length = 8 := leBytes_length 8 _
  rw [hput, putHome_byte_outside (by rw [hlen]; decide), hlen, hrange, hsame]
  exact rekey_inside (by decide) (by decide)

end LeafAcrossLines

/-- Refutes O15: the bytes of a leaf need not lie in one 256-byte line. The write of A and D to a leaf at 252 takes line 1 under the key of the context
too, and where that line was last written under another key its other bytes become unspecified (R352): byte 300 lies outside the leaf's doubleword
and outside its first line, and changes. -/
theorem not_accessChecks : ¬ Obligations.AccessChecks := by
  rintro ⟨-, -, hframe⟩
  obtain ⟨-, -, -, -, -, -, hbytes⟩ := hframe _ _ _ _ _ _ LeafAcrossLines.access_ok
  have hchanged : LeafAcrossLines.after.byte 300 ≠ LeafAcrossLines.state.byte 300 := by
    rw [LeafAcrossLines.after_byte, LeafAcrossLines.state_byte]
    generalize Config.freeByte 0 300 = b
    revert b
    decide
  rcases hbytes with hsame | ⟨e, hfind, hbyte⟩
  · exact hchanged (congrArg (·.byte 300) hsame)
  · obtain rfl : LeafAcrossLines.entry = e := Option.some.inj (LeafAcrossLines.tlbFind_entry.symm.trans hfind)
    exact hchanged (hbyte 300 (by decide) (fun h => absurd h (by decide)))

end Sys2Proof.Machine
end

section
/-! ## Engine instructions that hold issue, and tile descriptors (R54, R155) -/

namespace Sys2Proof.Machine

theorem leNat_lt (bs : List Byte) : leNat bs < 256 ^ bs.length := by
  induction bs with
  | nil => decide
  | cons b bs ih =>
    have hb := b.isLt
    have hp : 256 ^ (b :: bs).length = 256 * 256 ^ bs.length := by rw [List.length_cons, Nat.pow_succ, Nat.mul_comm]
    rw [leNat, hp]
    omega

theorem leNat_dw_lt (bs : List Byte) : leNat (bs.take 8) < 2 ^ 64 :=
  calc leNat (bs.take 8) < 256 ^ (bs.take 8).length := leNat_lt _
    _ ≤ 256 ^ 8 := Nat.pow_le_pow_right (by decide) (List.length_take_le 8 bs)
    _ = 2 ^ 64 := rfl

theorem dwAt_toNat (bs : List Byte) (n : Nat) : (dwAt bs n).toNat = leNat ((bs.drop (8 * n)).take 8) := by
  rw [dwAt, wordOf, natWord, BitVec.toNat_ofNat, Nat.mod_eq_of_lt (leNat_dw_lt _)]

/-- R155: a descriptor is defined where FMT is at most 6 and every reserved field is 0. -/
theorem tileOf_eq {bs : List Byte} (h : bs.length = 16) :
    let lo := leNat (bs.take 8)
    tileOf bs = if lo % 16 ≤ 6 ∧ lo / 2 ^ 16 % 2 ^ 16 = 0 ∧ leNat (bs.drop 8) = 0 then
      some ⟨BitVec.ofNat 4 lo, lo / 2 ^ 4 % 2 ^ 6 + 1, lo / 2 ^ 10 % 2 ^ 6 + 1, lo / 2 ^ 32⟩ else none := by
  intro lo
  have hlo : (dwAt bs 0).toNat = lo := dwAt_toNat bs 0
  have hhi : (dwAt bs 1).toNat = leNat (bs.drop 8) := by rw [dwAt_toNat, List.take_of_length_le (by simp [h])]
  have hlt : lo < 2 ^ 64 := leNat_dw_lt bs
  have hfmt : fld (dwAt bs 0) 0 4 > 6 ↔ ¬ lo % 16 ≤ 6 := by
    rw [gt_iff_lt, BitVec.lt_def, fld_toNat, hlo]
    simp
  have hres : fld (dwAt bs 0) 16 16 = 0 ↔ lo / 2 ^ 16 % 2 ^ 16 = 0 := by rw [eq_zero_iff_toNat, fld_toNat, hlo]
  have hcode : fld (dwAt bs 0) 0 4 = BitVec.ofNat 4 lo := by
    apply BitVec.eq_of_toNat_eq
    rw [fld_toNat, hlo, BitVec.toNat_ofNat, Nat.pow_zero, Nat.div_one]
  have hstride : lo / 2 ^ 32 % 2 ^ 32 = lo / 2 ^ 32 := Nat.mod_eq_of_lt (by omega)
  have hone : dwAt bs 1 = 0 ↔ leNat (bs.drop 8) = 0 := by rw [eq_zero_iff_toNat, hhi]
  have hbad : (fld (dwAt bs 0) 0 4 > 6 || fld (dwAt bs 0) 16 16 ≠ 0 || dwAt bs 1 ≠ 0) = true ↔
      ¬ (lo % 16 ≤ 6 ∧ lo / 2 ^ 16 % 2 ^ 16 = 0 ∧ leNat (bs.drop 8) = 0) := by
    simp only [Bool.or_eq_true, decide_eq_true_eq, ne_eq, hfmt, hres, hone]
    tauto
  simp only [tileOf, hbad, ite_not]
  simp only [hcode, fld_toNat, hlo, hstride]

section
variable {s : State} {m : Mods}

/-- R54, R156: a matrix instruction whose body holds for its queue or its token. -/
theorem mxHolds_iff (tok : Option Tok) : s.mxHolds tok = true ↔ 2 ≤ s.myCore.mxq.length ∨ s.tokIsBusy tok = true := by
  simp [State.mxHolds]

theorem copyHolds_iff (tok : Option Tok) :
    (s.copyFull || s.tokIsBusy tok) = true ↔ 2 ≤ s.copyQueued s.cx.id.coreId ∨ s.tokIsBusy tok = true := by
  simp [State.copyFull]

theorem mxz_stalls (h : s.Executes m .plain) {x : TileNo} (hb : s.mxHolds none = true) : Stalls (.mxz m x) s s :=
  stalls_of rfl h (by rw [if_pos hb])

theorem mxmul_stalls (h : s.Executes m .plain) {x : TileNo} {tok : Option Tok} (hb : s.mxHolds tok = true) (ga gb gc : GReg) (da db : BitVec 32) :
    Stalls (.mxmul m x tok ga gb gc da db) s s := stalls_of rfl h (by rw [mxmulBody, if_pos hb]; rfl)

theorem mxq_stalls (h : s.Executes m .plain) {x : TileNo} {tok : Option Tok} (hb : s.mxHolds tok = true) (ga gb gc gq : GReg) (gs : BitVec 2)
    (da db : BitVec 32) : Stalls (.mxq m x tok ga gb gc gq gs da db) s s := stalls_of rfl h (by rw [mxqBody, if_pos hb]; rfl)

theorem mxldx_stalls (h : s.Executes m .plain) {x : TileNo} {tok : Option Tok} (hb : s.mxHolds tok = true) (ga : GReg) (fmt : BitVec 4)
    (sh : Option Shape) : Stalls (.mxldx m x tok ga fmt sh) s s := stalls_of rfl h (by rw [mxldxBody, if_pos hb]; rfl)

theorem mxdrn_stalls (h : s.Executes m .plain) {x : TileNo} {tok : Option Tok} (hb : s.mxHolds tok = true) (ga gm : GReg) (fmt : BitVec 4)
    (rm : BitVec 3) (ov : BitVec 2) (sh : Option Shape) : Stalls (.mxdrn m x tok ga gm fmt rm ov sh) s s :=
  stalls_of rfl h (by rw [mxdrnBody, if_pos hb]; rfl)

theorem cpy_stalls (h : s.Executes m .plain) {mode : CpyMode} (hb : (s.copyFull || s.tokIsBusy mode.tok) = true) (gd gs gn gk : GReg)
    (len : CpyLen) : Stalls (.cpy m gd gs gn gk mode len) s s := stalls_of rfl h (by rw [cpyBody, if_pos hb]; rfl)

theorem cpy2d_stalls (h : s.Executes m .plain) {mode : CpyMode} (hb : (s.copyFull || s.tokIsBusy mode.tok) = true) (gd gs gsh gk : GReg)
    (st : CpyStride) : Stalls (.cpy2d m gd gs gsh gk mode st) s s := stalls_of rfl h (by rw [cpy2dBody, if_pos hb]; rfl)
end

/-- Settles O30: the bodies of the engine instructions ask for their queue and token first; the fields of a descriptor are those of its words. -/
theorem engineHoldsAndTiles : Obligations.EngineHoldsAndTiles := by
  refine ⟨fun s m h => ⟨fun x tok hb => ?_, ?_, ?_⟩, fun bs hbs => ?_⟩
  · replace hb := (mxHolds_iff tok).mpr hb
    refine ⟨?_, mxmul_stalls h hb, mxq_stalls h hb, mxdrn_stalls h hb, mxldx_stalls h hb⟩
    rintro rfl
    exact mxz_stalls h hb
  · exact fun gd gs gn gk mode len hb => cpy_stalls h ((copyHolds_iff _).mpr hb) gd gs gn gk len
  · exact fun gd gs gsh gk mode st hb => cpy2d_stalls h ((copyHolds_iff _).mpr hb) gd gs gsh gk st
  · exact ⟨fun hok => (tileOf_eq hbs).trans (if_pos hok), fun hbad => (tileOf_eq hbs).trans (if_neg hbad)⟩

end Sys2Proof.Machine
end

section
/-! ## What translations and home writes leave unchanged -/

namespace Sys2Proof.Machine

/-- A state that differs only in memory and in what the cores and dies hold of it. -/
def State.SameButHomes (s u : State) : Prop :=
  u = { s with mem := u.mem, dirty := u.dirty, poison := u.poison, lineKey := u.lineKey, cores := u.cores, die0 := u.die0, die1 := u.die1,
               die2 := u.die2, die3 := u.die3 }

namespace State.SameButHomes

variable {s u v : State}

theorem refl (s : State) : s.SameButHomes s := rfl

theorem trans (h : s.SameButHomes u) (k : u.SameButHomes v) : s.SameButHomes v := by
  unfold State.SameButHomes at *
  rw [k, h]

theorem of_dies (h : s.SameButDies u) : s.SameButHomes u := by rw [h]; rfl

theorem cx (h : s.SameButHomes u) : u.cx = s.cx := by rw [h]

end State.SameButHomes

theorem rekey_homes (s : State) (key : BitVec 8) (pa : Nat) : s.SameButHomes (s.rekey key pa) := by
  rw [State.rekey]
  generalize 256 = n
  split <;> rfl

theorem rekeyRange_homes (s : State) (key : BitVec 8) (pa n : Nat) : s.SameButHomes (s.rekeyRange key pa n) :=
  List.foldlRecOn _ _ (.refl s) fun u hu _ _ => hu.trans (rekey_homes u key _)

theorem writeBack_homes (s : State) (p : Nat → Nat → Bool) : s.SameButHomes (s.writeBack p) :=
  (State.SameButHomes.of_dies (watchAll_sameButDies s _)).trans rfl

theorem putHome_homes (s : State) (key : BitVec 8) (pa : Nat) (bs : List Byte) : s.SameButHomes (s.putHome key pa bs) :=
  (rekeyRange_homes s key pa bs.length).trans (.trans (.of_dies (recallAll_sameButDies _ pa bs.length))
    (.trans (.of_dies (watch_sameButDies _ pa bs.length)) rfl))

theorem setCore_homes (s : State) (c : CoreSt) : s.SameButHomes (s.setCore c) := rfl

theorem setDie_homes (s : State) (d : BitVec 2) (x : DieSt) : s.SameButHomes (s.setDie d x) := .of_dies (setDie_sameButDies s d x)

theorem tlbAdd_homes (s : State) (core : CoreId) (e : TlbE) : s.SameButHomes (s.tlbAdd core e) :=
  (setCore_homes s _).trans (setDie_homes _ _ _)

theorem tlbDrop_homes (s : State) (core : CoreId) (p : TlbE → Bool) : s.SameButHomes (s.tlbDrop core p) :=
  (setCore_homes s _).trans (setDie_homes _ _ _)

theorem pteCas_homes {s u : State} {key : BitVec 8} {pa : Nat} {old new : Word} (h : s.pteCas key pa old new = some u) : s.SameButHomes u := by
  unfold State.pteCas at h
  simp only at h
  split at h
  · obtain rfl := Option.some.inj h
    exact (writeBack_homes s _).trans (putHome_homes _ key pa _)
  · cases h

/-- R380: a translation at issue changes the TLBs and, on a first write, memory. -/
theorem xlate_homes (s : State) (core : CoreId) (pctx : BitVec 12) (key : BitVec 8) (user dw : Bool) (acc : BitVec 2) (va : Word) :
    s.SameButHomes (s.xlate core pctx key user dw acc va).2 := by
  unfold State.xlate
  split
  · exact .refl s
  split
  · exact .refl s
  split
  · exact .refl s
  split
  · split
    · next h => exact (pteCas_homes h).trans (tlbAdd_homes _ _ _)
    · exact tlbDrop_homes s _ _
  · exact .refl s

theorem access_homes {s u : State} {acc : BitVec 2} {dw : Bool} {va : Word} {pl : Place} (h : s.access acc dw va = .ok (pl, u)) :
    s.SameButHomes u := by
  have hx := xlate_homes s s.cx.id.coreId s.cx.pctx s.cx.prot.keyslot (!s.cx.priv) dw acc va
  unfold State.access at h
  split at h
  · next he => cases h; rw [he] at hx; exact hx
  · cases h
  · cases h

end Sys2Proof.Machine
end
section
/-! ## Matrix and copy instructions at issue (R156 to R163, R174, R175) -/

namespace Sys2Proof.Machine

/-! ### Computations that may stop -/

@[simp] theorem Try.ok_bind {α β : Type} (a : α) (f : α → Try β) : ((.ok a : Try α) >>= f) = f a := rfl
@[simp] theorem Try.error_bind {α β : Type} (d : Done) (f : α → Try β) : ((.error d : Try α) >>= f) = .error d := rfl
@[simp] theorem Try.pure_eq {α : Type} (a : α) : (pure a : Try α) = .ok a := rfl

theorem Try.bind_eq_ok {α β : Type} {x : Try α} {f : α → Try β} {b : β} (h : x >>= f = .ok b) : ∃ a, x = .ok a ∧ f a = .ok b := by
  cases x with
  | ok a => exact ⟨a, rfl, h⟩
  | error d => cases h

theorem holdPages_homes {acc : BitVec 2} {vas : List Word} {ps qs : List (Nat × Nat)} {a b : Bool} {s u : State}
    (h : holdPages acc vas ps a s = .ok (qs, b, u)) : s.SameButHomes u := by
  induction vas generalizing ps a s with
  | nil => cases h; exact .refl _
  | cons va vas ih =>
    unfold holdPages at h
    split at h
    · exact ih h
    split at h
    · cases h
    · next hx => exact (access_homes hx).trans (ih h)
    · next hx => exact (access_homes hx).trans (ih h)

theorem shapeOperand_homes {s u : State} {acc : BitVec 2} {base : Word} {fmt : BitVec 4} {rows cols stride : Nat} {ps : List (Nat × Nat)}
    (h : s.shapeOperand acc base fmt rows cols stride = .ok (ps, u)) : s.SameButHomes u := by
  unfold State.shapeOperand at h
  obtain ⟨-, -, h⟩ := Try.bind_eq_ok h
  obtain ⟨⟨qs, away, t⟩, hp, h⟩ := Try.bind_eq_ok h
  simp only at h
  split at h
  · cases h
  split at h
  · cases h
  cases h
  exact holdPages_homes hp

theorem firstPages_homes {s u : State} {mode : CpyMode} {dst src : Word} (h : s.firstPages mode dst src = .ok u) : s.SameButHomes u := by
  unfold State.firstPages at h
  obtain ⟨⟨p, t⟩, hs, h⟩ := Try.bind_eq_ok h
  obtain ⟨⟨q, v⟩, hd, h⟩ := Try.bind_eq_ok h
  cases h
  exact (access_homes hs).trans (access_homes hd)

/-! ### Tokens -/

/-- R39: the token of an operation that enters its queue is BUSY; the others keep their states. -/
theorem tokBusy_t (s : State) (tok : Option Tok) (k : Tok) :
    (s.tokBusy tok).cx.t[k.toFin] = if tok = some k then ⟨.busy, 0⟩ else s.cx.t[k.toFin] := by
  cases tok with
  | none => simp [State.tokBusy]
  | some t =>
    by_cases h : t = k
    · subst h; simp [State.tokBusy, Ctx.setTok]
    · have hne : t.toNat ≠ k.toNat := fun e => h (BitVec.eq_of_toNat_eq e)
      simp [State.tokBusy, Ctx.setTok, Vector.getElem_set_ne, hne, h]

theorem tokBusy_eq (s : State) (tok : Option Tok) : s.tokBusy tok = { s with cx := { s.cx with t := (s.tokBusy tok).cx.t } } := by
  cases tok <;> rfl

/-! ### The matrix queue -/

/-- R156: the operation stands last in the queue of its core, and its token is BUSY. -/
theorem mxIssue_queued (u : State) (x : TileNo) (tok : Option Tok) (kind : MxKind) (ps : List (Nat × Nat)) :
    ∃ v, u.mxIssue x tok kind ps = .fall v ∧
      v.myCore = { u.myCore with mxq := u.myCore.mxq ++ [⟨u.issuer, x, tok, kind, ps, u.fresh, []⟩] } ∧
      v = { u with fresh := u.fresh + 1, cores := v.cores, cx := { u.cx with t := v.cx.t } } ∧
      ∀ k : Tok, v.cx.t[k.toFin] = if tok = some k then ⟨.busy, 0⟩ else u.cx.t[k.toFin] := by
  refine ⟨_, rfl, ?_, ?_, fun k => tokBusy_t _ tok k⟩
  · rw [tokBusy_eq]
    exact (core_setCore ..).trans (if_pos (core_id u _))
  · rw [tokBusy_eq]
    rfl

theorem mxHolds_false {s : State} {tok : Option Tok} (hq : s.myCore.mxq.length < 2) (ht : s.tokIsBusy tok = false) : s.mxHolds tok = false := by
  simp [State.mxHolds, ht, hq]

/-- R161: 128 indices of K are one group of 128. -/
theorem quantGroups_wide (a : Tile) : quantGroups a 2 = 1 := by
  rw [quantGroups, quantK, if_pos rfl, groupSize]
  decide

/-- R163: the generator takes one step for each element of a drain. -/
theorem genSkip_eq (n : Nat) (g : Word) : genSkip n g = genStep^[n] g := by
  induction n generalizing g with
  | zero => rfl
  | succ n ih => exact ih _

/-- R163: the state after the generator steps of a drain, which it takes under SR. -/
def State.drained (s : State) (code : BitVec 3) : State :=
  if code = 4 then { s with cx := { s.cx with gen := genSkip 4096 s.cx.gen } } else s

theorem drained_eq (s : State) (code : BitVec 3) :
    s.drained code = { s with cx := { s.cx with gen := if code = 4 then genStep^[4096] s.cx.gen else s.cx.gen } } := by
  rw [State.drained, genSkip_eq]
  split <;> rfl

/-- R50, R163: a drain takes its generator steps, and its maximum is outstanding where gm is not g0. Nothing else of the state changes. -/
theorem drain_spec (s : State) (code : BitVec 3) (gm : GReg) :
    let u := (s.drained code).drainResult gm
    u.cx.gen = (if code = 4 then genStep^[4096] s.cx.gen else s.cx.gen) ∧
      u = { s with cx := { s.cx with gen := u.cx.gen, rem := u.cx.rem } } ∧ (gm = 0 → u.cx.rem = s.cx.rem) ∧
      (gm ≠ 0 → ∃ r : RemAcc, u.cx.rem = s.cx.rem ++ [r] ∧ r.kind = .value gm ∧ r.inRun = true ∧ r.counted = false ∧ r.req = s.fresh) := by
  rw [drained_eq]
  generalize (if code = 4 then genStep^[4096] s.cx.gen else s.cx.gen) = gen
  unfold State.drainResult
  split
  · next h => exact ⟨rfl, rfl, fun _ => rfl, fun hne => absurd h hne⟩
  · next h => exact ⟨rfl, rfl, fun he => absurd he h, fun _ => ⟨_, rfl, rfl, rfl, rfl, rfl⟩⟩

section
variable {s : State} {m : Mods} {x : TileNo} {tok : Option Tok}

/-- A matrix instruction whose operation enters the queue after its checks. -/
theorem falls_mxIssue {i : Instr} {len : Nat} {body : State → Done} {E : State → Prop} {u : State} {kind : MxKind} {ps : List (Nat × Nat)}
    (hi : exec i s = issue m len .plain s body) (h : s.Executes m .plain) (hb : body s = u.mxIssue x tok kind ps)
    (hE : ∀ v, v.myCore = { u.myCore with mxq := u.myCore.mxq ++ [⟨u.issuer, x, tok, kind, ps, u.fresh, []⟩] } ∧
      v = { u with fresh := u.fresh + 1, cores := v.cores, cx := { u.cx with t := v.cx.t } } ∧
      (∀ k : Tok, v.cx.t[k.toFin] = if tok = some k then ⟨.busy, 0⟩ else u.cx.t[k.toFin]) → E v) : Falls i s len m.sw E := by
  obtain ⟨v, hv, hq⟩ := mxIssue_queued u x tok kind ps
  exact falls_plain hi h (hb.trans hv) (hE v hq)

/-- Settles O31: each matrix instruction passes its checks one after another, and its operation enters the queue; no check changes the context. -/
theorem matrixIssue : Obligations.MatrixIssue := by
  intro s m x tok h hq ht
  have hh := mxHolds_false hq ht
  refine ⟨?_, ?_, ?_, ?_, ?_, ?_⟩
  case _ =>
    rintro rfl
    exact falls_mxIssue rfl h (by rw [if_neg (by simp [hh])]) fun v hv => hv
  case _ =>
    intro ga gb gc da db a b s1 s2 s3 s4 ps qs pa pb ha hb hpa hpb hk
    refine falls_mxIssue (u := s4) rfl h ?_ fun v hv => hv
    rw [mxmulBody, if_neg (by simp [hh])]
    simp only [Try.pure_eq, Try.ok_bind, ha, hb, hpa, hpb, if_neg (not_not_intro hk), Try.done, pa, pb]
  case _ =>
    intro ga gb gc gq gs da db a b s1 s2 s3 s4 s5 ps qs rs hgs pa pb ng ha hb hpa hpb hpz hoa hob hk
    refine falls_mxIssue (u := s5) rfl h ?_ fun v hv => hv
    rw [mxqBody, if_neg (by simp [hh])]
    simp only [Try.pure_eq, Try.ok_bind, ha, hb, pa, hpa, if_neg hgs, pb, hpb, ng, hpz]
    rw [if_neg (by simp [hoa, hob, hk])]
    rfl
  case _ =>
    intro ga gb gc gq da db a b s1 s2 s3 s4 s5 s6 ps ps' qs rs pa pb ha hb hpa hpa' hpb hpz hac hbr hbc
    refine falls_mxIssue (u := s6) rfl h ?_ fun v hv => hv
    rw [mxqBody, if_neg (by simp [hh])]
    simp only [Try.pure_eq, Try.ok_bind, ha, hb, pa, hpa, if_true, hpa', pb, hpb, quantGroups_wide, Nat.mul_one, Nat.one_mul, hpz]
    rw [if_neg (by simp [oddQ4, hac, hbr, hbc])]
    rfl
  case _ =>
    intro ga fmt sh rows cols stride s1 ps hsh hp
    refine falls_mxIssue (u := s1) rfl h ?_ fun v hv => hv
    rw [mxldxBody, if_neg (by simp [hh])]
    simp only [Try.pure_eq, Try.ok_bind, hsh, hp, Try.done]
  case _ =>
    intro ga gm fmt rm ov sh rows cols stride s1 ps hsh hp code
    have hcx := (shapeOperand_homes hp).cx
    have hcode : dynCode rm s1.cx.rmode = code := by rw [hcx]; rfl
    obtain ⟨hgen, hframe, hnone, hsome⟩ := drain_spec s1 code gm
    have hbody : Try.done (mxdrnBody x tok ga gm fmt rm ov sh s) =
        ((s1.drained code).drainResult gm).mxIssue x tok (.drain (s.g ga) gm (s.g gm) fmt code ov rows cols stride s.cx.gen) ps := by
      rw [mxdrnBody, if_neg (by simp [hh])]
      simp only [Try.pure_eq, Try.ok_bind, hsh, hp, hcode, ← hcx]
      rfl
    exact falls_mxIssue rfl h hbody fun v hv => ⟨_, hcx ▸ hgen, hframe, hnone, hsome, hv⟩
end

/-! ### The copy queue -/

theorem need_passes {s : State} {ok : Bool} (h : ok = true) (cause : BitVec 16) : s.need ok cause = .ok () := if_pos h

theorem need_fails {s : State} {ok : Bool} (h : ¬ ok = true) (cause : BitVec 16) : s.need ok cause = .error (.raise (s.flt 8 cause) s) := if_neg h

/-- R175: a counter named by gk is valid. -/
theorem gkOk_iff (s : State) (gk : GReg) : s.gkOk gk = true ↔ gk = 0 ∨ ctrOk s s.cx.prot (s.g gk) = true := by
  simp [State.gkOk]

theorem multiples_iff (mode : CpyMode) (vs : List Int) :
    multiples mode vs = true ↔ (mode.rd = true → ∀ v ∈ vs, v % (redBytes mode.fmt : Int) = 0) := by
  cases h : mode.rd <;> simp [multiples, h]

theorem detRange_iff (det : Bool) (n : Nat) : (!det || decide (n ≤ 65536)) = true ↔ (det = true → n ≤ 65536) := by
  cases det <;> simp

theorem takesAtOnce_eq (u : State) (core : CoreId) : u.takesAtOnce core = decide (u.copyActive core < 32 ∧ u.copyQueued core = 0) := by
  simp [State.takesAtOnce]

/-- R174: the state after a copy has entered the queue of its core. -/
def State.CopyAdded (u : State) (mode : CpyMode) (dst src : Word) (ctr : Option Word) (rowb rows : Nat) (dstr sstr : Int) (v : State) : Prop :=
  v = { u with
    fresh := u.fresh + 1
    copies := u.copies ++ [{
      id := u.fresh, by_ := u.issuer, tok := mode.tok, trig := none, dst := dst, src := src, rowb := rowb, rows := rows, dstr := dstr,
      sstr := sstr, rd := mode.rd, rop := mode.rop, fmt := mode.fmt, det := mode.det, ctr := ctr, pos := 0, landed := 0,
      begun := decide (u.copyActive u.cx.id.coreId < 32 ∧ u.copyQueued u.cx.id.coreId = 0), stopped := false, stall := none, onEntry := none,
      unacked := 0, buf := [], whole := none, applied := false, asked := false, err := 0, bad := none }]
    cx := { u.cx with t := v.cx.t } } ∧
  ∀ k : Tok, v.cx.t[k.toFin] = if mode.tok = some k then ⟨.busy, 0⟩ else u.cx.t[k.toFin]

theorem addCopy_added (u : State) (mode : CpyMode) (dst src : Word) (ctr : Option Word) (rowb rows : Nat) (dstr sstr : Int) :
    u.CopyAdded mode dst src ctr rowb rows dstr sstr (u.addCopy mode.tok dst src rowb rows dstr sstr mode ctr) := by
  refine ⟨?_, fun k => tokBusy_t _ mode.tok k⟩
  rw [State.addCopy, takesAtOnce_eq, tokBusy_eq]

section
variable {s : State} {m : Mods} {mode : CpyMode}

theorem copyHolds_false (hq : s.copyQueued s.cx.id.coreId < 2) (ht : s.tokIsBusy mode.tok = false) :
    ¬ (s.copyFull || s.tokIsBusy mode.tok) = true := by
  simp [State.copyFull, ht, hq]

/-- R174: CPY with room and an idle token: its checks one after another. -/
theorem cpyBody_room (hh : ¬ (s.copyFull || s.tokIsBusy mode.tok) = true) (gd gs gn gk : GReg) (len : CpyLen) {n : Nat}
    (hn : (if gn = 0 then len.value else (s.g gn).toNat) = n) :
    cpyBody gd gs gn gk mode len s = (do
      s.need (decide (n < 2 ^ 40) && (!mode.det || decide (n ≤ 65536))) 1
      s.need (s.gkOk gk) 3
      if n = 0 then pure (.fall (s.addCopy mode.tok (s.g gd) (s.g gs) 0 0 0 0 mode (s.named gk)))
      else do
        s.need (multiples mode [(s.g gs).toNat, (s.g gd).toNat, n]) 2
        let u ← s.firstPages mode (s.g gd) (s.g gs)
        pure (.fall (u.addCopy mode.tok (s.g gd) (s.g gs) n 1 0 0 mode (s.named gk)))) := by
  subst hn
  rw [cpyBody, if_neg hh]
  rfl

/-- R174: CPY2D with room and an idle token: its checks one after another. -/
theorem cpy2dBody_room (hh : ¬ (s.copyFull || s.tokIsBusy mode.tok) = true) (gd gs gsh gk : GReg) (st : CpyStride) {rowb rows : Nat}
    (hb : (fld (s.g gsh) 0 24).toNat = rowb) (hr : (fld (s.g gsh) 24 16).toNat = rows) :
    cpy2dBody gd gs gsh gk mode st s = (do
      s.need (rowb ≠ 0 && rows ≠ 0 && fld (s.g gsh) 40 24 = 0) 4
      s.need (!mode.det || decide (rowb * rows ≤ 65536)) 1
      s.need (s.gkOk gk) 3
      s.need (multiples mode [(s.g gs).toNat, (s.g gd).toNat, rowb, st.dst, st.src]) 2
      let u ← s.firstPages mode (s.g gd) (s.g gs)
      pure (.fall (u.addCopy mode.tok (s.g gd) (s.g gs) rowb rows st.dst st.src mode (s.named gk)))) := by
  subst hb hr
  rw [cpy2dBody, if_neg hh]
  rfl

end

/-- Settles O33: the checks of CPY and CPY2D in their order, with the fields of the shape as numbers. -/
theorem copyIssue : Obligations.CopyIssue := by
  intro s m gd gs gk mode h hq ht core ctr bad gkOk whole added
  have hgk : s.gkOk gk = true ↔ gkOk := gkOk_iff s gk
  have hadd : ∀ {u v rowb rows dstr sstr}, s.SameButHomes u → u.CopyAdded mode (s.g gd) (s.g gs) (s.named gk) rowb rows dstr sstr v →
      added u v rowb rows dstr sstr := by
    intro u v rowb rows dstr sstr hu hv
    rw [State.CopyAdded, hu.cx] at hv
    simpa only [added, hu.cx] using hv
  have hh := copyHolds_false hq ht
  have hwhole : ∀ vs, multiples mode vs = true ↔ whole vs := multiples_iff mode
  refine ⟨fun gn len => ?_, fun gsh st => ?_⟩
  · intro i n inRange
    have hbody := cpyBody_room hh gd gs gn gk len (n := n) rfl
    have hrange : (decide (n < 2 ^ 40) && (!mode.det || decide (n ≤ 65536))) = true ↔ inRange := by
      rw [Bool.and_eq_true, decide_eq_true_eq, detRange_iff]
    rw [← hrange, ← hgk, ← hwhole]
    refine ⟨fun h1 => raises_of rfl h ?_, fun h1 h3 => raises_of rfl h ?_, fun h1 h3 hn h2 => raises_of rfl h ?_,
      fun h1 h3 hn => falls_plain rfl h ?_ (hadd (.refl s) (addCopy_added ..)),
      fun s1 h1 h3 hn h2 hp => falls_plain rfl h ?_ (hadd (firstPages_homes hp) (addCopy_added ..))⟩
    · rw [hbody, need_fails h1]; rfl
    · rw [hbody, need_passes h1, need_fails h3]; rfl
    · rw [hbody, need_passes h1, need_passes h3, if_neg hn, need_fails h2]; rfl
    · rw [hbody, need_passes h1, need_passes h3, if_pos hn]; rfl
    · rw [hbody, need_passes h1, need_passes h3, if_neg hn, need_passes h2, hp]; rfl
  · intro i sh rowb rows shaped inRange all
    have hb : (fld (s.g gsh) 0 24).toNat = rowb := by rw [fld_toNat, Nat.pow_zero, Nat.div_one]
    have hr : (fld (s.g gsh) 24 16).toNat = rows := fld_toNat ..
    have hbody := cpy2dBody_room hh gd gs gsh gk st hb hr
    have hshaped : (rowb ≠ 0 && rows ≠ 0 && fld (s.g gsh) 40 24 = 0) = true ↔ shaped := by
      have hlt : sh < 2 ^ 64 := (s.g gsh).isLt
      have htop : fld (s.g gsh) 40 24 = 0 ↔ sh / 2 ^ 40 = 0 := by
        rw [eq_zero_iff_toNat, fld_toNat, Nat.mod_eq_of_lt (by omega)]
      simp only [Bool.and_eq_true, decide_eq_true_eq, htop, and_assoc]
      rfl
    have hrange : (!mode.det || decide (rowb * rows ≤ 65536)) = true ↔ inRange := detRange_iff ..
    rw [← hshaped, ← hgk, ← hwhole, ← hrange]
    refine ⟨fun h4 => raises_of rfl h ?_, fun h4 h1 => raises_of rfl h ?_, fun h4 h1 h3 => raises_of rfl h ?_,
      fun h4 h1 h3 h2 => raises_of rfl h ?_,
      fun s1 h4 h1 h3 h2 hp => falls_plain rfl h ?_ (hadd (firstPages_homes hp) (addCopy_added ..))⟩
    · rw [hbody, need_fails h4]; rfl
    · rw [hbody, need_passes h4, need_fails h1]; rfl
    · rw [hbody, need_passes h4, need_passes h1, need_fails h3]; rfl
    · rw [hbody, need_passes h4, need_passes h1, need_passes h3, need_fails h2]; rfl
    · rw [hbody, need_passes h4, need_passes h1, need_passes h3, need_passes h2, hp]; rfl

end Sys2Proof.Machine
end

section
/-! ## One context among the others -/

namespace Sys2Proof.Machine

theorem ctxIn_id (id : CtxId) (l : List Ctx) : (ctxIn id l).id = id := by
  induction l with
  | nil => rfl
  | cons c l ih =>
    unfold ctxIn
    split
    · next h => exact h
    · exact ih

@[simp] theorem ctx_id (s : State) (id : CtxId) : (s.ctx id).id = id := by
  unfold State.ctx
  split
  · next h => exact h
  · exact ctxIn_id id s.ctxs

theorem ctx_cx (s : State) : s.ctx s.cx.id = s.cx := if_pos rfl

theorem ctxIn_filter {id c : CtxId} (h : c ≠ id) (l : List Ctx) : ctxIn c (l.filter (fun x => x.id ≠ id)) = ctxIn c l := by
  induction l with
  | nil => rfl
  | cons x l ih =>
    by_cases hx : x.id = id
    · have hc : x.id ≠ c := fun e => h (e ▸ hx)
      rw [List.filter_cons_of_neg (by simpa using hx), ih, ctxIn, if_neg hc]
    · rw [List.filter_cons_of_pos (by simpa using hx)]
      simp only [ctxIn, ih]

/-- The context that issues is the one named. -/
@[simp] theorem focus_cx (s : State) (id : CtxId) : (s.focus id).cx = s.ctx id := by
  unfold State.focus
  split
  · next h => rw [← h, ctx_cx]
  · rfl

/-- Which context issues does not change any of them. -/
@[simp] theorem focus_ctx (s : State) (id c : CtxId) : (s.focus id).ctx c = s.ctx c := by
  by_cases hc : id = c
  · subst hc
    have h := ctx_cx (s.focus id)
    simpa using h
  · unfold State.focus
    split
    · rfl
    · next hs =>
      rw [State.ctx, if_neg (by simpa using hc), ctxIn_putCtxIn, ctxIn_filter (Ne.symm hc)]
      rfl

/-- Beside the contexts, a change of the issuing one changes nothing. -/
theorem focus_eq (s : State) (id : CtxId) : s.focus id = { s with cx := (s.focus id).cx, ctxs := (s.focus id).ctxs } := by
  unfold State.focus
  split <;> rfl

/-- A change made with a context as the issuing one is seen from every other. -/
@[simp] theorem withCtx_ctx (s : State) (id c : CtxId) (f : State → State) : (s.withCtx id f).ctx c = (f (s.focus id)).ctx c := focus_ctx ..

/-- A change that concerns only the issuing context leaves the others. -/
theorem ctx_of_cx {s u : State} (hid : u.cx.id = s.cx.id) (hothers : u.ctxs = s.ctxs) (c : CtxId) :
    u.ctx c = if s.cx.id = c then u.cx else s.ctx c := by
  unfold State.ctx
  rw [hid, hothers]
  split <;> rfl

/-- A change of one context alone. -/
theorem withCtx_onlyCtx {s : State} {c : CtxId} {f : State → State} (hid : (f (s.focus c)).cx.id = c)
    (hothers : (f (s.focus c)).ctxs = (s.focus c).ctxs) : s.OnlyCtx c (f (s.focus c)).cx (s.withCtx c f) := by
  have h := fun d => ctx_of_cx (hid.trans (ctx_id s c).symm |>.trans (congrArg Ctx.id (focus_cx s c)).symm) hothers d
  refine ⟨?_, fun d hd => ?_⟩
  · rw [withCtx_ctx, h, if_pos (by simp)]
  · rw [withCtx_ctx, h, if_neg (by simpa using Ne.symm hd), focus_ctx]

/-- An event, beside which only time passes. -/
theorem does_counted {i : Instr} {s u : State} {E : State → Prop} (hi : exec i s = .next u.counted) (hE : E u) : Does i s E :=
  ⟨u, _, hE, rfl, hi⟩

end Sys2Proof.Machine
end

section
/-! ## Results, switch points and runs (R48 to R53) -/

namespace Sys2Proof.Machine

/-! ### Results -/

/-- R48: a result is written into its register and nowhere else. -/
theorem put_eq (v : RegVal) (c : Ctx) : v.put c = { c with g := (v.put c).g, a := (v.put c).a, m := (v.put c).m, q := (v.put c).q } := by
  cases v <;> rfl

/-- A context that differs only in the registers that results are written to. -/
def Ctx.Wrote (c d : Ctx) : Prop := d = { c with g := d.g, a := d.a, m := d.m, q := d.q, landed := d.landed }

theorem commitOne_wrote (n k : Nat) (v : RegVal) (c : Ctx) : c.Wrote (commitOne n k v c) := by
  unfold commitOne Ctx.Wrote
  split
  · split
    · rw [put_eq]
    · rfl
  · rw [put_eq]

/-- R50: writing the results of a run changes only registers, and ends the run. -/
theorem commitAll_eq (n : Nat) (c : Ctx) : commitAll n c =
    { c with g := (commitAll n c).g, a := (commitAll n c).a, m := (commitAll n c).m, q := (commitAll n c).q, pend := [], landed := [], runLen := 0 } := by
  have h : c.Wrote (c.pend.zipIdx.foldl (fun c v => commitOne n v.2 v.1 c) c) :=
    List.foldlRecOn _ _ rfl fun d hd v _ => by
      have hv := commitOne_wrote n v.2 v.1 d
      unfold Ctx.Wrote at *
      rw [hv, hd]
  unfold Ctx.Wrote at h
  unfold commitAll
  rw [h]

/-- R49: which of two results survives does not depend on the status. -/
theorem commitOne_status (n k : Nat) (v : RegVal) (c : Ctx) (st : Status) :
    commitOne n k v { c with status := st } = { commitOne n k v c with status := st } := by
  have hput : v.put { c with status := st } = { v.put c with status := st } := by cases v <;> rfl
  simp only [commitOne, hput]
  split
  · split <;> rfl
  · rfl

theorem commitAll_status (n : Nat) (c : Ctx) (st : Status) : commitAll n { c with status := st } = { commitAll n c with status := st } := by
  have h : ∀ (l : List (RegVal × Nat)) (d : Ctx), l.foldl (fun c v => commitOne n v.2 v.1 c) { d with status := st } =
      { l.foldl (fun c v => commitOne n v.2 v.1 c) d with status := st } := by
    intro l
    induction l with
    | nil => exact fun d => rfl
    | cons v l ih => exact fun d => by rw [List.foldl_cons, List.foldl_cons, commitOne_status, ih]
  simp only [commitAll, h]

theorem writeOne_new {c : Ctx} {i n : Nat} {v : RegVal} (hv : c.pend[i]? = some v) (hnew : v.name ∉ c.landed) :
    c.writeOne n i = { v.put c with landed := v.name :: c.landed, pend := c.pend.eraseIdx i } := by
  rw [Ctx.writeOne, hv]
  simp only [commitOne, if_neg hnew]

/-- R48: a late result. -/
theorem vClassResultWrite_does {s : State} {c : CtxId} {i : Nat} {v : RegVal} (hv : (s.ctx c).pend[i]? = some v) (hnew : v.name ∉ (s.ctx c).landed) :
    Does (.vClassResultWrite c i) s
      (s.OnlyCtx c { v.put (s.ctx c) with landed := v.name :: (s.ctx c).landed, pend := (s.ctx c).pend.eraseIdx i }) := by
  have hw : (s.focus c).cx.writeOne (s.focus c).issued i = { v.put (s.ctx c) with landed := v.name :: (s.ctx c).landed, pend := (s.ctx c).pend.eraseIdx i } := by
    rw [focus_cx]
    exact writeOne_new hv hnew
  refine does_counted rfl ?_
  rw [← hw]
  refine withCtx_onlyCtx (f := fun s => { s with cx := s.cx.writeOne s.issued i }) ?_ rfl
  rw [hw, put_eq]
  exact ctx_id s c

/-! ### Timers of phasers after a switch point -/

/-- What the freezing of timers may change of the issuing context: a deadline where it waits, and what other packages have been told. -/
def State.Froze (s u : State) : Prop :=
  u.mem = s.mem ∧ ((∀ w d sw len, s.cx.status ≠ .waiting w d sw len) → u.cx = { s.cx with toldHalt := u.cx.toldHalt })

namespace State.Froze

variable {s u v : State}

theorem refl (s : State) : s.Froze s := ⟨rfl, fun _ => rfl⟩

theorem trans (h : s.Froze u) (k : u.Froze v) : s.Froze v := by
  obtain ⟨hm, hc⟩ := h
  obtain ⟨km, kc⟩ := k
  refine ⟨km.trans hm, fun hw => ?_⟩
  have hu := hc hw
  have hv := kc (by rw [hu]; exact hw)
  rw [hv, hu]

end State.Froze

theorem thaw_of_not_waiting {c : Ctx} (h : ∀ w d sw len, c.status ≠ .waiting w d sw len) (id now since : Word) : c.thaw id now since = c := by
  unfold Ctx.thaw
  split
  · next hs => exact absurd hs (h _ _ _ _)
  · rfl

theorem sendNumbered_froze (s : State) (p : Packet) : s.Froze (s.sendNumbered p) := by
  have hsend : ∀ (t : State) q, t.Froze (t.send q) := fun t q => ⟨send_mem .., fun _ => by unfold State.send; split <;> rfl⟩
  unfold State.sendNumbered
  split
  · exact hsend s p
  · simp only
    split
    · exact (show s.Froze (s.setCore _) from ⟨rfl, fun _ => rfl⟩).trans ((hsend _ _).trans ⟨rfl, fun _ => rfl⟩)
    · exact ⟨rfl, fun _ => rfl⟩

theorem tellHalts_froze (s : State) : s.Froze s.tellHalts := by
  unfold State.tellHalts
  refine List.foldlRecOn _ _ (.refl s) fun u hu c _ => hu.trans ?_
  refine (List.foldlRecOn _ _ (.refl u) fun t ht j _ => ht.trans (sendNumbered_froze t _) : u.Froze _).trans ⟨rfl, fun _ => ?_⟩
  simp only [State.mapCtxs]
  split <;> rfl

theorem freeze_froze (s : State) : s.Froze s.freeze := by
  unfold State.freeze
  refine (tellHalts_froze s).trans (List.foldlRecOn _ _ (.refl _) fun u hu p _ => hu.trans ?_)
  split
  · exact ⟨rfl, fun _ => rfl⟩
  · next t _ _ =>
    refine ⟨rfl, fun hw => ?_⟩
    have hsame : u.cx.thaw p.id u.time t = u.cx := thaw_of_not_waiting hw ..
    exact hsame.trans (congrArg (fun c : Ctx => { u.cx with toldHalt := c.toldHalt }) hsame.symm)
  · exact .refl u

/-! ### The switch point of a context that nothing troubles -/

/-- R363: a context that has been charged up to the present. -/
theorem charge_of_charged {s : State} (h : ∀ r, s.cx.run = some r → r.charged = s.time) : s.charge = s := by
  unfold State.charge
  cases hr : s.cx.run with
  | none => rfl
  | some r =>
    have hns : s.time - r.charged = 0 := by rw [h r hr]; exact BitVec.sub_self _
    simp only [hns, ne_eq, not_true_eq_false, decide_false, Bool.false_and, Bool.false_eq_true, if_false]
    have hcx : { s.cx with run := some { r with charged := s.time } } = s.cx := by rw [← h r hr, ← hr]
    rw [hcx]

theorem charged_of_untroubled {s : State} (h : s.Untroubled) : ∀ r, s.cx.run = some r → r.charged = s.time := by
  obtain ⟨-, -, -, -, -, -, -, -, -, -, hcharged⟩ := h
  exact hcharged

theorem gangIds_alone {c : Ctx} (h : c.inGang = false) : c.gangIds = [c.id] := by
  unfold Ctx.gangIds
  unfold Ctx.inGang at h
  split
  · next g hg => rw [hg] at h; simp only at h; rw [h]; rfl
  · rfl

theorem cores_alone {c : Ctx} (h : c.inGang = false) : c.cores = [c.id.coreId] := by rw [Ctx.cores, gangIds_alone h]; rfl

section
variable {s : State}

/-- Nothing is to be delivered to a context in no gang at its switch point. -/
def State.Quiet (s : State) : Prop :=
  s.cx.inGang = false ∧ s.cx.awaits = false ∧ s.retiring = false ∧ s.cx.errs = [] ∧ s.cx.rgfail = none ∧ s.cx.fault = none ∧ s.cx.haltReq = false

theorem quiet_of_untroubled (h : s.Untroubled) : s.Quiet := by
  obtain ⟨hgang, hawaits, hret, herrs, hrg, hfault, hhalt, -, -, -, -⟩ := h
  exact ⟨hgang, hawaits, hret, herrs, hrg, hfault, hhalt⟩

/-- R50: a context that nothing is to be delivered to is ready after its switch point. -/
theorem passSwitch_quiet (h : s.Quiet) : s.passSwitch = { s with cx := { commitAll s.issued s.cx with status := .ready } } := by
  obtain ⟨hgang, hawaits, hret, herrs, hrg, hfault, hhalt⟩ := h
  have hcx := commitAll_eq s.issued s.cx
  have hret' : s.commitRun.retiring = false := by
    rw [← hret]
    simp only [State.retiring, State.commitRun]
    rw [hcx]
  have herrs' : s.commitRun.cx.errs = [] := by rw [State.commitRun, hcx]; exact herrs
  have hrg' : s.commitRun.cx.rgfail = none := by rw [State.commitRun, hcx]; exact hrg
  have hfault' : s.commitRun.cx.fault = none := by rw [State.commitRun, hcx]; exact hfault
  have hhalt' : s.commitRun.cx.haltReq = false := by rw [State.commitRun, hcx]; exact hhalt
  rw [State.passSwitch, gangIds_alone hgang, if_neg (by simp [ctx_cx, hawaits]), if_neg (by simp [hgang]), State.passOne]
  simp only [hret', herrs', hrg', hfault', hhalt', Bool.false_and, Bool.false_eq_true, if_false]
  rw [State.commitRun, hcx]
  simp only [herrs, hrg, hfault, hhalt]

/-- What both switch points leave. -/
theorem freeze_passSwitch {t : State} (h : t.Quiet) :
    t.passSwitch.freeze.cx = { commitAll t.issued t.cx with status := .ready, toldHalt := t.passSwitch.freeze.cx.toldHalt } ∧
      t.passSwitch.freeze.mem = t.mem := by
  obtain ⟨hmem, hcx⟩ := freeze_froze t.passSwitch
  have hpass := passSwitch_quiet h
  refine ⟨?_, hmem.trans (by rw [hpass])⟩
  have hfrozen := hcx (by rw [hpass]; exact fun _ _ _ _ => Status.noConfusion)
  rw [hpass] at hfrozen ⊢
  exact hfrozen

/-- R50: the switch point of a run that has ended. -/
theorem switchPoint_ends (h : s.Untroubled) (hs : s.cx.status = .atSwitch) : Does .switchPoint s (fun u =>
    u.cx = { commitAll s.issued s.cx with status := .ready, toldHalt := u.cx.toldHalt } ∧ u.mem = s.mem) := by
  refine does_counted rfl ?_
  rw [charge_of_charged (charged_of_untroubled h), State.switchOver, hs]
  exact freeze_passSwitch (quiet_of_untroubled h)

/-- R51: the 512th instruction ends its run. -/
theorem forcedSwitchPoint_ends (h : s.Untroubled) (hn : 512 ≤ s.cx.runLen) : Does .forcedSwitchPoint s (fun u =>
    u.cx = { commitAll s.issued s.cx with status := .ready, toldHalt := u.cx.toldHalt } ∧ u.mem = s.mem) := by
  have hquiet := quiet_of_untroubled h
  have hend : s.endRun.Quiet := hquiet
  have hup := charged_of_untroubled h
  have hcharged : s.endRun.charge = s.endRun := charge_of_charged (s := s.endRun) hup
  have hexec : exec .forcedSwitchPoint s = .next (s.endRun.charge.switchOver).freeze.counted := by
    rw [exec, execForcedSwitchPoint, if_pos hn]
  refine does_counted hexec ?_
  rw [hcharged, State.switchOver]
  simpa only [State.endRun, commitAll_status] using freeze_passSwitch hend

/-! ### The next run of a core (R53) -/

theorem leastBy_least {α : Type} {f : α → Nat} {l : List α} {y : α} (h : leastBy f l = some y) : y ∈ l ∧ ∀ x ∈ l, f y ≤ f x := by
  induction l generalizing y with
  | nil => cases h
  | cons x l ih =>
    unfold leastBy at h
    split at h
    · next z hz =>
      obtain ⟨hmem, hle⟩ := ih hz
      split at h <;> cases h
      · next hlt => exact ⟨List.mem_cons_of_mem x hmem, List.forall_mem_cons.mpr ⟨hlt.le, hle⟩⟩
      · next hlt => exact ⟨List.mem_cons_self, List.forall_mem_cons.mpr ⟨le_refl _, fun w hw => (Nat.le_of_not_lt hlt).trans (hle w hw)⟩⟩
    · next hz =>
      cases h
      cases l with
      | nil => simp
      | cons w l =>
        unfold leastBy at hz
        split at hz
        · split at hz <;> cases hz
        · cases hz

theorem ctxIn_of_mem {c : Ctx} {l : List Ctx} (hc : c ∈ l) (hl : (l.map (·.id)).Nodup) : ctxIn c.id l = c := by
  induction l with
  | nil => cases hc
  | cons x l ih =>
    rw [List.map_cons, List.nodup_cons] at hl
    obtain ⟨hx, hl⟩ := hl
    rcases List.mem_cons.mp hc with rfl | hc
    · exact if_pos rfl
    · have hne : x.id ≠ c.id := fun e => hx (e ▸ List.mem_map_of_mem hc)
      rw [ctxIn, if_neg hne, ih hc hl]

/-- A listed context is the one of its name, where no name is listed twice. -/
theorem ctx_of_mem {c : Ctx} (hc : c ∈ s.allCtxs) (hl : (s.allCtxs.map (·.id)).Nodup) : s.ctx c.id = c :=
  ctxIn_of_mem hc hl

/-- R53, R111: the contexts among which a run is chosen wait for it. -/
theorem waiting_of_choices {core : CoreId} {c : Ctx} (h : c ∈ s.choices core) : c ∈ s.waitingOn core := by
  unfold State.choices at h
  simp only at h
  split at h
  · exact h
  · exact List.mem_of_mem_filter h

/-- R111: one that has not yielded is among them. -/
theorem choices_of_waiting {core : CoreId} {c : Ctx} (h : c ∈ s.waitingOn core) (hy : c.yielded = false) : c ∈ s.choices core := by
  unfold State.choices
  simp only
  split
  · exact h
  · exact List.mem_filter.mpr ⟨h, by simp [hy]⟩

/-- R53: the context that takes a core is ready, and no other that has not yielded has a lower PRIO. -/
theorem nextRun_chosen {core : CoreId} {id : CtxId} (hl : (s.allCtxs.map (·.id)).Nodup) (h : s.nextRun core = some id) :
    (s.ctx id).status = .ready ∧ ∀ c ∈ s.waitingOn core, c.yielded = false → (s.ctx id).prio.toNat ≤ c.prio.toNat := by
  unfold State.nextRun at h
  obtain ⟨x, hx, rfl⟩ := Option.map_eq_some_iff.mp h
  obtain ⟨hx, -⟩ := Option.filter_eq_some_iff.mp hx
  obtain ⟨hmem, hleast⟩ := leastBy_least hx
  have hwait := waiting_of_choices hmem
  unfold State.waitingOn at hwait
  obtain ⟨hall, hmay⟩ := List.mem_filter.mp hwait
  rw [ctx_of_mem hall hl]
  refine ⟨?_, fun c hc hy => ?_⟩
  · simp only [State.mayIssue, Bool.and_eq_true, decide_eq_true_eq] at hmay
    tauto
  · have hle := hleast c (choices_of_waiting hc hy)
    have h1 := (x.slotOn core - (s.core core).last - 1).isLt
    have h2 := (c.slotOn core - (s.core core).last - 1).isLt
    omega

theorem takeCore_foldl_cx (ids : List CtxId) (t : State) : (ids.foldl State.takeCore t).cx = t.cx :=
  List.foldlRecOn (motive := fun u : State => u.cx = t.cx) ids _ rfl fun _ hu _ _ => hu

/-- R53: the run of a context begins. -/
theorem beginRun_cx (id : CtxId) :
    ∃ y, (s.beginRun id).cx = { s.ctx id with yielded := y, status := .running, code := [] } := by
  unfold State.beginRun
  simp only [takeCore_foldl_cx, focus_cx]
  split
  · exact ⟨false, rfl⟩
  · exact ⟨_, rfl⟩

/-- R53: a ready context to which nothing is to be delivered leaves its core to the chosen one. -/
theorem switchOver_ready (h : s.Untroubled) (hs : s.cx.status = .ready) {id : CtxId} (hheld : s.coreHeld s.cx.id.coreId = false)
    (hnext : s.nextRun s.cx.id.coreId = some id) : s.switchOver = s.beginRun id := by
  obtain ⟨hgang, -, hret, herrs, hrg, -, hhalt, hvictim, hunpin, hdrain, -⟩ := h
  have hpending : s.pending = false := by
    simp [State.pending, hret, gangIds_alone hgang, ctx_cx, Ctx.owesDelivery, herrs, hrg]
  have hchoose : s.chooseRun = s.beginRun id := by
    simp [State.chooseRun, cores_alone hgang, hheld, hnext]
  rw [State.switchOver, hs]
  simp only [hpending, hvictim, hunpin, hdrain, hhalt, hchoose, Bool.false_and, Option.isSome_none, Bool.false_eq_true, if_false]

theorem switchPoint_begins (h : s.Untroubled) (hs : s.cx.status = .ready) {id : CtxId} (hheld : s.coreHeld s.cx.id.coreId = false)
    (hnext : s.nextRun s.cx.id.coreId = some id) :
    Does .switchPoint s (fun u => u.cx.id = id ∧ u.cx.status = .running ∧ u.cx.pc = (s.ctx id).pc ∧ u.cx.g = (s.ctx id).g) := by
  refine does_counted rfl ?_
  rw [charge_of_charged (charged_of_untroubled h), switchOver_ready h hs hheld hnext]
  obtain ⟨y, hbegin⟩ := beginRun_cx (s := s) id
  have hfrozen := (freeze_froze (s.beginRun id)).2 (by rw [hbegin]; exact fun _ _ _ _ => Status.noConfusion)
  rw [hfrozen, hbegin]
  exact ⟨ctx_id s id, rfl, rfl, rfl⟩

end

/-- Settles O49: late results, the two switch points of a run, and the choice of the next. -/
theorem runEvents : Obligations.RunEvents := by
  refine ⟨fun s c i v => vClassResultWrite_does, fun s h hs => switchPoint_ends h hs, fun s h _ hn => forcedSwitchPoint_ends h hn,
    fun s id h hs hl hheld hnext => ?_⟩
  obtain ⟨u, t, ⟨hid, hst, hpc, hg⟩, ht, hi⟩ := switchPoint_begins h hs hheld hnext
  exact ⟨u, t, ⟨hid, hst, hpc, hg, nextRun_chosen hl hnext⟩, ht, hi⟩

end Sys2Proof.Machine
end

section
/-! ## What the agents of a package leave of its contexts -/

namespace Sys2Proof.Machine

/-- A context with the same run, free or not, with the same registers g and t and program counter. -/
def Ctx.SameRun (x y : Ctx) : Prop := y.id = x.id ∧ y.run = x.run ∧ y.g = x.g ∧ y.pc = x.pc ∧ y.t = x.t ∧ (y.status = .free ↔ x.status = .free)

theorem Ctx.SameRun.refl (x : Ctx) : x.SameRun x := ⟨rfl, rfl, rfl, rfl, rfl, .rfl⟩

theorem Ctx.SameRun.trans {x y z : Ctx} (h : x.SameRun y) (k : y.SameRun z) : x.SameRun z := by
  obtain ⟨hid, hrun, hg, hpc, ht, hst⟩ := h
  obtain ⟨kid, krun, kg, kpc, kt, kst⟩ := k
  exact ⟨kid.trans hid, krun.trans hrun, kg.trans hg, kpc.trans hpc, kt.trans ht, kst.trans hst⟩

/-- Every context goes on with its run, registers g and t and program counter; the fault queues keep their entries, and the engines their copies and
rows. -/
def State.KeepsRuns (s u : State) : Prop :=
  (u.fq = s.fq ∧ u.copies.map Copy.id = s.copies.map Copy.id ∧ u.rows = s.rows) ∧ ∃ f : Ctx → Ctx, (∀ x : Ctx, x.SameRun (f x)) ∧ u.cx = f s.cx ∧ u.ctxs = s.ctxs.map f

namespace State.KeepsRuns

variable {s u v : State}

/-- A change beside the contexts and the fault queues. -/
theorem of_same (hcx : u.cx = s.cx) (hctxs : u.ctxs = s.ctxs) (hfq : u.fq = s.fq)
    (hcopies : u.copies.map Copy.id = s.copies.map Copy.id := by rfl) (hrows : u.rows = s.rows := by rfl) : s.KeepsRuns u :=
  ⟨⟨hfq, hcopies, hrows⟩, id, Ctx.SameRun.refl, hcx, hctxs.trans (List.map_id _).symm⟩

theorem refl (s : State) : s.KeepsRuns s := of_same rfl rfl rfl

theorem trans (h : s.KeepsRuns u) (k : u.KeepsRuns v) : s.KeepsRuns v := by
  obtain ⟨⟨hfq, hcopies, hrows⟩, f, hf, hcx, hctxs⟩ := h
  obtain ⟨⟨kfq, kcopies, krows⟩, g, hg, kcx, kctxs⟩ := k
  exact ⟨⟨kfq.trans hfq, kcopies.trans hcopies, krows.trans hrows⟩, g ∘ f, fun x => (hf x).trans (hg _), kcx.trans (congrArg g hcx), by rw [kctxs, hctxs, List.map_map]⟩

theorem of_homes (h : s.SameButHomes u) : s.KeepsRuns u := by rw [h]; exact of_same rfl rfl rfl

/-- A change of every context that keeps their runs. -/
theorem of_map {f : Ctx → Ctx} (hf : ∀ x : Ctx, x.SameRun (f x)) (hcx : u.cx = f s.cx) (hctxs : u.ctxs = s.ctxs.map f) (hfq : u.fq = s.fq)
    (hcopies : u.copies.map Copy.id = s.copies.map Copy.id := by rfl) (hrows : u.rows = s.rows := by rfl) : s.KeepsRuns u :=
  ⟨⟨hfq, hcopies, hrows⟩, f, hf, hcx, hctxs⟩

theorem foldl {α : Type} {l : List α} {f : State → α → State} (hf : ∀ (t : State) (a : α), t.KeepsRuns (f t a)) (s : State) : s.KeepsRuns (l.foldl f s) :=
  List.foldlRecOn l f (refl s) fun t ht a _ => ht.trans (hf t a)

theorem fq (h : s.KeepsRuns u) : u.fq = s.fq := by
  obtain ⟨⟨hfq, -, -⟩, -⟩ := h
  exact hfq

theorem copies (h : s.KeepsRuns u) : u.copies.map Copy.id = s.copies.map Copy.id := by
  obtain ⟨⟨-, hcopies, -⟩, -⟩ := h
  exact hcopies

theorem rows (h : s.KeepsRuns u) : u.rows = s.rows := by
  obtain ⟨⟨-, -, hrows⟩, -⟩ := h
  exact hrows

theorem cx (h : s.KeepsRuns u) : s.cx.SameRun u.cx := by
  obtain ⟨-, f, hf, hcx, -⟩ := h
  rw [hcx]
  exact hf s.cx

theorem ctx (h : s.KeepsRuns u) (c : CtxId) : (s.ctx c).SameRun (u.ctx c) := by
  obtain ⟨-, f, hf, hcx, hctxs⟩ := h
  have hid : ∀ x, (f x).id = x.id := fun x => (hf x).1
  have hmap : ∀ l : List Ctx, (ctxIn c l).SameRun (ctxIn c (l.map f)) := by
    intro l
    induction l with
    | nil => exact .refl _
    | cons x l ih =>
      rw [List.map_cons, ctxIn, ctxIn, hid]
      split
      · exact hf x
      · exact ih
  unfold State.ctx
  rw [hcx, hid, hctxs]
  split
  · exact hf s.cx
  · exact hmap s.ctxs

end State.KeepsRuns

section
variable (s : State)

/-! ### Packets -/

theorem send_keeps (p : Packet) : s.KeepsRuns (s.send p) := by
  unfold State.send
  split <;> exact .of_same rfl rfl rfl

theorem sendNumbered_keeps (p : Packet) : s.KeepsRuns (s.sendNumbered p) := by
  unfold State.sendNumbered
  split
  · exact send_keeps s p
  · simp only
    split
    · exact (State.KeepsRuns.of_homes (setCore_homes s _)).trans ((send_keeps _ _).trans (.of_same rfl rfl rfl))
    · exact .of_same rfl rfl rfl

theorem tellPkg_keeps (pkg : BitVec 12) (m : PrmMsg) : s.KeepsRuns (s.tellPkg pkg m) := sendNumbered_keeps s _

theorem tellPods_keeps (m : PrmMsg) : s.KeepsRuns (s.tellPods m) := .foldl (fun t p => tellPkg_keeps t p m) s

theorem account_keeps (pkg pctx : BitVec 12) (region run ns : Word) (ended : Bool) : s.KeepsRuns (s.account pkg pctx region run ns ended) :=
  tellPkg_keeps s _ _

theorem sendInvTo_keeps (i : Inv) (src : CoreId) (sag : BitVec 4) : s.KeepsRuns (s.sendInvTo i src sag) := by
  have haway : s.KeepsRuns (s.noteAway (nmPkg i.target) i.pctx i.region) := by
    unfold State.noteAway
    split
    · exact .refl s
    · exact .of_same rfl rfl rfl
  exact haway.trans (sendNumbered_keeps _ _)

theorem rxSet_keeps (k : Nat) (r : RxSeries) : s.KeepsRuns (s.rxSet k r) := .of_same rfl rfl rfl

theorem bulkAck_keeps (p : Packet) (fail : Option Word) : s.KeepsRuns (s.bulkAck p fail) := by
  have hreply : ∀ (t : State) q, t.KeepsRuns (t.reply p q) := by
    intro t q
    unfold State.reply
    split
    · exact send_keeps t q
    · exact (rxSet_keeps t _ _).trans (send_keeps _ q)
  have hunhold : s.KeepsRuns (s.unholdSeq p) := by
    unfold State.unholdSeq
    split
    · exact .refl s
    · exact rxSet_keeps s _ _
  exact hunhold.trans (hreply _ _)

/-! ### Writes of the device -/

theorem markUsed_homes (prot : Prot) (va : Word) (write : Bool) : s.SameButHomes (s.markUsed prot va write) := by
  unfold State.markUsed
  split
  · next e lvl ptePa _ =>
    simp only
    generalize e ||| 64 ||| (if write = true then 128 else 0) = new
    split
    · exact .refl s
    · cases h : s.pteCas prot.keyslot ptePa e new with
      | none => exact .refl s
      | some u => exact pteCas_homes h
  · exact .refl s

theorem devPut_homes (prot : Prot) (va : Word) (bs : List Byte) : s.SameButHomes (s.devPut prot va bs) := by
  unfold State.devPut
  split
  · exact (markUsed_homes s prot va true).trans (putHome_homes _ _ _ bs)
  · exact .refl s

theorem setBlk_homes (prot : Prot) (b : Word) (n : Nat) (v : Word) : s.SameButHomes (s.setBlk prot b n v) := devPut_homes s prot _ _

theorem setBlk_keeps (prot : Prot) (b : Word) (n : Nat) (v : Word) : s.KeepsRuns (s.setBlk prot b n v) := .of_homes (setBlk_homes s prot b n v)

theorem postRecord_homes (prot : Prot) (q : Word) (len : Nat) (rec : List Byte) : s.SameButHomes (s.postRecord prot q len rec) := by
  unfold State.postRecord
  split
  · exact .refl s
  split
  · exact .refl s
  · simp only
    split
    · split
      · exact (devPut_homes s _ _ _).trans (devPut_homes _ _ _ _)
      · exact devPut_homes s _ _ _
    · exact devPut_homes s _ _ _

theorem passRecord_keeps (prot : Prot) (pctx : BitVec 12) (region : Word) (elog : Bool) (rec : List Byte) :
    s.KeepsRuns (s.passRecord prot pctx region elog rec) := by
  unfold State.passRecord
  split
  · exact tellPkg_keeps s _ _
  · exact .refl s

theorem postStatus_keeps (prot : Prot) (pctx : BitVec 12) (region : Word) (rec : List Byte) : s.KeepsRuns (s.postStatus prot pctx region rec) := by
  unfold State.postStatus
  simp only
  split
  · exact passRecord_keeps s _ _ _ _ _
  · exact .of_homes (postRecord_homes s _ _ _ _)

theorem runAdd_keeps (pctx : BitVec 12) (prot : Prot) (region d : Word) : s.KeepsRuns (s.runAdd pctx prot region d) := by
  unfold State.runAdd
  split
  · exact .refl s
  split
  · exact account_keeps s _ _ _ _ _ _
  · exact setBlk_keeps s _ _ _ _

theorem endLeave_keeps (pctx : BitVec 12) (prot : Prot) (region : Word) : s.KeepsRuns (s.endLeave pctx prot region) := by
  unfold State.endLeave
  split
  · exact account_keeps s _ _ _ _ _ _
  · exact .refl s

/-! ### Invocations and promises -/

theorem bumpGen_keeps (kind : Nat) (die : BitVec 2) (slot : Nat) : s.KeepsRuns (s.bumpGen kind die slot) := .of_same rfl rfl rfl

theorem dropTriggers_keeps (t : Entry → Bool) : s.KeepsRuns (s.dropTriggers t) := by
  unfold State.dropTriggers
  refine .trans (u := _) (.trans (u := { s with entries := s.entries.filter (fun e => !(t e && !e.fired)) }) (.of_same rfl rfl rfl)
    (.foldl (fun u (e : Entry) => bumpGen_keeps u 3 (fld e.id 14 2) (fld e.id 0 14).toNat) _)) (.of_same rfl rfl rfl)

theorem objectDone_keeps (name : Word) : s.KeepsRuns (s.objectDone name) := by
  unfold State.objectDone
  split
  · exact .refl s
  split
  · exact .of_same rfl rfl rfl
  · exact .refl s

theorem dropInv_keeps (r : InvRec) : s.KeepsRuns (s.dropInv r) := by
  unfold State.dropInv
  extract_lets s1 s2 s3
  have h1 : s.KeepsRuns s1 := .of_same rfl rfl rfl
  have h2 : s1.KeepsRuns s2 := by
    dsimp only [s2]
    split
    · exact objectDone_keeps s1 _
    · exact .refl s1
  have h3 : s2.KeepsRuns s3 := runAdd_keeps s2 _ _ _ _
  refine (h1.trans h2).trans (h3.trans ?_)
  split
  · exact endLeave_keeps s3 _ _ _
  · exact .refl s3

theorem discard_keeps (rs : List (InvRec × BitVec 8 × Option Word)) : s.KeepsRuns (s.discard rs).1 :=
  State.KeepsRuns.foldl (f := fun t (r : InvRec × BitVec 8 × Option Word) => t.dropInv r.1) (fun t r => dropInv_keeps t r.1) s

theorem forward_keeps (r : InvRec) (n : Word) : s.KeepsRuns (s.forward r n).1 := by
  unfold State.forward
  split
  · exact State.KeepsRuns.trans (.of_same rfl rfl rfl) (sendInvTo_keeps _ _ _ _)
  · exact discard_keeps s _

theorem forwardAll_keeps (n : Word) (rs : List InvRec) (w : List Work) : s.KeepsRuns (forwardAll n rs (s, w)).1 := by
  induction rs generalizing s w with
  | nil => exact .refl s
  | cons r rs ih => exact (forward_keeps s r n).trans (ih _ _)

theorem moveParked_keeps (ph n : Word) : s.KeepsRuns (s.moveParked ph n) := by
  refine .of_map (f := Ctx.moveTo ph (chainAt ph (s.chainNew n))) (fun x => ?_) rfl rfl rfl
  unfold Ctx.moveTo
  split
  · next hst =>
    split
    · exact ⟨rfl, rfl, rfl, rfl, rfl, by rw [hst]; exact ⟨nofun, nofun⟩⟩
    · exact .refl x
  · exact .refl x

theorem freeSettled_keeps (p : Promise) : s.KeepsRuns (s.freeSettled p) := by
  unfold State.freeSettled
  simp only
  split <;> exact .of_same rfl rfl rfl

theorem report_keeps (p : Promise) : s.KeepsRuns (s.report p) := .foldl (fun t _ => sendNumbered_keeps t _) s

theorem settleAs_keeps (p : Promise) (st : PState) : s.KeepsRuns (s.settleAs p st).1 := by
  have hreport : s.KeepsRuns ((s.setPromise { p with st := st, trying := none }).report { p with st := st, trying := none }) :=
    State.KeepsRuns.trans (.of_same rfl rfl rfl) (report_keeps _ _)
  have hfree : ∀ t : State, t.KeepsRuns (if p.freed then t.freeSettled { p with st := st, trying := none } else t) := by
    intro t
    split
    · exact freeSettled_keeps t _
    · exact .refl t
  unfold State.settleAs
  simp only
  refine hreport.trans (State.KeepsRuns.trans ?_ (hfree _))
  cases st with
  | name n => exact (moveParked_keeps _ p.ph n).trans (forwardAll_keeps _ n _ [])
  | value b => exact discard_keeps _ _
  | broken c o => exact discard_keeps _ _
  | pending => exact .refl _

theorem settleOne_keeps (w : Work) : s.KeepsRuns (settleOne s w).1 := by
  unfold settleOne
  split
  · exact sendNumbered_keeps s _
  split
  · exact .of_same rfl rfl rfl
  split
  · exact State.KeepsRuns.trans (.of_same rfl rfl rfl) (sendNumbered_keeps _ _)
  split
  · exact .refl s
  split
  · exact .refl s
  simp only
  split
  · split
    · exact settleAs_keeps s _ _
    · exact settleAs_keeps s _ _
    · exact State.KeepsRuns.trans (.of_same rfl rfl rfl) (sendNumbered_keeps _ _)
    · exact State.KeepsRuns.trans (.of_same rfl rfl rfl) (sendNumbered_keeps _ _)
  · exact settleAs_keeps s _ _

theorem settleAll_keeps (fuel : Nat) (ws : List Work) : s.KeepsRuns (settleAll fuel ws s) := by
  induction fuel generalizing s ws with
  | zero => exact .refl s
  | succ fuel ih =>
    cases ws with
    | nil => exact .refl s
    | cons w ws => exact (settleOne_keeps s w).trans (ih _ _)

theorem discardAll_keeps (rs : List (InvRec × BitVec 8 × Option Word)) : s.KeepsRuns (s.discardAll rs) :=
  (discard_keeps s rs).trans (settleAll_keeps _ _ _)

/-! ### The failure of a region and its charges -/

theorem mapCtxs_keeps {f : Ctx → Ctx} (hf : ∀ x : Ctx, x.SameRun (f x)) : s.KeepsRuns (s.mapCtxs f) := .of_map hf rfl rfl rfl

theorem noteFail_sameRun (set : List Word) (b : Word) (code : BitVec 8) (scan : Bool) (c : Ctx) : c.SameRun (c.noteFail set b code scan) := by
  unfold Ctx.noteFail
  split
  · split
    · exact ⟨rfl, rfl, rfl, rfl, rfl, .rfl⟩
    · exact .refl c
  · exact ⟨rfl, rfl, rfl, rfl, rfl, .rfl⟩

theorem discardFlying_keeps (t : Inv → Bool) (cause : BitVec 8) : s.KeepsRuns (s.discardFlying t cause) := by
  unfold State.discardFlying
  extract_lets gone s1 s2
  have h1 : s.KeepsRuns s1 := .of_same rfl rfl rfl
  have h2 : s1.KeepsRuns s2 := .foldl (fun u (i : Inv) => runAdd_keeps u i.pctx (u.protOf i.pctx) i.region (-1)) s1
  exact (h1.trans h2).trans (settleAll_keeps s2 _ _)

theorem failHere_keeps (pctx : BitVec 12) (set : List Word) (b : Word) (code : BitVec 8) (scan : Bool) :
    s.KeepsRuns (s.failHere pctx set b code scan) := by
  unfold State.failHere
  extract_lets s1 hit s2
  have h1 : s.KeepsRuns s1 := dropTriggers_keeps s _
  have h2 : s1.KeepsRuns s2 := (discardAll_keeps s1 _).trans (discardFlying_keeps _ hit 1)
  refine (h1.trans h2).trans (mapCtxs_keeps s2 fun x => ?_)
  split
  · exact noteFail_sameRun set b code scan x
  · exact .refl x

theorem setBlkFail_keeps (prot : Prot) (b : Word) (st : BitVec 3) (code : BitVec 8) : s.KeepsRuns (s.setBlkFail prot b st code) :=
  setBlk_keeps s prot b 7 _

theorem scanFail_keeps (prot : Prot) (r b : Word) (scan : Bool) : s.KeepsRuns (s.scanFail prot r b scan) := by
  unfold State.scanFail
  split
  · exact (setBlk_keeps s prot r 10 b).trans (setBlk_keeps _ prot r 11 scanInfo)
  · exact .refl s

theorem tellFailed_keeps (pctx : BitVec 12) (set : List Word) (b : Word) (code : BitVec 8) (scan : Bool) :
    s.KeepsRuns (s.tellFailed pctx set b code scan) := by
  unfold State.tellFailed
  simp only
  split
  · exact .refl s
  · exact tellPods_keeps s _

theorem failRegion_keeps (prot : Prot) (pctx : BitVec 12) (b : Word) (code : BitVec 8) (kind : BitVec 2) (scan : Bool) :
    s.KeepsRuns (s.failRegion prot pctx b code kind scan) := by
  unfold State.failRegion
  extract_lets set s1 s2
  have h1 : s.KeepsRuns s1 := .foldl (fun t r => (setBlkFail_keeps t prot r 2 code).trans (scanFail_keeps _ prot r b scan)) s
  have h2 : s1.KeepsRuns s2 := postStatus_keeps s1 prot pctx b _
  exact (h1.trans h2).trans ((failHere_keeps s2 pctx set b code scan).trans (tellFailed_keeps _ pctx set b code scan))

theorem chargeRegions_keeps (pctx : BitVec 12) (prot : Prot) (ns : Word) (rs : List Word) : s.KeepsRuns (chargeRegions pctx prot ns rs s) := by
  induction rs generalizing s with
  | nil => exact .refl s
  | cons r rs ih =>
    unfold chargeRegions
    split
    · exact account_keeps s _ _ _ _ _ _
    · extract_lets used s1 quota
      refine (setBlk_keeps s prot r 9 used : s.KeepsRuns s1).trans (State.KeepsRuns.trans ?_ (ih _))
      split
      · exact failRegion_keeps s1 _ _ _ _ _ _
      · exact .refl s1

/-! ### Raises of counters, and the contributions that follow (R177, R310) -/

theorem metBy_sameRun (die : BitVec 2) (idx : BitVec 16) (v : BitVec 48) (c : Ctx) : c.SameRun (c.metBy s die idx v) := by
  unfold Ctx.metBy
  split
  · split
    · exact ⟨rfl, rfl, rfl, rfl, rfl, .rfl⟩
    · exact .refl c
  · exact .refl c

theorem meetWaits_keeps (die : BitVec 2) (idx : BitVec 16) (v : BitVec 48) : s.KeepsRuns (s.meetWaits die idx v) := by
  unfold State.meetWaits
  extract_lets hit
  refine State.KeepsRuns.trans ?_ (.foldl (fun t (w : CtWait) => sendNumbered_keeps t _) _)
  exact .of_map (metBy_sameRun s die idx v) rfl rfl rfl

theorem queueFirings_keeps (die : BitVec 2) (es : List Entry) : s.KeepsRuns (s.queueFirings die es) := by
  induction es generalizing s with
  | nil => exact .refl s
  | cons e es ih => exact State.KeepsRuns.trans (.of_same rfl rfl rfl) (ih _)

theorem fireDue_keeps (die : BitVec 2) (idx : BitVec 16) (low : BitVec 48) (ids : List Word) : s.KeepsRuns (s.fireDue die idx low ids) := by
  unfold State.fireDue
  extract_lets go s1 rest
  have h1 : s.KeepsRuns s1 := State.KeepsRuns.trans (.of_same rfl rfl rfl) (queueFirings_keeps _ die _)
  split
  · exact h1
  · exact h1.trans (.of_same rfl rfl rfl)

theorem applyRaise_keeps (die : BitVec 2) (idx : BitVec 16) (amt : BitVec 48) : s.KeepsRuns (s.applyRaise die idx amt) := by
  unfold State.applyRaise
  extract_lets v ids
  exact (meetWaits_keeps s die idx (v + amt)).trans (State.KeepsRuns.trans (.of_same rfl rfl rfl) (fireDue_keeps _ die idx v ids))

theorem raiseCell_keeps (die : BitVec 2) (idx : BitVec 16) (amt : BitVec 48) : s.KeepsRuns (s.raiseCell die idx amt) := by
  unfold State.raiseCell
  split
  · exact applyRaise_keeps s die idx amt
  · exact .of_same rfl rfl rfl

theorem engWriteTo_homes (prot : Prot) (user : Bool) (ps : List (Word × Nat)) (bs : List Byte) : s.SameButHomes (engWriteTo s prot user ps bs).1 := by
  induction ps generalizing s bs with
  | nil => exact .refl s
  | cons p ps ih =>
    obtain ⟨va, n⟩ := p
    unfold engWriteTo
    split
    · exact .refl s
    · exact (markUsed_homes s prot va true).trans ((putHome_homes _ _ _ _).trans (ih _ _))
    · exact .refl s

theorem engReduce_homes (prot : Prot) (user : Bool) (rop fmt : BitVec 4) (va : Word) (bs : List Byte) :
    s.SameButHomes (engReduce s prot user rop fmt va bs).1 := by
  unfold engReduce
  split
  · exact .refl s
  · exact engWriteTo_homes s prot user _ _

theorem reduceRows_homes (prot : Prot) (rop fmt : BitVec 4) (rs : List (Word × List Byte)) : s.SameButHomes (reduceRows prot rop fmt rs s).1 := by
  induction rs generalizing s with
  | nil => exact .refl s
  | cons r rs ih =>
    obtain ⟨va, bs⟩ := r
    unfold reduceRows
    split
    · next s1 h1 =>
      have hs : s.SameButHomes s1 := by have h := engReduce_homes s prot true rop fmt va bs; rwa [h1] at h
      split
      · next s2 h2 => exact hs.trans (by have h := ih s1; rwa [h2] at h)
      · exact .refl s
    · exact .refl s

theorem applyCon_homes (con : Contrib) : s.SameButHomes (s.applyCon con).1 := reduceRows_homes s _ _ _ _

theorem map_copies_id {f : Copy → Copy} (hf : ∀ c : Copy, (f c).id = c.id) (l : List Copy) : (l.map f).map Copy.id = l.map Copy.id := by
  rw [List.map_map]
  exact List.map_congr_left fun c _ => hf c

theorem conDone_keeps (h : HeldCon) (fail : Option Word) : s.KeepsRuns (s.conDone h fail) := by
  unfold State.conDone
  extract_lets n done s1
  have hdone : ∀ c : Copy, (done c).id = c.id := fun c => by
    dsimp only [done]
    split <;> rfl
  have h1 : s.KeepsRuns s1 := by
    dsimp only [s1]
    split
    · next id _ _ =>
      refine .of_same rfl rfl rfl (map_copies_id (fun c => ?_) s.copies)
      split
      · exact hdone c
      · rfl
    · exact .refl s
  split
  · exact h1.trans (bulkAck_keeps s1 _ fail)
  · exact h1

theorem setDie_keeps (d : BitVec 2) (x : DieSt) : s.KeepsRuns (s.setDie d x) := .of_homes (setDie_homes s d x)

theorem applyAway_keeps (h : HeldCon) (pkg : BitVec 12) : s.KeepsRuns (s.applyAway h pkg) := by
  unfold State.applyAway
  extract_lets con d n p
  have h1 : s.KeepsRuns { s with fresh := n + 1 } := .of_same rfl rfl rfl
  exact h1.trans ((setDie_keeps _ con.die _).trans (sendNumbered_keeps _ _))

theorem unheld_keeps (h : HeldCon) : s.KeepsRuns (s.unheld h) := by
  unfold State.unheld
  split
  · refine .of_same rfl rfl rfl (map_copies_id (fun c => ?_) s.copies)
    split <;> rfl
  · exact .of_same rfl rfl rfl

theorem applyHeld_keeps (fuel : Nat) (die : BitVec 2) (idx : BitVec 16) : s.KeepsRuns (applyHeld fuel die idx s) := by
  induction fuel generalizing s with
  | zero => exact .refl s
  | succ fuel ih =>
    unfold applyHeld
    extract_lets d now
    split
    · exact .refl s
    · next h _ =>
      extract_lets s1
      have h1 : s.KeepsRuns s1 := setDie_keeps s _ _
      have happly : ∀ {s2 e}, s1.applyCon h.con = (s2, e) → s.KeepsRuns s2 := fun he =>
        h1.trans (.of_homes (by have hc := applyCon_homes s1 h.con; rwa [he] at hc))
      split
      · next s2 he => exact (happly he).trans ((conDone_keeps s2 h none).trans ((raiseCell_keeps _ die idx 1).trans (ih _)))
      · next s2 pl he =>
        split
        · exact (happly he).trans (applyAway_keeps s2 h _)
        · exact (happly he).trans (conDone_keeps s2 h _)
      · next s2 f he =>
        split
        · exact (happly he).trans (unheld_keeps s2 h)
        · exact (happly he).trans (conDone_keeps s2 h _)
      · next s2 he => exact (happly he).trans (unheld_keeps s2 h)
      · next s2 e _ _ _ he => exact (happly he).trans (conDone_keeps s2 h _)

theorem raiseLocal_keeps (die : BitVec 2) (idx : BitVec 16) (amt : BitVec 48) : s.KeepsRuns (s.raiseLocal die idx amt) :=
  (raiseCell_keeps s die idx amt).trans (applyHeld_keeps _ _ die idx)

theorem raise_keeps (c : Word) (amt : BitVec 48) (src : CoreId) (sag : BitVec 4) : s.KeepsRuns (s.raise c amt src sag) := by
  unfold State.raise
  split
  · exact raiseLocal_keeps s _ _ amt
  · exact sendNumbered_keeps s _

end

end Sys2Proof.Machine
end

section
/-! ## The ends of waits, walks and faults (R52, R67, R171, R378, R386) -/

namespace Sys2Proof.Machine

section
variable (s : State)

/-! ### One context seen from the others -/

theorem focus_mem (c : CtxId) : (s.focus c).mem = s.mem := by rw [focus_eq]
theorem focus_core (c : CtxId) (k : CoreId) : (s.focus c).core k = s.core k := by rw [focus_eq]; rfl
theorem focus_fq (c : CtxId) : (s.focus c).fq = s.fq := by rw [focus_eq]

theorem withCtx_mem (c : CtxId) (f : State → State) : (s.withCtx c f).mem = (f (s.focus c)).mem := focus_mem ..
theorem withCtx_core (c : CtxId) (f : State → State) (k : CoreId) : (s.withCtx c f).core k = (f (s.focus c)).core k := focus_core ..
theorem withCtx_fq (c : CtxId) (f : State → State) : (s.withCtx c f).fq = (f (s.focus c)).fq := focus_fq ..

/-- A change made with a context as the issuing one. -/
theorem withCtx_self {c : CtxId} {f : State → State} (hid : (f (s.focus c)).cx.id = c) : (s.withCtx c f).ctx c = (f (s.focus c)).cx := by
  have h := ctx_cx (f (s.focus c))
  rwa [hid, ← withCtx_ctx s c] at h

theorem sendNumbered_cx (p : Packet) : (s.sendNumbered p).cx = s.cx := by
  have hsend : ∀ t : State, ∀ q, (t.send q).cx = t.cx := fun t q => by unfold State.send; split <;> rfl
  unfold State.sendNumbered
  split
  · exact hsend s p
  · simp only
    split
    · exact hsend _ _
    · rfl

/-! ### The end of a wait -/

/-- The withdrawal of a question changes neither the registers of its context nor its run. -/
theorem withdraw_spec : s.withdraw.mem = s.mem ∧ s.withdraw.cx = { s.cx with poll := none, rem := s.withdraw.cx.rem } := by
  unfold State.withdraw
  simp only
  split
  · split
    · next n _ r _ =>
      refine ⟨(sendNumbered_froze _ _).1, ?_⟩
      rw [State.sendAsk, State.sendOrdered, sendNumbered_cx]
    · exact ⟨rfl, rfl⟩
  · exact ⟨rfl, rfl⟩

variable {s}

/-- R171: the waiting instruction of a context in no gang has issued, and goes on after it. -/
theorem waitOver_spec (hg : s.cx.inGang = false) (hrep : s.cx.rep.act = false) (sw : Bool) (len : Nat) :
    s.cx.waited len sw [] (s.waitOver sw len).cx ∧ (s.waitOver sw len).cx.id = s.cx.id ∧ (s.waitOver sw len).mem = s.mem := by
  obtain ⟨hmem, hcx⟩ := withdraw_spec s
  obtain ⟨hcount, hnext, -, -⟩ := retire_retired s.withdraw len sw
  obtain ⟨hpc, -, hgs, -⟩ := hnext (by rw [hcx]; exact hrep)
  have hid : (s.withdraw.retire len sw).cx.id = s.cx.id := by rw [hcount, hcx]; rfl
  have hm : (s.withdraw.retire len sw).mem = s.mem := by rw [hcount]; exact hmem
  have hpend : (s.withdraw.retire len sw).cx.pend = s.cx.pend := by rw [hcount, hcx]; rfl
  have hst : (s.withdraw.retire len sw).cx.status = if sw = true ∨ 512 ≤ s.cx.runLen + 1 then .atSwitch else .running := by
    rw [hcount, hcx]; rfl
  rw [hcx] at hpc hgs
  rw [State.waitOver, if_neg (by simp [hg])]
  unfold Ctx.waited
  simp only [List.append_nil]
  by_cases hend : sw = true ∨ 512 ≤ s.cx.runLen + 1
  · rw [if_pos hend] at hst ⊢
    rw [if_neg (by rw [hst]; exact Status.noConfusion)]
    exact ⟨⟨hpc, hpend, hgs, hst⟩, hid, hm⟩
  · rw [if_neg hend] at hst ⊢
    rw [if_pos hst]
    exact ⟨⟨hpc, hpend, hgs, rfl⟩, hid, hm⟩

theorem waited_of_owes {vs : List RegVal} {u : State} (h : s.Owes vs u) {len : Nat} {sw : Bool} {y : Ctx} (hy : u.cx.waited len sw [] y) :
    s.cx.waited len sw vs y := by
  obtain ⟨hpc, hpend, hg, hst⟩ := hy
  rw [h] at hpc hpend hg hst
  exact ⟨hpc, hpend.trans (List.append_nil _), hg, hst⟩

/-- R171: the waiting instruction issues with the results that it owes. -/
theorem waitOver_owes {vs : List RegVal} {u : State} (h : s.Owes vs u) (hg : s.cx.inGang = false) (hrep : s.cx.rep.act = false) (sw : Bool) (len : Nat) :
    s.cx.waited len sw vs (u.waitOver sw len).cx ∧ (u.waitOver sw len).cx.id = s.cx.id ∧ (u.waitOver sw len).mem = s.mem := by
  have hg' : u.cx.inGang = false := by rw [h]; exact hg
  have hrep' : u.cx.rep.act = false := by rw [h]; exact hrep
  obtain ⟨hw, hid, hm⟩ := waitOver_spec hg' hrep' sw len
  exact ⟨waited_of_owes h hw, hid.trans (by rw [h]), hm.trans (by rw [h])⟩

section
variable {c : CtxId}

/-- What an event of one context does is what it does with that context as the issuing one. -/
theorem does_own {i : Instr} {f : State → State} {v : State} {E : State → Prop} (hi : exec i s = .next (s.withCtx c f).counted)
    (hf : f (s.focus c) = v) (hE : E (s.withCtx c fun _ => v)) : Does i s E := by
  have hv : s.withCtx c f = s.withCtx c fun _ => v := by simp only [State.withCtx, hf]
  exact does_counted (hi.trans (by rw [hv])) hE

/-- An event of one context that ends its wait. -/
theorem does_waited {i : Instr} {f : State → State} {vs : List RegVal} {u : State} {sw : Bool} {len : Nat}
    (hi : exec i s = .next (s.withCtx c f).counted) (hf : f (s.focus c) = u.waitOver sw len) (hu : (s.focus c).Owes vs u)
    (hg : (s.ctx c).inGang = false) (hrep : (s.ctx c).rep.act = false) :
    Does i s (fun v => (s.ctx c).waited len sw vs (v.ctx c) ∧ v.mem = s.mem) := by
  obtain ⟨hw, hid, hm⟩ := waitOver_owes hu (by rwa [focus_cx]) (by rwa [focus_cx]) sw len
  rw [← hf] at hw hid hm
  rw [focus_cx] at hw hid
  refine does_counted hi ⟨?_, ?_⟩
  · rwa [withCtx_self s (hid.trans (ctx_id s c))]
  · rw [withCtx_mem, hm, focus_mem]

/-- R67: the posted counts that a context waits for are zero. -/
theorem postedCountWaitEnd_does (hg : (s.ctx c).inGang = false) {pod host : Bool} (hs : (s.ctx c).status = .posted pod host)
    (hpod : pod = true → (s.ctx c).postedPod = 0) (hhost : host = true → (s.ctx c).postedHost = 0) :
    Does (.postedCountWaitEnd c) s (s.OnlyCtx c { s.ctx c with status := .ready }) := by
  refine does_own (v := (s.focus c).wake) rfl ?_ ?_
  · simp only [focus_cx, hs]
    rw [if_neg]
    cases pod <;> cases host <;> simp_all
  · have hcx : (s.focus c).wake.cx = { s.ctx c with status := .ready } := by
      rw [State.wake, focus_cx]
      simp [hg]
    rw [← hcx]
    exact withCtx_onlyCtx (f := fun _ => (s.focus c).wake) (by rw [hcx]; exact ctx_id s c) rfl

/-- R171, R219: a wait on a counter that has reached its threshold. -/
theorem counterWait_met {qd : QReg} {k : Word} {thr : BitVec 48} {sw : Bool} {len : Nat} (hk : ctPkg k = s.pkg)
    (hr : reached (s.cell (ctDie k) (ctIndex k)) thr = true) : s.counterWait qd k thr sw len = (s.laterQ qd true).waitOver sw len := by
  rw [State.counterWait, if_pos hk, if_pos (by simp [hr])]

theorem counterWait_unmet {qd : QReg} {k : Word} {thr : BitVec 48} {sw : Bool} {len : Nat} (hk : ctPkg k = s.pkg)
    (hr : reached (s.cell (ctDie k) (ctIndex k)) thr = false) (hp : s.cx.poll = none) : s.counterWait qd k thr sw len = s := by
  rw [State.counterWait, if_pos hk, if_neg (by simp [hr, hp])]

theorem focus_cell (die : BitVec 2) (idx : BitVec 16) : (s.focus c).cell die idx = s.cell die idx := by rw [focus_eq]; rfl
theorem focus_pkg : (s.focus c).pkg = s.pkg := by rw [focus_eq]
theorem focus_time : (s.focus c).time = s.time := by rw [focus_eq]

theorem waitConditionMet_counter (hg : (s.ctx c).inGang = false) (hrep : (s.ctx c).rep.act = false) {qd : QReg} {k : Word} {thr : BitVec 48}
    {d : Option Word} {sw : Bool} {len : Nat} (hs : (s.ctx c).status = .waiting (.counter qd k thr) d sw len) (hk : ctPkg k = s.pkg)
    (hr : reached (s.cell (ctDie k) (ctIndex k)) thr = true) :
    Does (.waitConditionMet c) s (fun u => (s.ctx c).waited len sw (qRes qd true) (u.ctx c) ∧ u.mem = s.mem) := by
  refine does_waited rfl ?_ (laterQ_owes (s.focus c) qd true) hg hrep
  rw [State.testWait, focus_cx, hs]
  exact counterWait_met (by rw [focus_pkg, hk]) (by rw [focus_cell, hr])

theorem waitTimeout_counter (hg : (s.ctx c).inGang = false) (hrep : (s.ctx c).rep.act = false) {qd : QReg} {k : Word} {thr : BitVec 48}
    {t : Word} {sw : Bool} {len : Nat} (hs : (s.ctx c).status = .waiting (.counter qd k thr) (some t) sw len) (hk : ctPkg k = s.pkg)
    (hr : reached (s.cell (ctDie k) (ctIndex k)) thr = false) (hp : (s.ctx c).poll = none) (ht : t.toNat ≤ s.time.toNat) :
    Does (.waitTimeout c) s (fun u => (s.ctx c).waited len sw (qRes qd false) (u.ctx c) ∧ u.mem = s.mem) := by
  refine does_waited rfl ?_ (laterQ_owes (s.focus c) qd false) hg hrep
  have htest : (s.focus c).testWait = s.focus c := by
    rw [State.testWait, focus_cx, hs]
    exact counterWait_unmet (by rw [focus_pkg, hk]) (by rw [focus_cell, hr]) (by rw [focus_cx, hp])
  have hover : t.ule (s.focus c).time = true := by rw [focus_time]; simpa [BitVec.ule] using ht
  simp only [htest, focus_cx, hs]
  rw [State.timeOut, focus_cx, hs]
  exact if_pos hover

/-! ### A wait on tokens -/

theorem setTok_t_only (x : Ctx) (k : Tok) (v : Token) : x.setTok k v = { x with t := (x.setTok k v).t } := rfl

theorem clearToks_t_only (x : Ctx) (mask : BitVec 8) : x.clearToks mask = { x with t := (x.clearToks mask).t } := by
  unfold Ctx.clearToks
  exact List.foldlRecOn (motive := fun (y : Ctx) => y = { x with t := y.t }) _ _ rfl fun y hy k _ => by
    rw [setTok_t_only, hy]

theorem mem_maskToks {mask : BitVec 8} {k : Tok} (h : k ∈ maskToks mask) : mask.getLsbD k.toNat = true := by
  simpa using (List.mem_filter.mp h).2

/-- R178: tokens that are all DONE or IDLE are quiet, and none has an error. -/
theorem toksQuiet_of_settled {x : Ctx} {mask : BitVec 8}
    (h : ∀ k : Tok, mask.getLsbD k.toNat = true → x.t[k.toFin].st = .done ∨ x.t[k.toFin].st = .idle) :
    x.toksQuiet mask = true ∧ x.tokError mask = none := by
  constructor
  · refine List.all_eq_true.mpr fun k hk => ?_
    obtain hd | hi := h k (mem_maskToks hk)
    · rw [hd]; decide
    · rw [hi]; decide
  · rw [Ctx.tokError, List.find?_eq_none.mpr, Option.map_none]
    intro k hk
    obtain hd | hi := h k (mem_maskToks hk)
    · rw [hd]; decide
    · rw [hi]; decide

theorem waitConditionMet_tokens (hg : (s.ctx c).inGang = false) (hrep : (s.ctx c).rep.act = false) {qd : QReg} {mask : BitVec 8} {ge : GReg}
    {d : Option Word} {sw : Bool} {len : Nat} (hs : (s.ctx c).status = .waiting (.tokens qd mask ge) d sw len)
    (ht : ∀ k : Tok, mask.getLsbD k.toNat = true → (s.ctx c).t[k.toFin].st = .done ∨ (s.ctx c).t[k.toFin].st = .idle) :
    Does (.waitConditionMet c) s (fun u => (s.ctx c).waited len sw (qRes qd true ++ gRes ge 0) (u.ctx c) ∧ u.mem = s.mem) := by
  obtain ⟨hquiet, herr⟩ := toksQuiet_of_settled ht
  set v : State := { s.focus c with cx := (s.ctx c).clearToks mask } with hv
  have hcx := clearToks_t_only (s.ctx c) mask
  have hv_cx : v.cx = (s.ctx c).clearToks mask := rfl
  have hf : (s.focus c).testWait = ((v.laterQ qd true).laterG ge 0).waitOver sw len := by
    rw [State.testWait, focus_cx, hs]
    simp only [focus_cx, hquiet, if_true, State.twaitDone, herr, Option.isNone_none, Option.getD_none]
    rfl
  have howes : v.Owes (qRes qd true ++ gRes ge 0) ((v.laterQ qd true).laterG ge 0) := by
    have hq := laterQ_owes v qd true
    have hge := laterG_owes (v.laterQ qd true) ge 0
    unfold State.Owes at *
    rw [hge, hq]
    simp
  obtain ⟨⟨hpc, hpend, hgs, hst⟩, hid, hm⟩ := waitOver_owes howes (by rw [hv_cx, hcx]; exact hg) (by rw [hv_cx, hcx]; exact hrep) sw len
  rw [← hf] at hpc hpend hgs hst hid hm
  rw [hv_cx, hcx] at hpc hpend hgs hst hid
  refine does_counted (u := s.withCtx c State.testWait) rfl ⟨?_, ?_⟩
  · rw [withCtx_self s (hid.trans (ctx_id s c))]
    exact ⟨hpc, hpend, hgs, hst⟩
  · rw [withCtx_mem, hm]
    exact focus_mem s c

/-! ### Walks -/

/-- R378: a walk reads memory and the machine's set-up, and no context. -/
theorem walkFrom_cx (t : State) (x : Ctx) (xs : List Ctx) (key : BitVec 8) (va : Word) (fuel : Nat) :
    ∀ lvl pa, walkFrom { t with cx := x, ctxs := xs } key va fuel lvl pa = walkFrom t key va fuel lvl pa := by
  induction fuel with
  | zero => exact fun _ _ => rfl
  | succ fuel ih =>
    intro lvl pa
    simp only [walkFrom, ih]
    rfl

theorem walk_focus (prot : Prot) (va : Word) : walk (s.focus c) prot va = walk s prot va := by
  rw [focus_eq, walk, walk, walkFrom_cx]

/-- R378: a leaf stands in an aligned doubleword, as it is at its home slice. -/
theorem walkFrom_leaf {t : State} {key : BitVec 8} {va e : Word} {fuel : Nat} {lvl ptePa : Nat} :
    ∀ {l pa : Nat}, pa % 65536 = 0 → walkFrom t key va fuel l pa = .leaf e lvl ptePa →
      ptePa % 8 = 0 ∧ e = wordOf (t.homeBytes key ptePa 8) := by
  induction fuel with
  | zero => exact fun _ h => nomatch h
  | succ fuel ih =>
    intro l pa hpa h
    rw [walkFrom] at h
    generalize lvlIdx l va = n at h
    split at h
    · nomatch h
    split at h
    · nomatch h
    simp only at h
    split at h
    · nomatch h
    split at h
    · nomatch h
    split at h
    · split at h
      · nomatch h
      · exact ih (Nat.mul_mod_left _ _) h
    split at h
    · obtain ⟨he, -, hp⟩ := WalkRes.leaf.inj h
      rw [← hp, he]
      exact ⟨by omega, rfl⟩
    · nomatch h

theorem walk_leaf {prot : Prot} {va e : Word} {lvl ptePa : Nat} (h : walk s prot va = .leaf e lvl ptePa) :
    ptePa % 8 = 0 ∧ e = wordOf (s.homeBytes prot.keyslot ptePa 8) := by
  unfold walk at h
  split at h
  · cases h
  · next hroot =>
    simp only [Bool.or_eq_true, decide_eq_true_eq, not_or, not_not] at hroot
    exact walkFrom_leaf hroot.2 h

/-- R267: where no store is held, the bytes at home are those of the total order. -/
theorem homeBytes_eq {key : BitVec 8} {pa n : Nat} (h : ∀ d ∈ s.dirty, ¬ (pa ≤ d.1 ∧ d.1 < pa + n)) : s.homeBytes key pa n = s.bytes key pa n := by
  refine List.map_congr_left fun i hi => ?_
  have hnone : s.dirty.find? (fun d => d.1 = pa + i) = none := List.find?_eq_none.mpr fun d hd hp => by
    have hlt := List.mem_range.mp hi
    have heq : d.1 = pa + i := by simpa using hp
    exact h d hd (by omega)
  rw [State.homeByte, hnone]

theorem writeBack_sameButDies (s : State) (p : Nat → Nat → Bool) : s.SameButDies (s.writeBack p) := (watchAll_sameButDies s _).trans rfl

/-- R380: the update of a leaf that still holds the value read. -/
theorem pteCas_of_clean {key : BitVec 8} {pa : Nat} (old new : Word) (hpa : pa % 8 = 0) (hclean : ∀ d ∈ s.dirty, d.1 / 8 ≠ pa / 8)
    (hold : old = wordOf (s.homeBytes key pa 8)) : ∃ u, s.pteCas key pa old new = some u := by
  have hbytes : (s.writeBack (fun a _ => a / 8 = pa / 8)).bytes key pa 8 = s.homeBytes key pa 8 := by
    rw [homeBytes_eq fun d hd hin => hclean d hd (by omega)]
    exact (writeBack_sameButDies s _).bytes key pa 8
  unfold State.pteCas
  simp only [hbytes, ← hold, if_true]
  exact ⟨_, rfl⟩

/-- R381: a core holds the translation that was installed last. -/
theorem tlbAdd_tlb (s : State) (core : CoreId) (e : TlbE) : e ∈ ((s.tlbAdd core e).core core).tlb := by
  have hcore : ∀ (t : State) d x, (t.setDie d x).core core = t.core core := fun t d x => (setDie_sameButDies t d x).core core
  unfold State.tlbAdd
  simp only
  rw [hcore, core_setCore, if_pos (core_id s core)]
  exact List.mem_append_right _ (List.mem_singleton_self _)

theorem tellPager_homes (pctx : BitVec 12) (va old new : Word) : s.SameButHomes (s.tellPager pctx va old new) := by
  unfold State.tellPager
  split
  · exact setDie_homes s _ _
  · exact .refl s

/-- R380, R381: the installation of a leaf that has not changed since it was read. -/
theorem install_spec {va e : Word} {lvl ptePa : Nat} (write : Bool) (hleaf : walk s s.cx.prot va = .leaf e lvl ptePa)
    (hclean : ∀ d ∈ s.dirty, d.1 / 8 ≠ ptePa / 8) :
    s.SameButHomes (s.install va e lvl ptePa write) ∧ ∃ t ∈ ((s.install va e lvl ptePa write).core s.cx.id.coreId).tlb,
      t.pctx = s.cx.pctx ∧ t.lvl = lvl ∧ t.ptePa = ptePa ∧ tlbHit s.cx.pctx va t = true := by
  obtain ⟨hpa, he⟩ := walk_leaf hleaf
  unfold State.install
  extract_lets x key new t
  have hhit : tlbHit s.cx.pctx va t = true := by simp [tlbHit, t, x]
  split
  · exact ⟨tlbAdd_homes s _ t, t, tlbAdd_tlb s _ t, rfl, rfl, rfl, hhit⟩
  · obtain ⟨u, hu⟩ := pteCas_of_clean e new hpa hclean he
    rw [hu]
    exact ⟨(pteCas_homes hu).trans ((tellPager_homes _ _ _ _).trans (tlbAdd_homes _ _ t)), t, tlbAdd_tlb _ _ t, rfl, rfl, rfl, hhit⟩

theorem tlbWalkComplete_leaf (hg : (s.ctx c).inGang = false) {va e : Word} {acc : BitVec 2} {lvl ptePa : Nat}
    (hs : (s.ctx c).status = .walking va acc) (hleaf : walk s (s.ctx c).prot va = .leaf e lvl ptePa) (hmig : pteMig e = false)
    (hclean : ∀ d ∈ s.dirty, d.1 / 8 ≠ ptePa / 8) :
    Does (.tlbWalkComplete c va acc) s (fun u => ((u.ctx c).status = .running ∨ (u.ctx c).status = .ready) ∧ (u.ctx c).pc = (s.ctx c).pc ∧
      ∃ t ∈ (u.core c.coreId).tlb, t.pctx = (s.ctx c).pctx ∧ t.lvl = lvl ∧ t.ptePa = ptePa ∧ tlbHit (s.ctx c).pctx va t = true) := by
  have hclean' : ∀ d ∈ (s.focus c).dirty, d.1 / 8 ≠ ptePa / 8 := by rw [focus_eq]; exact hclean
  obtain ⟨w, hw⟩ : ∃ w, (s.focus c).walkFor va acc = ((s.focus c).install va e lvl ptePa w, none) := by
    unfold State.walkFor
    rw [walk_focus, focus_cx, hleaf]
    simp only [hmig, Bool.false_eq_true, if_false]
    exact ⟨_, rfl⟩
  obtain ⟨hsame, t, ht, hspec⟩ := install_spec w (by rw [walk_focus, focus_cx]; exact hleaf) hclean'
  generalize (s.focus c).install va e lvl ptePa w = v at *
  have hvcx : v.cx = s.ctx c := hsame.cx.trans (focus_cx s c)
  rw [focus_cx] at hspec ht
  have hdone : (s.focus c).walkDone va acc = { v with cx := { v.cx with status := if v.coreBusy then .ready else .running } } := by
    rw [State.walkDone, hw]
    simp only [hvcx, hg, Bool.false_and, Bool.false_eq_true, if_false]
  refine does_own rfl (by simp only [focus_cx, hs, and_self, if_true]; exact hdone) ?_
  rw [withCtx_self s (by simp only [hvcx]; exact ctx_id s c), withCtx_core]
  refine ⟨?_, by simp only [hvcx], t, ?_, hspec⟩
  · by_cases hb : v.coreBusy = true
    · exact .inr (if_pos hb)
    · exact .inl (if_neg hb)
  · rw [ctx_id] at ht
    exact ht

/-! ### Faults of a walk -/

/-- R50, R386: a recoverable fault that is delivered at the switch point of a context in no gang. -/
theorem passOne_recoverable {f : FaultRec} (hret : s.retiring = false) (herrs : s.cx.errs = []) (hrg : s.cx.rgfail = none)
    (hf : s.cx.fault = some f) (hrec : f.recoverable = true) :
    s.passOne = { s with cx := { commitAll s.issued s.cx with fault := none, status := .faulted f } } := by
  have hcx := commitAll_eq s.issued s.cx
  have hret' : s.commitRun.retiring = false := by
    rw [← hret]
    simp only [State.retiring, State.commitRun]
    rw [hcx]
  have herrs' : s.commitRun.cx.errs = [] := by rw [State.commitRun, hcx]; exact herrs
  have hrg' : s.commitRun.cx.rgfail = none := by rw [State.commitRun, hcx]; exact hrg
  have hf' : s.commitRun.cx.fault = some f := by rw [State.commitRun, hcx]; exact hf
  rw [State.passOne]
  simp only [hret', herrs', hrg', hf', hrec, Bool.false_eq_true, if_false, if_true]
  rw [State.commitRun, hcx]
  simp only [herrs, hrg]

theorem tlbWalkComplete_fault (hg : (s.ctx c).inGang = false) {va : Word} {acc : BitVec 2} {k : BitVec 16}
    (hs : (s.ctx c).status = .walking va acc) (hwalk : walk s (s.ctx c).prot va = .fault k) (hawaits : (s.ctx c).awaits = false)
    (hret : (s.focus c).retiring = false) (herrs : (s.ctx c).errs = []) (hrg : (s.ctx c).rgfail = none) :
    Does (.tlbWalkComplete c va acc) s (fun u =>
      (u.ctx c).status = .faulted ⟨11, k, acc, false, false, (s.ctx c).priv, va⟩ ∧ (u.ctx c).pc = (s.ctx c).pc) := by
  set f : FaultRec := ⟨11, k, acc, false, false, (s.ctx c).priv, va⟩ with hf
  set t : State := { s.focus c with cx := { s.ctx c with fault := some f } } with ht
  have hfor : (s.focus c).walkFor va acc = (s.focus c, some (.fault f)) := by
    rw [State.walkFor, walk_focus, focus_cx, hwalk]
    simp only [State.fltAt, State.flt, focus_cx, hf]
  have hpass : t.passOne = { t with cx := { commitAll t.issued t.cx with fault := none, status := .faulted f } } :=
    passOne_recoverable (by rw [← hret, ht]; simp only [State.retiring, focus_cx]) herrs hrg rfl rfl
  have hdone : (s.focus c).walkDone va acc = t.passOne := by
    rw [State.walkDone, hfor]
    simp only [State.walkStopped, State.faultAside, focus_cx, hg, Bool.false_eq_true, if_false]
    rw [if_neg (by simpa [Ctx.awaits] using hawaits)]
  have hcommit := commitAll_eq t.issued t.cx
  refine does_own rfl (by simp only [focus_cx, hs, and_self, if_true]; exact hdone) ?_
  rw [withCtx_self s (by simp only [hpass]; rw [hcommit]; exact ctx_id s c)]
  constructor
  · simp only [hpass]
  · simp only [hpass]
    rw [hcommit]

/-- R385, R386: an entry is posted at the end of its queue, and a counter may be raised. -/
theorem postEntry_spec (p : Prot) (f : FaultRec) (pkg : BitVec 12) (src : CoreId) (sag : BitVec 4) (who : Waiter) (inv : Nat) :
    ∃ e : FqEntry, (s.postEntry p f pkg src sag who inv).1 = e.n ∧ e.f = f ∧ e.va = f.va ∧ e.who = who ∧ e.inv = inv ∧ e.resp = 0 ∧
      State.KeepsRuns { s with fq := s.fq ++ [e] } (s.postEntry p f pkg src sag who inv).2 := by
  unfold State.postEntry
  extract_lets base h n at_ s1 s2 entry s3
  have h2 : s.SameButHomes s2 := (putHome_homes s _ _ _).trans (putHome_homes s1 _ _ _)
  have h3 : State.KeepsRuns { s with fq := s.fq ++ [entry] } s3 := by
    dsimp only [s3]
    rw [h2]
    exact .of_same rfl rfl rfl
  refine ⟨entry, rfl, rfl, rfl, rfl, rfl, rfl, ?_⟩
  split
  · exact h3
  · exact h3.trans (raise_keeps s3 (dwAt h 2) 1 (dieAgent 0) 7)

theorem faultEntryPost_posts {f : FaultRec} {k : BitVec 16} (hs : (s.ctx c).status = .faulted f)
    (hwalk : walk s (s.ctx c).prot f.va = .fault k) (hfq : (s.ctx c).prot.hasFq = true) (hroom : s.fqRoom (s.ctx c).prot = true) :
    Does (.faultEntryPost c) s (fun u => ∃ e : FqEntry, u.fq = s.fq ++ [e] ∧ e.f = f ∧ e.va = f.va ∧ e.who = .ctx c ∧ e.resp = 0 ∧
      (u.ctx c).status = .onEntry f e.n) := by
  obtain ⟨e, hn, hef, heva, hwho, -, hresp, hkeeps⟩ := postEntry_spec (s := s.focus c) (s.ctx c).prot f s.pkg c.coreId (c.slot.setWidth 4)
    (.ctx c) (s.focus c).issuer.inv
  generalize hp : (s.focus c).postEntry (s.ctx c).prot f s.pkg c.coreId (c.slot.setWidth 4) (.ctx c) (s.focus c).issuer.inv = p at *
  have hroom' : (s.focus c).fqRoom (s.ctx c).prot = true := by rw [focus_eq]; exact hroom
  have hagain : (s.focus c).walkAgain f = (s.focus c, false) := by rw [State.walkAgain, walk_focus, focus_cx, hwalk]
  have hdone : (s.focus c).postFault = { p.2 with cx := { p.2.cx with status := .onEntry f p.1 } } := by
    rw [State.postFault, focus_cx, hs]
    simp only [hagain, focus_cx, hs, hfq, hroom', ctx_id, focus_pkg, hp, Bool.not_true, Bool.false_eq_true, if_false, if_true]
  obtain ⟨hid, -⟩ := hkeeps.cx
  simp only [focus_cx, ctx_id] at hid
  refine does_own rfl hdone ⟨e, ?_, hef, heva, hwho, hresp, ?_⟩
  · rw [withCtx_fq, ← focus_fq s c]
    exact hkeeps.fq
  · rw [withCtx_self s hid, ← hn]

/-- R363: a charge brings its account up to the present. -/
theorem quotaCharge_charges {r : Running} (hs : (s.ctx c).status ≠ .free) (hr : (s.ctx c).run = some r) :
    Does (.quotaCharge c) s (fun u =>
      (u.ctx c).run = some { r with charged := s.time } ∧ (u.ctx c).g = (s.ctx c).g ∧ (u.ctx c).pc = (s.ctx c).pc) := by
  have hcharge : ({ s.ctx c with run := some { r with charged := s.time } } : Ctx).SameRun (s.focus c).charge.cx := by
    unfold State.charge
    rw [focus_cx, hr, focus_time]
    simp only
    split
    · exact (chargeRegions_keeps _ _ _ _ _).cx
    · exact .refl _
  obtain ⟨hid, hrun, hgs, hpc, -⟩ := hcharge
  refine does_own rfl (by rw [focus_cx, if_neg hs]) ?_
  rw [withCtx_self s (f := fun _ => (s.focus c).charge) (hid.trans (ctx_id s c))]
  exact ⟨hrun, hgs, hpc⟩

end

end

/-- Settles O50, by one lemma for each end of a wait, of a walk, of a fault and of a charge. -/
theorem waitEvents : Obligations.WaitEvents := by
  unfold Obligations.WaitEvents
  intro s c x hg
  refine ⟨fun pod host hs hpod hhost => postedCountWaitEnd_does hg hs hpod hhost, fun hrep => ⟨?_, ?_⟩, ?_, ?_, ?_, ?_⟩
  · intro qd k thr d sw len hs hk
    refine ⟨waitConditionMet_counter hg hrep hs hk, fun t hr hp hd ht => ?_⟩
    exact waitTimeout_counter hg hrep (by rw [← hd]; exact hs) hk hr hp ht
  · intro qd mask ge d sw len hs ht
    exact waitConditionMet_tokens hg hrep hs ht
  · intro va acc e lvl ptePa hs hleaf hmig hclean
    exact tlbWalkComplete_leaf hg hs hleaf hmig hclean
  · intro va acc k hs hwalk hawaits hret herrs hrg
    exact tlbWalkComplete_fault hg hs hwalk hawaits hret herrs hrg
  · intro f k hs hwalk hfq hroom
    exact faultEntryPost_posts hs hwalk hfq hroom
  · intro r hs hr
    exact quotaCharge_charges hs hr

end Sys2Proof.Machine
end

section
/-! ## Raises that a Vat accepts (R310, R314) -/

namespace Sys2Proof.Machine

/-- A state that differs only in the packets that are under way and in the numbers of their series. -/
def State.SameButNet (s u : State) : Prop :=
  u = { s with cores := u.cores, net := u.net, outbox := u.outbox, unacked := u.unacked, backlog := u.backlog, rx := u.rx }

namespace State.SameButNet

variable {s u v : State}

theorem refl (s : State) : s.SameButNet s := rfl

theorem trans (h : s.SameButNet u) (k : u.SameButNet v) : s.SameButNet v := by
  unfold State.SameButNet at *
  rw [k, h]

end State.SameButNet

theorem send_net (s : State) (p : Packet) : s.SameButNet (s.send p) := by
  unfold State.send
  split <;> rfl

theorem sendNumbered_net (s : State) (p : Packet) : s.SameButNet (s.sendNumbered p) := by
  unfold State.sendNumbered
  split
  · exact send_net s p
  · simp only
    split
    · exact (show s.SameButNet (s.setCore _) from rfl).trans ((send_net _ _).trans rfl)
    · rfl

theorem reply_net (s : State) (p q : Packet) : s.SameButNet (s.reply p q) := by
  unfold State.reply
  split
  · exact send_net s q
  · exact (show s.SameButNet (s.rxSet _ _) from rfl).trans (send_net _ q)

theorem unholdSeq_net (s : State) (p : Packet) : s.SameButNet (s.unholdSeq p) := by
  unfold State.unholdSeq
  split
  · exact .refl s
  · rfl

/-- A state with the same memory, counters and engines. -/
def State.SameStore (s u : State) : Prop :=
  u.mem = s.mem ∧ u.ctrs = s.ctrs ∧ u.copies = s.copies ∧ u.landRows = s.landRows ∧ ∀ d, u.die d = s.die d

namespace State.SameStore

variable {s u v : State}

theorem refl (s : State) : s.SameStore s := ⟨rfl, rfl, rfl, rfl, fun _ => rfl⟩

theorem trans (h : s.SameStore u) (k : u.SameStore v) : s.SameStore v := by
  obtain ⟨hmem, hctrs, hcopies, hland, hdie⟩ := h
  obtain ⟨kmem, kctrs, kcopies, kland, kdie⟩ := k
  exact ⟨kmem.trans hmem, kctrs.trans hctrs, kcopies.trans hcopies, kland.trans hland, fun d => (kdie d).trans (hdie d)⟩

theorem of_net (h : s.SameButNet u) : s.SameStore u := by
  rw [h]
  exact ⟨rfl, rfl, rfl, rfl, fun _ => rfl⟩

end State.SameStore

section
variable (s : State)

/-- The state after a cell has been set. -/
def State.setCell (die : BitVec 2) (idx : BitVec 16) (v : BitVec 48) : State := { s with ctrs := tset 0 s.ctrs (cellKey die idx) v }

theorem cellKey_inj {d e : BitVec 2} {i j : BitVec 16} (h : cellKey d i = cellKey e j) : (d, i) = (e, j) := by
  unfold cellKey at h
  have hi := i.isLt
  have hj := j.isLt
  exact Prod.ext (BitVec.eq_of_toNat_eq (by simp only; omega)) (BitVec.eq_of_toNat_eq (by simp only; omega))

theorem cell_setCell_same (die : BitVec 2) (idx : BitVec 16) (v : BitVec 48) : (s.setCell die idx v).cell die idx = v := by
  rw [State.cell, State.setCell, tget_tset, if_pos rfl]

theorem cell_setCell_other {die d : BitVec 2} {idx i : BitVec 16} (v : BitVec 48) (h : (d, i) ≠ (die, idx)) :
    (s.setCell die idx v).cell d i = s.cell d i := by
  rw [State.cell, State.setCell, tget_tset, if_neg fun hk => h (cellKey_inj hk).symm]
  rfl

theorem meetWaits_store (die : BitVec 2) (idx : BitVec 16) (v : BitVec 48) : s.SameStore (s.meetWaits die idx v) := by
  unfold State.meetWaits
  extract_lets hit
  refine State.SameStore.trans (u := _) ⟨rfl, rfl, rfl, rfl, fun _ => rfl⟩ ?_
  exact List.foldlRecOn _ _ (.refl _) fun u hu _ _ => hu.trans (.of_net (sendNumbered_net u _))

theorem queueFirings_store (die : BitVec 2) (es : List Entry) : s.SameStore (s.queueFirings die es) := by
  induction es generalizing s with
  | nil => exact .refl s
  | cons e es ih => exact State.SameStore.trans ⟨rfl, rfl, rfl, rfl, fun _ => rfl⟩ (ih _)

theorem fireDue_store (die : BitVec 2) (idx : BitVec 16) (low : BitVec 48) (ids : List Word) : s.SameStore (s.fireDue die idx low ids) := by
  unfold State.fireDue
  extract_lets go s1 rest
  have h1 : s.SameStore s1 := State.SameStore.trans ⟨rfl, rfl, rfl, rfl, fun _ => rfl⟩ (queueFirings_store _ die _)
  split
  · exact h1
  · exact h1.trans ⟨rfl, rfl, rfl, rfl, fun _ => rfl⟩

theorem applyRaise_store (die : BitVec 2) (idx : BitVec 16) (amt : BitVec 48) :
    (s.setCell die idx (s.cell die idx + amt)).SameStore (s.applyRaise die idx amt) := by
  unfold State.applyRaise
  extract_lets v ids
  obtain ⟨hmem, hctrs, hcopies, hland, hdie⟩ := meetWaits_store s die idx (v + amt)
  refine State.SameStore.trans ?_ (fireDue_store _ die idx v ids)
  exact ⟨hmem, rfl, hcopies, hland, hdie⟩

variable {s}

/-- R177: nothing follows a raise of a cell for which no contribution is held. -/
theorem applyHeld_none {die : BitVec 2} {idx : BitVec 16} (h : ∀ x ∈ (s.die die).held, x.con.idx ≠ idx) (fuel : Nat) :
    applyHeld fuel die idx s = s := by
  cases fuel with
  | zero => rfl
  | succ fuel =>
    have hnone : (s.die die).held.find? (fun h => h.con.idx = idx && h.con.exp = (s.cell die idx).setWidth 32) = none :=
      List.find?_eq_none.mpr fun x hx => by simp [h x hx]
    rw [applyHeld]
    simp only [hnone]

/-- R310: a raise that its Vat accepts raises its cell and changes nothing else in memory, counters and engines. -/
theorem raiseLocal_store {die : BitVec 2} {idx : BitVec 16} (h : s.Accepts die idx) (amt : BitVec 48) :
    (s.setCell die idx (s.cell die idx + amt)).SameStore (s.raiseLocal die idx amt) := by
  obtain ⟨hroom, hfree, hheld⟩ := h
  have hcell : s.raiseCell die idx amt = s.applyRaise die idx amt := by rw [State.raiseCell, if_pos (by simp [hroom, hfree])]
  have hstore := applyRaise_store s die idx amt
  obtain ⟨-, -, -, -, hdie⟩ := id hstore
  rw [State.raiseLocal, hcell]
  rwa [applyHeld_none (by rw [hdie]; exact hheld)]

theorem raise_store {k : Word} (hk : ctPkg k = s.pkg) (h : s.Accepts (ctDie k) (ctIndex k)) (amt : BitVec 48) (src : CoreId) (sag : BitVec 4) :
    (s.setCell (ctDie k) (ctIndex k) (s.cell (ctDie k) (ctIndex k) + amt)).SameStore (s.raise k amt src sag) := by
  rw [State.raise, if_pos hk]
  exact raiseLocal_store h amt

/-! ### The copy queue of a core (R54) -/

/-- R54: the engine takes entries; the copies stay. -/
def State.SameButQueue (s u : State) : Prop :=
  u = { s with copies := u.copies, copyq := u.copyq } ∧ u.copies.map Copy.id = s.copies.map Copy.id

theorem beginLoop_queue (core : CoreId) (fuel : Nat) (s : State) : s.SameButQueue (beginLoop core fuel s) := by
  induction fuel generalizing s with
  | zero => exact ⟨rfl, rfl⟩
  | succ fuel ih =>
    rw [beginLoop]
    split
    · exact ⟨rfl, rfl⟩
    · next n _ =>
      split
      · obtain ⟨hsame, hids⟩ := ih { s with copies := s.copies.map (fun (c : Copy) => if c.id = n then { c with begun := true } else c),
                                            copyq := s.copyq.filter (fun q => q.id ≠ n) }
        refine ⟨by rw [hsame], hids.trans (map_copies_id (fun c => ?_) s.copies)⟩
        split <;> rfl
      · exact ⟨rfl, rfl⟩

theorem beginNext_queue (s : State) (core : CoreId) : s.SameButQueue (s.beginNext core) := beginLoop_queue core _ s

namespace State.SameButQueue

variable {u : State}

theorem keeps (h : s.SameButQueue u) : s.KeepsRuns u := by
  obtain ⟨hsame, hids⟩ := h
  refine .of_same ?_ ?_ ?_ hids ?_ <;> rw [hsame]

theorem accepts (h : s.SameButQueue u) {die : BitVec 2} {idx : BitVec 16} (ha : s.Accepts die idx) : u.Accepts die idx := by
  obtain ⟨hsame, -⟩ := h
  rw [hsame]
  exact ha

end State.SameButQueue

/-! ### The token of an operation (R39, R175) -/

theorem isRun_of_sameRun {b : Issuer} {x y : Ctx} (h : x.SameRun y) : b.isRun y = b.isRun x := by
  obtain ⟨hid, hrun, -, -, -, hfree⟩ := h
  unfold Issuer.isRun Ctx.invId
  rw [hid, hrun]
  simp only [ne_eq, hfree]

/-- The state of the token of an operation after its completion. -/
def Ctx.tokEnds (x : Ctx) (tok : Option Tok) : Ctx :=
  match tok with
  | some k => x.setTok k ⟨.done, 0⟩
  | none => x

theorem tokDone_store (s : State) (b : Issuer) (tok : Option Tok) : s.SameStore (s.tokDone b tok) := by
  unfold State.tokDone
  split
  · unfold State.onIssuer
    split
    · unfold State.setCtx
      split <;> exact ⟨rfl, rfl, rfl, rfl, fun _ => rfl⟩
    · exact ⟨rfl, rfl, rfl, rfl, fun _ => rfl⟩
  · exact .refl s

/-- R175: the token of an operation whose invocation runs is DONE. -/
theorem tokDone_onlyCtx {b : Issuer} (hrun : b.isRun (s.ctx b.ctx) = true) (tok : Option Tok) :
    s.OnlyCtx b.ctx ((s.ctx b.ctx).tokEnds tok) (s.tokDone b tok) := by
  cases tok with
  | none => exact ⟨rfl, fun _ _ => rfl⟩
  | some k =>
    have hset : s.tokDone b (some k) = s.setCtx ((s.ctx b.ctx).setTok k ⟨.done, 0⟩) := if_pos hrun
    have hid : ((s.ctx b.ctx).setTok k ⟨.done, 0⟩).id = b.ctx := ctx_id s b.ctx
    rw [hset]
    refine ⟨?_, fun d hd => ?_⟩
    · rw [ctx_setCtx, if_pos hid]
      rfl
    · rw [ctx_setCtx, hid, if_neg (Ne.symm hd)]

/-! ### The end of a copy (R175) -/

/-- The state without the copies of a number. -/
def State.dropCopy (s : State) (n : Nat) : State := { s with copies := s.copies.filter (fun x => x.id ≠ n) }

/-- The counters after the end of a copy without error. -/
def State.CopyRaised (s : State) (c : Copy) (u : State) : Prop :=
  (∀ k, c.det = false → c.ctr = some k → u.ctrs = (s.setCell (ctDie k) (ctIndex k) (s.cell (ctDie k) (ctIndex k) + 1)).ctrs) ∧
    (c.det = true ∨ c.ctr = none → u.ctrs = s.ctrs)

/-- R175: a copy that is through, with no error, ends: its counter is raised, then its token set. -/
theorem copyEnd_spec {c : Copy} (htrig : c.trig = none) (herr : c.err = 0) (hbad : c.bad = none)
    (hctr : ∀ k, c.det = false → c.ctr = some k → ctPkg k = s.pkg ∧ s.Accepts (ctDie k) (ctIndex k)) :
    ∃ v, (s.dropCopy c.id).KeepsRuns v ∧ v.mem = s.mem ∧ s.CopyRaised c v ∧ s.copyEnd c = v.tokDone c.by_ c.tok := by
  have hpoison : (s.dropCopy c.id).copyPoison c = s.dropCopy c.id := by rw [State.copyPoison, hbad]
  have hqueue := beginNext_queue (s.dropCopy c.id) c.by_.ctx.coreId
  have hend : s.copyEnd c = (if (c.err = 0 && !c.det && c.ctr.isSome) then
      ((s.dropCopy c.id).beginNext c.by_.ctx.coreId).raise (c.ctr.getD 0) 1 c.by_.ctx.coreId 5
      else (s.dropCopy c.id).beginNext c.by_.ctx.coreId).tokDone c.by_ c.tok := by
    unfold State.copyEnd
    extract_lets s1 ctr raises s2
    have h2 : s2 = (s.dropCopy c.id).beginNext c.by_.ctx.coreId := congrArg (fun t => t.beginNext c.by_.ctx.coreId) hpoison
    rw [htrig, h2]
    simp only [herr, ne_eq, not_true_eq_false, if_false, raises, ctr]
  generalize (s.dropCopy c.id).beginNext c.by_.ctx.coreId = w at *
  obtain ⟨hw, -⟩ := id hqueue
  have hmem : w.mem = s.mem := by rw [hw]; rfl
  by_cases hr : c.det = false ∧ ∃ k, c.ctr = some k
  · obtain ⟨hdet, k, hk⟩ := hr
    obtain ⟨hpkg, hacc⟩ := hctr k hdet hk
    have hkw : ctPkg k = w.pkg := by rw [hw]; exact hpkg
    obtain ⟨smem, sctrs, -⟩ := raise_store hkw (hqueue.accepts hacc) 1 c.by_.ctx.coreId 5
    rw [hend, if_pos (by simp [herr, hdet, hk]), hk]
    refine ⟨_, hqueue.keeps.trans (raise_keeps w k 1 _ 5), smem.trans hmem, ⟨?_, ?_⟩, rfl⟩
    · intro k' _ hk'
      obtain rfl := Option.some.inj (hk.symm.trans hk')
      refine sctrs.trans ?_
      rw [hw]
      rfl
    · rintro (h | h)
      · rw [hdet] at h; nomatch h
      · rw [hk] at h; nomatch h
  · rw [hend, if_neg]
    · refine ⟨w, hqueue.keeps, hmem, ⟨fun k hdet hk => absurd ⟨hdet, k, hk⟩ hr, fun _ => by rw [hw]; rfl⟩, rfl⟩
    · simp only [Bool.and_eq_true, not_and, Bool.not_eq_true', Option.isSome_iff_exists]
      exact fun h hk => hr ⟨h.2, hk⟩

theorem dropped_of_keeps {n : Nat} {u : State} (h : (s.dropCopy n).KeepsRuns u) : ∀ x ∈ u.copies, x.id ≠ n := by
  intro x hx hid
  have hmem : x.id ∈ (s.dropCopy n).copies.map Copy.id := h.copies ▸ List.mem_map_of_mem hx
  obtain ⟨y, hy, hyx⟩ := List.mem_map.mp hmem
  have hne := (List.mem_filter.mp hy).2
  simp only [ne_eq, decide_eq_true_eq] at hne
  exact hne (hyx.trans hid)

/-- R54: a copy is found by its number. -/
theorem find_copy {l : List Copy} {c : Copy} {n : Nat} {p : Copy → Bool} (hfind : l.find? (fun x => x.id = n && p x) = some c)
    (huniq : ∀ x ∈ l, x.id = n → x = c) : c.id = n ∧ l.find? (fun x => x.id = c.id) = some c := by
  have hc := List.find?_some hfind
  simp only [Bool.and_eq_true, decide_eq_true_eq] at hc
  obtain ⟨hid, -⟩ := hc
  refine ⟨hid, ?_⟩
  rw [hid]
  have hmem := List.mem_of_find?_eq_some hfind
  cases h : l.find? (fun x => x.id = n) with
  | none => exact absurd hid (by simpa using List.find?_eq_none.mp h c hmem)
  | some d =>
    have hd : d.id = n := by simpa using List.find?_some h
    rw [huniq d (List.mem_of_find?_eq_some h) hd]

theorem copyComplete_ends {n : Nat} {c : Copy} (hfind : s.copies.find? (fun x => x.id = n && x.canGo && s.forked x.by_) = some c)
    (huniq : ∀ x ∈ s.copies, x.id = n → x = c) (htrig : c.trig = none) (herr : c.err = 0) (hbad : c.bad = none) (hthrough : c.through = true)
    (hunacked : c.unacked = 0) (hrun : c.by_.isRun (s.ctx c.by_.ctx) = true)
    (hctr : ∀ k, c.det = false → c.ctr = some k → ctPkg k = s.pkg ∧ s.Accepts (ctDie k) (ctIndex k)) :
    Does (.copyComplete n) s (fun u => (∀ x ∈ u.copies, x.id ≠ n) ∧ u.mem = s.mem ∧ s.CopyRaised c u ∧
      (u.ctx c.by_.ctx).t = ((s.ctx c.by_.ctx).tokEnds c.tok).t ∧
      ∀ d, (u.ctx d).g = (s.ctx d).g ∧ (u.ctx d).pc = (s.ctx d).pc ∧ (d ≠ c.by_.ctx → (u.ctx d).t = (s.ctx d).t)) := by
  obtain ⟨hid, hfind'⟩ := find_copy (p := fun x => x.canGo && s.forked x.by_) (by simpa only [Bool.and_assoc] using hfind) huniq
  obtain ⟨v, hkeeps, hmem, hraised, hend⟩ := copyEnd_spec htrig herr hbad hctr
  have hstep : s.copyStep c = v.tokDone c.by_ c.tok := by
    rw [← hend, State.copyStep]
    simp only [hthrough, Bool.or_true, if_true, hfind', hunacked, decide_true, Bool.and_true]
  have hexec : exec (.copyComplete n) s = .next (v.tokDone c.by_ c.tok).counted := by
    rw [← hstep]
    show execCopyComplete n s = _
    rw [execCopyComplete, hfind]
  have hctx : ∀ d, (s.ctx d).SameRun (v.ctx d) := fun d => hkeeps.ctx d
  obtain ⟨smem, sctrs, scopies, -, -⟩ := tokDone_store v c.by_ c.tok
  obtain ⟨hown, hothers⟩ := tokDone_onlyCtx (s := v) (by rw [isRun_of_sameRun (hctx _), hrun]) c.tok
  refine does_counted hexec ⟨?_, smem.trans hmem, ?_, ?_, fun d => ?_⟩
  · rw [scopies, ← hid]
    exact dropped_of_keeps hkeeps
  · unfold State.CopyRaised at *
    rwa [sctrs]
  · obtain ⟨-, -, -, -, ht, -⟩ := hctx c.by_.ctx
    rw [hown]
    cases c.tok with
    | none => exact ht
    | some k => exact congrArg (fun t : Vector Token 8 => t.set k.toFin ⟨.done, 0⟩) ht
  · obtain ⟨-, -, hg, hpc, ht, -⟩ := hctx d
    by_cases hd : d = c.by_.ctx
    · subst hd
      rw [hown]
      cases c.tok with
      | none => exact ⟨hg, hpc, fun h => absurd rfl h⟩
      | some k => exact ⟨hg, hpc, fun h => absurd rfl h⟩
    · rw [hothers d hd]
      exact ⟨hg, hpc, fun _ => ht⟩

/-! ### A copy of one element within the package (R175) -/

/-- Memory without a poisoned word stays so. -/
def State.StaysClean (s u : State) : Prop := s.SameButHomes u ∧ (s.poison = [] → u.poison = [])

namespace State.StaysClean

variable {u v : State}

theorem refl (s : State) : s.StaysClean s := ⟨.refl s, id⟩

theorem trans (h : s.StaysClean u) (k : u.StaysClean v) : s.StaysClean v := by
  obtain ⟨hsame, hclean⟩ := h
  obtain ⟨ksame, kclean⟩ := k
  exact ⟨hsame.trans ksame, kclean ∘ hclean⟩

theorem of_dies (h : s.SameButDies u) : s.StaysClean u := ⟨.of_dies h, fun hp => by rw [h]; exact hp⟩

end State.StaysClean

theorem writeBack_clean (s : State) (p : Nat → Nat → Bool) : s.StaysClean (s.writeBack p) := .of_dies (writeBack_sameButDies s p)

theorem rekey_poison (s : State) (key : BitVec 8) (pa : Nat) : (s.rekey key pa).poison = s.poison := by
  rw [State.rekey]
  generalize 256 = n
  split <;> rfl

theorem putHome_clean (s : State) (key : BitVec 8) (pa : Nat) (bs : List Byte) : s.StaysClean (s.putHome key pa bs) := by
  refine ⟨putHome_homes s key pa bs, fun hp => ?_⟩
  have hrange : (s.rekeyRange key pa bs.length).poison = [] :=
    List.foldlRecOn (motive := fun (t : State) => t.poison = []) _ _ hp fun t ht k _ => by rw [rekey_poison, ht]
  have hbefore := ((State.StaysClean.of_dies (recallAll_sameButDies (s.rekeyRange key pa bs.length) pa bs.length)).trans
    (.of_dies (watch_sameButDies _ pa bs.length))).2 hrange
  show clearPoison _ pa bs.length = []
  rw [hbefore]
  rfl

theorem markUsed_clean (s : State) (prot : Prot) (va : Word) (write : Bool) : s.StaysClean (s.markUsed prot va write) := by
  refine ⟨markUsed_homes s prot va write, fun hp => ?_⟩
  unfold State.markUsed
  split
  · next e lvl ptePa _ =>
    simp only
    generalize e ||| 64 ||| (if write = true then 128 else 0) = new
    split
    · exact hp
    · unfold State.pteCas
      simp only
      split
      · exact ((writeBack_clean s _).trans (putHome_clean _ _ _ _)).2 hp
      · exact hp
  · exact hp

theorem copyTakes_clean (s : State) (c : Copy) (qs : List (Nat × Nat)) : s.StaysClean (s.copyTakes c qs) :=
  List.foldlRecOn _ _ (.refl s) fun u hu q _ => hu.trans <| by
    split
    · exact (markUsed_clean u _ _ _).trans (.of_dies (recallAll_sameButDies _ _ _))
    · exact .refl u

theorem rangePieces_single {va : Word} {n : Nat} (hpos : 0 < n) (hroom : n ≤ pageRoom va) : rangePieces va n = [(va, n)] := by
  rw [rangePieces, pieces, if_neg (by omega)]
  simp only [Nat.min_eq_left hroom, Nat.sub_self]
  rw [pieces, if_pos rfl]

theorem engBad_clean (h : s.poison = []) (acc : BitVec 2) (va : Word) (pa n : Nat) : s.engBad acc va pa n = none := by
  rw [State.engBad, State.badWord, h]
  rfl

/-- R175: the engine reads bytes of one page of the package. -/
theorem engRead_page {prot : Prot} {user : Bool} {va : Word} {pa n : Nat} (hpos : 0 < n) (hroom : n ≤ pageRoom va)
    (hplace : engPlace s prot user 0 va = .ok (.hbm pa)) (hclean : s.poison = []) :
    engRead s prot user va n = .ok (s.bytes prot.keyslot pa n) := by
  rw [engRead, rangePieces_single hpos hroom, engReadFrom, hplace]
  simp only [engBad_clean hclean, engReadFrom, List.append_nil]

/-- R175: an engine write where no word is poisoned, and no wait and no stream looks at memory. -/
theorem engPut_clean {b : Issuer} {va : Word} {pa : Nat} {bs : List Byte} (hclean : s.poison = []) (hfq : s.fq = []) (hstreams : s.streams = []) :
    s.engPut b va pa bs = s.putHome b.prot.keyslot pa bs := by
  have hover : s.overPoison pa bs.length = false := by rw [State.overPoison, hclean]; rfl
  have hsame := putHome_homes s b.prot.keyslot pa bs
  unfold State.engPut
  simp only [hover, Bool.false_eq_true, if_false]
  generalize s.putHome b.prot.keyslot pa bs = u at *
  have hfq' : u.fq = [] := by rw [hsame]; exact hfq
  have hstreams' : u.streams = [] := by rw [hsame]; exact hstreams
  simp [State.noteStore, hfq', hstreams']

theorem bytes_length (s : State) (key : BitVec 8) (pa n : Nat) : (s.bytes key pa n).length = n := by simp [State.bytes]

/-- R175: an element whose source and destination lie in the package. -/
theorem copyElem_home {c : Copy} {pa pb : Nat} (hpos : c.pos = 0) (hbuf : c.buf = []) (hrd : c.rd = false) (hlen : 0 < c.elemLen 0)
    (hroom : c.elemLen 0 ≤ pageRoom (c.srcAt 0)) (hsrc : engPlace s c.by_.prot c.by_.user 0 (c.srcAt 0) = .ok (.hbm pa))
    (hdst : engPlace s c.by_.prot c.by_.user 1 (c.dstAt 0) = .ok (.hbm pb)) (hclean : s.poison = []) (hfq : s.fq = []) (hstreams : s.streams = []) :
    ∃ u, copyElem s c s = .ok u ∧ s.SameButHomes u ∧
      ∀ k, k < c.elemLen 0 → u.byte (pb + k) = (s.bytes c.by_.prot.keyslot pa (c.elemLen 0)).getD k 0 := by
  set n := c.elemLen 0 with hn
  set bs := s.bytes c.by_.prot.keyslot pa n with hbs
  have hcuts : c.cuts 0 n = [(0, n)] := if_pos hroom
  have hread : srcBytes s c.by_ c.buf c.srcAt [(0, n)] = .ok bs := by
    simp only [srcBytes, hbuf, List.find?_nil, engRead_page hlen hroom hsrc hclean, List.append_nil, hbs]
  have htakes := (copyTakes_clean s c [(0, n)]).trans (markUsed_clean _ c.by_.prot (c.dstAt 0) true)
  set t := (s.copyTakes c [(0, n)]).markUsed c.by_.prot (c.dstAt 0) true with ht
  have hrecall := htakes.trans (.of_dies (recallAll_sameButDies t pb bs.length))
  have hwrite : t.copyWrite c (c.dstAt 0) pb bs = (t.recallAll pb bs.length).putHome c.by_.prot.keyslot pb bs := by
    unfold State.copyWrite
    simp only [hrd, Bool.false_eq_true, if_false]
    obtain ⟨hsame, hp⟩ := hrecall
    exact engPut_clean (hp hclean) (by rw [hsame]; exact hfq) (by rw [hsame]; exact hstreams)
  refine ⟨t.copyWrite c (c.dstAt 0) pb bs, ?_, ?_, fun k hk => ?_⟩
  · unfold copyElem
    simp only [hpos, ← hn, hcuts, ite_self, hread, hrd, copyAcc, Bool.false_eq_true, if_false, hdst, Place.awayAt]
    rfl
  · rw [hwrite]
    exact hrecall.1.trans (putHome_homes _ _ _ _)
  · have hlt : k < bs.length := by rw [hbs, bytes_length]; exact hk
    rw [hwrite, putHome_byte_inside hlt, List.getD_eq_getElem _ _ hlt]

theorem find_setCopy {c : Copy} (h : ∃ x ∈ s.copies, x.id = c.id) : (s.setCopy c).copies.find? (fun x => x.id = c.id) = some c := by
  obtain ⟨x, hx, hid⟩ := h
  have hmem : c ∈ (s.setCopy c).copies := List.mem_map.mpr ⟨x, hx, if_pos hid⟩
  cases hf : (s.setCopy c).copies.find? (fun x => x.id = c.id) with
  | none => exact (List.find?_eq_none.mp hf c hmem (decide_eq_true rfl)).elim
  | some d =>
    have hd : d.id = c.id := by simpa using List.find?_some hf
    obtain ⟨y, -, hy⟩ := List.mem_map.mp (List.mem_of_find?_eq_some hf)
    split at hy
    · rw [hy]
    · next hne => exact absurd (hy ▸ hd) hne

/-- A copy of one row after its only element. -/
def Copy.taken (c : Copy) : Copy := { c with pos := c.rowb, landed := c.landed + c.rowb, buf := [] }

theorem copyComplete_small {n pa pb : Nat} {c : Copy} (hfind : s.copies.find? (fun x => x.id = n && x.canGo && s.forked x.by_) = some c)
    (huniq : ∀ x ∈ s.copies, x.id = n → x = c) (htrig : c.trig = none) (herr : c.err = 0) (hbad : c.bad = none) (hpos : c.pos = 0)
    (hunacked : c.unacked = 0) (hbuf : c.buf = []) (hctr : c.ctr = none) (hrd : c.rd = false) (hdet : c.det = false) (hrows : c.rows = 1)
    (hrowb : 0 < c.rowb) (hlen : c.elemLen 0 = c.rowb) (hroom : c.rowb ≤ pageRoom (c.srcAt 0))
    (hsrc : engPlace s c.by_.prot c.by_.user 0 (c.srcAt 0) = .ok (.hbm pa)) (hdst : engPlace s c.by_.prot c.by_.user 1 (c.dstAt 0) = .ok (.hbm pb))
    (hclean : s.poison = []) (hfq : s.fq = []) (hstreams : s.streams = []) :
    Does (.copyComplete n) s (fun u => (∀ x ∈ u.copies, x.id ≠ n) ∧ u.ctrs = s.ctrs ∧
      ∀ k, k < c.rowb → u.byte (pb + k) = (s.bytes c.by_.prot.keyslot pa c.rowb).getD k 0) := by
  obtain ⟨hid, -⟩ := find_copy (p := fun x => x.canGo && s.forked x.by_) (by simpa only [Bool.and_assoc] using hfind) huniq
  have hmem : c ∈ s.copies := List.mem_of_find?_eq_some hfind
  obtain ⟨w, helem, hsame, hbyte⟩ := copyElem_home hpos hbuf hrd (by rw [hlen]; exact hrowb) (by rw [hlen]; exact hroom) hsrc hdst hclean hfq hstreams
  rw [hlen] at hbyte
  set d := c.taken with hd
  have hunacked' : d.unacked = 0 := hunacked
  have htotal : c.total = c.rowb := by rw [Copy.total, hrows, Nat.mul_one]
  have hthrough : c.through = false := by simp [Copy.through, hdet, htotal, hpos, Nat.ne_of_gt hrowb]
  have hthrough' : d.through = true := by
    simp only [Copy.through, hd, Copy.taken, hdet, Copy.total, hrows]
    simp
  have hloop : copyLoop s (c.total + 1) c s = w.setCopy d := by
    obtain ⟨m, hm⟩ : ∃ m, c.total = m + 1 := ⟨c.total - 1, by omega⟩
    rw [copyLoop, if_neg (by omega), helem]
    simp only [hpos, hlen, Nat.zero_add]
    rw [hm, copyLoop, if_pos]
    · rfl
    · exact (Nat.le_of_eq htotal : c.total ≤ c.rowb)
  have hwcopies : w.copies = s.copies := by rw [hsame]
  have hfind' : (w.setCopy d).copies.find? (fun x => x.id = c.id) = some d := find_setCopy (c := d) ⟨c, by rw [hwcopies]; exact hmem, rfl⟩
  have hstep : s.copyStep c = (w.setCopy d).copyEnd d := by
    rw [State.copyStep]
    simp only [herr, hthrough, hdet, hloop, hfind', hthrough', Bool.false_eq_true, if_false, ne_eq, not_true_eq_false, decide_false, Bool.or_self,
      Bool.or_true, hunacked', decide_true, Bool.and_self, if_true]
  obtain ⟨v, hkeeps, hvmem, ⟨-, hctrs⟩, hend⟩ := copyEnd_spec (s := w.setCopy d) (c := d) htrig herr hbad
    (fun k _ hk => absurd (hctr.symm.trans hk) (by simp))
  obtain ⟨smem, sctrs, scopies, -, -⟩ := tokDone_store v d.by_ d.tok
  have hexec : exec (.copyComplete n) s = .next (v.tokDone d.by_ d.tok).counted := by
    rw [← hend, ← hstep]
    show execCopyComplete n s = _
    rw [execCopyComplete, hfind]
  refine does_counted hexec ⟨?_, ?_, fun k hk => ?_⟩
  · rw [scopies, ← hid]
    exact dropped_of_keeps hkeeps
  · refine (sctrs.trans (hctrs (.inr hctr))).trans ?_
    show w.ctrs = s.ctrs
    rw [hsame]
  · rw [← hbyte k hk, State.byte, smem, hvmem]
    rfl

/-! ### Page faults of the engine (R386, R387) -/

theorem engPost_spec {b : Issuer} {f : FaultRec} {who : Waiter} (hroom : s.fqRoom b.prot = true) :
    ∃ e : FqEntry, ∃ u : State, s.engPost b f who = some (e.n, u) ∧ State.KeepsRuns { s with fq := s.fq ++ [e] } u ∧ e.f = f ∧ e.who = who ∧ e.inv = b.inv := by
  obtain ⟨e, hn, hf, -, hwho, hinv, -, hkeeps⟩ := postEntry_spec (s := s) b.prot f s.pkg b.ctx.coreId 5 who b.inv
  refine ⟨e, _, ?_, hkeeps, hf, hwho, hinv⟩
  rw [State.engPost, if_pos hroom, ← hn]

theorem copyPageFault_copy {n : Nat} {c : Copy} {f : FaultRec} (hfind : s.copies.find? (fun x => x.id = n && x.onEntry.isNone) = some c)
    (hstall : c.stall = some f) (hroom : s.fqRoom c.by_.prot = true) :
    Does (.copyPageFault n) s (fun u => ∃ e : FqEntry, u.fq = s.fq ++ [e] ∧ e.f = f ∧ e.who = .copy n ∧ e.inv = c.by_.inv ∧
      ∃ c' ∈ u.copies, c' = { c with stall := none, onEntry := some e.n }) := by
  obtain ⟨e, u, hpost, hkeeps, hf, hwho, hinv⟩ := engPost_spec (f := f) (who := .copy c.id) hroom
  have hid : c.id = n := by
    have h := List.find?_some hfind
    simp only [Bool.and_eq_true, decide_eq_true_eq] at h
    exact h.1
  have hin : c.id ∈ u.copies.map Copy.id := by
    rw [hkeeps.copies]
    exact List.mem_map_of_mem (List.mem_of_find?_eq_some hfind)
  obtain ⟨x, hx, hxid⟩ := List.mem_map.mp hin
  have hexec : exec (.copyPageFault n) s = .next (u.setCopy { c with stall := none, onEntry := some e.n }).counted := by
    show execCopyPageFault n s = _
    rw [execCopyPageFault, hfind]
    simp only [hstall, hpost]
  refine does_counted hexec ⟨e, hkeeps.fq, hf, by rw [hwho, hid], hinv, _, List.mem_map.mpr ⟨x, hx, if_pos hxid⟩, rfl⟩

theorem copyPageFault_row {n : Nat} {r : FlightRow} {f : FaultRec} (hcopy : s.copies.find? (fun x => x.id = n && x.onEntry.isNone) = none)
    (hfind : s.rows.find? (fun x => x.id = n && x.onEntry.isNone) = some r) (hstall : r.stall = some f) (hroom : s.fqRoom r.by_.prot = true) :
    Does (.copyPageFault n) s (fun u => ∃ e : FqEntry, u.fq = s.fq ++ [e] ∧ e.f = f ∧ e.who = .row n ∧ e.inv = r.by_.inv ∧
      ∃ r' ∈ u.rows, r' = { r with stall := none, onEntry := some e.n }) := by
  obtain ⟨e, u, hpost, hkeeps, hf, hwho, hinv⟩ := engPost_spec (f := f) (who := .row r.id) hroom
  have hid : r.id = n := by
    have h := List.find?_some hfind
    simp only [Bool.and_eq_true, decide_eq_true_eq] at h
    exact h.1
  have hin : r ∈ u.rows := hkeeps.rows ▸ List.mem_of_find?_eq_some hfind
  have hexec : exec (.copyPageFault n) s = .next (u.setRow { r with stall := none, onEntry := some e.n }).counted := by
    show execCopyPageFault n s = _
    rw [execCopyPageFault, hcopy, hfind]
    simp only [hstall, hpost]
  refine does_counted hexec ⟨e, hkeeps.fq, hf, by rw [hwho, hid], hinv, _, List.mem_map.mpr ⟨r, hin, if_pos rfl⟩, rfl⟩

/-! ### Ordered contributions (R177) -/

/-- R177: the copy of a contribution of this package has been applied. -/
theorem conDone_own (s : State) (con : Contrib) :
    s.conDone ⟨con, none⟩ none = { s with copies := (s.conDone ⟨con, none⟩ none).copies } ∧
      ∀ c ∈ (s.conDone ⟨con, none⟩ none).copies, some c.id = con.copy → c.applied = true ∧ c.unacked = 0 := by
  unfold State.conDone
  cases hcopy : con.copy with
  | none => exact ⟨rfl, fun c _ h => nomatch h⟩
  | some id =>
    refine ⟨rfl, fun c hc hid => ?_⟩
    obtain ⟨y, -, hy⟩ := List.mem_map.mp hc
    split at hy
    · rw [← hy]
      exact ⟨rfl, rfl⟩
    · next hne => exact absurd (hy ▸ Option.some.inj hid) hne

theorem detContributionArrival_applies {con : Contrib} {s1 : State} (hexp : con.exp = (s.cell con.die con.idx).setWidth 32)
    (happly : s.applyCon con = (s1, none)) (hcell : s1.cell con.die con.idx = s.cell con.die con.idx) (hacc : s1.Accepts con.die con.idx) :
    Does (.detContributionArrival con) s (fun u => u.cell con.die con.idx = s.cell con.die con.idx + 1 ∧ u.mem = s1.mem ∧
      ∀ c ∈ u.copies, some c.id = con.copy → c.applied = true ∧ c.unacked = 0) := by
  obtain ⟨hw, hdone⟩ := conDone_own s1 con
  have hland : s.landCon ⟨con, none⟩ = ((s1.conDone ⟨con, none⟩ none).raiseLocal con.die con.idx 1, .applied) := by
    unfold State.landCon
    extract_lets k dd d
    have hnow : dd = 0 := (congrArg (· - _) hexp).trans (BitVec.sub_self _)
    rw [if_pos hnow, happly]
  generalize s1.conDone ⟨con, none⟩ none = w at *
  have hwcell : w.cell con.die con.idx = s.cell con.die con.idx := by rw [hw]; exact hcell
  have hwacc : w.Accepts con.die con.idx := by rw [hw]; exact hacc
  obtain ⟨hmem, hctrs, hcopies, -, -⟩ := raiseLocal_store hwacc 1
  refine does_counted (u := w.raiseLocal con.die con.idx 1) ?_ ⟨?_, ?_, ?_⟩
  · show execDetContributionArrival con s = _
    unfold execDetContributionArrival
    simp only [hland]
  · rw [State.cell, hctrs, ← hwcell]
    exact cell_setCell_same w _ _ _
  · refine hmem.trans ?_
    rw [hw]
    rfl
  · rw [hcopies]
    exact hdone

theorem detContributionArrival_held {con : Contrib} (hheld : ∀ h ∈ (s.die con.die).held, h.con.idx ≠ con.idx)
    (hlow : 1 ≤ (con.exp - (s.cell con.die con.idx).setWidth 32).toNat) (hhigh : (con.exp - (s.cell con.die con.idx).setWidth 32).toNat ≤ 3)
    (hroom : s.staged con.die < 512) :
    Does (.detContributionArrival con) s (fun u =>
      (u.die con.die).held = (s.die con.die).held ++ [⟨con, none⟩] ∧ u.mem = s.mem ∧ u.ctrs = s.ctrs) := by
  have hnone : (s.die con.die).held.filter (fun x => x.con.idx = con.idx) = [] := List.filter_eq_nil_iff.mpr fun x hx => by simp [hheld x hx]
  have hland : s.landCon ⟨con, none⟩ = (s.setDie con.die { s.die con.die with held := (s.die con.die).held ++ [⟨con, none⟩] }, .held) := by
    unfold State.landCon
    extract_lets k dd d
    have hlow' : 1 ≤ dd.toNat := hlow
    have hne : dd ≠ 0 := fun h => by rw [h] at hlow'; exact absurd hlow' (by decide)
    have hle : dd ≤ 3 := BitVec.le_def.mpr hhigh
    have hnone' : d.held.filter (fun x => x.con.idx = k.idx) = [] := hnone
    have hroom' : s.staged k.die < slotCap := hroom
    rw [if_neg hne, if_pos (by rw [decide_eq_true hle, hnone', decide_eq_true hroom']; rfl)]
  have hsame := setDie_sameButDies s con.die { s.die con.die with held := (s.die con.die).held ++ [⟨con, none⟩] }
  refine does_counted (u := s.setDie con.die { s.die con.die with held := (s.die con.die).held ++ [⟨con, none⟩] }) ?_ ⟨?_, ?_, ?_⟩
  · show execDetContributionArrival con s = _
    unfold execDetContributionArrival
    simp only [hland]
  · rw [die_setDie_same]
  · rw [hsame]
  · rw [hsame]

theorem detContributionArrival_late {con : Contrib} (hlate : 2 ^ 31 < (con.exp - (s.cell con.die con.idx).setWidth 32).toNat) :
    Does (.detContributionArrival con) s (fun u =>
      u = { s with copies := s.copies.map (fun c => if some c.id = con.copy then { c with err := 5, unacked := 0 } else c) }) := by
  have hland : s.landCon ⟨con, none⟩ = (s, .late) := by
    unfold State.landCon
    extract_lets k dd d
    have hlate' : 2 ^ 31 < dd.toNat := hlate
    have hne : dd ≠ 0 := fun h => by rw [h] at hlate'; exact absurd hlate' (by decide)
    have hnear : ¬ dd ≤ 3 := fun h => by have h' := BitVec.le_def.mp h; change dd.toNat ≤ 3 at h'; omega
    have hfar : ¬ dd ≤ 0x80000000 := fun h => by have h' := BitVec.le_def.mp h; change dd.toNat ≤ 2 ^ 31 at h'; omega
    rw [if_neg hne, if_neg (by rw [decide_eq_false hnear]; exact nofun), if_neg hfar]
  refine does_counted ?_ rfl
  show execDetContributionArrival con s = _
  unfold execDetContributionArrival
  simp only [hland]

/-! ### Rows at their landing buffer (R186, R342, R345) -/

theorem rowBack_net (s : State) (x : LandRow) (res : BitVec 2) (slot : Nat) : s.SameButNet (s.rowBack x res slot) :=
  (unholdSeq_net s _).trans (reply_net _ _ _)

theorem answered_mem (s : State) (x y : LandRow) (res : BitVec 2) (slot : Nat) :
    ((((s.rowBack x res slot).rowPass x).dropLand x).addLand y).mem = s.mem := by
  obtain ⟨hmem, -⟩ := State.SameStore.of_net (rowBack_net s x res slot)
  simp only [State.addLand, State.dropLand, State.rowPass]
  exact hmem

theorem dwAt_eq (bs : List Byte) (k : Nat) : dwAt bs k = BitVec.ofNat 64 (leNat ((bs.drop (8 * k)).take 8)) := rfl

theorem dispatchRowLanded_admits {n : Nat} {x : LandRow} {pa : Nat} (hfind : s.landRows.find? (fun x => x.id = n) = some x) (hentry : x.onEntry = none)
    (hslot : x.slot = none) (hturn : s.rowTurn x = true) (hplace : engPlace s (s.protOf x.row.pctx) true 0 x.row.lb = .ok (.hbm pa))
    (hclean : s.poison = []) (hmark : s.markUsed (s.protOf x.row.pctx) x.row.lb true = s) (w : Nat → Nat)
    (hw : ∀ k, w k = leNat (((s.bytes (s.protOf x.row.pctx).keyslot pa 64).drop (8 * k)).take 8))
    (hsize : x.row.rowb.toNat = 64 * 2 ^ (w 1 / 2 ^ 13 % 8)) (hfill : w 2 < w 1 % 2 ^ 13) :
    Does (.dispatchRowLanded n) s (fun u =>
      (∀ k, k < 8 → u.byte (pa + 16 + k) = (wordBytes (BitVec.ofNat 64 (w 2 + 1))).getD k 0) ∧
      ∃ x' ∈ u.landRows, x' = { x with
        slot := some (BitVec.ofNat 64 (w 0 + w 2 * (64 * 2 ^ (w 1 / 2 ^ 13 % 8))),
          BitVec.ofNat 64 (w 0 + w 1 % 2 ^ 13 * (64 * 2 ^ (w 1 / 2 ^ 13 % 8)) + 8 * w 2), BitVec.ofNat 64 (w 3))
        writes := [⟨false, none, none, false, []⟩, ⟨true, none, none, false, []⟩] }) := by
  set p := s.protOf x.row.pctx with hp
  set bs := s.bytes p.keyslot pa 64 with hbs
  set cap := w 1 % 2 ^ 13 with hcap
  set size := 64 * 2 ^ (w 1 / 2 ^ 13 % 8) with hsz
  have hdw : ∀ k, dwAt bs k = BitVec.ofNat 64 (w k) := fun k => by rw [dwAt_eq, hw]
  have hdwNat : ∀ k, (dwAt bs k).toNat = w k := fun k => by rw [dwAt_toNat, hw]
  have hcap' : (fld (dwAt bs 1) 0 13).toNat = cap := by rw [fld_toNat, hdwNat, Nat.pow_zero, Nat.div_one]
  have hsize' : (64 * 2 ^ (fld (dwAt bs 1) 13 3).toNat) = size := by rw [fld_toNat, hdwNat]; rfl
  have hadmit : s.admitRow x = ((((s.putHome p.keyslot (pa + 16) (wordBytes (dwAt bs 2 + 1))).rowBack x 0 (w 2)).rowPass x).dropLand x).addLand
      { x with
        slot := some (dwAt bs 0 + natWord (w 2 * size), dwAt bs 0 + natWord (cap * size + 8 * w 2), dwAt bs 3)
        writes := [⟨false, none, none, false, []⟩, ⟨true, none, none, false, []⟩] } := by
    unfold State.admitRow
    simp only [← hp, hplace, engBad_clean hclean, hmark, ← hbs, hcap', hsize', hdwNat]
    rw [if_neg (by omega), if_neg (by omega), if_neg (by omega)]
  have hexec : exec (.dispatchRowLanded n) s = .next (s.admitRow x).counted := by
    show execDispatchRowLanded n s = _
    rw [execDispatchRowLanded, hfind]
    simp only [State.landStep, hentry, hslot, hturn, Option.isSome_none, Bool.false_eq_true, if_false, if_true]
  rw [hadmit] at hexec
  refine does_counted hexec ⟨fun k hk => ?_, _, List.mem_append_right _ (List.mem_singleton_self _), ?_⟩
  · have hlt : k < (wordBytes (dwAt bs 2 + 1)).length := by rw [wordBytes, leBytes_length]; exact hk
    have hw2 : dwAt bs 2 + 1 = BitVec.ofNat 64 (w 2 + 1) := by rw [hdw, BitVec.ofNat_add]; rfl
    rw [State.byte, answered_mem, ← hw2, List.getD_eq_getElem _ _ hlt]
    exact putHome_byte_inside hlt
  · rw [hdw 0, hdw 3, natWord, natWord, ← BitVec.ofNat_add, ← BitVec.ofNat_add, Nat.add_assoc]

/-- R345: the last write of a slot raises its counter. -/
theorem dispatchRowLanded_last {n : Nat} {s1 : State} {x : LandRow} {w : LandWrite} {a h k : Word}
    (hfind : s.landRows.find? (fun x => x.id = n) = some x) (hentry : x.onEntry = none) (hslot : x.slot = some (a, h, k)) (hwrites : x.writes = [w])
    (hwentry : w.onEntry = none) (hbehind : s.behind x w = false)
    (hwrite : engWrite s (s.protOf x.row.pctx) true (if w.head = true then h else a) (if w.head = true then wordBytes x.row.header else x.row.bytes) =
      (s1, none)) (hok : ctrOk s1 (s.protOf x.row.pctx) k = true) (hk : ctPkg k = s1.pkg) (hacc : s1.Accepts (ctDie k) (ctIndex k)) :
    Does (.dispatchRowLanded n) s (fun u => (∀ y ∈ u.landRows, y.id ≠ n) ∧ u.mem = s1.mem ∧
      u.cell (ctDie k) (ctIndex k) = s1.cell (ctDie k) (ctIndex k) + 1) := by
  have hid : x.id = n := by simpa using List.find?_some hfind
  set t := (s1.passPages x w.head w.pages).dropLand x with ht
  have hwhat : x.what w = (if w.head = true then h else a, if w.head = true then wordBytes x.row.header else x.row.bytes) := by
    unfold LandRow.what
    rw [hslot]
    simp only
    split <;> rfl
  have hland : s.landWrite x w a h k = t.raise k 1 (dieAgent (ctDie k)) 7 := by
    unfold State.landWrite
    simp only [hwhat, hwrite, hwrites, List.length_singleton, Nat.le_refl, if_true]
    exact if_pos hok
  have hstep : s.landStep x = s.landWrite x w a h k := by
    have hws : s.landable x = [w] := by simp [State.landable, hwrites, hwentry, hbehind]
    unfold State.landStep
    simp only [hentry, hslot, hws, Option.isSome_none, Bool.false_eq_true, if_false, List.length_singleton, Nat.mod_one, List.drop_zero]
  obtain ⟨hmem, hctrs, -, hrows, -⟩ := raise_store (s := t) (k := k) hk hacc 1 (dieAgent (ctDie k)) 7
  rw [← hland, ← hstep] at hmem hctrs hrows
  refine does_counted (u := s.landStep x) ?_ ⟨?_, hmem, ?_⟩
  · show execDispatchRowLanded n s = _
    rw [execDispatchRowLanded, hfind]
  · intro y hy
    rw [hrows] at hy
    have hne := (List.mem_filter.mp hy).2
    rw [← hid]
    simpa using hne
  · rw [State.cell, hctrs]
    exact cell_setCell_same t _ _ _

/-! ### Tokens of DFLUSH (R183, R184) -/

theorem dflushTokenDone_does {c : CtxId} {k : Tok} (hmem : k ∈ (s.ctx c).flushes) {covered : FlightRow → Bool}
    (hcovered : ∀ r, covered r = (decide (r.by_.ctx = c) && decide (r.by_.inv = (s.ctx c).invId) && decide (r.tok = some k)))
    (hdone : ∀ r ∈ s.rows, covered r = true → r.stage = .done ∧ r.err = 0)
    (hqueue : ∀ q ∈ s.copyq, ¬ (q.ctx = c ∧ q.inv = (s.ctx c).invId ∧ q.tok = some k)) :
    Does (.dflushTokenDone c k) s (fun u => u.rows = s.rows.filter (fun r => !covered r) ∧ u.mem = s.mem ∧
      s.OnlyCtx c (({ s.ctx c with flushes := (s.ctx c).flushes.filter (fun t => t ≠ k) }).setTok k ⟨.done, 0⟩) u) := by
  have hrows : s.tokRows c (s.ctx c).invId k = s.rows.filter covered := List.filter_congr fun r _ => (hcovered r).symm
  have hsettled : s.flushSettled c k = true := by
    unfold State.flushSettled
    simp only [hrows, Bool.and_eq_true, List.all_eq_true, decide_eq_true_eq]
    refine ⟨fun r hr => ?_, fun q hq => ?_⟩
    · obtain ⟨hin, hcov⟩ := List.mem_filter.mp hr
      exact (hdone r hin hcov).1
    · rw [Bool.not_eq_true', ← Bool.not_eq_true]
      simpa [and_assoc] using hqueue q hq
  have herr : firstErr (s.rows.filter covered) = 0 := by
    have hnone : (s.rows.filter covered).filter (fun r => r.err ≠ 0) = [] := List.filter_eq_nil_iff.mpr fun r hr => by
      obtain ⟨hin, hcov⟩ := List.mem_filter.mp hr
      simp [(hdone r hin hcov).2]
    rw [firstErr, hnone]
    rfl
  set y : Ctx := ({ s.ctx c with flushes := (s.ctx c).flushes.filter (fun t => t ≠ k) }).setTok k ⟨.done, 0⟩ with hy
  have hid : y.id = c := ctx_id s c
  have hexec : exec (.dflushTokenDone c k) s = .next (State.setCtx { s with rows := s.rows.filter (fun r => !covered r) } y).counted := by
    show execDflushTokenDone c k s = _
    unfold execDflushTokenDone
    simp only [List.contains_iff_mem.mpr hmem, hsettled, Bool.and_self, if_true, hrows, herr]
    simp only [← hcovered]
    rfl
  have hset : ∀ t : State, (t.setCtx y).rows = t.rows ∧ (t.setCtx y).mem = t.mem := fun t => by
    unfold State.setCtx
    split <;> exact ⟨rfl, rfl⟩
  obtain ⟨hr, hm⟩ := hset { s with rows := s.rows.filter (fun r => !covered r) }
  refine does_counted hexec ⟨hr, hm, ?_, fun d hd => ?_⟩
  · rw [ctx_setCtx, if_pos hid]
  · rw [ctx_setCtx, hid, if_neg (Ne.symm hd)]
    rfl

end

/-- Settles O51, by one lemma for each thing that the engines come to. -/
theorem engineEvents : Obligations.EngineEvents := by
  unfold Obligations.EngineEvents
  refine ⟨?_, ?_, ⟨?_, ?_⟩, ?_, ⟨?_, ?_⟩, ?_⟩
  · intro s n c hfind huniq htrig herr hbad hthrough hunacked hrun hctr
    refine (copyComplete_ends hfind huniq htrig herr hbad hthrough hunacked hrun hctr).imp fun u hu => ?_
    obtain ⟨t, ⟨hcopies, hmem, ⟨hraised, hkept⟩, htok, hothers⟩, ht⟩ := hu
    refine ⟨t, ⟨hcopies, hmem, fun k hdet hk => ?_, hkept, ?_, hothers⟩, ht⟩
    · rw [State.cell, hraised k hdet hk]
      exact ⟨cell_setCell_same s _ _ _, fun d i hne => by rw [State.cell, hraised k hdet hk]; exact cell_setCell_other s _ hne⟩
    · rw [htok]
      cases c.tok <;> rfl
  · intro s n c pa pb hfind huniq htrig herr hbad hpos hunacked hbuf hctr hrd hdet hrows hrowb hlen hroom hsrc hdst hclean hfq hstreams
    exact copyComplete_small hfind huniq htrig herr hbad hpos hunacked hbuf hctr hrd hdet hrows hrowb hlen hroom hsrc hdst hclean hfq hstreams
  · intro s n c f hfind hstall hroom
    exact copyPageFault_copy hfind hstall hroom
  · intro s n r f hcopy hfind hstall hroom
    exact copyPageFault_row hcopy hfind hstall hroom
  · intro s con hheld now
    exact ⟨fun s1 hexp happly hcell hacc => detContributionArrival_applies hexp happly hcell hacc,
      fun hlow hhigh hroom => detContributionArrival_held hheld hlow hhigh hroom, detContributionArrival_late⟩
  · intro s n x pa hfind hentry hslot hturn p w hplace hclean hmark cap size hsize hfill
    exact dispatchRowLanded_admits hfind hentry hslot hturn hplace hclean hmark w (fun _ => rfl) hsize hfill
  · intro s s1 n x w a h k hfind hentry hslot hwrites hwentry hbehind p hwrite hok hk hacc
    exact dispatchRowLanded_last hfind hentry hslot hwrites hwentry hbehind hwrite hok hk hacc
  · intro s c k x inv covered hmem hdone hqueue
    exact dflushTokenDone_does hmem (fun _ => rfl) hdone hqueue

end Sys2Proof.Machine
end

section
/-! ## Gangs (R59, R60, R153, R154) -/

namespace Sys2Proof.Machine

/-! ### One change of each of some contexts -/

/-- A state that differs only in its contexts; the same one issues. -/
def State.SameButCtxs (s u : State) : Prop := u = { s with cx := u.cx, ctxs := u.ctxs } ∧ u.cx.id = s.cx.id

namespace State.SameButCtxs

variable {s u v : State}

theorem refl (s : State) : s.SameButCtxs s := ⟨rfl, rfl⟩

theorem trans (h : s.SameButCtxs u) (k : u.SameButCtxs v) : s.SameButCtxs v := by
  obtain ⟨hsame, hid⟩ := h
  obtain ⟨ksame, kid⟩ := k
  exact ⟨by rw [ksame, hsame], kid.trans hid⟩

theorem issued (h : s.SameButCtxs u) : u.issued = s.issued := by
  obtain ⟨hsame, -⟩ := h
  rw [hsame]

theorem ctx_cx (h : s.SameButCtxs u) : u.ctx s.cx.id = u.cx := by
  obtain ⟨-, hid⟩ := h
  rw [← hid]
  exact Machine.ctx_cx u

end State.SameButCtxs

/-- A change of the issuing context alone. -/
def OwnChange (f : State → State) (φ : Nat → Ctx → Ctx) : Prop :=
  (∀ t : State, f t = { t with cx := φ t.issued t.cx }) ∧ ∀ n x, (φ n x).id = x.id

section
variable {f : State → State} {φ : Nat → Ctx → Ctx}

theorem withCtx_own (h : OwnChange f φ) (s : State) (id : CtxId) :
    s.SameButCtxs (s.withCtx id f) ∧ ∀ c, (s.withCtx id f).ctx c = if c = id then φ s.issued (s.ctx id) else s.ctx c := by
  obtain ⟨hf, hφ⟩ := h
  have hfid := hf (s.focus id)
  have hissued : (s.focus id).issued = s.issued := by rw [focus_eq]
  rw [focus_cx, hissued] at hfid
  refine ⟨⟨?_, ?_⟩, fun c => ?_⟩
  · rw [State.withCtx, focus_eq (f (s.focus id)), hfid, focus_eq s]
  · rw [State.withCtx, focus_cx, ctx_id]
  · have hcx : (f (s.focus id)).cx.id = (s.focus id).cx.id := by rw [hfid, focus_cx]; exact hφ _ _
    rw [withCtx_ctx, ctx_of_cx hcx (by rw [hfid]), focus_ctx, focus_cx, ctx_id, hfid]
    by_cases hc : id = c
    · rw [if_pos hc, if_pos hc.symm]
    · rw [if_neg hc, if_neg (Ne.symm hc)]

theorem each_own (h : OwnChange f φ) {ids : List CtxId} (hnd : ids.Nodup) (s : State) :
    s.SameButCtxs (s.each ids f) ∧ ∀ c, (s.each ids f).ctx c = if c ∈ ids then φ s.issued (s.ctx c) else s.ctx c := by
  induction ids generalizing s with
  | nil => exact ⟨.refl s, fun c => by rw [if_neg List.not_mem_nil]; rfl⟩
  | cons id ids ih =>
    obtain ⟨hnot, hnd⟩ := List.nodup_cons.mp hnd
    obtain ⟨hone, hctx⟩ := withCtx_own h s id
    obtain ⟨hrest, hctxs⟩ := ih hnd (s.withCtx id f)
    refine ⟨hone.trans hrest, fun c => ?_⟩
    rw [State.each, List.foldl_cons, ← State.each, hctxs, hctx, hone.issued]
    by_cases hc : c = id
    · subst hc
      rw [if_neg hnot, if_pos rfl, if_pos List.mem_cons_self]
    · simp only [List.mem_cons, hc, false_or, if_false]

end

/-- A change of contexts on which it has nothing to do. -/
theorem each_same {s : State} {ids : List CtxId} {f : State → State}
    (hf : ∀ id ∈ ids, ∀ u : State, u.ctx id = s.ctx id → f (u.focus id) = u.focus id) :
    (∀ c, (s.each ids f).ctx c = s.ctx c) ∧ (s.each ids f).cx.id = s.cx.id := by
  unfold State.each
  refine List.foldlRecOn (motive := fun u : State => (∀ c, u.ctx c = s.ctx c) ∧ u.cx.id = s.cx.id) _ _ ⟨fun _ => rfl, rfl⟩ fun u hu id hid => ?_
  obtain ⟨hctx, hcx⟩ := hu
  refine ⟨fun c => ?_, ?_⟩
  · rw [withCtx_ctx, hf id hid u (hctx id), focus_ctx, hctx]
  · rw [State.withCtx, focus_cx, ctx_id, hcx]

/-! ### The effect of an instruction on one member (R59) -/

/-- The same issuing context, but for the list of the members that have issued. -/
def State.SameIssuer (t u : State) : Prop := u.issued = t.issued ∧ u.cx = { t.cx with gdone := u.cx.gdone }

section
variable {t u : State}

theorem guard_congr (h : t.SameIssuer u) (m : Mods) : u.guard m = t.guard m := by
  obtain ⟨hissued, hcx⟩ := h
  unfold State.guard State.q
  rw [hissued, hcx]

theorem g_congr (h : t.SameIssuer u) (r : GReg) : u.g r = t.g r := by
  obtain ⟨hissued, hcx⟩ := h
  unfold State.g
  rw [hissued, hcx]

theorem src_congr (h : t.SameIssuer u) (y : Src) : u.src y = t.src y := by
  cases y with
  | reg r => exact g_congr h r
  | imm v => rfl

end

/-- An effect on the registers g, on outstanding results and on the gang of the issuing context, which does not look at the members that have issued. -/
def MemberEffect (b : State → State) : Prop :=
  (∀ t : State, b t = { t with cx := { t.cx with g := (b t).cx.g, pend := (b t).cx.pend, landed := (b t).cx.landed, gang := (b t).cx.gang } }) ∧
    ∀ t u : State, t.SameIssuer u → (b u).cx.g = (b t).cx.g ∧ (b u).cx.pend = (b t).cx.pend ∧ (b u).cx.gang = (b t).cx.gang

theorem setG_effect (gd : GReg) {v : State → Word} (hv : ∀ t u : State, t.SameIssuer u → v u = v t) : MemberEffect (fun t => t.setG gd (v t)) := by
  refine ⟨fun t => ?_, fun t u h => ?_⟩
  · unfold State.setG
    split <;> rfl
  · beta_reduce
    rw [hv t u h]
    obtain ⟨-, hcx⟩ := h
    unfold State.setG
    split
    · rw [hcx]; exact ⟨rfl, rfl, rfl⟩
    · rw [hcx]; exact ⟨rfl, rfl, rfl⟩

theorem owes_effect {b : State → State} {vs : List RegVal} (h : ∀ t : State, t.Owes vs (b t)) : MemberEffect b := by
  refine ⟨fun t => ?_, fun t u hs => ?_⟩
  · rw [h t]
  · obtain ⟨-, hcx⟩ := hs
    rw [h t, h u, hcx]
    exact ⟨rfl, rfl, rfl⟩

theorem markSplit_effect : MemberEffect State.markSplit := by
  refine ⟨fun t => rfl, fun t u hs => ?_⟩
  obtain ⟨-, hcx⟩ := hs
  unfold State.markSplit
  rw [hcx]
  exact ⟨rfl, rfl, rfl⟩

/-- R59, R66: what a member does with the leader's instruction: nothing where the guard is false. -/
def guarded (on : Option Bool) (m : Mods) (b : State → State) (t : State) : State := if on.getD (t.guard m) = true then b t else t

theorem guarded_on {on : Option Bool} {m : Mods} {b : State → State} {t : State} (h : on.getD (t.guard m) = true) : guarded on m b t = b t := if_pos h

theorem guarded_off {on : Option Bool} {m : Mods} {b : State → State} {t : State} (h : on.getD (t.guard m) = false) : guarded on m b t = t :=
  if_neg (by rw [h]; exact Bool.false_ne_true)

theorem guarded_effect (on : Option Bool) (m : Mods) {b : State → State} (h : MemberEffect b) : MemberEffect (guarded on m b) := by
  obtain ⟨hown, hcongr⟩ := h
  refine ⟨fun t => ?_, fun t u hs => ?_⟩
  · unfold guarded
    split
    · exact hown t
    · rfl
  · unfold guarded
    rw [guard_congr hs m]
    split
    · exact hcongr t u hs
    · obtain ⟨-, hcx⟩ := hs
      rw [hcx]
      exact ⟨rfl, rfl, rfl⟩

/-- A context that has the registers, results, gang and place of another. -/
def Ctx.Issued (x y : Ctx) : Prop := y.g = x.g ∧ y.pend = x.pend ∧ y.gang = x.gang ∧ y.gidx = x.gidx ∧ y.pc = x.pc ∧ y.rep = x.rep

theorem effect_issued {b : State → State} (h : MemberEffect b) {t u : State} (hs : t.SameIssuer u) : (b t).cx.Issued (b u).cx := by
  obtain ⟨hown, hcongr⟩ := h
  obtain ⟨hg, hpend, hgang⟩ := hcongr t u hs
  obtain ⟨-, hcx⟩ := hs
  refine ⟨hg, hpend, hgang, ?_, ?_, ?_⟩ <;> rw [hown t, hown u, hcx]

theorem Ctx.Issued.trans {x y z : Ctx} (h : x.Issued y) (k : y.Issued z) : x.Issued z := by
  obtain ⟨hg, hpend, hgang, hidx, hpc, hrep⟩ := h
  obtain ⟨kg, kpend, kgang, kidx, kpc, krep⟩ := k
  exact ⟨kg.trans hg, kpend.trans hpend, kgang.trans hgang, kidx.trans hidx, kpc.trans hpc, krep.trans hrep⟩

theorem issued_gdone {x y : Ctx} (h : y = { x with gdone := y.gdone }) : x.Issued y := by
  rw [h]
  exact ⟨rfl, rfl, rfl, rfl, rfl, rfl⟩

section
variable {leader : CtxId} {on : Option Bool} {m : Mods} {b : State → State}

/-- A member has issued the leader's instruction. -/
def State.addDone (s : State) (id : CtxId) : State := { s with cx := { s.cx with gdone := s.cx.gdone ++ [id] } }

theorem memberIssue_eq (id : CtxId) (acc : State × Option Word) :
    memberIssue leader id on m (fun s => .fall (b s)) .fall acc = (((guarded on m b (acc.1.focus id)).focus leader).addDone id, acc.2) := by
  unfold memberIssue guarded
  cases on with
  | none =>
    by_cases h : (acc.1.focus id).guard m = true
    · simp only [h, if_true, Option.getD_none]; rfl
    · simp only [h, if_false, Option.getD_none, Bool.false_eq_true]; rfl
  | some g =>
    cases g <;> rfl

/-- R59: one member issues the leader's instruction. -/
theorem memberIssue_spec (hb : MemberEffect b) {u : State} (hid : u.cx.id = leader) (id : CtxId) :
    ∃ w, memberIssue leader id on m (fun s => .fall (b s)) .fall (u, none) = (w, none) ∧ u.SameButCtxs w ∧ w.cx.gdone = u.cx.gdone ++ [id] ∧
      (guarded on m b (u.focus id)).cx.Issued (w.ctx id) ∧ ∀ c, c ≠ id → w.ctx c = { u.ctx c with gdone := (w.ctx c).gdone } := by
  obtain ⟨hown, -⟩ := guarded_effect on m hb
  have hk := hown (u.focus id)
  refine ⟨_, memberIssue_eq id (u, none), ?_⟩
  simp only
  generalize guarded on m b (u.focus id) = k at *
  have hkid : k.cx.id = (u.focus id).cx.id := by rw [hk]
  have hkctx : ∀ c, k.ctx c = if id = c then k.cx else u.ctx c := fun c => by
    rw [ctx_of_cx hkid (by rw [hk]), focus_cx, ctx_id, focus_ctx]
  have htcx : (k.focus leader).cx = k.ctx leader := focus_cx k leader
  have htid : (k.focus leader).cx.id = leader := by rw [htcx, ctx_id]
  have hwctx : ∀ c, ((k.focus leader).addDone id).ctx c = { k.ctx c with gdone := (((k.focus leader).addDone id).ctx c).gdone } := fun c => by
    have h := ctx_of_cx (s := k.focus leader) (u := (k.focus leader).addDone id) rfl rfl c
    rw [focus_ctx, htid] at h
    rw [h]
    split
    · next hc => rw [State.addDone, ← hc, ← htcx]
    · rfl
  have hgdone : (k.focus leader).cx.gdone = u.cx.gdone := by
    rw [htcx, hkctx]
    split
    · next hc => rw [hk, focus_cx, hc, ← hid, ctx_cx]
    · rw [← hid, ctx_cx]
  refine ⟨⟨?_, ?_⟩, ?_, ?_, fun c hc => ?_⟩
  · rw [State.addDone, focus_eq k, hk, focus_eq u]
  · rw [hid]
    exact htid
  · rw [← hgdone]
    rfl
  · have h := hwctx id
    rw [hkctx, if_pos rfl] at h
    exact issued_gdone h
  · have h := hwctx c
    rwa [hkctx, if_neg (Ne.symm hc)] at h

/-- R59: the members issue the leader's instruction one after another. -/
theorem membersIssue_spec (hb : MemberEffect b) {todo : List CtxId} (hnd : todo.Nodup) {u : State} (hid : u.cx.id = leader) :
    ∃ v, todo.foldl (fun acc id => memberIssue leader id on m (fun s => .fall (b s)) .fall acc) (u, none) = (v, none) ∧ u.SameButCtxs v ∧
      v.cx.gdone = u.cx.gdone ++ todo ∧ (∀ c ∈ todo, (guarded on m b (u.focus c)).cx.Issued (v.ctx c)) ∧
      ∀ c, c ∉ todo → v.ctx c = { u.ctx c with gdone := (v.ctx c).gdone } := by
  induction todo generalizing u with
  | nil => exact ⟨u, rfl, .refl u, (List.append_nil _).symm, fun c hc => absurd hc List.not_mem_nil, fun c _ => rfl⟩
  | cons id todo ih =>
    obtain ⟨hnot, hnd⟩ := List.nodup_cons.mp hnd
    obtain ⟨w, hstep, hsame, hdone, hmine, hothers⟩ := memberIssue_spec (on := on) (m := m) hb hid id
    obtain ⟨v, hfold, hsame', hdone', hmine', hothers'⟩ := ih hnd (u := w) (hsame.2.trans hid)
    refine ⟨v, by rw [List.foldl_cons, hstep, hfold], hsame.trans hsame', by rw [hdone', hdone, List.append_assoc]; rfl, fun c hc => ?_, fun c hc => ?_⟩
    · rcases List.mem_cons.mp hc with rfl | hin
      · exact hmine.trans (issued_gdone (hothers' c hnot))
      · have hne : c ≠ id := fun h => hnot (h ▸ hin)
        have hissued : (w.focus c).issued = (u.focus c).issued := by rw [focus_eq w, focus_eq u]; exact hsame.issued
        refine (effect_issued (guarded_effect on m hb) ⟨hissued, ?_⟩).trans (hmine' c hin)
        rw [focus_cx, focus_cx]
        exact hothers c hne
    · rw [List.mem_cons, not_or] at hc
      rw [hothers' c hc.2, hothers c hc.1]

end

/-! ### What an instruction of a gang comes to (R59) -/

/-- R59: a member after the leader's instruction. -/
def Ctx.follows (l x : Ctx) : Ctx := { x with pc := l.pc, rep := l.rep, runLen := l.runLen, arrived := false, firm := none, got := [] }

theorem copyToMembers_spec (w : State) {ids : List CtxId} (hnd : ids.Nodup) {rep : Rep} (hrep : rep.passEnd = false) :
    w.SameButCtxs (w.copyToMembers ids rep) ∧
      ∀ c, (w.copyToMembers ids rep).ctx c = if c ∈ ids ∧ c ≠ w.cx.id then w.cx.follows (w.ctx c) else w.ctx c := by
  have heach : w.copyToMembers ids rep =
      w.each (ids.filter (fun id => id ≠ w.cx.id)) (fun s => { s with cx := w.cx.follows s.cx }) := by
    rw [State.each, List.foldl_filter]
    unfold State.copyToMembers
    simp only [hrep, Bool.false_eq_true, if_false, ne_eq, decide_not, Bool.not_eq_true', decide_eq_false_iff_not, ite_not]
    rfl
  obtain ⟨hsame, hctx⟩ := each_own (f := fun s => { s with cx := w.cx.follows s.cx }) (φ := fun _ => w.cx.follows) ⟨fun _ => rfl, fun _ _ => rfl⟩
    (hnd.filter (fun id => id ≠ w.cx.id)) w
  rw [heach]
  refine ⟨hsame, fun c => ?_⟩
  rw [hctx]
  simp only [List.mem_filter, decide_eq_true_eq]

section
variable {s : State} {ids : List CtxId}

theorem owes_zero (c : Ctx) {m : Mods} (hwt : m.wt = 0) : c.owes m.wt = false := by rw [Ctx.owes, hwt]; simp

/-- R59, R67: nothing comes before an instruction that neither starts a run nor acts at a switch point. -/
theorem beforeGang_none {m : Mods} {k : Kind} (hwt : m.wt = 0) (hstarts : k.starts = false) (hacts : k.acts = false) : s.beforeGang m k = none := by
  have hstart : ∀ t : State, t.mustStart m k = false := fun t => by simp [State.mustStart, hstarts, hwt]
  unfold State.beforeGang
  simp [hstart, hacts, owes_zero _ hwt]

/-- No member has issued the next instruction. -/
def State.clearDone (s : State) : State := { s with cx := { s.cx with gdone := [] } }

/-- The guard that a gang takes from its leader, for some instructions. -/
def Kind.guardOf (k : Kind) (s : State) (m : Mods) : Option Bool := if k.lead = true then some (s.guard m) else none

/-- R59: every member of a gang executes the leader's instruction on its own registers, and all go on at the leader's next address. -/
theorem issueGang_falls (hl : s.Leads ids) {m : Mods} {k : Kind} {b : State → State} (hwt : m.wt = 0) (hstarts : k.starts = false)
    (hacts : k.acts = false) (hb : MemberEffect b) (len : Nat) :
    ∃ t, issueWith m len k (fun s => .fall (b s)) .fall s = .next t ∧ t.cx.id = s.cx.id ∧
      ((m.sw || (k.ends && (k.guardOf s m).getD (ids.any (fun id => (s.focus id).guard m)))) = true → t.cx.status = .atSwitch) ∧
      ∀ id ∈ ids, (t.ctx id).pc = s.cx.pc + natWord len ∧ (t.ctx id).gidx = (s.ctx id).gidx ∧
        (t.ctx id).g = (guarded (k.guardOf s m) m b (s.focus id)).cx.g ∧ (t.ctx id).pend = (guarded (k.guardOf s m) m b (s.focus id)).cx.pend ∧
        (t.ctx id).gang = (guarded (k.guardOf s m) m b (s.focus id)).cx.gang := by
  obtain ⟨hgang, hids, hnd, hmem, hdone, hrep, hfree⟩ := hl
  obtain ⟨v, hfold, hsame, hvdone, hvctx, -⟩ := membersIssue_spec (leader := s.cx.id) (on := k.guardOf s m) (m := m) hb hnd (u := s) rfl
  have htodo : ids.filter (fun id => !s.cx.gdone.contains id && !(s.ctx id).status.holdsGang) = ids :=
    List.filter_eq_self.mpr fun id hid => by simp [hdone, hfree id hid]
  have hall : ids.all (fun id => v.cx.gdone.contains id) = true := by
    rw [hvdone, hdone, List.nil_append, List.all_eq_true]
    exact fun id hid => List.contains_iff_mem.mpr hid
  have hlead : v.cx = v.ctx s.cx.id := hsame.ctx_cx.symm
  obtain ⟨-, -, -, -, hpc, hrep'⟩ := hvctx s.cx.id hmem
  obtain ⟨hown, -⟩ := guarded_effect (k.guardOf s m) m hb
  rw [← hlead, hown, focus_cx, ctx_cx] at hpc hrep'
  generalize hsw : (m.sw || (k.ends && (k.guardOf s m).getD (ids.any (fun id => (s.focus id).guard m)))) = sw
  have hissue : issueWith m len k (fun s => .fall (b s)) .fall s = .next ((v.clearDone.retire len sw).copyToMembers ids s.cx.rep) := by
    rw [hdone] at htodo
    have hfold' : ids.foldl (fun acc id => memberIssue s.cx.id id (if k.lead = true then some (s.guard m) else none) m
      (fun s => .fall (b s)) .fall acc) (s, none) = (v, none) := hfold
    rw [issueWith, if_pos hgang, ← hsw]
    unfold issueGang
    simp only [hids, hdone, List.isEmpty_nil, if_true, beforeGang_none hwt hstarts hacts]
    rw [htodo, hfold']
    simp only [hall, if_true]
    rfl
  obtain ⟨hcount, hnext, -, -⟩ := retire_retired v.clearDone len sw
  obtain ⟨hwpc, -, hwg, -⟩ := hnext (by show v.cx.rep.act = false; rw [hrep']; exact hrep)
  generalize hw : v.clearDone.retire len sw = w at *
  have hwid : w.cx.id = s.cx.id := by rw [hcount]; exact hsame.2
  have hwctx : ∀ c, w.ctx c = if s.cx.id = c then w.cx else v.ctx c := fun c => by
    have h1 := ctx_of_cx (s := v) (u := v.clearDone) rfl rfl c
    have h2 := ctx_of_cx (s := v.clearDone) (u := w) (by rw [hcount]; rfl) (by rw [hcount]) c
    rw [h2, h1, show v.clearDone.cx.id = s.cx.id from hsame.2, show v.cx.id = s.cx.id from hsame.2]
    split <;> rfl
  obtain ⟨csame, cctx⟩ := copyToMembers_spec w hnd (rep := s.cx.rep) (by simp [Rep.passEnd, hrep])
  have hcx : (w.copyToMembers ids s.cx.rep).cx = w.cx := by
    rw [← csame.ctx_cx, cctx, if_neg (fun h => h.2 rfl), ctx_cx]
  refine ⟨_, hissue, by rw [hcx, hwid], fun h => ?_, fun id hid => ?_⟩
  · rw [hcx, hcount]
    exact if_pos (.inl h)
  · obtain ⟨hg, hpend, hgangs, hidx, -, -⟩ := hvctx id hid
    have hidx' : (v.ctx id).gidx = (s.ctx id).gidx := by rw [hidx, hown, focus_cx]
    rw [cctx, hwid, hwctx]
    by_cases hc : s.cx.id = id
    · rw [if_neg (fun h => h.2 hc.symm), if_pos hc]
      rw [← hc, ← hlead] at hg hpend hgangs hidx'
      refine ⟨by rw [hwpc]; exact congrArg (· + natWord len) hpc, ?_, ?_, ?_, ?_⟩
      · rw [hcount, ← hc]; exact hidx'
      · rw [hwg, ← hc]; exact hg
      · rw [hcount, ← hc]; exact hpend
      · rw [hcount, ← hc]; exact hgangs
    · rw [if_pos ⟨hid, Ne.symm hc⟩, if_neg hc]
      exact ⟨by rw [Ctx.follows, hwpc]; exact congrArg (· + natWord len) hpc, hidx', hg, hpend, hgangs⟩

/-! ### Integer instructions, votes and the split in a gang (R59, R153, R154) -/

theorem guardOf_plain (s : State) (m : Mods) : Kind.plain.guardOf s m = none := rfl

theorem intOp_inGang {i : Instr} {o : IntOp} (hi : intOps i = some o) (hwt : o.m.wt = 0) (hl : s.Leads ids) :
    ∃ t, exec i s = .next t ∧ ∀ id ∈ ids, (t.ctx id).pc = s.cx.pc + BitVec.ofNat 64 o.y.len ∧ (t.ctx id).pend = (s.ctx id).pend ∧
      ∀ r : GReg, (t.ctx id).g[r.toFin] =
        if r = o.gd ∧ o.gd ≠ 0 ∧ (s.focus id).guard o.m = true then o.result (s.focus id) else (s.ctx id).g[r.toFin] := by
  obtain ⟨f, hexec, hresult⟩ := intOps_alu2 hi
  have hb : MemberEffect (fun t => t.setG o.gd (f (t.g o.ga) (t.src o.y))) :=
    setG_effect o.gd fun t u h => by rw [g_congr h, src_congr h]
  obtain ⟨t, ht, -, -, hall⟩ := issueGang_falls (k := .plain) hl hwt rfl rfl hb o.y.len
  refine ⟨t, (hexec s).trans ht, fun id hid => ?_⟩
  obtain ⟨hpc, -, hg, hpend, -⟩ := hall id hid
  obtain ⟨hset, hregs⟩ := setG_sets (s.focus id) o.gd (f ((s.focus id).g o.ga) ((s.focus id).src o.y))
  rw [guardOf_plain] at hg hpend
  cases hq : (s.focus id).guard o.m with
  | true =>
    rw [guarded_on (on := none) hq] at hg hpend
    refine ⟨hpc, ?_, fun r => ?_⟩
    · rw [hpend, hset, focus_cx]
    · rw [hg, hregs, hresult, focus_cx]
      simp only [and_true]
  | false =>
    rw [guarded_off (on := none) hq, focus_cx] at hg hpend
    exact ⟨hpc, hpend, fun r => by rw [hg, if_neg fun h => Bool.false_ne_true h.2.2]⟩

/-- R153: what a member of a gang owes after a vote. -/
theorem vote_inGang {m : Mods} {d : VoteDst} {qa : QReg} {b : State → State} {vs : List RegVal} (hwt : m.wt = 0) (hl : s.Leads ids)
    (hexec : exec (.gvote m d qa) s = issueWith m 8 .plain (fun t => .fall (b t)) .fall s) (hb : ∀ t : State, t.Owes vs (b t)) :
    ∃ t, exec (.gvote m d qa) s = .next t ∧ ∀ id ∈ ids, (t.ctx id).pc = s.cx.pc + 8 ∧ (t.ctx id).g = (s.ctx id).g ∧
      (t.ctx id).pend = (s.ctx id).pend ++ (if (s.focus id).guard m = true then vs else []) := by
  obtain ⟨t, ht, -, -, hall⟩ := issueGang_falls (k := .plain) hl hwt rfl rfl (owes_effect hb) 8
  refine ⟨t, hexec.trans ht, fun id hid => ?_⟩
  obtain ⟨hpc, -, hg, hpend, -⟩ := hall id hid
  rw [guardOf_plain] at hg hpend
  cases hq : (s.focus id).guard m with
  | true =>
    rw [guarded_on (on := none) hq, hb, focus_cx] at hg hpend
    exact ⟨hpc, hg, hpend⟩
  | false =>
    rw [guarded_off (on := none) hq, focus_cx] at hg hpend
    exact ⟨hpc, hg, hpend.trans (List.append_nil _).symm⟩

/-- R153: each bit of a ballot is the contribution of the member of that position. -/
theorem ballot_getLsbD {vs : List (Nat × Bool)} (hvs : ∀ v ∈ vs, v.1 < 64) (k : Nat) :
    (ballot vs).getLsbD k = true ↔ ∃ v ∈ vs, v.2 = true ∧ v.1 = k := by
  have hfold : ∀ (l : List (Nat × Bool)) (w : Word), (∀ v ∈ l, v.1 < 64) →
      ((l.foldl (fun w v => if v.2 then w ||| (1 <<< v.1) else w) w).getLsbD k = true ↔ w.getLsbD k = true ∨ ∃ v ∈ l, v.2 = true ∧ v.1 = k) := by
    intro l
    induction l with
    | nil => intro w _; simp
    | cons v l ih =>
      intro w hl
      have hv : v.1 < 64 := hl v List.mem_cons_self
      have hbit : (BitVec.ofNat 64 (1 <<< v.1)).getLsbD k = true ↔ v.1 = k := by
        simp only [BitVec.getLsbD_ofNat, Nat.shiftLeft_eq, Nat.one_mul, Nat.testBit_two_pow, Bool.and_eq_true, decide_eq_true_eq]
        omega
      rw [List.foldl_cons, ih _ fun x hx => hl x (List.mem_cons_of_mem _ hx)]
      simp only [List.exists_mem_cons_iff]
      cases v.2 with
      | false => simp
      | true => simp [hbit, or_assoc]
  rw [ballot, hfold vs 0 hvs]
  simp

theorem votes_eq (hl : s.Leads ids) (m : Mods) (qa : QReg) :
    s.votes m qa = ids.map (fun id => ((s.ctx id).gidx.toNat, (s.focus id).guard m && (s.focus id).q qa)) := by
  obtain ⟨-, hids, -⟩ := hl
  rw [State.votes, hids]
  simp only [focus_cx]

theorem votes_inGang {m : Mods} {qa : QReg} (hwt : m.wt = 0) (hl : s.Leads ids) {yes : CtxId → Prop}
    (hyes : ∀ id, yes id ↔ (s.focus id).guard m = true ∧ (s.focus id).q qa = true) {all : VoteDst → List RegVal → Prop}
    (hall : ∀ d v, all d v ↔ ∃ t, exec (.gvote m d qa) s = .next t ∧ ∀ id ∈ ids, (t.ctx id).pc = s.cx.pc + 8 ∧ (t.ctx id).g = (s.ctx id).g ∧
      (t.ctx id).pend = (s.ctx id).pend ++ (if (s.focus id).guard m = true then v else [])) :
    (∀ qd, ∃ b : Bool, (b = true ↔ ∃ id ∈ ids, yes id) ∧ all (.any qd) (qRes qd b)) ∧
    (∀ qd, ∃ b : Bool, (b = true ↔ ∀ id ∈ ids, yes id) ∧ all (.all qd) (qRes qd b)) ∧
    (∀ gd, ∃ w : Word, (∀ k : Nat, w.getLsbD k = true ↔ ∃ id ∈ ids, yes id ∧ (s.ctx id).gidx.toNat = k) ∧ all (.ballot gd) (gRes gd w)) := by
  have hvotes := votes_eq hl m qa
  refine ⟨fun qd => ⟨(s.votes m qa).any (fun v => v.2), ?_, (hall _ _).mpr ?_⟩, fun qd => ⟨(s.votes m qa).all (fun v => v.2), ?_, (hall _ _).mpr ?_⟩,
    fun gd => ⟨ballot (s.votes m qa), fun k => ?_, (hall _ _).mpr ?_⟩⟩
  · simp [hvotes, hyes]
  · exact vote_inGang hwt hl rfl fun t => laterQ_owes t qd _
  · simp [hvotes, hyes]
  · exact vote_inGang hwt hl rfl fun t => laterQ_owes t qd _
  · have hlt : ∀ v ∈ s.votes m qa, v.1 < 64 := by
      intro v hv
      rw [hvotes] at hv
      obtain ⟨id, -, rfl⟩ := List.mem_map.mp hv
      exact (s.ctx id).gidx.isLt.trans (by decide)
    rw [ballot_getLsbD hlt, hvotes]
    simp [hyes]
  · exact vote_inGang hwt hl rfl fun t => laterG_owes t gd _

theorem gsplit_inGang {m : Mods} (hwt : m.wt = 0) (hl : s.Leads ids) (hguard : s.guard m = true) :
    ∃ t, exec (.gsplit m) s = .next t ∧ t.cx.id = s.cx.id ∧ t.cx.status = .atSwitch ∧
      ∀ id ∈ ids, (t.ctx id).pc = s.cx.pc + 8 ∧ (t.ctx id).g = (s.ctx id).g ∧ (t.ctx id).gidx = (s.ctx id).gidx ∧
        (t.ctx id).gang = (s.ctx id).gang.map (fun g => { g with split := g.split || g.whole }) := by
  obtain ⟨hgang, -⟩ := id hl
  have hon : Kind.guardOf ⟨false, true, false, true⟩ s m = some true := by rw [Kind.guardOf, hguard]; rfl
  obtain ⟨t, ht, hid, hst, hall⟩ := issueGang_falls (k := ⟨false, true, false, true⟩) hl hwt rfl rfl markSplit_effect 8
  have hexec : exec (.gsplit m) s = issueWith m 8 ⟨false, true, false, true⟩ (fun t => .fall t.markSplit) .fall s := by
    show execGsplit m s = _
    rw [execGsplit, hgang]
    rfl
  refine ⟨t, hexec.trans ht, hid, hst (by rw [hon]; simp), fun id hid => ?_⟩
  obtain ⟨hpc, hidx, hg, -, hgangs⟩ := hall id hid
  rw [hon, guarded_on rfl] at hg hgangs
  exact ⟨hpc, hg.trans (by rw [← focus_cx s id]; rfl), hidx, hgangs.trans (by rw [← focus_cx s id]; rfl)⟩

/-! ### The same outside a gang -/

theorem gvote_alone {m : Mods} {qa : QReg} (h : s.Executes m .plain) :
    (∀ qd, Falls (.gvote m (.any qd) qa) s 8 m.sw (s.Owes (qRes qd (s.q qa)))) ∧
    (∀ qd, Falls (.gvote m (.all qd) qa) s 8 m.sw (s.Owes (qRes qd (s.q qa)))) ∧
    (∀ gd, Falls (.gvote m (.ballot gd) qa) s 8 m.sw
      (s.Owes (gRes gd (BitVec.ofNat 64 (if s.q qa = true then 2 ^ s.cx.gidx.toNat else 0))))) := by
  obtain ⟨-, hgang, -, -, hguard⟩ := id h
  have hfocus : s.focus s.cx.id = s := if_pos rfl
  have hvotes : s.votes m qa = [(s.cx.gidx.toNat, s.q qa)] := by
    rw [State.votes, gangIds_alone hgang]
    simp only [List.map_cons, List.map_nil, hfocus, hguard, Bool.true_and]
  have hany : (s.votes m qa).any (fun v => v.2) = s.q qa := by rw [hvotes]; simp
  have hall : (s.votes m qa).all (fun v => v.2) = s.q qa := by rw [hvotes]; simp
  have hballot : ballot (s.votes m qa) = BitVec.ofNat 64 (if s.q qa = true then 2 ^ s.cx.gidx.toNat else 0) := by
    rw [hvotes, ballot, List.foldl_cons, List.foldl_nil]
    split
    · exact BitVec.eq_of_toNat_eq (by simp [Nat.shiftLeft_eq])
    · rfl
  refine ⟨fun qd => ?_, fun qd => ?_, fun gd => ?_⟩
  · rw [← hany]
    exact falls_plain rfl h rfl (laterQ_owes s qd _)
  · rw [← hall]
    exact falls_plain rfl h rfl (laterQ_owes s qd _)
  · rw [← hballot]
    exact falls_plain rfl h rfl (laterG_owes s gd _)

theorem gsplit_alone {m : Mods} (h : s.Executes m .plain) : Falls (.gsplit m) s 8 m.sw (fun u => u = s) := by
  obtain ⟨-, hgang, -, -, -⟩ := id h
  have hmark : s.markSplit = s := by
    have hg : s.cx.gang.map (fun g => { g with split := g.split || g.whole }) = s.cx.gang := by
      unfold Ctx.inGang at hgang
      cases hg : s.cx.gang with
      | none => rfl
      | some g =>
        rw [hg] at hgang
        have hsplit : (g.split || g.whole) = g.split := by rw [show g.whole = false from hgang, Bool.or_false]
        rw [Option.map_some, hsplit]
    rw [State.markSplit, hg]
  have hexec : exec (.gsplit m) s = issue m 8 ⟨false, false, false, true⟩ s (fun x => .fall x.markSplit) := by
    show execGsplit m s = _
    rw [execGsplit, hgang]
  have hfalls := falls_of (E := fun u => u = s) (k := ⟨false, false, false, true⟩) hexec h (congrArg Done.fall hmark) rfl
  simpa using hfalls

/-! ### The switch point of a gang that has split (R60, R154) -/

/-- A context that stands where another stood. -/
def Ctx.SamePlace (x y : Ctx) : Prop := y.gang = x.gang ∧ y.gidx = x.gidx ∧ y.pc = x.pc

theorem Ctx.SamePlace.refl (x : Ctx) : x.SamePlace x := ⟨rfl, rfl, rfl⟩

theorem Ctx.SamePlace.trans {x y z : Ctx} (h : x.SamePlace y) (k : y.SamePlace z) : x.SamePlace z := by
  obtain ⟨hgang, hidx, hpc⟩ := h
  obtain ⟨kgang, kidx, kpc⟩ := k
  exact ⟨kgang.trans hgang, kidx.trans hidx, kpc.trans hpc⟩

theorem mapCtxs_place (s : State) {f : Ctx → Ctx} (hf : ∀ x : Ctx, (f x).id = x.id ∧ x.SamePlace (f x)) (c : CtxId) :
    (s.ctx c).SamePlace ((s.mapCtxs f).ctx c) := by
  have hmap : ∀ l : List Ctx, (ctxIn c l).SamePlace (ctxIn c (l.map f)) := by
    intro l
    induction l with
    | nil => exact .refl _
    | cons x l ih =>
      rw [List.map_cons, ctxIn, ctxIn, (hf x).1]
      split
      · exact (hf x).2
      · exact ih
  unfold State.ctx State.mapCtxs
  simp only [(hf s.cx).1]
  split
  · exact (hf s.cx).2
  · exact hmap s.ctxs

theorem thaw_place (id now since : Word) (x : Ctx) : (x.thaw id now since).id = x.id ∧ x.SamePlace (x.thaw id now since) := by
  unfold Ctx.thaw
  split
  · split <;> exact ⟨rfl, rfl, rfl, rfl⟩
  · exact ⟨rfl, .refl x⟩

theorem net_ctx {s u : State} (h : s.SameButNet u) (c : CtxId) : u.ctx c = s.ctx c := by rw [h]; rfl

theorem tellHalts_place (s : State) (c : CtxId) : (s.ctx c).SamePlace (s.tellHalts.ctx c) := by
  unfold State.tellHalts
  refine List.foldlRecOn (motive := fun u : State => (s.ctx c).SamePlace (u.ctx c)) _ _ (.refl _) fun u hu x _ => hu.trans ?_
  have hnet := List.foldlRecOn (motive := fun t : State => u.SameButNet t) x.joined (fun s j => s.sendOrdered (mkPacket s 7 (phPkg j.1) (phDie j.1) 255
    x.id.coreId (x.id.slot.setWidth 4) (.prm (.ask x.id s.pkg 0 (.phhalt j.1 ⟨s.pkg, x.invId, x.gidx⟩ x.status.halted))))) (.refl u)
    fun t ht j _ => ht.trans (sendNumbered_net t _)
  rw [← net_ctx hnet c]
  refine mapCtxs_place _ (fun y => ?_) c
  split <;> exact ⟨rfl, rfl, rfl, rfl⟩

theorem freeze_place (s : State) (c : CtxId) : (s.ctx c).SamePlace (s.freeze.ctx c) := by
  unfold State.freeze
  refine List.foldlRecOn (motive := fun u : State => (s.ctx c).SamePlace (u.ctx c)) _ _ (tellHalts_place s c) fun u hu p _ => hu.trans ?_
  split
  · exact .refl _
  · next t _ _ => exact mapCtxs_place (u.setPhaser _) (thaw_place p.id u.time t) c
  · exact .refl _

/-- R60: a member of a gang that has split leaves it. -/
def Ctx.parts (x : Ctx) : Ctx := if x.gang.any (fun g => g.split) = true then x.leaveGang else x

theorem parts_id (x : Ctx) : x.parts.id = x.id := by
  unfold Ctx.parts
  split <;> rfl

theorem parts_split {x : Ctx} (h : x.gang.any (fun g => g.split) = true) : x.parts.inGang = false ∧ x.parts.gidx = x.gidx ∧ x.parts.pc = x.pc := by
  rw [Ctx.parts, if_pos h]
  refine ⟨?_, rfl, rfl⟩
  unfold Ctx.inGang Ctx.leaveGang
  cases x.gang <;> rfl

/-- R60, R154: nothing is to be delivered to the members of a gang. -/
def Ctx.untroubled (x : Ctx) : Prop := x.errs = [] ∧ x.rgfail = none ∧ x.fault = none ∧ x.haltReq = false

theorem firstOf_none {α : Type} {t : State} {f : Ctx → Option α} (h : ∀ id ∈ ids, f (t.ctx id) = none) : t.firstOf ids f = none :=
  List.findSome?_eq_none_iff.mpr h

theorem readied_place (p : Prop) [Decidable p] (t : State) (c : CtxId) :
    (t.ctx c).SamePlace ((if p then t else { t with cx := { t.cx with status := .ready } } : State).ctx c) ∧
      (if p then t else { t with cx := { t.cx with status := .ready } } : State).cx.id = t.cx.id := by
  by_cases hp : p
  · rw [if_pos hp]
    exact ⟨.refl _, rfl⟩
  · rw [if_neg hp]
    refine ⟨?_, rfl⟩
    rw [ctx_of_cx (s := t) (u := { t with cx := { t.cx with status := .ready } }) rfl rfl]
    split
    · next hc => rw [← hc, ctx_cx]; exact ⟨rfl, rfl, rfl⟩
    · exact .refl _

/-- R59: the switch point of a gang whose members have nothing to be delivered. -/
theorem deliverGang_quiet (hids : s.cx.gangIds = ids) (hnd : ids.Nodup) (hret : s.retiring = false) (hquiet : ∀ id ∈ ids, (s.ctx id).untroubled) (c : CtxId) :
    (s.ctx c).SamePlace (s.deliverGang.ctx c) ∧ s.deliverGang.cx.id = s.cx.id := by
  obtain ⟨hsame, hctx⟩ := each_own (f := State.commitRun) (φ := commitAll) ⟨fun _ => rfl, fun n x => by rw [commitAll_eq]⟩ hnd s
  have hplace : ∀ c, (s.ctx c).SamePlace ((s.each ids State.commitRun).ctx c) := fun c => by
    rw [hctx]
    split
    · rw [commitAll_eq]; exact ⟨rfl, rfl, rfl⟩
    · exact .refl _
  have hquiet' : ∀ id ∈ ids, ((s.each ids State.commitRun).ctx id).untroubled := fun id hid => by
    rw [hctx, if_pos hid, commitAll_eq]
    exact hquiet id hid
  have hret' : (s.each ids State.commitRun).retiring = false := by
    have hrun : (s.each ids State.commitRun).cx.run = s.cx.run := by
      rw [← hsame.ctx_cx, hctx, ctx_cx]
      split
      · rw [commitAll_eq]
      · rfl
    have hlaunches : (s.each ids State.commitRun).launches = s.launches := by rw [hsame.1]
    rw [← hret, State.retiring, State.retiring, hrun, hlaunches]
  unfold State.deliverGang
  simp only [hids]
  generalize s.each ids State.commitRun = t at *
  have herrs : t.firstOf ids (fun c => c.errs.head?) = none := firstOf_none fun id hid => by
    obtain ⟨he, -, -, -⟩ := hquiet' id hid
    rw [he]
    rfl
  have hrg : t.firstOf ids (fun c => c.rgfail) = none := firstOf_none fun id hid => by
    obtain ⟨-, hr, -, -⟩ := hquiet' id hid
    exact hr
  have hfault : t.firstOf ids (fun c => c.fault.filter (fun f => !f.recoverable)) = none := firstOf_none fun id hid => by
    obtain ⟨-, -, hf, -⟩ := hquiet' id hid
    rw [hf]
    rfl
  simp only [hret', herrs, hrg, hfault, Bool.false_eq_true, if_false]
  have hid : t.cx.id = s.cx.id := hsame.2
  have hsteady : ∀ id ∈ ids, ∀ u : State, u.ctx id = t.ctx id → (u.focus id).cx.fault = none ∧ (u.focus id).cx.haltReq = false := fun id hid u hu => by
    obtain ⟨-, -, hf, hh⟩ := hquiet' id hid
    rw [focus_cx, hu]
    exact ⟨hf, hh⟩
  refine ⟨Ctx.SamePlace.trans ?_ (readied_place _ _ c).1, (readied_place _ _ c).2.trans ?_⟩
  · rw [(each_same ?_).1]
    · exact hplace c
    · intro id hid u hu
      obtain ⟨hf, hh⟩ := hsteady id hid u hu
      simp only [hf, hh, Bool.false_and, Bool.false_eq_true, if_false]
  · rw [(each_same ?_).2]
    · exact hid
    · intro id hid u hu
      obtain ⟨hf, hh⟩ := hsteady id hid u hu
      simp only [hf, hh, Bool.false_and, Bool.false_eq_true, if_false]

theorem dissolve_parts (hnd : ids.Nodup) {id : CtxId} (hid : id ∈ ids) (t : State) : (t.dissolve ids).ctx id = (t.ctx id).parts := by
  have hown : OwnChange (fun s : State => if s.cx.gang.any (fun g => g.split) then { s with cx := s.cx.leaveGang } else s) (fun _ => Ctx.parts) :=
    ⟨fun s => by beta_reduce; unfold Ctx.parts; split <;> rfl, fun _ x => parts_id x⟩
  obtain ⟨-, hctx⟩ := each_own hown hnd t
  exact (hctx id).trans (if_pos hid)

/-- R60, R154: at its switch point a gang that has split dissolves. -/
theorem switchPoint_dissolves (hl : s.Leads ids) (hs : s.cx.status = .atSwitch) (hret : s.retiring = false)
    (hcharged : ∀ r, s.cx.run = some r → r.charged = s.time) (hsplit : ∀ id ∈ ids, (s.ctx id).gang.any (fun g => g.split) = true)
    (hquiet : ∀ id ∈ ids, (s.ctx id).untroubled) (hawaits : ∀ id ∈ ids, (s.ctx id).awaits = false) :
    Does .switchPoint s (fun u => ∀ id ∈ ids, (u.ctx id).inGang = false ∧ (u.ctx id).gidx = (s.ctx id).gidx ∧ (u.ctx id).pc = (s.ctx id).pc) := by
  obtain ⟨hgang, hids, hnd, -⟩ := hl
  have hpass : s.charge.switchOver = s.deliverGang.dissolve ids := by
    have hnone : ids.any (fun id => (s.ctx id).awaits) = false := List.any_eq_false.mpr fun id hid => by rw [hawaits id hid]; exact Bool.false_ne_true
    rw [charge_of_charged hcharged, State.switchOver, hs]
    simp only
    rw [State.passSwitch, hids, hnone, if_neg Bool.false_ne_true, if_pos hgang, State.passGang, hids]
  refine does_counted rfl fun id hid => ?_
  rw [hpass]
  obtain ⟨hgangs, hidx, hpc⟩ := freeze_place (s.deliverGang.dissolve ids) id
  obtain ⟨⟨dgang, didx, dpc⟩, -⟩ := deliverGang_quiet hids hnd hret hquiet id
  obtain ⟨hout, pidx, ppc⟩ := parts_split (x := s.deliverGang.ctx id) (by rw [dgang]; exact hsplit id hid)
  rw [dissolve_parts hnd hid] at hgangs hidx hpc
  refine ⟨?_, hidx.trans (pidx.trans didx), hpc.trans (ppc.trans dpc)⟩
  unfold Ctx.inGang at hout ⊢
  rw [hgangs]
  exact hout

end

/-- Settles O48: votes outside a gang, what a gang makes of an integer instruction, of a vote and of GSPLIT, and its switch point. -/
theorem gangExecution : Obligations.GangExecution := by
  unfold Obligations.GangExecution
  refine ⟨fun s m qa h => gvote_alone h, fun i o s ids hi hwt hl => intOp_inGang hi hwt hl, fun s ids m qa hwt hl => ?_,
    fun s ids m hwt hl hg => gsplit_inGang hwt hl hg, fun s ids hl hs hret hcharged h => ?_, fun s m h => gsplit_alone h⟩
  · exact votes_inGang hwt hl (fun _ => Iff.rfl) (fun _ _ => Iff.rfl)
  · refine switchPoint_dissolves hl hs hret hcharged (fun id hid => ?_) (fun id hid => ?_) (fun id hid => ?_)
    all_goals obtain ⟨hsplit, herrs, hrg, hfault, hhalt, hawaits⟩ := h id hid
    · exact hsplit
    · exact ⟨herrs, hrg, hfault, hhalt⟩
    · exact hawaits

end Sys2Proof.Machine
end

section
/-! ## Comparisons and predicates (R100, R102) -/

-- For the memory limit of the check: proofs are elaborated one after another, and the kernel checks them in the background. No
-- statement here depends on how section variables are chosen.
set_option deprecated.oldSectionVars true

namespace Sys2Proof.Machine

/-- R100, R73: the comparison of CMP on the width that W selects. -/
theorem cmpW_iff (w : Bool) (cond : BitVec 4) (x y : Word) : cmpW w cond x y = true ↔
    if w = true then cmpHolds (x.setWidth 32) (y.setWidth 32) cond.toNat else cmpHolds x y cond.toNat := by
  cases w with
  | true => exact cmpCond_iff cond (x.setWidth 32) (y.setWidth 32)
  | false => exact cmpCond_iff cond x y

/-- R102: the bit of the table that two predicates select. -/
theorem ttBit_eq (tt : BitVec 4) (a b : Bool) : ttBit tt a b = tt.getLsbD (2 * a.toNat + b.toNat) := by
  cases a <;> cases b <;> rfl

/-- Settles O4: CMP by the conditions of its table, QOP by the bit of its table. -/
theorem compareAndPredicateResults : Obligations.CompareAndPredicateResults := by
  refine ⟨fun m qd ga y w cond s h => ⟨_, cmpW_iff w cond _ _, falls_plain rfl h rfl (setQ_sets s qd _)⟩, fun m qd qa qb tt s h => ?_⟩
  rw [← ttBit_eq]
  exact falls_plain rfl h rfl (setQ_sets s qd _)

end Sys2Proof.Machine
end

section
/-! ## The supervisor level and its instructions (R114, R116, R372) -/

namespace Sys2Proof.Machine

/-- R71: at supervisor level a supervisor-only opcode passes its check. -/
theorem needsSuper_super {s : State} (h : s.cx.priv = true) : s.needsSuper = none := if_pos h

/-- R114, R372: SYSC with an entry address. -/
theorem sysc_enters {s : State} {m : Mods} (h : s.Executes m .acting) (hv : s.cx.prot.sventry ≠ 0) (n : BitVec 16) :
    Jumps (.sysc m n) s s.cx.prot.sventry true (fun u => u = s.enterSuper n) := by
  have hj := jumps_of (i := .sysc m n) (E := fun u => u = s.enterSuper n) rfl h (if_neg hv) rfl
  simpa [Kind.acting] using hj

/-- R114, R372: ERET at supervisor level to an address that is a multiple of 4. -/
theorem eret_leaves {s : State} {m : Mods} (h : s.Executes m .transfer) (hp : s.cx.priv = true) (ha : s.cx.sepc.toNat % 4 = 0) :
    Jumps (.eret m) s s.cx.sepc m.sw (fun u => u = { s with cx := { s.cx with priv := s.cx.spriv } }) := by
  have hi : exec (.eret m) s = _ := checkedIssue_none (needsSuper_super hp) m 8 .transfer s _
  refine ⟨_, _, rfl, finish_jumped { s with cx := { s.cx with priv := s.cx.spriv } } s.cx.sepc m.sw, ?_⟩
  rw [hi, issue_executes h, if_neg (not_not.mpr ((fld_two_eq_zero_iff _).mpr ha))]
  simp [Kind.transfer, retireOne, State.jumpTo, State.returnFrom]

/-- Settles O10: SYSC and ERET, each by its one jump. -/
theorem supervisorCallAndReturn : Obligations.SupervisorCallAndReturn :=
  ⟨fun _ _ n h hv => sysc_enters h hv n, fun _ _ h hp ha => eret_leaves h hp ha⟩

/-- Settles O13: the model's test is that of the mode. -/
theorem invalidateTranslations : Obligations.InvalidateTranslations := by
  intro s m ga mode _ h hp me gone
  exact falls_plain (checkedIssue_none (needsSuper_super hp) ..) h rfl rfl

end Sys2Proof.Machine
end

section
/-! ## What the agents of a package leave of a context that is not parked -/

-- For the memory limit of the check: proofs are elaborated one after another, and the kernel checks them in the background. No
-- statement here depends on how section variables are chosen.
set_option deprecated.oldSectionVars true

namespace Sys2Proof.Machine

/-- A context that is parked in no wait. -/
def Ctx.Unparked (c : Ctx) : Prop := ∀ w d sw len, c.status ≠ .waiting w d sw len

/-- The issuing context is as it was, where it is parked in no wait. -/
def State.KeepsCx (s u : State) : Prop := s.cx.Unparked → u.cx = s.cx

namespace State.KeepsCx

variable {s u v : State}

theorem of_cx (h : u.cx = s.cx) : s.KeepsCx u := fun _ => h

theorem refl (s : State) : s.KeepsCx s := of_cx rfl

theorem trans (h : s.KeepsCx u) (k : u.KeepsCx v) : s.KeepsCx v := fun hs =>
  have hu := h hs
  (k (hu ▸ hs)).trans hu

theorem of_homes (h : s.SameButHomes u) : s.KeepsCx u := of_cx h.cx

theorem of_net (h : s.SameButNet u) : s.KeepsCx u := of_cx (by rw [h])

theorem foldl {α : Type} {l : List α} {f : State → α → State} (hf : ∀ (t : State) (a : α), t.KeepsCx (f t a)) (s : State) : s.KeepsCx (l.foldl f s) :=
  List.foldlRecOn l f (refl s) fun t ht a _ => ht.trans (hf t a)

end State.KeepsCx

section
variable (s : State)

theorem sendNumbered_keepsCx (p : Packet) : s.KeepsCx (s.sendNumbered p) := .of_net (sendNumbered_net s p)

theorem tellPkg_keepsCx (pkg : BitVec 12) (m : PrmMsg) : s.KeepsCx (s.tellPkg pkg m) := sendNumbered_keepsCx s _

theorem tellPods_keepsCx (m : PrmMsg) : s.KeepsCx (s.tellPods m) := .foldl (fun t p => tellPkg_keepsCx t p m) s

theorem setBlk_keepsCx (prot : Prot) (b : Word) (n : Nat) (v : Word) : s.KeepsCx (s.setBlk prot b n v) := .of_homes (setBlk_homes s prot b n v)

theorem postStatus_keepsCx (prot : Prot) (pctx : BitVec 12) (region : Word) (rec : List Byte) : s.KeepsCx (s.postStatus prot pctx region rec) := by
  unfold State.postStatus State.passRecord
  simp only
  split
  · split
    · exact tellPkg_keepsCx s _ _
    · exact .refl s
  · exact .of_homes (postRecord_homes s _ _ _ _)

theorem runAdd_keepsCx (pctx : BitVec 12) (prot : Prot) (region d : Word) : s.KeepsCx (s.runAdd pctx prot region d) := by
  unfold State.runAdd
  split
  · exact .refl s
  split
  · exact tellPkg_keepsCx s _ _
  · exact setBlk_keepsCx s _ _ _ _

theorem endLeave_keepsCx (pctx : BitVec 12) (prot : Prot) (region : Word) : s.KeepsCx (s.endLeave pctx prot region) := by
  unfold State.endLeave
  split
  · exact tellPkg_keepsCx s _ _
  · exact .refl s

theorem objectDone_keepsCx (name : Word) : s.KeepsCx (s.objectDone name) := by
  unfold State.objectDone
  split
  · exact .refl s
  split <;> exact .of_cx rfl

theorem dropInv_keepsCx (r : InvRec) : s.KeepsCx (s.dropInv r) := by
  unfold State.dropInv
  extract_lets s1 s2 s3
  have h2 : s1.KeepsCx s2 := by
    dsimp only [s2]
    split
    · exact objectDone_keepsCx s1 _
    · exact .refl s1
  have h3 : s.KeepsCx s3 := (State.KeepsCx.of_cx (u := s1) rfl).trans (h2.trans (runAdd_keepsCx s2 _ _ _ _))
  split
  · exact h3.trans (endLeave_keepsCx s3 _ _ _)
  · exact h3

theorem leaveStore_keepsCx (inv : Nat) : s.KeepsCx (s.leaveStore inv) := by
  unfold State.leaveStore
  split
  · exact .refl s
  · extract_lets s1
    exact (State.KeepsCx.of_cx (u := s1) rfl).trans (dropInv_keepsCx s1 _)

/-! ### Raises of counters, and the contributions that follow (R177, R310) -/

theorem metBy_unparked {c : Ctx} (h : c.Unparked) (die : BitVec 2) (idx : BitVec 16) (v : BitVec 48) : c.metBy s die idx v = c := by
  unfold Ctx.metBy
  split
  · next hs => exact absurd hs (h _ _ _ _)
  · rfl

theorem meetWaits_keepsCx (die : BitVec 2) (idx : BitVec 16) (v : BitVec 48) : s.KeepsCx (s.meetWaits die idx v) := by
  unfold State.meetWaits
  refine State.KeepsCx.trans (fun hs => ?_) (.foldl (fun t (w : CtWait) => sendNumbered_keepsCx t _) _)
  exact metBy_unparked s hs die idx v

theorem queueFirings_cx (die : BitVec 2) (es : List Entry) : (s.queueFirings die es).cx = s.cx := by
  induction es generalizing s with
  | nil => rfl
  | cons e es ih => exact ih _

theorem fireDue_cx (die : BitVec 2) (idx : BitVec 16) (low : BitVec 48) (ids : List Word) : (s.fireDue die idx low ids).cx = s.cx := by
  unfold State.fireDue
  simp only
  split <;> exact queueFirings_cx _ die _

theorem applyRaise_keepsCx (die : BitVec 2) (idx : BitVec 16) (amt : BitVec 48) : s.KeepsCx (s.applyRaise die idx amt) := fun hs =>
  (fireDue_cx _ die idx _ _).trans (meetWaits_keepsCx s die idx _ hs)

theorem raiseCell_keepsCx (die : BitVec 2) (idx : BitVec 16) (amt : BitVec 48) : s.KeepsCx (s.raiseCell die idx amt) := by
  unfold State.raiseCell
  split
  · exact applyRaise_keepsCx s die idx amt
  · exact .of_cx rfl

theorem bulkAck_keepsCx (p : Packet) (fail : Option Word) : s.KeepsCx (s.bulkAck p fail) :=
  .of_net ((unholdSeq_net s p).trans (reply_net _ p _))

theorem conDone_keepsCx (h : HeldCon) (fail : Option Word) : s.KeepsCx (s.conDone h fail) := by
  unfold State.conDone
  extract_lets n done s1
  have h1 : s.KeepsCx s1 := by
    dsimp only [s1]
    split <;> exact .of_cx rfl
  split
  · exact h1.trans (bulkAck_keepsCx s1 _ fail)
  · exact h1

theorem applyAway_keepsCx (h : HeldCon) (pkg : BitVec 12) : s.KeepsCx (s.applyAway h pkg) := by
  unfold State.applyAway
  extract_lets con d n p
  exact (State.KeepsCx.of_cx (u := { s with fresh := n + 1 }) rfl).trans (.trans (.of_homes (setDie_homes _ con.die _)) (sendNumbered_keepsCx _ _))

theorem unheld_keepsCx (h : HeldCon) : s.KeepsCx (s.unheld h) := by
  unfold State.unheld
  split <;> exact .of_cx rfl

theorem applyHeld_keepsCx (fuel : Nat) (die : BitVec 2) (idx : BitVec 16) : s.KeepsCx (applyHeld fuel die idx s) := by
  induction fuel generalizing s with
  | zero => exact .refl s
  | succ fuel ih =>
    unfold applyHeld
    extract_lets d now
    split
    · exact .refl s
    · next h _ =>
      extract_lets s1
      have happly : ∀ {s2 e}, s1.applyCon h.con = (s2, e) → s.KeepsCx s2 := fun {s2 e} he =>
        (State.KeepsCx.of_homes (setDie_homes s _ _) : s.KeepsCx s1).trans (.of_homes (by have hc := applyCon_homes s1 h.con; rwa [he] at hc))
      split
      · next s2 he => exact (happly he).trans ((conDone_keepsCx s2 h none).trans ((raiseCell_keepsCx _ die idx 1).trans (ih _)))
      · next s2 pl he =>
        split
        · exact (happly he).trans (applyAway_keepsCx s2 h _)
        · exact (happly he).trans (conDone_keepsCx s2 h _)
      · next s2 f he =>
        split
        · exact (happly he).trans (unheld_keepsCx s2 h)
        · exact (happly he).trans (conDone_keepsCx s2 h _)
      · next s2 he => exact (happly he).trans (unheld_keepsCx s2 h)
      · next s2 e _ _ _ he => exact (happly he).trans (conDone_keepsCx s2 h _)

theorem raise_keepsCx (c : Word) (amt : BitVec 48) (src : CoreId) (sag : BitVec 4) : s.KeepsCx (s.raise c amt src sag) := by
  unfold State.raise
  split
  · exact (raiseCell_keepsCx s _ _ amt).trans (applyHeld_keepsCx _ _ _ _)
  · exact sendNumbered_keepsCx s _

theorem raisePosted_keepsCx (tag : Nat) (die : BitVec 2) (c : Word) : s.KeepsCx (s.raisePosted tag die c) := by
  unfold State.raisePosted
  split
  · exact .refl s
  split
  · exact .of_cx rfl
  · exact raise_keepsCx s c 1 _ _

/-- R436: a health record changes a context at most by the raise of the queue's counter. -/
theorem postHealth_keepsCx (type sub : BitVec 8) (src : CoreId) (a b c : Word) : s.KeepsCx (s.postHealth type sub src a b c) := by
  unfold State.postHealth
  extract_lets r len rec_ at_ s1 regs s2
  split
  · have h1 : s.KeepsCx s1 := by
      dsimp only [s1]
      split
      · exact .of_homes (putHome_homes s _ _ _)
      · exact sendNumbered_keepsCx s _
    exact h1.trans ((State.KeepsCx.of_cx (u := s2) rfl).trans (raisePosted_keepsCx s2 _ _ _))
  · exact .of_cx rfl

end

end Sys2Proof.Machine
end

section
/-! ## The end of an invocation (R112, R208, R372, R424) -/

-- For the memory limit of the check: proofs are elaborated one after another, and the kernel checks them in the background. No
-- statement here depends on how section variables are chosen.
set_option deprecated.oldSectionVars true

namespace Sys2Proof.Machine

section
variable (s : State)

/-! ### What the steps of an end leave of the issuing context -/

theorem bumpGens_cx {α : Type} (kind : Nat) (die : α → BitVec 2) (slot : α → Nat) (l : List α) :
    (l.foldl (fun t x => t.bumpGen kind (die x) (slot x)) s).cx = s.cx :=
  List.foldlRecOn (motive := fun t : State => t.cx = s.cx) l _ rfl fun _ ht _ _ => ht

theorem dropMembers_cx (t : Member → Bool) : (s.dropMembers t).cx = s.cx :=
  bumpGens_cx _ 2 (fun p : Phaser => fld p.id 12 2) (fun p => (fld p.id 0 12).toNat) _

/-- R211: the issuing context forgets the memberships that it drops. -/
theorem dropOwn_cx (t : Word → Bool) : (s.dropOwn t).cx = { s.cx with joined := s.cx.joined.filter (fun j => !t j.2) } := by
  unfold State.dropOwn
  simp only
  refine List.foldlRecOn (motive := fun u : State => u.cx = { s.cx with joined := s.cx.joined.filter (fun j => !t j.2) }) _ _ ?_
    fun u hu j _ => (sendNumbered_cx u _).trans hu
  rw [dropMembers_cx]

theorem dropTriggers_cx (t : Entry → Bool) : (s.dropTriggers t).cx = s.cx :=
  bumpGens_cx _ 3 (fun e : Entry => fld e.id 14 2) (fun e => (fld e.id 0 14).toNat) _

theorem recordFail_homes (prot : Prot) (b : Word) (cls : BitVec 8) (va info : Word) : s.SameButHomes (s.recordFail prot b cls va info) := by
  unfold State.recordFail
  extract_lets s1
  have h1 : s.SameButHomes s1 := by
    dsimp only [s1]
    split
    · exact .refl s
    · exact setBlk_homes s _ _ _ _
  exact h1.trans ((setBlk_homes _ _ _ _ _).trans (setBlk_homes _ _ _ _ _))

theorem unwindEntries_keepsCx (pctx : BitVec 12) (b : Word) : s.KeepsCx (s.unwindEntries pctx b) := by
  have hdrop : s.KeepsCx (s.dropRegions pctx [b]) := .of_cx (dropTriggers_cx s _)
  unfold State.unwindEntries
  simp only
  split
  · exact hdrop.trans (tellPods_keepsCx _ _)
  · exact hdrop

/-- R208 steps 4 and 6 concern the block, and no context. -/
theorem recordUnwind_keepsCx (prot : Prot) (pctx : BitVec 12) (b : Word) (cls : BitVec 8) (va info : Word) :
    s.KeepsCx (s.recordUnwind prot pctx b cls va info) := by
  have hrec := (State.KeepsCx.of_homes (recordFail_homes s prot b cls va info)).trans (unwindEntries_keepsCx _ pctx b)
  unfold State.recordUnwind
  simp only
  split
  · exact hrec
  · exact hrec.trans (postStatus_keepsCx _ _ _ _ _)

theorem baseUnwound_keepsCx (prot : Prot) (pctx : BitVec 12) (b : Word) (cls : BitVec 8) (va info : Word) :
    s.KeepsCx (s.baseUnwound prot pctx b cls va info) := by
  unfold State.baseUnwound
  split
  · exact .refl s
  split
  · exact tellPkg_keepsCx s _ _
  split
  · exact .refl s
  · exact recordUnwind_keepsCx s _ _ _ _ _ _

/-! ### The same context -/

theorem foldl_cx_id {α : Type} {l : List α} {f : State → α → State} (hf : ∀ (t : State) (a : α), (f t a).cx.id = t.cx.id) :
    (l.foldl f s).cx.id = s.cx.id :=
  List.foldlRecOn (motive := fun t : State => t.cx.id = s.cx.id) l f rfl fun t ht a _ => (hf t a).trans ht

theorem closeAll_cx_id : s.closeAll.cx.id = s.cx.id := by
  have hclose : ∀ (t : State) b, (t.closeRegion b).cx.id = t.cx.id := fun t b => by
    unfold State.closeRegion State.setBlkState
    split
    · exact congrArg Ctx.id (setBlk_homes t _ _ _ _).cx
    · rfl
  rw [State.closeAll, dropOwn_cx]
  exact foldl_cx_id s hclose

theorem lateAtEnd_cx_id : s.lateAtEnd.cx.id = s.cx.id := by
  unfold State.lateAtEnd
  split
  · rfl
  split
  · exact (postStatus_keeps s _ _ _ _).cx.1
  · rfl

theorem noteFlush_cx : s.noteFlush.cx = s.cx := by
  unfold State.noteFlush
  split
  · rfl
  split <;> rfl

theorem noteRelease_cx (ph : Word) (st : PState) : (s.noteRelease ph st).cx = s.cx := by
  unfold State.noteRelease
  split
  · rfl
  simp only
  split <;> rfl

theorem resolveOwn_cx_id (st : PState) : (s.resolveOwn st).cx.id = s.cx.id := by
  unfold State.resolveOwn
  split
  · rfl
  · exact (settleAll_keeps _ _ _).cx.1.trans (congrArg Ctx.id (noteRelease_cx s _ st))

theorem flushRows_cx (cover : Bool) (seq : BitVec 32) (pkg : BitVec 12) (k : Nat) (rs : List SendRow) : (flushRows cover seq pkg k rs s).cx = s.cx := by
  induction rs generalizing s k with
  | nil => rfl
  | cons r rs ih => exact ih _ _

theorem flushAll_cx_id (cover : Bool) : (s.flushAll cover).cx.id = s.cx.id := by
  unfold State.flushAll
  generalize s.cx.lists = ls
  induction ls generalizing s with
  | nil => rfl
  | cons l ls ih =>
    refine (ih _).trans ?_
    unfold State.flushList
    simp only
    split
    · rfl
    · rw [flushRows_cx]

theorem dropWindows_cx_id (c : CtxId) : (s.dropWindows c).cx.id = s.cx.id :=
  foldl_cx_id s fun t w => by
    change (t.flushWindow c.coreId w).cx.id = t.cx.id
    rw [State.flushWindow, (writeBack_homes t _).cx]

/-- The context of an invocation that has ended is free. -/
theorem freeCtx_cx : s.freeCtx.cx = Ctx.blank s.cx.id := by
  have hid : (((s.withdraw.flushAll false).uncover (fun b => b.ctx = s.withdraw.cx.id && b.inv = s.withdraw.issuer.inv)).dropWindows
      s.withdraw.cx.id).cx.id = s.cx.id := by
    refine (dropWindows_cx_id _ _).trans ((flushAll_cx_id _ false).trans ?_)
    rw [(withdraw_spec s).2]
  unfold State.freeCtx
  extract_lets inv s1 s2 mine s3
  have h3 : s3.cx = Ctx.blank s.cx.id := congrArg Ctx.blank hid
  clear_value inv
  cases inv with
  | none => exact h3
  | some n =>
    simp only
    split
    · exact h3
    · exact (leaveStore_keepsCx s3 _ (by rw [h3]; exact fun _ _ _ _ => Status.noConfusion)).trans h3

theorem endInv_cx (res : Option PState) : (s.endInv res).cx = Ctx.blank s.cx.id := by
  have hclosed : s.closeAll.lateAtEnd.cx.id = s.cx.id := (lateAtEnd_cx_id _).trans (closeAll_cx_id s)
  unfold State.endInv
  extract_lets s1 s2
  rw [freeCtx_cx]
  refine congrArg Ctx.blank (Eq.trans ?_ hclosed)
  dsimp only [s2]
  split
  · exact (resolveOwn_cx_id _ _).trans (congrArg Ctx.id (noteFlush_cx s1))
  · rfl

theorem endHalt_cx : s.endHalt.cx = Ctx.blank s.cx.id := by
  have hnote : s.noteUnconfirmed.cx = s.cx := by
    unfold State.noteUnconfirmed
    split
    · rfl
    simp only
    split <;> rfl
  unfold State.endHalt
  split
  · exact endInv_cx s _
  · rw [endInv_cx, hnote]

end

/-! ### HALT and FENCE -/

section
variable {s : State} {m : Mods}

theorem commitRun_cx_id (s : State) : s.commitRun.cx.id = s.cx.id := by rw [State.commitRun, commitAll_eq]

theorem commitRun_cx_gang (s : State) : s.commitRun.cx.gang = s.cx.gang := by rw [State.commitRun, commitAll_eq]

theorem execHalt_alone (h : s.Executes m .acting) : exec (.halt m) s = issue m 8 .acting s haltBody := by
  obtain ⟨-, hg, -⟩ := h
  exact if_neg (by simp [hg])

/-- R112: a HALT that has nothing to wait for. -/
theorem halt_ends (h : s.Executes m .acting) (ha : s.cx.alog = false) (hc : s.commitRun.canHalt = true) :
    ∃ t, exec (.halt m) s = .next t ∧ t.cx = Ctx.blank s.cx.id := by
  have hg : s.commitRun.cx.inGang = false := by
    obtain ⟨-, hg, -⟩ := h
    rw [Ctx.inGang, commitRun_cx_gang]
    exact hg
  set u : State := { s.commitRun with cx := { s.commitRun.cx with status := .halting } } with hu
  have hon : u.haltOn = u.endHalt := by
    have hug : ¬ u.cx.inGang = true := by rw [show u.cx.inGang = false from hg]; exact Bool.false_ne_true
    have huc : u.canHalt = true := hc
    rw [State.haltOn, if_neg hug, if_pos huc]
  have hbody : haltBody s = .gone u.endHalt := by
    rw [← hon, haltBody, if_neg (by simp [ha])]
  refine ⟨u.endHalt.counted, by rw [execHalt_alone h, issue_executes h, hbody]; rfl, ?_⟩
  rw [counted_cx, endHalt_cx]
  exact congrArg Ctx.blank (commitRun_cx_id s)

/-- R424: a HALT issued while ALOG is 1. -/
theorem halt_atomicFault (h : s.Executes m .acting) (ha : s.cx.alog = true) :
    exec (.halt m) s = .next (({ s with cx := { s.cx with alog := false } }).recordFault ⟨16, 0, 0, false, false, s.cx.priv, s.cx.pc⟩) := by
  rw [execHalt_alone h, issue_executes h, haltBody, if_pos ha]
  rfl

/-- R129: a fence changes what is written back, and neither the context nor the engines. -/
theorem fenceWrite_dies (s : State) (scope : BitVec 2) : s.SameButDies (s.fenceWrite scope) := by
  unfold State.fenceWrite
  exact writeBack_sameButDies s _

theorem fenceWrite_cx (s : State) (scope : BitVec 2) : (s.fenceWrite scope).cx = s.cx := by rw [fenceWrite_dies s scope]

theorem fenceWrite_reading (s : State) (scope : BitVec 2) : (s.fenceWrite scope).reading = s.reading := by rw [fenceWrite_dies s scope]; rfl

/-- R129, R424: a FENCE whose other conditions hold, by ALOG. -/
theorem fenceBody_waitless {scope : BitVec 2} (hr : s.reading = false) (ho : scope = 2 → s.cx.owes 3 = false) :
    fenceBody scope s = if s.cx.alog = true
      then .raise ⟨16, 0, 0, false, false, s.cx.priv, s.cx.pc⟩ { s.fenceWrite scope with cx := { s.cx with alog := false } }
      else .fall (s.fenceWrite scope) := by
  have howes : (decide (scope = 2) && s.cx.owes 3) = false := Bool.and_eq_false_imp.mpr fun h2 => ho (of_decide_eq_true h2)
  have hcx := fenceWrite_cx s scope
  have hread := fenceWrite_reading s scope
  rw [fenceBody]
  generalize s.fenceWrite scope = v at hcx hread
  rw [← hcx] at howes ⊢
  exact (if_neg (by rw [hread, hr]; decide)).trans (if_neg (by rw [howes]; decide))

theorem fence_atomicFault {scope : BitVec 2} (h : s.Executes m .wait) (ha : s.cx.alog = true) (hr : s.reading = false)
    (ho : scope = 2 → s.cx.owes 3 = false) : exec (.fence m scope) s = .next (({ s.fenceWrite scope with cx := { s.cx with alog := false } }).recordFault
      ⟨16, 0, 0, false, false, s.cx.priv, s.cx.pc⟩) := by
  have hi : exec (.fence m scope) s = issue m 8 .wait s (fenceBody scope) := rfl
  rw [hi, issue_executes h, fenceBody_waitless hr ho, if_pos ha]
  rfl

end

/-- Settles O14: the end of an invocation leaves its context free; ALOG is tested first by HALT, last by FENCE. -/
theorem haltAndAtomicError : Obligations.HaltAndAtomicError :=
  ⟨fun _ _ h ha hc => halt_ends h ha hc, fun _ _ h ha => halt_atomicFault h ha, fun _ _ _ h ha hr ho => fence_atomicFault h ha hr ho⟩

end Sys2Proof.Machine
end


section
/-! ## Software traps (R113, R207, R208, R372, R383) -/

-- For the memory limit of the check: proofs are elaborated one after another, and the kernel checks them in the background. No
-- statement here depends on how section variables are chosen.
set_option deprecated.oldSectionVars true

namespace Sys2Proof.Machine

/-- R383: the fields of FLTINFO as a sum. -/
theorem info_eq (f : FaultRec) : f.info = infoWord f.cls f.cause f.acc f.land f.eng f.priv := by
  have hsum : f.info.toNat = f.cls.toNat + f.cause.toNat * 2 ^ 8 + f.acc.toNat * 2 ^ 24 + f.land.toNat * 2 ^ 26 +
      f.eng.toNat * 2 ^ 27 + f.priv.toNat * 2 ^ 28 := by
    simp only [FaultRec.info, toNat_append_add, boolBit_toNat, BitVec.toNat_ofNat]
    ring
  rw [infoWord, ← hsum, BitVec.ofNat_toNat, BitVec.setWidth_eq]

/-- R52: a context with a fault recorded against it, or with none. -/
def Ctx.faulting (c : Ctx) (f : Option FaultRec) : Ctx := { c with fault := f }
def State.faulting (s : State) (f : Option FaultRec) : State := { s with cx := s.cx.faulting f }

theorem commitOne_survives {n k : Nat} {v : RegVal} {c : Ctx} (hl : v.name ∈ c.landed) (hk : Config.survives n (4096 * k + ctxNum c.id) = true) :
    commitOne n k v c = v.put c := (if_pos hl).trans (if_pos hk)

theorem commitOne_overwritten {n k : Nat} {v : RegVal} {c : Ctx} (hl : v.name ∈ c.landed) (hk : ¬ Config.survives n (4096 * k + ctxNum c.id) = true) :
    commitOne n k v c = c := (if_pos hl).trans (if_neg hk)

theorem commitOne_first {n k : Nat} {v : RegVal} {c : Ctx} (hl : v.name ∉ c.landed) :
    commitOne n k v c = { v.put c with landed := v.name :: c.landed } := if_neg hl

theorem put_faulting (v : RegVal) (c : Ctx) (f : Option FaultRec) : v.put (c.faulting f) = (v.put c).faulting f := by
  cases v <;> rfl

/-- R49: which of two results survives does not depend on the fault that is recorded. -/
theorem commitOne_faulting (n k : Nat) (v : RegVal) (c : Ctx) (f : Option FaultRec) :
    commitOne n k v (c.faulting f) = (commitOne n k v c).faulting f := by
  by_cases hl : v.name ∈ c.landed
  · by_cases hk : Config.survives n (4096 * k + ctxNum c.id) = true
    · rw [commitOne_survives hl hk, ← put_faulting]
      exact commitOne_survives (c := c.faulting f) hl hk
    · rw [commitOne_overwritten hl hk]
      exact commitOne_overwritten (c := c.faulting f) hl hk
  · rw [commitOne_first hl]
    refine (commitOne_first (c := c.faulting f) hl).trans ?_
    rw [put_faulting]
    rfl

theorem commitAll_faulting (n : Nat) (c : Ctx) (f : Option FaultRec) : commitAll n (c.faulting f) = (commitAll n c).faulting f := by
  have h : ∀ (l : List (RegVal × Nat)) (d : Ctx), l.foldl (fun c v => commitOne n v.2 v.1 c) (d.faulting f) =
      (l.foldl (fun c v => commitOne n v.2 v.1 c) d).faulting f := by
    intro l
    induction l with
    | nil => exact fun d => rfl
    | cons v l ih => exact fun d => by rw [List.foldl_cons, List.foldl_cons, commitOne_faulting, ih]
  exact congrArg (fun d : Ctx => { d with pend := [], landed := [], runLen := 0 }) (h c.pend.zipIdx c)

/-- R50: what the switch point of a run leaves of the context, beside the registers that results are written to. -/
theorem atSwitchPoint_cx (s : State) : ∃ g a m q, s.atSwitchPoint.cx =
    { s.cx with g := g, a := a, m := m, q := q, pend := [], landed := [], runLen := 0, fault := none } :=
  let c := commitAll s.counted.issued s.cx
  ⟨c.g, c.a, c.m, c.q, congrArg (fun d : Ctx => { d with fault := none }) (commitAll_eq s.counted.issued s.cx)⟩

theorem atSwitchPoint_unparked {s : State} {m : Mods} {k : Kind} (h : s.Executes m k) : s.atSwitchPoint.cx.Unparked := by
  obtain ⟨g, a, m', q, hcx⟩ := atSwitchPoint_cx s
  obtain ⟨hrun, -⟩ := h
  intro _ _ _ _ he
  rw [hcx] at he
  exact Status.noConfusion (hrun.symm.trans he)

/-- R52, R208: at its switch point an unrecoverable fault is taken as an exception where nothing else is pending. -/
theorem passOne_faulted {u v : State} {f : FaultRec} (hu : u.commitRun = v) (hret : v.retiring = false) (herrs : v.cx.errs = []) (hrg : v.cx.rgfail = none)
    (hfault : v.cx.fault = some f) (hf : f.recoverable = false) : u.passOne = (v.faulting none).takeException f := by
  rw [State.passOne, hu, if_neg (by simp [hret]), herrs, hrg, hfault]
  exact if_neg (by simp [hf])

/-- R50, R52: results are written alike where a fault is recorded. -/
theorem commitRun_faulting (s : State) (f : Option FaultRec) : (s.faulting f).commitRun = s.commitRun.faulting f :=
  congrArg (fun d : Ctx => { s with cx := d }) (commitAll_faulting s.issued s.cx f)

theorem atSwitchPoint_retiring (s : State) : s.atSwitchPoint.retiring = s.retiring := by
  obtain ⟨g, a, m, q, hcx⟩ := atSwitchPoint_cx s
  have hrun : s.atSwitchPoint.cx.run = s.cx.run := by rw [hcx]
  rw [State.retiring, hrun]
  rfl

/-- R52: an unrecoverable fault of an instruction that acts at its switch point is taken there at once. -/
theorem recordFault_acting {s : State} {m : Mods} (h : s.Executes m .acting) (hret : s.retiring = false) {f : FaultRec} (hf : f.recoverable = false) :
    s.recordFault f = s.atSwitchPoint.takeException f := by
  obtain ⟨-, hg, hsplits, -, hguard⟩ := h
  have howes : s.cx.owesFirst = false := by
    simp only [State.splits, State.mustDeliver, Bool.or_eq_false_iff] at hsplits
    simpa [Kind.acting, hguard] using hsplits.2
  obtain ⟨⟨hawaits, herrs⟩, hrg⟩ : (s.cx.awaits = false ∧ s.cx.errs = []) ∧ s.cx.rgfail = none := by simpa [Ctx.owesFirst] using howes
  obtain ⟨g, a, m', q, hcx⟩ := atSwitchPoint_cx s
  have hrec : s.recordFault f = (s.counted.faulting (some f)).passOne :=
    if_neg (show ¬ (s.cx.inGang || s.cx.awaits) = true by simp [hg, hawaits])
  rw [hrec, passOne_faulted (commitRun_faulting s.counted (some f)) (f := f)]
  · rfl
  · exact (atSwitchPoint_retiring s).trans hret
  · exact (congrArg Ctx.errs hcx).trans herrs
  · exact (congrArg Ctx.rgfail hcx).trans hrg
  · rfl
  · exact hf

/-- R113, R372: the fault of a software trap, which no handler of the fault queue can mend. -/
def State.TrapRaises (s : State) (i : Instr) (m : Mods) (f : FaultRec) : Prop :=
  s.Executes m .acting → exec i s = .next (s.recordFault f) ∧ f.recoverable = false ∧ f.va = s.cx.pc ∧
    f.info = infoWord f.cls f.cause 0 false false s.cx.priv

theorem trapOps_raises {i : Instr} {s : State} {m : Mods} {f : FaultRec} (hi : trapOps s i = some (m, f)) : s.TrapRaises i m f := by
  have hall : (trapOps s i).elim True (fun x => s.TrapRaises i x.1 x.2) := by
    cases i
    case trap m code => exact fun h => ⟨raises_of (i := .trap m code) rfl h rfl, rfl, rfl, info_eq _⟩
    case brk m code =>
      by_cases hd : s.cx.dbgen = true
      · rw [show trapOps s (.brk m code) = none from if_pos hd]
        exact True.intro
      · rw [show trapOps s (.brk m code) = some (m, ⟨14, code, 0, false, false, s.cx.priv, s.cx.pc⟩) from if_neg hd]
        exact fun h => ⟨raises_of (i := .brk m code) rfl h (if_neg hd), rfl, rfl, info_eq _⟩
    case sysc m n =>
      by_cases hv : s.cx.prot.sventry = 0
      · rw [show trapOps s (.sysc m n) = some (m, ⟨13, n, 0, false, false, s.cx.priv, s.cx.pc⟩) from if_pos hv]
        exact fun h => ⟨raises_of (i := .sysc m n) rfl h (if_pos hv), rfl, rfl, info_eq _⟩
      · rw [show trapOps s (.sysc m n) = none from if_neg hv]
        exact True.intro
    all_goals exact True.intro
  rwa [hi] at hall

/-- A wait that is over, and the questions of its context that stay. -/
def Ctx.waitOver (c : Ctx) (rem : List RemAcc) : Ctx := { c with poll := none, rem := rem }

/-- R171: a wait that is over withdraws its question where that is unanswered. -/
theorem withdraw_cx (s : State) : s.withdraw.cx = s.cx.waitOver (s.cx.rem.filter (fun x => s.cx.poll ≠ some (x.req, none))) := by
  have hall (h : ∀ x ∈ s.cx.rem, s.cx.poll ≠ some (x.req, none)) : s.cx.rem.filter (fun x => s.cx.poll ≠ some (x.req, none)) = s.cx.rem :=
    List.filter_eq_self.mpr fun x hx => decide_eq_true (h x hx)
  match hp : s.cx.poll with
  | none =>
    rw [← hp, hall (fun x _ he => nomatch hp.symm.trans he), State.withdraw, hp]
    rfl
  | some (n, some w) =>
    rw [← hp, hall (fun x _ he => nomatch hp.symm.trans he), State.withdraw, hp]
    rfl
  | some (n, none) =>
    rw [State.withdraw, hp]
    dsimp only
    split
    case h_1 r _ =>
      exact (sendNumbered_cx ..).trans (congrArg s.cx.waitOver (List.filter_congr fun x _ => by simp [eq_comm]))
    case h_2 hr =>
      rw [← hp, hall fun x hx he => ?_]
      · rfl
      · rw [hp] at he
        have := List.find?_eq_none.mp hr x hx
        simp_all

/-- R208 step 8: a context that continues at a handler. -/
def Ctx.atHandler (c : Ctx) (handler : Word) (f : FaultRec) : Ctx :=
  { c with
    pc := handler, priv := false, fltva := f.va, fltinfo := f.info, rep := Rep.none_, status := .ready, fault := none
    gdone := [], arrived := false, firm := none, got := [], code := [] }

theorem enterHandler_cx (s : State) (handler : Word) (f : FaultRec) : (s.enterHandler handler f).cx =
    (s.cx.waitOver (s.cx.rem.filter (fun x => s.cx.poll ≠ some (x.req, none)))).atHandler handler f :=
  congrArg (Ctx.atHandler · handler f) (withdraw_cx s)

/-- R208 step 3 to 6: what the failure of the innermost region leaves of its context. -/
theorem failedRegion_cx {s : State} (h : s.cx.Unparked) (g : Word) (f : FaultRec) :
    (s.failedRegion g f).cx = { s.cx with joined := s.cx.joined.filter (fun j => !decide (j.2 = g)) } := by
  have hown := dropOwn_cx s (fun r => decide (r = g))
  exact (recordUnwind_keepsCx _ _ _ _ _ _ _ (by rw [hown]; exact h)).trans hown

/-- R208: at user level the innermost open region has a handler. -/
theorem takeException_handled {b : State} {f : FaultRec} {g : Word} {outer : List Word} (hp : b.cx.priv = false) (ho : b.cx.opened = g :: outer)
    (hh : (b.failedRegion g f).blkHandler b.cx.prot g ≠ 0) :
    b.takeException f = ({ b.failedRegion g f with cx := { (b.failedRegion g f).cx with
      region := (b.failedRegion g f).blkParent b.cx.prot g, opened := outer } } : State).enterHandler ((b.failedRegion g f).blkHandler b.cx.prot g) f := by
  have hunwind : b.takeException f = unwindFrom f b.cx.opened b := if_neg (by simp [hp])
  rw [hunwind, ho]
  exact if_neg hh

/-- R208, R372: an exception that no region takes ends the invocation. -/
theorem takeException_ends {b : State} (hq : b.cx.Unparked) (h : b.cx.priv = true ∨ b.cx.opened = []) (f : FaultRec) :
    (b.takeException f).cx = Ctx.blank b.cx.id := by
  by_cases hp : b.cx.priv = true
  · have hend := endInv_cx b (some b.unwindState)
    rw [State.takeException, if_pos hp]
    exact (postHealth_keepsCx _ _ _ _ _ _ _ (by rw [hend]; exact fun _ _ _ _ => Status.noConfusion)).trans hend
  · have hunwind : b.takeException f = b.endUnwound f := (if_neg hp).trans (congrArg (unwindFrom f · b) (h.resolve_left hp))
    rw [hunwind, State.endUnwound, endInv_cx, baseUnwound_keepsCx _ _ _ _ _ _ _ hq]

/-- R113, R208: a software trap whose context continues at a handler. -/
theorem trap_handled {i : Instr} {s : State} {m : Mods} {f : FaultRec} {g : Word} {outer : List Word} (hi : trapOps s i = some (m, f))
    (h : s.Executes m .acting) (hp : s.cx.priv = false) (hret : s.retiring = false) (ho : s.cx.opened = g :: outer)
    (hh : (s.atSwitchPoint.failedRegion g f).blkHandler s.cx.prot g ≠ 0) :
    ∃ t, exec i s = .next t ∧ t.cx = { s.atSwitchPoint.cx with
      pc := (s.atSwitchPoint.failedRegion g f).blkHandler s.cx.prot g, priv := false, fltva := s.cx.pc
      fltinfo := infoWord f.cls f.cause 0 false false false
      region := (s.atSwitchPoint.failedRegion g f).blkParent s.cx.prot g, opened := outer, rep := ⟨false, 0, 0, 0, 0, 0, 0⟩
      status := .ready, gdone := [], arrived := false, firm := none, got := [], code := [], joined := t.cx.joined, poll := none
      rem := s.atSwitchPoint.cx.rem.filter (fun x => s.atSwitchPoint.cx.poll ≠ some (x.req, none)) } := by
  obtain ⟨hexec, hunrec, hva, hinfo⟩ := trapOps_raises hi h
  obtain ⟨g', a, m', q, hcx⟩ := atSwitchPoint_cx s
  have hst := atSwitchPoint_unparked h
  have hprot : s.atSwitchPoint.cx.prot = s.cx.prot := by rw [hcx]
  have hfailed := failedRegion_cx hst g f
  rw [hexec, recordFault_acting h hret hunrec,
    takeException_handled (by rw [hcx]; exact hp) (by rw [hcx]; exact ho) (by rw [hprot]; exact hh), hprot]
  refine ⟨_, rfl, ?_⟩
  rw [hp] at hinfo
  rw [enterHandler_cx, hfailed, Ctx.atHandler, hva, hinfo]
  rfl

/-- R113, R208, R372: a software trap that ends its invocation. -/
theorem trap_ends {i : Instr} {s : State} {m : Mods} {f : FaultRec} (hi : trapOps s i = some (m, f)) (h : s.Executes m .acting)
    (hret : s.retiring = false) (hlevel : s.cx.priv = true ∨ s.cx.opened = []) : ∃ t, exec i s = .next t ∧ t.cx = Ctx.blank s.cx.id := by
  obtain ⟨hexec, hunrec, -, -⟩ := trapOps_raises hi h
  obtain ⟨g, a, m', q, hcx⟩ := atSwitchPoint_cx s
  have hst := atSwitchPoint_unparked h
  refine ⟨_, hexec, ?_⟩
  rw [recordFault_acting h hret hunrec, takeException_ends hst (by rw [hcx]; exact hlevel) f, hcx]

/-- R113: BRK with debug enable. -/
theorem brk_halts {s : State} {m : Mods} (h : s.Executes m .acting) (hd : s.cx.dbgen = true) (code : BitVec 16) :
    ∃ t, exec (.brk m code) s = .next t ∧ t.cx = { commitAll s.issued s.cx with firm := none, status := .debug code s.cx.pc true } ∧ t.mem = s.mem := by
  have hi : exec (.brk m code) s = issue m 8 .acting s _ := rfl
  have hpc : s.commitRun.cx.pc = s.cx.pc := by rw [State.commitRun, commitAll_eq]
  rw [hi, issue_executes h, if_pos hd]
  refine ⟨_, rfl, ?_, rfl⟩
  change { commitAll s.issued s.cx with firm := none, status := .debug code s.commitRun.cx.pc true } = _
  rw [hpc]

/-- Settles O9: a trap by whether a region takes its exception, BRK by debug enable. -/
theorem softwareTraps : Obligations.SoftwareTraps := by
  refine ⟨?_, fun i s m f hi h hret hlevel => trap_ends hi h hret hlevel, fun s m code h hd => brk_halts h hd code⟩
  intro i s m f g outer hi h hp hret ho b r hh
  exact trap_handled hi h hp hret ho hh

end Sys2Proof.Machine
end

section
/-! ## Loads, stores and atomics of the package (R118 to R120, R125 to R127, R257) -/

-- For the memory limit of the check: proofs are elaborated and checked one after another.
set_option Elab.async false

namespace Sys2Proof.Machine

/-! ### Operands -/

/-- A sign-extended offset scaled by a power of two, as an integer. -/
theorem signExtend_shiftLeft {n : Nat} (o : BitVec n) (k : Nat) : o.signExtend 64 <<< k = BitVec.ofInt 64 (o.toInt * 2 ^ k) := by
  rw [BitVec.shiftLeft_eq_mul_twoPow, BitVec.ofInt_mul]
  congr 1
  apply BitVec.eq_of_toNat_eq
  rw [BitVec.toNat_twoPow, show (2 : Int) ^ k = ((2 ^ k : Nat) : Int) by simp, BitVec.ofInt_natCast, BitVec.toNat_ofNat]

/-- R118: the effective address as a sum of integers. -/
theorem ea_eq_address (s : State) (ga : GReg) (mo : MemOff) (sz : BitVec 2) : s.ea ga mo sz = s.address ga mo sz := by
  have hg : s.g ga = BitVec.ofInt 64 (s.g ga).toNat := by simp
  cases mo with
  | off o => rw [State.ea, State.address, BitVec.ofInt_add, ← hg, signExtend_shiftLeft]
  | idx gb sh =>
    apply BitVec.eq_of_toNat_eq
    simp [State.ea, State.address, Nat.shiftLeft_eq]
  | imm v => rw [State.ea, State.address, BitVec.ofInt_add, ← hg]; rfl

theorem ctrOf_eq_named (s : State) (k : GReg) : s.ctrOf k = s.named k := rfl

theorem aligned_ok {s : State} {acc : BitVec 2} {n : Nat} {va : Word} (h : va.toNat % n = 0) : s.aligned acc n va = .ok () := if_pos h

theorem bitVec2_cases (d : BitVec 2) : d = 0 ∨ d = 1 ∨ d = 2 ∨ d = 3 := by
  revert d
  decide

/-- R118: an access has at most 8 bytes. -/
theorem accessLog_le (sz : BitVec 2) : sz.toNat ≤ 3 := Nat.le_of_lt_succ sz.isLt

theorem accessBits_le (sz : BitVec 2) : 8 * 2 ^ sz.toNat ≤ 64 :=
  Nat.mul_le_mul_left 8 (Nat.pow_le_pow_right (n := 2) (by decide) (accessLog_le sz))

/-- R119: a load's value from its bytes. -/
theorem extend_wordOf {sz : BitVec 2} {bs : List Byte} (sx : Bool) (h : bs.length = 2 ^ sz.toNat) : extend sz sx (wordOf bs) = extended sx bs := by
  have hlt : leNat bs < 2 ^ (8 * 2 ^ sz.toNat) := by
    have := leNat_lt bs
    rwa [h, show (256 : Nat) = 2 ^ 8 from rfl, ← Nat.pow_mul] at this
  have hcut : (wordOf bs).setWidth (8 * 2 ^ sz.toNat) = BitVec.ofNat (8 * 2 ^ sz.toNat) (leNat bs) := by
    rw [wordOf, natWord, BitVec.setWidth_ofNat_of_le (accessBits_le sz)]
  rw [extend, extended, h, szBytes, sextLow, zextLow, hcut]
  split
  · exact congrArg (BitVec.ofInt 64) (BitVec.toInt_ofNat ..)
  · apply BitVec.eq_of_toNat_eq
    rw [BitVec.toNat_setWidth, BitVec.toNat_ofNat, BitVec.toNat_ofNat, Nat.mod_eq_of_lt hlt]

/-! ### What a translation at issue finds -/

/-- R375, R380: a translation that succeeds has found a leaf, and changes nothing where it is for a read or a fetch. -/
theorem xlate_ok {s u : State} {core : CoreId} {pctx : BitVec 12} {key : BitVec 8} {user dw : Bool} {acc : BitVec 2} {va e : Word} {pl : Place}
    (h : s.xlate core pctx key user dw acc va = (.ok pl e, u)) :
    (∃ v lvl, placeOf s v lvl va = pl) ∧ ((acc = 1 || acc = 3) = false → u = s) := by
  unfold State.xlate at h
  split at h
  · cases h
  split at h
  · cases h
  split at h
  · cases h
  split at h
  · next hw =>
    refine ⟨?_, fun hacc => absurd hw (by simp only [hacc, Bool.false_and, Bool.false_eq_true, not_false_eq_true])⟩
    split at h
    · exact ⟨_, _, (XRes.ok.inj (congrArg Prod.fst h)).1⟩
    · cases h
  · cases h
    exact ⟨⟨_, _, rfl⟩, fun _ => rfl⟩

theorem access_ok {s u : State} {acc : BitVec 2} {dw : Bool} {va : Word} {pl : Place} (h : s.access acc dw va = .ok (pl, u)) :
    ∃ e, s.xlate s.cx.id.coreId s.cx.pctx s.cx.prot.keyslot (!s.cx.priv) dw acc va = (.ok pl e, u) := by
  rw [State.access] at h
  split at h
  · next hx =>
    cases h
    exact ⟨_, hx⟩
  · cases h
  · cases h

/-- R374: a translation for a read or a fetch changes nothing. -/
theorem access_read {s u : State} {acc : BitVec 2} {dw : Bool} {va : Word} {pl : Place} (hacc : (acc = 1 || acc = 3) = false)
    (h : s.access acc dw va = .ok (pl, u)) : u = s := by
  obtain ⟨e, hx⟩ := access_ok h
  exact (xlate_ok hx).2 hacc

/-- R376, R379: a leaf keeps the offset within the smallest page. -/
theorem placeOf_offset {s : State} {e va : Word} {lvl pa : Nat} (h : placeOf s e lvl va = .hbm pa) : pa % 65536 = va.toNat % 65536 := by
  have hpage : va.toNat % 2 ^ lvlShift lvl % 65536 = va.toNat % 65536 := by
    refine Nat.mod_mod_of_dvd _ (Nat.pow_dvd_pow 2 (?_ : 16 ≤ lvlShift lvl))
    unfold lvlShift
    split
    · decide
    · split <;> decide
  unfold placeOf at h
  simp only at h
  split at h
  · split at h <;> cases h
    rw [ptePaF, Nat.mul_comm, Nat.mul_add_mod, hpage]
  · split at h <;> cases h

/-- R376, R379: an address of HBM and its virtual address agree in the offset within the smallest page. -/
theorem access_offset {s u : State} {acc : BitVec 2} {dw : Bool} {va : Word} {pa : Nat} (h : s.access acc dw va = .ok (.hbm pa, u)) :
    pa % 65536 = va.toNat % 65536 := by
  obtain ⟨e, hx⟩ := access_ok h
  obtain ⟨⟨v, lvl, hp⟩, -⟩ := xlate_ok hx
  exact placeOf_offset hp

/-- R118, R374: what an aligned access whose translation succeeds goes on with. -/
theorem access_bind {α : Type} {s u : State} {acc : BitVec 2} {dw : Bool} {n : Nat} {va : Word} {pl : Place} (hal : va.toNat % n = 0)
    (hx : s.access acc dw va = .ok (pl, u)) (k : Place × State → Try α) : (s.aligned acc n va >>= fun _ => s.access acc dw va >>= k) = k (pl, u) := by
  rw [aligned_ok hal, hx]
  rfl

/-! ### Reads -/

theorem recallRange_sameButDies (s : State) (owner pa n : Nat) : s.SameButDies (s.recallRange owner pa n) := writeBack_sameButDies s _

/-- R119: an ordinary read of words that are not poisoned. -/
theorem readPa_clean {s : State} {owner pa n : Nat} {va : Word} (h : s.badWord pa n = none) :
    s.readPa owner va pa n = (s.bytes s.cx.prot.keyslot pa n, s.recallRange owner pa n) := by
  have hd := recallRange_sameButDies s owner pa n
  have hbad : (s.recallRange owner pa n).badWord pa n = none := by rw [hd]; exact h
  simp only [State.readPa, hbad]
  rw [hd.bytes]
  rw [hd]

/-- R257: LD of HBM of the package. -/
theorem ldBody_hbm {s u : State} {gd ga : GReg} {mo : MemOff} {sz : BitVec 2} {sx : Bool} {pa : Nat}
    (hal : (s.address ga mo sz).toNat % 2 ^ sz.toNat = 0) (hx : s.access 0 (sz = 3) (s.address ga mo sz) = .ok (.hbm pa, u))
    (hbad : s.badWord pa (2 ^ sz.toNat) = none) :
    Try.done (ldBody gd ga mo sz sx s) =
      .fall ((s.recallRange s.l1 pa (2 ^ sz.toNat)).laterG gd (extended sx (s.bytes s.cx.prot.keyslot pa (2 ^ sz.toNat)))) := by
  obtain rfl := access_read (by decide) hx
  rw [← ea_eq_address] at hal hx
  refine (congrArg Try.done (access_bind hal hx _)).trans (congrArg Done.fall ?_)
  have hread := readPa_clean (owner := u.l1) (va := u.ea ga mo sz) hbad
  rw [← extend_wordOf sx (bytes_length ..)]
  exact congrArg (fun x : List Byte × State => x.2.laterG gd (extend sz sx (wordOf x.1))) hread

theorem ldBody_dev {s u : State} {gd ga : GReg} {mo : MemOff} {sx : Bool} {pa : Nat}
    (hal : (s.address ga mo 3).toNat % 8 = 0) (hx : s.access 0 true (s.address ga mo 3) = .ok (.dev pa, u)) :
    Try.done (ldBody gd ga mo 3 sx s) = .fall (s.laterG gd (s.readReg pa)) := by
  obtain rfl := access_read (by decide) hx
  rw [← ea_eq_address] at hal hx
  exact congrArg Try.done (access_bind hal hx _)

theorem stBody_dev {s u : State} {ga : GReg} {mo : MemOff} {gc : GReg} {pa : Nat}
    (hal : (s.address ga mo 3).toNat % 8 = 0) (hx : s.access 1 true (s.address ga mo 3) = .ok (.dev pa, u)) :
    Try.done (stBody ga mo gc 3 0 s) = .fall (u.due (.registerWrite pa (s.g gc))) := by
  rw [← ea_eq_address] at hal hx
  exact congrArg Try.done (access_bind hal hx _)

/-- Settles O16: a read of HBM leaves memory as it is, and a device register is read at once or written next. -/
theorem loadsAndDeviceRegisters : Obligations.LoadsAndDeviceRegisters := by
  refine ⟨?_, ?_, ?_⟩
  · intro s s1 m gd ga mo sz sx pa h hal hx hbad
    refine falls_plain (i := .ld m gd ga mo sz sx) rfl h (ldBody_hbm hal hx hbad) ?_
    have hd := recallRange_sameButDies s s.l1 pa (2 ^ sz.toNat)
    generalize s.recallRange s.l1 pa (2 ^ sz.toNat) = v at hd
    have howes := laterG_owes v gd (extended sx (s.bytes s.cx.prot.keyslot pa (2 ^ sz.toNat)))
    generalize v.laterG gd _ = w at howes
    rw [howes, hd]
  · intro s s1 m gd ga mo sx pa h hal hx
    exact falls_plain (i := .ld m gd ga mo 3 sx) rfl h (ldBody_dev hal hx) (laterG_owes ..)
  · intro s s1 m ga mo gc pa h hal hx
    exact falls_plain (i := .st m ga mo gc 3 0) rfl h (stBody_dev hal hx) rfl

/-! ### Stores -/

/-- A state that differs only in memory, in what is not written back of it, and in what the dies hold. -/
def State.SameButBytes (s u : State) : Prop :=
  u = { s with mem := u.mem, dirty := u.dirty, poison := u.poison, lineKey := u.lineKey, die0 := u.die0, die1 := u.die1, die2 := u.die2, die3 := u.die3 }

namespace State.SameButBytes

variable {s u v : State}

theorem trans (h : s.SameButBytes u) (k : u.SameButBytes v) : s.SameButBytes v := by
  unfold State.SameButBytes at *
  rw [k, h]

theorem of_dies (h : s.SameButDies u) : s.SameButBytes u := by rw [h]; rfl

end State.SameButBytes

theorem rekey_sameButBytes (s : State) (key : BitVec 8) (pa : Nat) : s.SameButBytes (s.rekey key pa) := by
  rw [State.rekey]
  generalize 256 = n
  split <;> rfl

/-- R352: a line is taken under the key of the access. -/
theorem rekey_lineKey (s : State) (key : BitVec 8) (pa : Nat) : tget 0 (s.rekey key pa).lineKey (pa / 256) = s.keyId key := by
  rw [State.rekey]
  generalize 256 = n
  split
  · assumption
  · exact (tget_tset ..).trans (if_pos rfl)

/-- R352: the other bytes of a line that already has the key stay. -/
theorem rekey_byte {s : State} {key : BitVec 8} {pa a : Nat} (h : a / 256 = pa / 256 → tget 0 s.lineKey (pa / 256) = s.keyId key) :
    (s.rekey key pa).byte a = s.byte a := by
  by_cases ha : a / 256 = pa / 256
  · rw [State.rekey, if_pos (h ha)]
  · exact rekey_outside ha

/-- R352: a range within one line. -/
theorem rekeyRange_line {s : State} {key : BitVec 8} {pa n : Nat} (h : pa % 256 + n ≤ 256) : s.rekeyRange key pa n = s.rekey key pa := by
  have hend : (pa + (n - 1)) / 256 = pa / 256 := by
    have := Nat.div_add_mod pa 256
    exact Nat.div_eq_of_lt_le (by omega) (by omega)
  have hone : (pa + (n - 1)) / 256 - pa / 256 + 1 = 1 := by rw [hend, Nat.sub_self]
  rw [State.rekeyRange, hone]
  rfl

/-- R257: a store of a core within one line. -/
theorem putL1_storedAt {s : State} {core : Nat} {key : BitVec 8} {pa : Nat} {bs : List Byte} (h : pa % 256 + bs.length ≤ 256) :
    s.StoredAt key pa bs (s.putL1 core key pa bs) := by
  have hd : (s.rekey key pa).SameButDies (((s.rekey key pa).recallRange core pa bs.length).watch pa bs.length) :=
    (recallRange_sameButDies _ core pa bs.length).trans (watch_sameButDies _ pa bs.length)
  refine ⟨?_, ?_, ?_, ?_⟩
  · change s.SameButBytes (s.putL1 core key pa bs)
    rw [State.putL1, rekeyRange_line h]
    exact (rekey_sameButBytes s key pa).trans (.trans (.of_dies hd) rfl)
  · intro k hk
    rw [putL1_byte_inside hk, List.getD_eq_getElem _ _ hk]
  · intro a ha hkey
    rw [State.putL1, rekeyRange_line h]
    simp only [State.byte, tget_memPut_outside ha, watch_mem, recallRange_mem]
    exact rekey_byte hkey
  · rw [State.putL1, rekeyRange_line h, ← rekey_lineKey s key pa]
    have hline : (((s.rekey key pa).recallRange core pa bs.length).watch pa bs.length).lineKey = (s.rekey key pa).lineKey := by rw [hd]
    exact congrArg (tget 0 · (pa / 256)) hline

/-- R118, R251: an aligned access lies within one line. -/
theorem aligned_in_line {pa va k : Nat} (hk : k ≤ 3) (hoff : pa % 65536 = va % 65536) (hal : va % 2 ^ k = 0) : pa % 256 + 2 ^ k ≤ 256 := by
  have hdvd : 2 ^ k ∣ pa % 256 := by
    have h8 : 2 ^ k ∣ 2 ^ 8 := Nat.pow_dvd_pow 2 (by omega)
    have h16 : 2 ^ k ∣ 2 ^ 16 := Nat.pow_dvd_pow 2 (by omega)
    exact (Nat.dvd_mod_iff h8).mpr ((Nat.dvd_mod_iff h16).mp (hoff ▸ (Nat.dvd_mod_iff h16).mpr (Nat.dvd_of_mod_eq_zero hal)))
  refine Nat.le_of_lt_add_of_dvd (n := 2 ^ k) ?_ (Nat.dvd_add hdvd (Nat.dvd_refl _)) (Nat.pow_dvd_pow 2 (show k ≤ 8 by omega))
  exact Nat.add_lt_add_right (Nat.mod_lt pa (by decide)) _

/-- R120: an ordinary store that covers no part of a poisoned word without the rest. -/
theorem writePa_unmerged {s : State} {owner : Nat} {sz : BitVec 2} {va : Word} {pa : Nat} {bs : List Byte} (h : s.overPoison pa bs.length = false) :
    s.writePa owner sz va pa bs = (s.putL1 owner s.cx.prot.keyslot pa bs).noteStore := by
  rw [State.writePa, h]
  rfl

theorem stBody_hbm {s u : State} {ga : GReg} {mo : MemOff} {gc : GReg} {sz : BitVec 2} {k : GReg} {pa : Nat}
    (hal : (s.address ga mo sz).toNat % 2 ^ sz.toNat = 0) (hx : s.access 1 (sz = 3) (s.address ga mo sz) = .ok (.hbm pa, u)) :
    Try.done (stBody ga mo gc sz k s) =
      .fall ((u.writePa u.l1 sz (s.address ga mo sz) pa (leBytes (2 ^ sz.toNat) (s.g gc).toNat)).thenRaise (s.address ga mo sz) (s.named k) 0 1) := by
  rw [← ea_eq_address] at hal hx ⊢
  exact congrArg Try.done (access_bind hal hx _)

/-- Settles O18: an aligned store lies within one line, whose other bytes keep their values. -/
theorem storeToPackage : Obligations.StoreToPackage := by
  intro s s1 m ga mo gc sz k pa h hal hx hpoison
  refine falls_plain (i := .st m ga mo gc sz k) rfl h (stBody_hbm hal hx) ⟨_, putL1_storedAt (core := s1.l1) ?_, ?_⟩
  · rw [leBytes_length]
    exact aligned_in_line (accessLog_le sz) (access_offset hx) hal
  · rw [writePa_unmerged (by rw [leBytes_length]; exact hpoison), (access_homes hx).cx]

end Sys2Proof.Machine
end

section
/-! ## Atomics of the package (R125 to R127) -/

-- For the memory limit of the check: proofs are elaborated and checked one after another.
set_option Elab.async false

namespace Sys2Proof.Machine

theorem sortBy_eq_nil {α : Type} {le : α → α → Bool} {l : List α} : sortBy le l = [] ↔ l = [] := by
  cases l with
  | nil => simp [sortBy]
  | cons x xs =>
    simp only [sortBy, reduceCtorEq, iff_false]
    cases sortBy le xs with
    | nil => simp [insertBy]
    | cons y ys =>
      simp only [insertBy]
      split <;> simp

/-- R416, R421: a range without a poisoned word covers none in part. -/
theorem overPoison_of_badWord {s : State} {pa n : Nat} (h : s.badWord pa n = none) : s.overPoison pa n = false := by
  have hnil := sortBy_eq_nil.mp (List.head?_eq_none_iff.mp h)
  rw [State.overPoison, List.any_eq_false]
  intro w hw hb
  have := List.filter_eq_nil_iff.mp hnil w hw
  simp_all

/-- R125: the integer operations of atomics. -/
theorem intOp_result {n : Nat} (old b c : BitVec n) (opc : BitVec 4) (h : opc.toNat < 8) :
    atomicResult old b c opc.toNat = some (intOp opc n old b) := by
  have hlt : opc = 0 ∨ opc = 1 ∨ opc = 2 ∨ opc = 3 ∨ opc = 4 ∨ opc = 5 ∨ opc = 6 ∨ opc = 7 := by
    revert opc
    decide
  have hmin : (if old.slt b = true then old else b) = BitVec.ofInt n (min old.toInt b.toInt) := by
    rw [min_comm]; exact minS_spec b old
  have hmax : (if old.slt b = true then b else old) = BitVec.ofInt n (max old.toInt b.toInt) := maxS_spec old b
  have hminU : (if old.ult b = true then old else b) = BitVec.ofNat n (min old.toNat b.toNat) := by
    rw [min_comm]; exact minU_spec b old
  have hmaxU : (if old.ult b = true then b else old) = BitVec.ofNat n (max old.toNat b.toNat) := maxU_spec old b
  rcases hlt with rfl | rfl | rfl | rfl | rfl | rfl | rfl | rfl
  · exact congrArg some (add_spec old b).symm
  · rfl
  · rfl
  · rfl
  · exact congrArg some hmin.symm
  · exact congrArg some hmax.symm
  · exact congrArg some hminU.symm
  · exact congrArg some hmaxU.symm

/-- R125: the floating-point operations of atomics. -/
def atomicFloat (add : Bool) (x y : BitVec 32) : BitVec 32 := if add then f32Add .rne x y else f32Max x y

/-- R125: whether an atomic operation writes, and what is in memory afterwards. -/
theorem amoNew_result {n : Nat} (old b c : BitVec n) (opc : BitVec 4) (h : opc.toNat < 12) :
    amoNew (fun o => intOp o n) atomicFloat opc old b c = ((atomicResult old b c opc.toNat).isSome, (atomicResult old b c opc.toNat).getD old) := by
  by_cases hint : opc.toNat < 8
  · have hne : opc ≠ 10 ∧ opc ≠ 11 ∧ opc ≠ 8 ∧ opc ≠ 9 := by
      refine ⟨?_, ?_, ?_, ?_⟩ <;> rintro rfl <;> exact absurd hint (by decide)
    obtain ⟨h10, h11, h8, h9⟩ := hne
    rw [intOp_result old b c opc hint, amoNew, if_neg h10, if_neg h11, if_neg h8, if_neg h9]
    rfl
  · have hlt : opc = 8 ∨ opc = 9 ∨ opc = 10 ∨ opc = 11 := by
      revert opc
      decide
    rcases hlt with rfl | rfl | rfl | rfl
    · rfl
    · rfl
    · rfl
    · change (decide (old = b), if old = b then c else old) = ((if old = b then some c else none).isSome, (if old = b then some c else none).getD old)
      split <;> simp_all

/-- R125: what an atomic operation on the low 2 ^ sz bytes of 64-bit registers writes. -/
def atomicLow (opc : BitVec 4) (sz : BitVec 2) (old b c : Word) : Option (BitVec (8 * 2 ^ sz.toNat)) :=
  atomicResult (old.setWidth _) (b.setWidth _) (c.setWidth _) opc.toNat

theorem atomic_eq_atomicLow (opc : BitVec 4) (sz : BitVec 2) (old b c : Word) (h : opc.toNat < 12) :
    atomic opc sz old b c = ((atomicLow opc sz old b c).isSome, ((atomicLow opc sz old b c).getD (old.setWidth _)).setWidth 64) := by
  obtain rfl | rfl | rfl | rfl := bitVec2_cases sz
  · exact congrArg (fun x : Bool × BitVec 8 => (x.1, x.2.setWidth 64)) (amoNew_result (old.setWidth 8) (b.setWidth 8) (c.setWidth 8) opc h)
  · exact congrArg (fun x : Bool × BitVec 16 => (x.1, x.2.setWidth 64)) (amoNew_result (old.setWidth 16) (b.setWidth 16) (c.setWidth 16) opc h)
  · exact congrArg (fun x : Bool × BitVec 32 => (x.1, x.2.setWidth 64)) (amoNew_result (old.setWidth 32) (b.setWidth 32) (c.setWidth 32) opc h)
  · have h64 := congrArg (fun x : Bool × BitVec 64 => (x.1, x.2.setWidth 64)) (amoNew_result (old.setWidth 64) (b.setWidth 64) (c.setWidth 64) opc h)
    refine Eq.trans ?_ h64
    simp only [BitVec.setWidth_eq]
    rfl

/-- R125 to R127: what an atomic operation leaves: its result stored at the address, or the recall of the leases alone. -/
def State.AtomicDone (s : State) (key : BitVec 8) (pa n : Nat) (r : Option (BitVec (8 * n))) (w : State) : Prop :=
  match r with
  | some v => ∃ x, (s.recallRange s.l1 pa n).StoredAt key pa (leBytes n v.toNat) x ∧ w = x.noteStore
  | none => w = s.recallRange s.l1 pa n

theorem lowBytes_setWidth {sz : BitVec 2} (v : BitVec (8 * 2 ^ sz.toNat)) : lowBytes sz (v.setWidth 64) = leBytes (2 ^ sz.toNat) v.toNat := by
  rw [lowBytes, BitVec.toNat_setWidth_of_le (accessBits_le sz)]
  rfl

/-- R126: an atomic operation on a word that is not poisoned. -/
theorem amoPa_spec {s : State} {opc : BitVec 4} {sz : BitVec 2} {pa : Nat} (va b c : Word) (hopc : opc.toNat < 12)
    (hline : pa % 256 + 2 ^ sz.toNat ≤ 256) (hbad : s.badWord pa (2 ^ sz.toNat) = none) {old : Word}
    (hold : old = wordOf (s.bytes s.cx.prot.keyslot pa (2 ^ sz.toNat))) :
    ∃ w, s.amoPa opc sz va pa b c = (old, (atomicLow opc sz old b c).isSome, w) ∧
      s.AtomicDone s.cx.prot.keyslot pa (2 ^ sz.toNat) (atomicLow opc sz old b c) w := by
  have hd := recallRange_sameButDies s s.l1 pa (2 ^ sz.toNat)
  have hcx : (s.recallRange s.l1 pa (2 ^ sz.toNat)).cx = s.cx := by rw [hd]
  have hover : (s.recallRange s.l1 pa (2 ^ sz.toNat)).overPoison pa (2 ^ sz.toNat) = false := by rw [hd]; exact overPoison_of_badWord hbad
  have hamo : s.amoPa opc sz va pa b c = (old, (atomic opc sz old b c).1,
      if (atomic opc sz old b c).1 then (s.recallRange s.l1 pa (2 ^ sz.toNat)).writePa s.l1 sz va pa (lowBytes sz (atomic opc sz old b c).2)
      else s.recallRange s.l1 pa (2 ^ sz.toNat)) := by
    have hb : szBytes sz = 2 ^ sz.toNat := rfl
    have hl1 : (s.recallRange s.l1 pa (2 ^ sz.toNat)).l1 = s.l1 := by rw [State.l1, hcx, State.l1]
    simp only [State.amoPa, hb, hd.bytes, hcx, ← hold, hl1]
  rw [atomic_eq_atomicLow opc sz old b c hopc] at hamo
  refine ⟨_, hamo, ?_⟩
  unfold State.AtomicDone
  cases atomicLow opc sz old b c with
  | none => rfl
  | some v =>
    have hlen : (leBytes (2 ^ sz.toNat) v.toNat).length = 2 ^ sz.toNat := leBytes_length ..
    refine ⟨_, putL1_storedAt (core := s.l1) (by rw [hlen]; exact hline), ?_⟩
    rw [Option.getD_some, lowBytes_setWidth]
    refine (if_pos rfl).trans ?_
    rw [writePa_unmerged (by rw [hlen]; exact hover), hcx]

theorem amoBody_hbm {s u w : State} {gd ga gb gc : GReg} {opc : BitVec 4} {sz : BitVec 2} {qs : QReg} {k : GReg} {scope : BitVec 2} {pa : Nat}
    {old : Word} {ok : Bool} (hal : (s.g ga).toNat % 2 ^ sz.toNat = 0) (hx : s.access 3 false (s.g ga) = .ok (.hbm pa, u))
    (hbad : u.badWord pa (2 ^ sz.toNat) = none) (hamo : u.amoPa opc sz (s.g ga) pa (s.g gb) (s.g gc) = (old, ok, w)) :
    Try.done (amoBody gd ga gb gc opc sz qs k scope s) = .fall (((w.laterG gd old).laterQ qs ok).thenRaise (s.g ga) (s.named k) scope 3) := by
  refine (congrArg Try.done (access_bind hal hx _)).trans ?_
  simp only [szBytes, hbad, hamo]
  rfl

theorem redBody_hbm {s u w : State} {ga gb : GReg} {opc : BitVec 4} {sz : BitVec 2} {k : GReg} {scope : BitVec 2} {pa : Nat}
    {old : Word} {ok : Bool} (hal : (s.g ga).toNat % 2 ^ sz.toNat = 0) (hx : s.access 3 false (s.g ga) = .ok (.hbm pa, u))
    (hbad : u.badWord pa (2 ^ sz.toNat) = none) (hamo : u.amoPa opc sz (s.g ga) pa (s.g gb) 0 = (old, ok, w)) :
    Try.done (redBody ga gb opc sz k scope s) = .fall (w.thenRaise (s.g ga) (s.named k) scope 3) := by
  refine (congrArg Try.done (access_bind hal hx _)).trans ?_
  simp only [szBytes, hbad, hamo]
  rfl

/-- Settles O19: the operation is applied to the bytes read, and an aligned word lies within one line. -/
theorem atomicsInPackage : Obligations.AtomicsInPackage := by
  intro s s1 m ga gb opc sz k scope pa h hal hx hbad n old new after
  have hcx := (access_homes hx).cx
  have hline := aligned_in_line (accessLog_le sz) (access_offset hx) hal
  have hnew : ∀ c : Word, new c = atomicLow opc sz (BitVec.ofNat 64 old) (s.g gb) c := fun c => by
    rw [atomicLow, BitVec.setWidth_ofNat_of_le (accessBits_le sz)]
  have hafter : ∀ c w, s1.AtomicDone s1.cx.prot.keyslot pa (2 ^ sz.toNat) (atomicLow opc sz (BitVec.ofNat 64 old) (s.g gb) c) w → after c w := by
    intro c w hw
    have hl1 : s1.l1 = s.l1 := by rw [State.l1, hcx, State.l1]
    rw [← hnew, hcx] at hw
    simp only [after]
    generalize new c = r at hw
    cases r with
    | none => exact hl1 ▸ hw
    | some v => exact hl1 ▸ hw
  have hold : BitVec.ofNat 64 old = wordOf (s1.bytes s1.cx.prot.keyslot pa (2 ^ sz.toNat)) := by rw [hcx]; rfl
  refine ⟨fun gd gc qs hopc => ?_, fun hopc => ?_⟩
  · obtain ⟨w, hamo, hw⟩ := amoPa_spec (s.g ga) (s.g gb) (s.g gc) hopc hline hbad hold
    refine falls_plain (i := .amo m gd ga gb gc opc sz qs k scope) rfl h (amoBody_hbm hal hx hbad hamo) ⟨w, hafter _ w hw, ?_⟩
    rw [hnew]
  · obtain ⟨w, hamo, hw⟩ := amoPa_spec (opc := opc) (s.g ga) (s.g gb) 0 (by omega) hline hbad hold
    exact falls_plain (i := .red m ga gb opc sz k scope) rfl h (redBody_hbm hal hx hbad hamo) ⟨w, hafter _ w hw, rfl⟩

end Sys2Proof.Machine
end

section
/-! ## Accesses homed elsewhere (R119 to R123, R127, R250, R261, R266, R287) -/

-- For the memory limit of the check: proofs are elaborated and checked one after another.
set_option Elab.async false

namespace Sys2Proof.Machine

/-! ### What leaves -/

/-- R287: a series has room for a packet where it has room for another of the same series and number. -/
theorem seqRoom_congr {s u : State} {p q : Packet} (hu : u.unacked = s.unacked) (hb : u.backlog = s.backlog) (hdie : p.sdie = q.sdie)
    (hcore : p.score = q.score) (hseries : seriesOf p = seriesOf q) (hseq : p.seq = q.seq) : u.seqRoom p = s.seqRoom q := by
  simp only [State.seqRoom, fellows, hu, hb, hdie, hcore, hseries, hseq]

theorem mem_send (s : State) (p : Packet) : p ∈ (s.send p).net ++ (s.send p).outbox := by
  unfold State.send
  split <;> simp

/-- R287: a packet whose series has room is sent at once, with its number. -/
theorem sendNumbered_sent {s : State} {p : Packet}
    (h : p.dpkg ≠ s.pkg → s.seqRoom { p with seq := tget 0 (s.core ⟨p.sdie, p.score⟩).seq (seriesOf p) } = true) :
    ∃ n, { p with seq := n } ∈ (s.sendNumbered p).net ++ (s.sendNumbered p).outbox := by
  by_cases hp : p.dpkg = s.pkg
  · rw [State.sendNumbered, if_pos hp]
    exact ⟨p.seq, mem_send s p⟩
  · rw [State.sendNumbered, if_neg hp]
    simp only
    split
    · exact ⟨_, mem_send _ _⟩
    · next hroom => exact absurd ((seqRoom_congr rfl rfl rfl rfl rfl rfl).trans (h hp)) hroom

/-- R53, R287: the series of the issuing context has room for its next access. -/
theorem seqRoom_of_mustWait {s : State} {pkg : BitVec 12} {die : BitVec 2} (h : s.mustWait pkg die = false) (hpkg : pkg ≠ s.pkg) {p : Packet}
    (hbulk : bulkType p.type = false) (hsrc : (⟨p.sdie, p.score⟩ : CoreId) = s.cx.id.coreId) (hsag : p.sag = s.cx.id.slot.setWidth 4)
    (hdpkg : p.dpkg = pkg) (hddie : p.ddie = die) :
    s.seqRoom { p with seq := tget 0 (s.core ⟨p.sdie, p.score⟩).seq (seriesOf p) } = true := by
  have hdie : p.sdie = s.cx.id.coreId.die := congrArg CoreId.die hsrc
  have hcore : p.score = s.cx.id.coreId.core := congrArg CoreId.core hsrc
  have hseries : seriesOf p = seriesKey (s.cx.id.slot.setWidth 4) pkg die := by
    rw [seriesOf, hbulk, hsag, hdpkg, hddie]
    exact Nat.zero_add _
  simp only [State.mustWait, State.seriesFull, hpkg, ne_eq, not_false_eq_true, decide_true, Bool.true_and, Bool.not_eq_false'] at h
  refine (seqRoom_congr rfl rfl hdie hcore ?_ ?_).trans h
  · exact hseries.trans (Nat.zero_add _).symm
  · simp only [hseries, hsrc]

theorem mustWait_congr {s u : State} (hid : u.cx.id = s.cx.id) (hpkg : u.pkg = s.pkg) (hcore : ∀ id, u.core id = s.core id)
    (hu : u.unacked = s.unacked) (hb : u.backlog = s.backlog) (pkg : BitVec 12) (die : BitVec 2) : u.mustWait pkg die = s.mustWait pkg die := by
  simp only [State.mustWait, State.seriesFull, State.seqRoom, hid, hpkg, hcore, hu, hb]

/-! ### The access itself -/

/-- R261: an access of a context has left: listed as outstanding, with a packet of its type on its way to the home. -/
def State.AccessLeaves (s : State) (src : CtxId) (pl : Place) (va : Word) (sz : BitVec 2) (o : RemoteOp) (u : State) : Prop :=
  ∃ (r : RemAcc) (p : Packet) (q : MemReq),
    u.cx = { s.cx with rem := s.cx.rem ++ [r] } ∧ u.mem = s.mem ∧
    r.req = s.fresh ∧ r.src = src ∧ r.kind = o.kind ∧ r.counted = o.counted ∧ r.host = pl.isHost ∧ r.va = va ∧
      r.opnd = o.opnd ∧ r.ctr = o.ctr ∧ r.inRun = o.inRun ∧
    p ∈ u.net ++ u.outbox ∧ p.type = o.type ∧ p.payload = .mem q ∧ p.dpkg = (remoteTo s va pl).1 ∧ p.addr = (remoteTo s va pl).2.2 ∧
    q.va = p.addr ∧ q.sz = sz ∧ q.opc = o.opc ∧ q.opnd = o.opnd ∧ q.swp = o.swp ∧ q.pctx = s.cx.pctx ∧ q.user = !s.cx.priv

/-- R261: the entry of the list of outstanding accesses. -/
def State.listed (s : State) (pl : Place) (va : Word) (o : RemoteOp) : RemAcc :=
  { req := s.fresh, src := s.cx.id, seq := tget 0 s.myCore.seq (seriesKey (s.cx.id.slot.setWidth 4) (remoteTo s va pl).1 (remoteTo s va pl).2.1)
    dpkg := (remoteTo s va pl).1, ddie := (remoteTo s va pl).2.1, host := pl.isHost, counted := o.counted, kind := o.kind, opc := o.opc, va := va
    opnd := o.opnd, ctr := o.ctr, sys := o.scope = 2, engs := if o.ctr.isSome then s.engReads else [], sz := o.sz, poison := s.cx.atmode
    inRun := o.inRun, region := s.cx.region, pctx := s.cx.pctx, inv := match s.cx.run with | some r => r.i.id | none => 0
    ph := match s.cx.run with | some r => r.i.ph | none => 0 }

/-- R261: what the home is asked. -/
def State.asks (s : State) (pl : Place) (va : Word) (o : RemoteOp) : MemReq :=
  { va := (remoteTo s va pl).2.2, sz := o.sz, opc := o.opc, opnd := o.opnd, swp := o.swp, pctx := s.cx.pctx, user := !s.cx.priv
    poison := s.cx.atmode, src := s.cx.id, inv := match s.cx.run with | some r => r.i.id | none => 0, region := s.cx.region
    ph := match s.cx.run with | some r => r.i.ph | none => 0 }

/-- R261: the packet that carries an access, before it has its number. -/
def State.accessPacket (s : State) (spkg : BitVec 12) (pl : Place) (va : Word) (o : RemoteOp) : Packet :=
  { mkPacket { s with pkg := spkg } o.type (remoteTo s va pl).1 (remoteTo s va pl).2.1 255 s.cx.id.coreId (s.cx.id.slot.setWidth 4) (.mem (s.asks pl va o)) with
    addr := (remoteTo s va pl).2.2 }

/-- R261: an entry is added to the list of outstanding accesses of the context. -/
def State.listing (s : State) (c : Ctx) (r : RemAcc) : State := { s with fresh := s.fresh + 1, cx := { c with rem := c.rem ++ [r] } }

/-- R124, R216: the stores that the raise of an access comes after are performed first. -/
def State.fenced (s : State) (o : RemoteOp) : State := if o.ctr.isSome = true then s.fenceWrite o.scope else s

theorem fenced_dies (s : State) (o : RemoteOp) : s.SameButDies (s.fenced o) := by
  rw [State.fenced]
  split
  · exact fenceWrite_dies s _
  · exact .refl s

/-- R261: an access that may leave. -/
theorem remote_sends {s : State} {pl : Place} {va : Word} {o : RemoteOp} (hfull : s.cx.full pl.isHost o.counted = false)
    (hwait : s.mustWait (remoteTo s va pl).1 (remoteTo s va pl).2.1 = false) :
    s.remote pl va o = .ok (((s.fenced o).listing s.cx (s.listed pl va o)).sendNumbered (s.accessPacket (s.fenced o).pkg pl va o)) :=
  if_neg (by rw [hfull, hwait]; decide)

theorem listing_dies {s v : State} (hd : s.SameButDies v) (r : RemAcc) : (s.listing s.cx r).SameButDies (v.listing s.cx r) := by
  rw [hd]
  rfl

theorem remote_leaves {s : State} {src : CtxId} {pl : Place} {va : Word} {sz : BitVec 2} {o : RemoteOp}
    (hsrc : s.cx.id = src) (hsz : o.sz = sz) (hfull : s.cx.full pl.isHost o.counted = false)
    (hwait : s.mustWait (remoteTo s va pl).1 (remoteTo s va pl).2.1 = false) (hbulk : bulkType o.type = false) :
    ∃ u, s.remote pl va o = .ok u ∧ s.AccessLeaves src pl va sz o u := by
  refine ⟨_, remote_sends hfull hwait, ?_⟩
  have hd := fenced_dies s o
  generalize s.fenced o = v at hd
  have hl := listing_dies hd (s.listed pl va o)
  have hwait' := (mustWait_congr (s := s) (u := v.listing s.cx (s.listed pl va o)) rfl (by rw [hl]; rfl) (fun id => hd.core id)
    (by rw [hl]; rfl) (by rw [hl]; rfl) _ _).trans hwait
  obtain ⟨n, hn⟩ := sendNumbered_sent (s := v.listing s.cx (s.listed pl va o)) (p := s.accessPacket v.pkg pl va o)
    fun hpkg => seqRoom_of_mustWait hwait' hpkg hbulk rfl rfl rfl rfl
  have hmem : ((v.listing s.cx (s.listed pl va o)).sendNumbered (s.accessPacket v.pkg pl va o)).mem = s.mem :=
    (sendNumbered_froze ..).1.trans (by rw [hl]; rfl)
  exact ⟨s.listed pl va o, _, s.asks pl va o, sendNumbered_cx .., hmem, rfl, hsrc, rfl, rfl, rfl, rfl, rfl, rfl, rfl,
    hn, rfl, rfl, rfl, rfl, rfl, hsz, rfl, rfl, rfl, rfl, rfl⟩

theorem remote_holds {s : State} {pl : Place} {va : Word} {o : RemoteOp}
    (hwait : s.mustWait (remoteTo s va pl).1 (remoteTo s va pl).2.1 = true) : s.remote pl va o = .error (.hold s) :=
  if_pos (by rw [hwait, Bool.or_true])

/-! ### The instructions -/

/-- R379: memory homed in another package or at a host. -/
def Place.Away (pl : Place) : Prop := (∃ p, pl = .pod p) ∨ ∃ n a, pl = .host n a

theorem place_away {pl : Place} (hhbm : ∀ pa, pl ≠ .hbm pa) (hdev : ∀ pa, pl ≠ .dev pa) : pl.Away := by
  cases pl with
  | hbm pa => exact absurd rfl (hhbm pa)
  | dev pa => exact absurd rfl (hdev pa)
  | pod p => exact .inl ⟨p, rfl⟩
  | host n a => exact .inr ⟨n, a, rfl⟩

/-- What follows an access that has left. -/
def State.thenFall (u : State) : Try Done := pure (.fall u)

theorem ldBody_away {s u : State} {pl : Place} {gd ga : GReg} {mo : MemOff} {sz : BitVec 2} {sx : Bool}
    (hal : (s.address ga mo sz).toNat % 2 ^ sz.toNat = 0) (hx : s.access 0 (sz = 3) (s.address ga mo sz) = .ok (pl, u)) (hpl : pl.Away) :
    Try.done (ldBody gd ga mo sz sx s) =
      Try.done (u.remote pl (s.address ga mo sz) ⟨2, .load gd sz sx, false, sz, 0, 0, 0, none, 0, true⟩ >>= State.thenFall) := by
  rw [← ea_eq_address] at hal hx ⊢
  refine (congrArg Try.done (access_bind hal hx _)).trans ?_
  rcases hpl with ⟨p, rfl⟩ | ⟨n, a, rfl⟩ <;> rfl

theorem ldroBody_away {s u : State} {pl : Place} {gd ga : GReg} {mo : MemOff} {sz : BitVec 2} {sx : Bool}
    (hal : (s.address ga mo sz).toNat % 2 ^ sz.toNat = 0) (hx : s.access 0 false (s.address ga mo sz) = .ok (pl, u)) (hpl : pl.Away)
    (hro : u.roAway (s.address ga mo sz) (2 ^ sz.toNat) = none) :
    Try.done (ldroBody gd ga mo sz sx s) =
      Try.done (u.remote pl (s.address ga mo sz) ⟨2, .ldro gd sz sx, false, sz, 0, 0, 0, none, 0, true⟩ >>= State.thenFall) := by
  rw [← ea_eq_address] at hal hx hro ⊢
  refine (congrArg Try.done (access_bind hal hx _)).trans ?_
  rcases hpl with ⟨p, rfl⟩ | ⟨n, a, rfl⟩ <;> simp only [szBytes, hro] <;> rfl

theorem stBody_away {s u : State} {pl : Place} {ga gc k : GReg} {mo : MemOff} {sz : BitVec 2}
    (hal : (s.address ga mo sz).toNat % 2 ^ sz.toNat = 0) (hx : s.access 1 (sz = 3) (s.address ga mo sz) = .ok (pl, u)) (hpl : pl.Away) :
    Try.done (stBody ga mo gc sz k s) =
      Try.done (u.remote pl (s.address ga mo sz) ⟨3, .store, true, sz, 0, s.g gc, 0, s.named k, 0, false⟩ >>= State.thenFall) := by
  rw [← ea_eq_address] at hal hx ⊢
  refine (congrArg Try.done (access_bind hal hx _)).trans ?_
  rcases hpl with ⟨p, rfl⟩ | ⟨n, a, rfl⟩ <;> rfl

theorem amoBody_away {s u : State} {pl : Place} {gd ga gb gc k : GReg} {opc : BitVec 4} {sz : BitVec 2} {qs : QReg} {scope : BitVec 2}
    (hal : (s.g ga).toNat % 2 ^ sz.toNat = 0) (hx : s.access 3 false (s.g ga) = .ok (pl, u)) (hpl : pl.Away) :
    Try.done (amoBody gd ga gb gc opc sz qs k scope s) =
      Try.done (u.remote pl (s.g ga) ⟨4, .amo gd qs sz, true, sz, opc, s.g gb, s.g gc, s.named k, scope, true⟩ >>= State.thenFall) := by
  refine (congrArg Try.done (access_bind hal hx _)).trans ?_
  rcases hpl with ⟨p, rfl⟩ | ⟨n, a, rfl⟩ <;> rfl

theorem redBody_away {s u : State} {pl : Place} {ga gb k : GReg} {opc : BitVec 4} {sz : BitVec 2} {scope : BitVec 2}
    (hal : (s.g ga).toNat % 2 ^ sz.toNat = 0) (hx : s.access 3 false (s.g ga) = .ok (pl, u)) (hpl : pl.Away) :
    Try.done (redBody ga gb opc sz k scope s) =
      Try.done (u.remote pl (s.g ga) ⟨5, .red, true, sz, opc, s.g gb, 0, s.named k, scope, false⟩ >>= State.thenFall) := by
  refine (congrArg Try.done (access_bind hal hx _)).trans ?_
  rcases hpl with ⟨p, rfl⟩ | ⟨n, a, rfl⟩ <;> rfl

/-- R117 to R121, R125: the instructions that access memory. -/
theorem memOps_cases {s : State} {motive : Instr → MemOp → Prop}
    (ld : ∀ m gd ga mo sz sx, motive (.ld m gd ga mo sz sx) ⟨m, mo.len, s.address ga mo sz, sz, 0, decide (sz = 3),
      ⟨2, .load gd sz sx, false, sz, 0, 0, 0, none, 0, true⟩⟩)
    (ldro : ∀ m gd ga mo sz sx, motive (.ldro m gd ga mo sz sx) ⟨m, mo.len, s.address ga mo sz, sz, 0, false,
      ⟨2, .ldro gd sz sx, false, sz, 0, 0, 0, none, 0, true⟩⟩)
    (st : ∀ m ga mo gc sz k, motive (.st m ga mo gc sz k) ⟨m, mo.len, s.address ga mo sz, sz, 1, decide (sz = 3),
      ⟨3, .store, true, sz, 0, s.g gc, 0, s.named k, 0, false⟩⟩)
    (amo : ∀ m gd ga gb gc opc sz qs k scope, motive (.amo m gd ga gb gc opc sz qs k scope) ⟨m, 8, s.g ga, sz, 3, false,
      ⟨4, .amo gd qs sz, true, sz, opc, s.g gb, s.g gc, s.named k, scope, true⟩⟩)
    (red : ∀ m ga gb opc sz k scope, motive (.red m ga gb opc sz k scope) ⟨m, 8, s.g ga, sz, 3, false,
      ⟨5, .red, true, sz, opc, s.g gb, 0, s.named k, scope, false⟩⟩)
    {i : Instr} {o : MemOp} (hi : memOps s i = some o) : motive i o := by
  have hall : (memOps s i).elim True (motive i) := by
    cases i
    case ld => exact ld ..
    case ldro => exact ldro ..
    case st => exact st ..
    case amo => exact amo ..
    case red => exact red ..
    all_goals exact True.intro
  rwa [hi] at hall

/-- An access that the read-only cache does not answer. -/
def State.Unanswered (u : State) (o : MemOp) : Prop := ∀ gd sz sx, o.out.kind = .ldro gd sz sx → u.roAway o.va (2 ^ o.sz.toNat) = none

/-- R119 to R123, R127: an access that is homed elsewhere and that the read-only cache does not answer comes to what its packet comes to. -/
theorem memOp_away {i : Instr} {s u : State} {o : MemOp} {pl : Place} (hi : memOps s i = some o) (hpl : pl.Away) :
    o.va.toNat % 2 ^ o.sz.toNat = 0 → s.access o.acc o.dw o.va = .ok (pl, u) → u.Unanswered o →
    ∃ body, exec i s = issue o.m o.len .plain s body ∧ body s = Try.done (u.remote pl o.va o.out >>= State.thenFall) := by
  refine memOps_cases (motive := fun i o => o.va.toNat % 2 ^ o.sz.toNat = 0 → s.access o.acc o.dw o.va = .ok (pl, u) → u.Unanswered o →
    ∃ body, exec i s = issue o.m o.len .plain s body ∧ body s = Try.done (u.remote pl o.va o.out >>= State.thenFall)) ?_ ?_ ?_ ?_ ?_ hi
  · exact fun m gd ga mo sz sx hal hx _ => ⟨_, rfl, ldBody_away hal hx hpl⟩
  · exact fun m gd ga mo sz sx hal hx hro => ⟨_, rfl, ldroBody_away hal hx hpl (hro gd sz sx rfl)⟩
  · exact fun m ga mo gc sz k hal hx _ => ⟨_, rfl, stBody_away hal hx hpl⟩
  · exact fun m gd ga gb gc opc sz qs k scope hal hx _ => ⟨_, rfl, amoBody_away hal hx hpl⟩
  · exact fun m ga gb opc sz k scope hal hx _ => ⟨_, rfl, redBody_away hal hx hpl⟩

/-- R282: no access is of the bulk class. -/
theorem memOp_out {i : Instr} {s : State} {o : MemOp} (hi : memOps s i = some o) : bulkType o.out.type = false ∧ o.out.sz = o.sz := by
  refine memOps_cases (motive := fun _ o => bulkType o.out.type = false ∧ o.out.sz = o.sz) ?_ ?_ ?_ ?_ ?_ hi
  all_goals
    intros
    exact ⟨rfl, rfl⟩

theorem take_length (l : RoLine) (va n : Nat) : (l.take va n).1.length = n := by simp [RoLine.take]

/-- R250, R266: an LDRO of memory homed elsewhere that the read-only cache answers. -/
theorem ldroBody_cached {s u : State} {gd ga : GReg} {mo : MemOff} {sz : BitVec 2} {sx : Bool} {pl : Place} {bs : List Byte}
    (hal : (s.address ga mo sz).toNat % 2 ^ sz.toNat = 0) (hx : s.access 0 false (s.address ga mo sz) = .ok (pl, u)) (hpl : pl.Away)
    (hro : u.roAway (s.address ga mo sz) (2 ^ sz.toNat) = some bs) :
    Try.done (ldroBody gd ga mo sz sx s) = .fall (s.laterG gd (extended sx bs)) := by
  obtain rfl := access_read (by decide) hx
  have hlen : bs.length = 2 ^ sz.toNat := by
    obtain ⟨l, -, rfl⟩ := Option.map_eq_some_iff.mp hro
    exact take_length ..
  rw [← ea_eq_address] at hal hx hro
  refine (congrArg Try.done (access_bind hal hx _)).trans ?_
  rw [← extend_wordOf sx hlen]
  rcases hpl with ⟨p, rfl⟩ | ⟨n, a, rfl⟩ <;> simp only [szBytes, hro] <;> rfl

/-- R121: only LDRO reads the read-only cache. -/
theorem memOp_cached {i : Instr} {s u : State} {o : MemOp} {pl : Place} (hi : memOps s i = some o) (hpl : pl.Away)
    {gd : GReg} {sz : BitVec 2} {sx : Bool} {bs : List Byte} (hal : o.va.toNat % 2 ^ o.sz.toNat = 0)
    (hx : s.access o.acc o.dw o.va = .ok (pl, u)) (hkind : o.out.kind = .ldro gd sz sx) (hro : u.roAway o.va (2 ^ o.sz.toNat) = some bs) :
    ∃ body, exec i s = issue o.m o.len .plain s body ∧ body s = .fall (s.laterG gd (extended sx bs)) := by
  revert hal hx hkind hro
  refine memOps_cases (motive := fun i o => o.va.toNat % 2 ^ o.sz.toNat = 0 → s.access o.acc o.dw o.va = .ok (pl, u) → o.out.kind = .ldro gd sz sx →
    u.roAway o.va (2 ^ o.sz.toNat) = some bs →
    ∃ body, exec i s = issue o.m o.len .plain s body ∧ body s = .fall (s.laterG gd (extended sx bs))) ?_ ?_ ?_ ?_ ?_ hi
  · exact fun m _ ga mo _ _ _ _ hk => RemKind.noConfusion hk
  · intro m gd' ga mo sz' sx' hal hx hk hro
    cases hk
    exact ⟨_, rfl, ldroBody_cached hal hx hpl hro⟩
  · exact fun m ga mo gc sz k _ _ hk => RemKind.noConfusion hk
  · exact fun m _ ga gb gc opc _ qs k scope _ _ hk => RemKind.noConfusion hk
  · exact fun m ga gb opc _ k scope _ _ hk => RemKind.noConfusion hk

/-- Settles O20: by whether the read-only cache answers and whether the series has room. -/
theorem remoteAccesses : Obligations.RemoteAccesses := by
  intro i s s1 o pl hi h hal hx hhbm hdev
  have hpl := place_away hhbm hdev
  refine ⟨fun hro hfull hwait => ?_, fun hro hwait => ?_, fun gd sz sx bs hkind hro => ?_⟩
  · obtain ⟨body, hexec, hbody⟩ := memOp_away hi hpl hal hx hro
    obtain ⟨hbulk, hsize⟩ := memOp_out hi
    obtain ⟨u, hu, hleave⟩ := remote_leaves (congrArg Ctx.id (access_homes hx).cx) hsize hfull hwait hbulk
    rw [hu] at hbody
    exact falls_plain hexec h hbody hleave
  · obtain ⟨body, hexec, hbody⟩ := memOp_away hi hpl hal hx hro
    rw [remote_holds hwait] at hbody
    exact stalls_of hexec h hbody
  · obtain ⟨body, hexec, hbody⟩ := memOp_cached hi hpl hal hx hkind hro
    exact falls_plain hexec h hbody (laterG_owes ..)

end Sys2Proof.Machine
end

section
/-! ## The read-only path and FENCE (R121, R129, R266, R267, R418) -/

-- For the memory limit of the check: proofs are elaborated and checked one after another.
set_option Elab.async false

namespace Sys2Proof.Machine

/-! ### Reads of a cached line -/

/-- R418: the k-th byte of a read at an address lies in a word that is poisoned in the line. -/
def RoLine.Bad (l : RoLine) (va k : Nat) : Prop := (va + k) / 8 * 8 ∈ l.bad

theorem take_getD (l : RoLine) (va n k : Nat) (h : k < n) :
    (l.Bad va k → (l.take va n).1.getD k 0 = 0) ∧ (¬ l.Bad va k → (l.take va n).1.getD k 0 = l.bytes.getD (va + k - l.va) 0) := by
  have hbyte : (l.take va n).1.getD k 0 = if l.bad.contains ((va + k) / 8 * 8) then 0 else l.bytes.getD (va + k - l.va) 0 := by
    rw [List.getD_eq_getElem _ _ (by rw [take_length]; exact h)]
    simp [RoLine.take]
  rw [hbyte]
  exact ⟨fun hb => if_pos (List.contains_iff_mem.mpr hb), fun hb => if_neg fun hc => hb (List.contains_iff_mem.mp hc)⟩

theorem take_good {l : RoLine} {va n : Nat} (h : ∀ k, k < n → ¬ l.Bad va k) : (l.take va n).2 = none := by
  simp only [RoLine.take, Option.map_eq_none_iff, List.find?_range_eq_none]
  intro k hk
  simpa [RoLine.Bad] using h k hk

theorem take_bad {l : RoLine} {va n k : Nat} (hk : k < n) (hb : l.Bad va k) (hfirst : ∀ j, j < k → ¬ l.Bad va j) :
    (l.take va n).2 = some ((va + k) / 8 * 8) := by
  have hfind : (List.range n).find? (fun i => l.bad.contains ((va + i) / 8 * 8)) = some k := by
    simp only [List.find?_range_eq_some]
    refine ⟨?_, ?_, ?_⟩
    · simpa [RoLine.Bad] using hb
    · simpa using hk
    · intro j hj
      simpa [RoLine.Bad] using hfirst j hj
  simp only [RoLine.take, hfind, Option.map_some]

/-! ### Where the line comes from -/

/-- R266: a line that the read-only cache of the core holds, and that the context may still read. -/
def State.CachedLine (s : State) (va n : Nat) (l : RoLine) : Prop :=
  l ∈ s.myCore.ro ∧ l.pctx = s.cx.pctx ∧ s.cx.id.slot ∈ l.slots ∧ l.va ≤ va ∧ va + n ≤ l.va + l.bytes.length

/-- R266, R267: the sector as its home holds it. -/
def State.HomeLine (s : State) (va pa : Nat) (l : RoLine) : Prop :=
  l.va = va / 64 * 64 ∧ l.bytes = s.homeBytes s.cx.prot.keyslot (pa / 64 * 64) 64 ∧
    ∀ w, w ∈ l.bad ↔ ∃ h ∈ s.homePoison, pa / 64 * 64 ≤ h ∧ h < pa / 64 * 64 + 64 ∧ w = l.va + (h - pa / 64 * 64)

theorem roFind_cached {s : State} {va : Word} {n : Nat} {l : RoLine} (h : s.roFind va n = some l) : s.CachedLine va.toNat n l := by
  have hmem := List.mem_of_find?_eq_some h
  have hp := List.find?_some h
  simp only [Bool.and_eq_true, decide_eq_true_eq, List.contains_iff_mem] at hp
  obtain ⟨⟨⟨hctx, hslot⟩, hlow⟩, hhigh⟩ := hp
  exact ⟨hmem, hctx, hslot, hlow, hhigh⟩

theorem roFill_home (s : State) (va : Word) (pa : Nat) : s.HomeLine va.toNat pa (s.roFill va pa).1 := by
  refine ⟨rfl, rfl, fun w => ?_⟩
  simp only [State.roFill, List.mem_map, List.mem_filter, Bool.and_eq_true, decide_eq_true_eq]
  constructor
  · rintro ⟨h, ⟨hmem, hlow, hhigh⟩, rfl⟩
    exact ⟨h, hmem, hlow, hhigh, rfl⟩
  · rintro ⟨h, hmem, hlow, hhigh, rfl⟩
    exact ⟨h, ⟨hmem, hlow, hhigh⟩, rfl⟩

/-- R418: the first poisoned word of a read through the read-only cache is consumed. -/
def State.roConsumed (t : State) (pa : Nat) : Option Nat → State
  | some w => (t.ueRecord (pa / 8 * 8)).contain 1 0 false (natWord w)
  | none => t

/-- R266: the line that a read through the read-only cache takes its bytes from: one that is cached, or the home copy. -/
def State.roSource (s : State) (va : Word) (pa n : Nat) : RoLine × State :=
  match (if Config.choice s.issued 2 = 0 then none else s.roFind va n) with
  | some l => (l, s)
  | none => s.roFill va pa

theorem roSource_line (s : State) (va : Word) (pa n : Nat) :
    s.CachedLine va.toNat n (s.roSource va pa n).1 ∨ s.HomeLine va.toNat pa (s.roSource va pa n).1 := by
  unfold State.roSource
  split
  · next l hl =>
    split at hl
    · cases hl
    · exact .inl (roFind_cached hl)
  · exact .inr (roFill_home s va pa)

theorem roSource_cores (s : State) (va : Word) (pa n : Nat) : (s.roSource va pa n).2 = { s with cores := (s.roSource va pa n).2.cores } := by
  unfold State.roSource
  split <;> rfl

/-- R266, R418: a read through the read-only cache. -/
theorem roRead_eq (s : State) (va : Word) (pa n : Nat) : s.roRead va pa n = (((s.roSource va pa n).1.take va.toNat n).1,
    (s.roSource va pa n).2.roConsumed pa ((s.roSource va pa n).1.take va.toNat n).2) := by
  change (match s.roSource va pa n with
    | (l, t) => match l.take va.toNat n with
      | (bs, bad) => match bad with
        | some w => (bs, (t.ueRecord (pa / 8 * 8)).contain 1 0 false (natWord w))
        | none => (bs, t)) = _
  generalize s.roSource va pa n = x
  obtain ⟨l, t⟩ := x
  dsimp only
  cases (l.take va.toNat n).2 <;> rfl

theorem roRead_spec (s : State) (va : Word) (pa n : Nat) : ∃ (l : RoLine) (t : State), (s.CachedLine va.toNat n l ∨ s.HomeLine va.toNat pa l) ∧
    t = { s with cores := t.cores } ∧ s.roRead va pa n = ((l.take va.toNat n).1, t.roConsumed pa (l.take va.toNat n).2) :=
  ⟨(s.roSource va pa n).1, (s.roSource va pa n).2, roSource_line s va pa n, roSource_cores s va pa n, roRead_eq s va pa n⟩

theorem ldroBody_hbm {s u : State} {gd ga : GReg} {mo : MemOff} {sz : BitVec 2} {sx : Bool} {pa : Nat}
    (hal : (s.address ga mo sz).toNat % 2 ^ sz.toNat = 0) (hx : s.access 0 false (s.address ga mo sz) = .ok (.hbm pa, u)) :
    Try.done (ldroBody gd ga mo sz sx s) = .fall ((s.roRead (s.address ga mo sz) pa (2 ^ sz.toNat)).2.laterG gd
      (extend sz sx (wordOf (s.roRead (s.address ga mo sz) pa (2 ^ sz.toNat)).1))) := by
  obtain rfl := access_read (by decide) hx
  rw [← ea_eq_address] at hal hx ⊢
  exact congrArg Try.done (access_bind hal hx _)

/-- R418: what the consumption of a poisoned word by LDRO leaves of its context. -/
theorem ueContain_cx {s t : State} (ht : t = { s with cores := t.cores }) (hrun : s.cx.status = .running) (pa : Nat) (va : Word) :
    ((t.ueRecord pa).contain 1 0 false va).cx = { s.cx with errs := s.cx.errs ++ [⟨17, 1, 0, false, false, s.cx.priv, va⟩] } := by
  have hcx : t.cx = s.cx := by rw [ht]
  have hunparked : t.cx.Unparked := fun _ _ _ _ he => Status.noConfusion ((hcx ▸ hrun).symm.trans he)
  have hue : (t.ueRecord pa).cx = s.cx := (postHealth_keepsCx _ _ _ _ _ _ _ hunparked).trans hcx
  change { (t.ueRecord pa).cx with errs := (t.ueRecord pa).cx.errs ++ [(⟨17, 1, 0, false, false, (t.ueRecord pa).cx.priv, va⟩ : FaultRec)] } = _
  rw [hue]

/-- R121: a read through the read-only cache that consumes no error owes its value and fills at most the cache. -/
theorem laterG_filled {s t : State} (ht : t = { s with cores := t.cores }) (gd : GReg) (v : Word) :
    t.laterG gd v = { s with cores := (t.laterG gd v).cores, cx := { s.cx with pend := s.cx.pend ++ gRes gd v } } := by
  generalize t.cores = c at ht
  subst ht
  rw [laterG_owes]

/-- R121, R266, R267, R418: LDRO of HBM of the package. -/
theorem ldro_hbm {s s1 : State} {m : Mods} {gd ga : GReg} {mo : MemOff} {sz : BitVec 2} {sx : Bool} {pa : Nat} (h : s.Executes m .plain)
    (hal : (s.address ga mo sz).toNat % 2 ^ sz.toNat = 0) (hx : s.access 0 false (s.address ga mo sz) = .ok (.hbm pa, s1)) :
    let va := (s.address ga mo sz).toNat
    Falls (.ldro m gd ga mo sz sx) s mo.len m.sw (fun u =>
      ∃ l : RoLine, (s.CachedLine va (2 ^ sz.toNat) l ∨ s.HomeLine va pa l) ∧
        ∃ bs : List Byte, bs.length = 2 ^ sz.toNat ∧
          (∀ k, k < bs.length → (l.Bad va k → bs.getD k 0 = 0) ∧ (¬ l.Bad va k → bs.getD k 0 = l.bytes.getD (va + k - l.va) 0)) ∧
          ((∀ k, k < bs.length → ¬ l.Bad va k) → u = { s with cores := u.cores, cx := { s.cx with pend := s.cx.pend ++ gRes gd (extended sx bs) } }) ∧
          (∀ k, k < bs.length → l.Bad va k → (∀ j, j < k → ¬ l.Bad va j) →
            u.cx = { s.cx with
              errs := s.cx.errs ++ [⟨17, 1, 0, false, false, s.cx.priv, natWord ((va + k) / 8 * 8)⟩]
              pend := s.cx.pend ++ gRes gd (extended sx bs) })) := by
  intro va
  obtain ⟨l, t, hline, ht, hread⟩ := roRead_spec s (s.address ga mo sz) pa (2 ^ sz.toNat)
  have hlen := take_length l va (2 ^ sz.toNat)
  have hrun : s.cx.status = .running := by obtain ⟨hrun, -⟩ := h; exact hrun
  have hbody : Try.done (ldroBody gd ga mo sz sx s) =
      .fall ((t.roConsumed pa (l.take va (2 ^ sz.toNat)).2).laterG gd (extended sx (l.take va (2 ^ sz.toNat)).1)) := by
    rw [ldroBody_hbm hal hx, hread, extend_wordOf sx hlen]
  refine falls_plain (i := .ldro m gd ga mo sz sx) rfl h hbody ⟨l, hline, (l.take va (2 ^ sz.toNat)).1, hlen, ?_, ?_, ?_⟩
  · exact fun k hk => take_getD l va _ k (hlen ▸ hk)
  · intro hgood
    rw [take_good fun k hk => hgood k (hlen.symm ▸ hk)]
    exact laterG_filled ht ..
  · intro k hk hb hfirst
    rw [take_bad (hlen ▸ hk) hb hfirst]
    refine (congrArg State.cx (laterG_owes ..)).trans ?_
    rw [State.roConsumed, ueContain_cx ht hrun]

/-! ### ROINV and FENCE -/

/-- R121: ROINV. -/
theorem roClear_spec (s : State) : (s.roClear.core s.cx.id.coreId = { s.myCore with ro := [] }) ∧
    ∀ k : CoreId, k ≠ s.cx.id.coreId → s.roClear.core k = s.core k := by
  have hid : s.myCore.id = s.cx.id.coreId := core_id ..
  refine ⟨?_, fun k hk => ?_⟩
  · rw [State.roClear, core_setCore, if_pos hid]
  · rw [State.roClear, core_setCore, if_neg (fun he => hk (he.symm.trans hid))]

/-- An instruction that waits for its conditions and completes; its kind does not end the run. -/
theorem falls_wait {i : Instr} {s : State} {m : Mods} {len : Nat} {body : State → Done} {E : State → Prop}
    (hi : exec i s = issue m len .wait s body) (h : s.Executes m .wait) {u : State} (hb : body s = .fall u) (hE : E u) :
    Falls i s len m.sw E := by simpa [Kind.wait] using falls_of hi h hb hE

/-- R129: the bytes that a FENCE leaves unwritten are those that its scope does not cover. -/
theorem fenceWrite_dirty (s : State) (scope : BitVec 2) (a : Nat) (b : Byte × Bool) (o : Nat) :
    (a, b, o) ∈ (s.fenceWrite scope).dirty ↔ (a, b, o) ∈ s.dirty ∧
    ¬ ((o = coreNum s.cx.id.coreId ∨ o = coreNum s.cx.id.coreId + 1000 ∨ o ∈ s.cx.wrote) ∧
      (scope = 1 → homeDie a = s.cx.id.die ∧ clusterOf (homeSlice a) = clusterOf s.cx.id.core)) := by
  simp only [State.fenceWrite, State.writeBack, List.mem_filter]
  refine and_congr_right fun _ => ?_
  rw [Bool.not_eq_true', ← Bool.not_eq_true]
  refine not_congr ?_
  simp [Classical.or_iff_not_imp_left]

/-- R67: no posted count is awaited. -/
theorem owes_of_posted {c : Ctx} (h : c.postedPod = 0 ∧ c.postedHost = 0) (wt : BitVec 2) : c.owes wt = false := by
  simp [Ctx.owes, h.1, h.2]

/-- Settles O21: LDRO by the line that it reads, ROINV by the core's record, FENCE by what it writes back. -/
theorem readOnlyPathAndFence : Obligations.ReadOnlyPathAndFence := by
  refine ⟨?_, ?_, ?_⟩
  · intro s s1 m gd ga mo sz sx pa h hal hx
    exact ldro_hbm h hal hx
  · intro s m h
    exact falls_plain (i := .roinv m) rfl h rfl ⟨rfl, roClear_spec s⟩
  · intro s m scope h hr hposted halog
    have hbody := fenceBody_waitless hr fun h2 => owes_of_posted (hposted h2) 3
    rw [if_neg (by simp [halog])] at hbody
    exact falls_wait (i := .fence m scope) rfl h hbody ⟨fenceWrite_dies s scope, fenceWrite_dirty s scope⟩

end Sys2Proof.Machine
end

section
/-! ## Raises of counters (R216, R219, R310, R313, R314) -/

-- For the memory limit of the check: proofs are elaborated and checked one after another.
set_option Elab.async false

namespace Sys2Proof.Machine

/-! ### What a message leaves unchanged -/

/-- A state that differs only in what is on its way and in the numbers of the series. -/
def State.SameButSent (s u : State) : Prop :=
  u = { s with cores := u.cores, net := u.net, outbox := u.outbox, unacked := u.unacked, backlog := u.backlog }

namespace State.SameButSent

variable {s u v : State}

theorem refl (s : State) : s.SameButSent s := rfl

theorem trans (h : s.SameButSent u) (k : u.SameButSent v) : s.SameButSent v := by
  unfold State.SameButSent at *
  rw [k, h]

end State.SameButSent

theorem send_sameButSent (s : State) (p : Packet) : s.SameButSent (s.send p) := by
  unfold State.send
  split <;> rfl

theorem sendNumbered_sameButSent (s : State) (p : Packet) : s.SameButSent (s.sendNumbered p) := by
  unfold State.sendNumbered
  split
  · exact send_sameButSent s p
  · simp only
    split
    · exact (show s.SameButSent (s.setCore _) from rfl).trans ((send_sameButSent _ _).trans rfl)
    · rfl

/-- R219, R310: the contexts and the waits that a raise meets. -/
theorem meetWaits_frame (s : State) (die : BitVec 2) (idx : BitVec 16) (v : BitVec 48) :
    let u := s.meetWaits die idx v
    u = { s with ctWaits := u.ctWaits, cores := u.cores, net := u.net, outbox := u.outbox, unacked := u.unacked, backlog := u.backlog
                 cx := s.cx.metBy s die idx v, ctxs := s.ctxs.map (Ctx.metBy s die idx v) } := by
  intro u
  have hsent : State.SameButSent { s with cx := s.cx.metBy s die idx v, ctxs := s.ctxs.map (Ctx.metBy s die idx v)
                                          ctWaits := s.ctWaits.filter (fun w => !meets s die idx v w.ctr w.thr) } u :=
    List.foldlRecOn _ _ (.refl _) fun t ht w _ => ht.trans (sendNumbered_sameButSent t _)
  unfold State.SameButSent at hsent
  rw [hsent]

/-! ### Sorted lists -/

theorem mem_insertBy {α : Type} {le : α → α → Bool} {x y : α} {l : List α} : y ∈ insertBy le x l ↔ y = x ∨ y ∈ l := by
  induction l with
  | nil => simp [insertBy]
  | cons z l ih =>
    rw [insertBy]
    split
    · simp
    · simp only [List.mem_cons, ih]
      exact or_left_comm

theorem mem_sortBy {α : Type} {le : α → α → Bool} {y : α} {l : List α} : y ∈ sortBy le l ↔ y ∈ l := by
  induction l with
  | nil => simp [sortBy]
  | cons x l ih => rw [sortBy, mem_insertBy, ih, List.mem_cons]

/-! ### Firings -/

/-- Firings that have been queued by a die since a state: not begun, with numbers of their own. -/
def State.NewFirings (s : State) (die : BitVec 2) (fs : List Firing) : Prop := ∀ f ∈ fs, f.die = die ∧ f.begun = false ∧ s.fresh ≤ f.id

/-- A firing as it is queued. -/
def newFiring (id : Nat) (die : BitVec 2) (e : Entry) : Firing :=
  { id := id, die := die, e := e, begun := false, sent := none, made := 0, stall := none, onEntry := none, refused := false, fin := none, lvl := none }

/-- R313, R314: a state after firings, with its entries, what it goes on to raise and its next number. -/
def State.fired (s : State) (es : List Entry) (fs : List Firing) (rs : List Raising) (n : Nat) : State :=
  { s with entries := es, firings := s.firings ++ fs, raising := s.raising ++ rs, fresh := n }

/-- R314: firings are queued, and their numbers taken. -/
def State.queued (s : State) (fs : List Firing) (n : Nat) : State := { s with firings := s.firings ++ fs, fresh := n }

/-- R314: the firings of entries are queued in their order. -/
theorem queueFirings_spec (die : BitVec 2) (es : List Entry) (s : State) : ∃ fs n,
    s.queueFirings die es = s.queued fs n ∧ fs.map Firing.e = es ∧ s.NewFirings die fs := by
  induction es generalizing s with
  | nil => exact ⟨[], s.fresh, by rw [State.queued, List.append_nil]; rfl, rfl, fun f hf => absurd hf List.not_mem_nil⟩
  | cons e es ih =>
    obtain ⟨fs, n, hframe, hes, hnew⟩ := ih (s.queued [newFiring s.fresh die e] (s.fresh + 1))
    refine ⟨newFiring s.fresh die e :: fs, n, ?_, congrArg (e :: ·) hes, ?_⟩
    · rw [State.queued, List.append_cons]
      exact hframe
    · intro f hf
      rcases List.mem_cons.mp hf with rfl | hf
      · exact ⟨rfl, rfl, le_refl _⟩
      · obtain ⟨hdie, hbegun, hid⟩ := hnew f hf
        exact ⟨hdie, hbegun, (Nat.le_succ _).trans hid⟩

/-- R313, R314: the firings that a die queues at once. -/
def State.firesNow (s : State) (die : BitVec 2) (idx : BitVec 16) (low : BitVec 48) (ids : List Word) : List (BitVec 48 × Entry) :=
  (s.dueOrder die idx low ids).take (s.firingRoom die)

theorem firesNow_entry {s : State} {die : BitVec 2} {idx : BitVec 16} {low : BitVec 48} {ids : List Word} {x : BitVec 48 × Entry}
    (h : x ∈ s.firesNow die idx low ids) : x.2 ∈ s.entries := by
  have hdue := List.mem_of_mem_take h
  simp only [State.dueOrder, mem_sortBy, List.mem_flatMap, List.mem_filter, List.mem_map] at hdue
  obtain ⟨e, ⟨he, -⟩, t, -, rfl⟩ := hdue
  exact he

/-- R312: the entries after those firings. -/
def State.entriesFired (s : State) (die : BitVec 2) (idx : BitVec 16) (low : BitVec 48) (ids : List Word) : List Entry :=
  s.entries.map fun e => e.after ((s.firesNow die idx low ids).filter fun x => x.2.id = e.id).length

/-- R313: the entries whose thresholds a raise has reached and that its firings leave armed. -/
def State.stillDue (s : State) (die : BitVec 2) (idx : BitVec 16) (ids : List Word) : List Word :=
  (s.entries.filter (fun e => ids.contains e.id && e.watches s.pkg die idx && reached (s.cell die idx) e.thr)).map (fun e => e.id)

theorem mem_stillDue {s : State} {die : BitVec 2} {idx : BitVec 16} {ids : List Word} {e : Entry} (he : e ∈ s.entries) (hid : e.id ∈ ids)
    (hw : e.watches s.pkg die idx = true) (hr : reached (s.cell die idx) e.thr = true) : e.id ∈ s.stillDue die idx ids := by
  refine List.mem_map.mpr ⟨e, List.mem_filter.mpr ⟨he, ?_⟩, rfl⟩
  rw [hw, hr, List.contains_iff_mem.mpr hid]
  rfl

/-- R313, R314: the firings that are queued, and the raising that goes on where the queue had no room. -/
theorem fireDue_spec (s : State) (die : BitVec 2) (idx : BitVec 16) (low : BitVec 48) (ids : List Word) : ∃ fs rs n,
    s.fireDue die idx low ids = s.fired (s.entriesFired die idx low ids) fs rs n ∧
    fs.map Firing.e = (s.firesNow die idx low ids).map Prod.snd ∧ s.NewFirings die fs ∧
    ∀ e ∈ s.entriesFired die idx low ids, e.id ∈ ids → e.watches s.pkg die idx = true → reached (s.cell die idx) e.thr = true →
      ∃ r ∈ rs, r.die = die ∧ r.idx = idx ∧ e.id ∈ r.ids := by
  let s0 : State := { s with entries := s.entriesFired die idx low ids }
  obtain ⟨fs, n, hframe, hes, hnew⟩ := queueFirings_spec die ((s.firesNow die idx low ids).map Prod.snd) s0
  let rest := s0.stillDue die idx ids
  have hfire : s.fireDue die idx low ids = if rest.isEmpty then s0.queued fs n else
      { s0.queued fs n with raising := s.raising ++ [⟨die, idx, low, rest⟩] } := by
    have hdef : s.fireDue die idx low ids = (fun t : State => if (t.stillDue die idx ids).isEmpty then t else
        { t with raising := t.raising ++ [⟨die, idx, low, t.stillDue die idx ids⟩] })
        (s0.queueFirings die ((s.firesNow die idx low ids).map Prod.snd)) := rfl
    rw [hdef, hframe]
    rfl
  by_cases hempty : rest.isEmpty = true
  · refine ⟨fs, [], n, ?_, hes, hnew, fun e he hid hw hr => ?_⟩
    · rw [hfire, if_pos hempty, State.fired, List.append_nil]
      rfl
    · have hmem : e.id ∈ rest := mem_stillDue (s := s0) he hid hw hr
      rw [List.isEmpty_iff.mp hempty] at hmem
      exact absurd hmem List.not_mem_nil
  · exact ⟨fs, [⟨die, idx, low, rest⟩], n, hfire.trans (if_neg hempty), hes, hnew,
      fun e he hid hw hr => ⟨_, List.mem_singleton_self _, rfl, rfl, mem_stillDue (s := s0) he hid hw hr⟩⟩

/-- R313, R314: an entry that is due has fired, or is about to while the queue is full. -/
theorem fireDue_due {s : State} {die : BitVec 2} {idx : BitVec 16} {low : BitVec 48} {ids : List Word} {e : Entry} (he : e ∈ s.entries)
    (hone : ∀ x ∈ s.entries, x.id = e.id → x = e) (hid : e.id ∈ ids) (hw : e.watches s.pkg die idx = true) (hr : reached (s.cell die idx) e.thr = true) :
    (∃ f ∈ (s.fireDue die idx low ids).firings, f.e = e ∧ s.fresh ≤ f.id) ∨
      ∃ r ∈ (s.fireDue die idx low ids).raising, r.die = die ∧ r.idx = idx ∧ e.id ∈ r.ids := by
  obtain ⟨fs, rs, n, hframe, hes, hnew, hrest⟩ := fireDue_spec s die idx low ids
  rw [hframe]
  by_cases hgo : ∃ x ∈ s.firesNow die idx low ids, x.2 = e
  · have hmem : e ∈ fs.map Firing.e := by
      rw [hes]
      exact List.mem_map.mpr hgo
    obtain ⟨f, hf, hfe⟩ := List.mem_map.mp hmem
    obtain ⟨-, -, hfresh⟩ := hnew f hf
    exact .inl ⟨f, List.mem_append_right _ hf, hfe, hfresh⟩
  · have hnone : (s.firesNow die idx low ids).filter (fun x => x.2.id = e.id) = [] :=
      List.filter_eq_nil_iff.mpr fun x hx hxe => hgo ⟨x, hx, hone _ (firesNow_entry hx) (of_decide_eq_true hxe)⟩
    have hkept : e ∈ s.entriesFired die idx low ids := by
      refine List.mem_map.mpr ⟨e, he, ?_⟩
      rw [hnone]
      rfl
    obtain ⟨r, hmem, hr⟩ := hrest e hkept hid hw hr
    exact .inr ⟨r, List.mem_append_right _ hmem, hr⟩

/-! ### A raise -/

/-- R310: what a raise finds where its firings begin: the waits that it meets have heard of it, and the cell has risen. -/
def State.risen (s : State) (die : BitVec 2) (idx : BitVec 16) (amt : BitVec 48) : State :=
  { s.meetWaits die idx (s.cell die idx + amt) with ctrs := tset 0 s.ctrs (cellKey die idx) (s.cell die idx + amt) }

theorem risen_cell (s : State) (die : BitVec 2) (idx : BitVec 16) (amt : BitVec 48) : (s.risen die idx amt).cell die idx = s.cell die idx + amt :=
  cell_setCell_same s die idx _

theorem risen_frame (s : State) (die : BitVec 2) (idx : BitVec 16) (amt : BitVec 48) :
    let u := s.risen die idx amt
    u = { s with ctrs := u.ctrs, ctWaits := u.ctWaits, cores := u.cores, net := u.net, outbox := u.outbox, unacked := u.unacked, backlog := u.backlog
                 cx := s.cx.metBy s die idx (s.cell die idx + amt), ctxs := s.ctxs.map (Ctx.metBy s die idx (s.cell die idx + amt)) } := by
  have hframe := meetWaits_frame s die idx (s.cell die idx + amt)
  simp only [State.risen]
  generalize s.meetWaits die idx (s.cell die idx + amt) = w at hframe
  rw [hframe]

/-- R310, R313: the thresholds that a raise may reach. -/
def State.armedBelow (s : State) (die : BitVec 2) (idx : BitVec 16) : List Word :=
  (s.entries.filter (fun e => e.watches s.pkg die idx && !reached (s.cell die idx) e.thr)).map (fun e => e.id)

theorem applyRaise_eq (s : State) (die : BitVec 2) (idx : BitVec 16) (amt : BitVec 48) :
    s.applyRaise die idx amt = (s.risen die idx amt).fireDue die idx (s.cell die idx) (s.armedBelow die idx) := rfl

/-- R216, R310, R313, R314: a raise that a Vat applies. -/
theorem applyRaise_raised (s : State) (die : BitVec 2) (idx : BitVec 16) (amt : BitVec 48) : s.Raised die idx amt (s.applyRaise die idx amt) := by
  have hcell := risen_cell s die idx amt
  have hother : ∀ d k, (d, k) ≠ (die, idx) → (s.risen die idx amt).cell d k = s.cell d k := fun d k h => cell_setCell_other s _ h
  have hw := risen_frame s die idx amt
  rw [applyRaise_eq]
  simp only at hw
  generalize s.risen die idx amt = w at hcell hother hw
  obtain ⟨fs, rs, n, hfire, -, hnew, -⟩ := fireDue_spec w die idx (s.cell die idx) (s.armedBelow die idx)
  have hfresh : w.fresh = s.fresh := by rw [hw]
  have hentries : w.entries = s.entries := by rw [hw]
  have hfirings : w.firings = s.firings := by rw [hw]
  have hpkg : w.pkg = s.pkg := by rw [hw]
  refine ⟨?_, ?_, ?_, ?_, ?_⟩
  · rw [hfire, hw]
    rfl
  · rw [hfire]
    exact hcell
  · rw [hfire]
    exact hother
  · refine ⟨fs, ?_, ?_⟩
    · rw [hfire, ← hfirings]
      rfl
    · rw [State.NewFirings, hfresh] at hnew
      exact hnew
  · intro e he hone hwatch hlow hhigh
    have hid : e.id ∈ s.armedBelow die idx := List.mem_map.mpr ⟨e, List.mem_filter.mpr ⟨he, by simp [hwatch, hlow]⟩, rfl⟩
    rw [← hfresh]
    exact fireDue_due (by rw [hentries]; exact he) (by rw [hentries]; exact hone) hid (by rw [hpkg]; exact hwatch) (by rw [hcell]; exact hhigh)

/-- R310, R314: a raise of a cell for which no contribution is held, by whether its Vat accepts it. -/
theorem raiseLocal_accepted {s : State} {die : BitVec 2} {idx : BitVec 16} (h : s.Accepts die idx) (amt : BitVec 48) :
    s.raiseLocal die idx amt = s.applyRaise die idx amt := by
  obtain ⟨hroom, hfree, hheld⟩ := h
  have hcell : s.raiseCell die idx amt = s.applyRaise die idx amt := by rw [State.raiseCell, if_pos (by simp [hroom, hfree])]
  obtain ⟨-, -, -, -, hdie⟩ := applyRaise_store s die idx amt
  rw [State.raiseLocal, hcell]
  exact applyHeld_none (by rw [hdie]; exact hheld) _

theorem raiseLocal_refused {s : State} {die : BitVec 2} {idx : BitVec 16} (h : ¬ (s.raisable die idx = true ∧ s.cellBusy die idx = false))
    (hheld : ∀ x ∈ (s.die die).held, x.con.idx ≠ idx) (amt : BitVec 48) :
    s.raiseLocal die idx amt = { s with heldRaises := s.heldRaises ++ [⟨die, idx, amt⟩] } := by
  have hcell : s.raiseCell die idx amt = { s with heldRaises := s.heldRaises ++ [⟨die, idx, amt⟩] } := by
    rw [State.raiseCell, if_neg (by simpa using h)]
  rw [State.raiseLocal, hcell]
  exact applyHeld_none (s := { s with heldRaises := s.heldRaises ++ [⟨die, idx, amt⟩] }) hheld _

end Sys2Proof.Machine
end

section
/-! ## CTADD, CTRD and CTWAIT (R124, R171, R217 to R219, R271, R309) -/

-- For the memory limit of the check: proofs are elaborated and checked one after another.
set_option Elab.async false

namespace Sys2Proof.Machine

/-! ### Messages of an instruction -/

/-- R230, R290: a packet is on its way to another package, and kept until it is accepted. -/
def State.kept (s : State) (p : Packet) (cs : List CoreSt) : State :=
  { s with cores := cs, outbox := s.outbox ++ [p], unacked := s.unacked ++ [⟨p, s.time, false, false, s.time, 20000, s.sentBy p, none⟩] }

theorem sendKept_eq {s : State} {q : Packet} (h : q.dpkg ≠ s.pkg) : s.sendKept q = s.kept q s.cores := by
  rw [State.sendKept, State.send, if_neg h]
  rfl

/-- R230, R290: a packet whose series has room is sent, and kept until it is accepted. -/
theorem sendNumbered_kept {s : State} {p : Packet} (hpkg : p.dpkg ≠ s.pkg) (hwait : s.mustWait p.dpkg p.ddie = false) (hbulk : bulkType p.type = false)
    (hsrc : (⟨p.sdie, p.score⟩ : CoreId) = s.cx.id.coreId) (hsag : p.sag = s.cx.id.slot.setWidth 4) :
    ∃ n, s.sendNumbered p = s.kept { p with seq := n } (s.sendNumbered p).cores := by
  have hroom := seqRoom_of_mustWait hwait hpkg hbulk hsrc hsag rfl rfl
  obtain ⟨c, hsent⟩ : ∃ c, s.sendNumbered p = (s.setCore c).sendKept { p with seq := tget 0 (s.core ⟨p.sdie, p.score⟩).seq (seriesOf p) } :=
    ⟨_, (if_neg hpkg).trans (if_pos ((seqRoom_congr rfl rfl rfl rfl rfl rfl).trans hroom))⟩
  have hkept := sendKept_eq (s := s.setCore c) (q := { p with seq := tget 0 (s.core ⟨p.sdie, p.score⟩).seq (seriesOf p) }) hpkg
  rw [hkept] at hsent
  refine ⟨tget 0 (s.core ⟨p.sdie, p.score⟩).seq (seriesOf p), ?_⟩
  rw [hsent]
  rfl

/-- R261: the entry of a question in the list of outstanding accesses. -/
def State.asked (s : State) (pkg : BitVec 12) (die : BitVec 2) (kind : RemKind) : RemAcc :=
  { req := s.fresh, src := s.cx.id, seq := 0, dpkg := pkg, ddie := die, host := false, counted := false, kind := kind, opc := 0, va := 0, opnd := 0
    ctr := none, sys := false, engs := [], sz := 0, poison := false, inRun := kind ≠ .poll && kind ≠ .gather, region := s.cx.region, pctx := s.cx.pctx
    inv := s.issuer.inv, ph := s.issuer.ph }

/-- R261: the packet that carries a question, before it has its number. -/
def State.askPacket (s : State) (pkg : BitVec 12) (die : BitVec 2) (q : Query) : Packet :=
  mkPacket s 7 pkg die 255 s.cx.id.coreId (s.cx.id.slot.setWidth 4) (.prm (.ask s.cx.id s.pkg s.fresh q))

/-- R53, R261: a question of the issuing context is asked where its series has room. -/
theorem question_asks {s : State} {pkg : BitVec 12} {die : BitVec 2} {q : Query} {kind : RemKind} (hpkg : pkg ≠ s.pkg) (hwait : s.mustWait pkg die = false) :
    ∃ u, s.question pkg die q kind = .ok u ∧ s.Asks pkg die q kind u := by
  have hsend : s.question pkg die q kind = .ok ((s.listing s.cx (s.asked pkg die kind)).sendNumbered (s.askPacket pkg die q)) :=
    if_neg (by rw [hwait]; decide)
  refine ⟨_, hsend, s.asked pkg die kind, rfl, rfl, rfl, rfl, (Bool.decide_and ..).symm, ?_⟩
  obtain ⟨n, hsent⟩ := sendNumbered_kept (s := s.listing s.cx (s.asked pkg die kind)) (p := s.askPacket pkg die q) hpkg hwait rfl rfl rfl
  exact ⟨_, rfl, rfl, rfl, rfl, rfl, hsent⟩

theorem question_holds {s : State} {pkg : BitVec 12} {die : BitVec 2} {q : Query} {kind : RemKind} (hwait : s.mustWait pkg die = true) :
    s.question pkg die q kind = .error (.hold s) := if_pos hwait

/-! ### The checks -/

theorem ctrNeed_passes {s : State} {c : Word} (h : ctrOk s s.cx.prot c = true) : s.ctrNeed c = .ok () := need_passes h 3
theorem ctrNeed_fails {s : State} {c : Word} (h : ctrOk s s.cx.prot c = false) :
    s.ctrNeed c = .error (.raise ⟨8, 3, 0, false, false, s.cx.priv, s.cx.pc⟩ s) := need_fails (by simp [h]) 3

theorem raiseAmount_eq (v : Word) : raiseAmount v = v.setWidth 48 := by
  apply BitVec.eq_of_toNat_eq
  simp [raiseAmount, fld]

/-! ### CTADD -/

/-- R217: the amount that CTADD names. -/
def State.ctAmount (s : State) : Src → BitVec 48
  | .reg r => (s.g r).setWidth 48
  | .imm x => x.setWidth 48

theorem ctaddBody_eq {s : State} {m : Mods} {gc : GReg} {v : Src} {scope : BitVec 2} : ∃ body, exec (.ctadd m gc v scope) s = issue m v.len .plain s body ∧
    (ctrOk s s.cx.prot (s.g gc) = false → body s = .raise ⟨8, 3, 0, false, false, s.cx.priv, s.cx.pc⟩ s) ∧
    (ctrOk s s.cx.prot (s.g gc) = true → body s = if s.mustWait (ctPkg (s.g gc)) (ctDie (s.g gc)) = true then .hold s
      else .fall (s.ctAdd (s.g gc) (s.ctAmount v) scope)) := by
  refine ⟨_, rfl, fun hc => ?_, fun hc => ?_⟩
  · simp only [ctrNeed_fails hc, Try.error_bind]
    rfl
  · simp only [ctrNeed_passes hc, Try.ok_bind]
    cases v with
    | reg r => simp only [raiseAmount_eq]; rfl
    | imm x => rfl

/-- R124, R217, R271: a raise waits for the accesses and the reads that it covers. -/
theorem raiseNow_iff (s : State) (c : Word) (scope : BitVec 2) :
    s.raiseNow c scope = false ↔ (∃ r ∈ s.cx.rem, RemAcc.before c (scope = 2) r = true) ∨ s.reading = true := by
  rw [State.raiseNow, Bool.and_eq_false_iff, Bool.not_eq_false', Bool.not_eq_false', List.any_eq_true]

theorem fenceWrite_raiseNow (s : State) (c : Word) (scope sc : BitVec 2) : (s.fenceWrite scope).raiseNow c sc = s.raiseNow c sc := by
  rw [State.raiseNow, fenceWrite_cx, fenceWrite_reading, State.raiseNow]

theorem die_setDie (s : State) (d e : BitVec 2) (x : DieSt) : (s.setDie d x).die e = if e = d then x else s.die e := by
  rcases bitVec2_cases d with rfl | rfl | rfl | rfl <;> rcases bitVec2_cases e with rfl | rfl | rfl | rfl <;> rfl

/-- R295: what watches memory holds no contribution. -/
theorem watch_held (s : State) (pa n : Nat) (d : BitVec 2) : ((s.watch pa n).die d).held = (s.die d).held := by
  unfold State.watch
  simp only
  split
  · rfl
  · rw [die_setDie]
    split
    · next hd => rw [hd]
    · rfl

theorem fenceWrite_held (s : State) (scope d : BitVec 2) : ((s.fenceWrite scope).die d).held = (s.die d).held := by
  unfold State.fenceWrite State.writeBack State.watchAll
  exact List.foldlRecOn (motive := fun (u : State) => (u.die d).held = (s.die d).held) _ _ rfl fun u hu pa _ => (watch_held u pa 1 d).trans hu


theorem fenceWrite_accepts (s : State) (scope die : BitVec 2) (idx : BitVec 16) : (s.fenceWrite scope).raisable die idx = s.raisable die idx ∧
    (s.fenceWrite scope).cellBusy die idx = s.cellBusy die idx := by
  rw [fenceWrite_dies s scope]
  exact ⟨rfl, rfl⟩

/-- R124, R271: a raise that waits is listed among the accesses of its context. -/
def State.RaiseWaits (s : State) (c : Word) (amt : BitVec 48) (scope : BitVec 2) (u : State) : Prop := ∃ r : RemAcc,
  u = { s.fenceWrite scope with fresh := s.fresh + 1, cx := { s.cx with rem := s.cx.rem ++ [r] } } ∧ r.kind = .count ∧ r.ctr = some c ∧
    r.opnd = BitVec.ofNat 64 amt.toNat ∧ r.counted = false

theorem raiseLater_listed (s : State) (va amt c : Word) (scope acc : BitVec 2) : ∃ r : RemAcc, s.raiseLater va amt c scope acc = s.listing s.cx r ∧
    r.kind = .count ∧ r.ctr = some c ∧ r.opnd = amt ∧ r.counted = false := ⟨_, rfl, rfl, rfl, rfl, rfl⟩

theorem ctAdd_waits {s : State} {c : Word} {amt : BitVec 48} {scope : BitVec 2} (h : s.raiseNow c scope = false) :
    s.RaiseWaits c amt scope (s.ctAdd c amt scope) := by
  have hlater : s.ctAdd c amt scope = (s.fenceWrite scope).raiseLater 0 (amt.setWidth 64) c scope 0 :=
    if_neg (by rw [fenceWrite_raiseNow, h]; decide)
  obtain ⟨r, hr, hkind, hctr, hopnd, hcounted⟩ := raiseLater_listed (s.fenceWrite scope) 0 (amt.setWidth 64) c scope 0
  have hfresh : (s.fenceWrite scope).fresh = s.fresh := by rw [fenceWrite_dies s scope]
  rw [State.listing, hfresh, fenceWrite_cx] at hr
  refine ⟨r, hlater.trans hr, hkind, hctr, hopnd.trans ?_, hcounted⟩
  apply BitVec.eq_of_toNat_eq
  simp

theorem ctAdd_raises {s : State} {c : Word} {amt : BitVec 48} {scope : BitVec 2} (h : s.raiseNow c scope = true) :
    s.ctAdd c amt scope = (s.fenceWrite scope).raise c amt s.cx.id.coreId (s.cx.id.slot.setWidth 4) := by
  rw [← fenceWrite_cx s scope]
  exact if_pos ((fenceWrite_raiseNow ..).trans h)

/-- R309: the packet that raises a counter of another package, before it has its number. -/
def State.ctrPacket (s : State) (c : Word) (amt : BitVec 48) (src : CtxId) : Packet :=
  { mkPacket s 6 (ctPkg c) (ctDie c) 255 src.coreId (src.slot.setWidth 4) (.bytes (leBytes 6 amt.toNat)) with aux := c &&& 0xFFFFFFFF, plen := 6 }

/-- R309: the raise of a counter of another package is on its way. -/
def State.RaiseSent (s : State) (c : Word) (amt : BitVec 48) (scope : BitVec 2) (u : State) : Prop := ∃ p : Packet,
  p.type = 6 ∧ p.dpkg = ctPkg c ∧ p.ddie = ctDie c ∧ p.aux = BitVec.ofNat 64 (c.toNat % 2 ^ 32) ∧ p.payload = .bytes (leBytes 6 amt.toNat) ∧
    u = { s.fenceWrite scope with
      cores := u.cores, outbox := s.outbox ++ [p], unacked := s.unacked ++ [⟨p, s.time, false, false, s.time, 20000, s.sentBy p, none⟩] }

theorem low32_eq (c : Word) : c &&& 0xFFFFFFFF = BitVec.ofNat 64 (c.toNat % 2 ^ 32) := by
  apply BitVec.eq_of_toNat_eq
  rw [BitVec.toNat_and, show (0xFFFFFFFF : Word).toNat = 2 ^ 32 - 1 from rfl, Nat.and_two_pow_sub_one_eq_mod, BitVec.toNat_ofNat,
    Nat.mod_mod_of_dvd' (Nat.pow_dvd_pow 2 (by decide))]

theorem kept_fenced (s : State) (scope : BitVec 2) (p : Packet) (cs : List CoreSt) : (s.fenceWrite scope).kept p cs =
    { s.fenceWrite scope with
      cores := cs, outbox := s.outbox ++ [p], unacked := s.unacked ++ [⟨p, s.time, false, false, s.time, 20000, s.sentBy p, none⟩] } := by
  have hd := fenceWrite_dies s scope
  generalize s.fenceWrite scope = v at hd
  rw [hd]
  rfl

/-- R309: a raise of a counter of another package. -/
theorem ctAdd_away {s : State} {c : Word} {amt : BitVec 48} {scope : BitVec 2} (h : s.raiseNow c scope = true) (hpkg : ctPkg c ≠ s.pkg)
    (hwait : s.mustWait (ctPkg c) (ctDie c) = false) : s.RaiseSent c amt scope (s.ctAdd c amt scope) := by
  have hd := fenceWrite_dies s scope
  have hpkg' : (s.fenceWrite scope).pkg = s.pkg := by rw [hd]
  have hraise : s.ctAdd c amt scope = (s.fenceWrite scope).sendNumbered ((s.fenceWrite scope).ctrPacket c amt s.cx.id) := by
    rw [ctAdd_raises h, State.raise, if_neg (by rw [hpkg']; exact hpkg)]
    rfl
  have hwait' := (mustWait_congr (u := s.fenceWrite scope) (by rw [hd]) hpkg' (fun id => hd.core id) (by rw [hd]) (by rw [hd]) _ _).trans hwait
  obtain ⟨n, hsent⟩ := sendNumbered_kept (p := (s.fenceWrite scope).ctrPacket c amt s.cx.id) (by rw [hpkg']; exact hpkg) hwait' rfl
    (by rw [fenceWrite_cx]; rfl) (by rw [fenceWrite_cx]; rfl)
  refine ⟨{ (s.fenceWrite scope).ctrPacket c amt s.cx.id with seq := n }, rfl, rfl, rfl, low32_eq c, rfl, ?_⟩
  rw [hraise]
  exact hsent.trans (kept_fenced ..)

/-- R310, R314: whether the Vat of a counter of the package accepts a raise of it, and what it comes to where not. -/
def State.RaiseAccepted (s : State) (c : Word) : Prop := s.raisable (ctDie c) (ctIndex c) = true ∧ s.cellBusy (ctDie c) (ctIndex c) = false
def State.RaiseHeld (s : State) (c : Word) (amt : BitVec 48) (scope : BitVec 2) (u : State) : Prop :=
  u = { s.fenceWrite scope with heldRaises := s.heldRaises ++ [⟨ctDie c, ctIndex c, amt⟩] }

/-- R310, R314: a raise of a counter of the package for which no contribution is held, by whether its Vat accepts it. -/
theorem ctAdd_local {s : State} {c : Word} {scope : BitVec 2} (amt : BitVec 48) (h : s.raiseNow c scope = true) (hpkg : ctPkg c = s.pkg)
    (hheld : ∀ x ∈ (s.die (ctDie c)).held, x.con.idx ≠ ctIndex c) :
    (s.RaiseAccepted c → (s.fenceWrite scope).Raised (ctDie c) (ctIndex c) amt (s.ctAdd c amt scope)) ∧
    (¬ s.RaiseAccepted c → s.RaiseHeld c amt scope (s.ctAdd c amt scope)) := by
  obtain ⟨hroom, hbusy⟩ := fenceWrite_accepts s scope (ctDie c) (ctIndex c)
  have hpkg' : (s.fenceWrite scope).pkg = s.pkg := by rw [fenceWrite_dies s scope]
  have hheld' : ∀ x ∈ ((s.fenceWrite scope).die (ctDie c)).held, x.con.idx ≠ ctIndex c := by
    rw [fenceWrite_held]
    exact hheld
  have hraise : s.ctAdd c amt scope = (s.fenceWrite scope).raiseLocal (ctDie c) (ctIndex c) amt := by
    rw [ctAdd_raises h, State.raise, if_pos (by rw [hpkg']; exact hpkg)]
  refine ⟨fun hacc => ?_, fun hacc => ?_⟩
  · obtain ⟨hr, hb⟩ := hacc
    rw [hraise, raiseLocal_accepted ⟨by rw [hroom]; exact hr, by rw [hbusy]; exact hb, hheld'⟩]
    exact applyRaise_raised ..
  · have hraises : (s.fenceWrite scope).heldRaises = s.heldRaises := by rw [fenceWrite_dies s scope]
    rw [State.RaiseHeld, ← hraises]
    exact hraise.trans (raiseLocal_refused (by rw [hroom, hbusy]; exact hacc) hheld' amt)

/-! ### CTRD and CTWAIT -/

theorem ctrd_body (s : State) (m : Mods) (gd gc : GReg) : ∃ body, exec (.ctrd m gd gc) s = issue m 8 .plain s body ∧
    (ctrOk s s.cx.prot (s.g gc) = false → body s = .raise ⟨8, 3, 0, false, false, s.cx.priv, s.cx.pc⟩ s) ∧
    (ctrOk s s.cx.prot (s.g gc) = true → ctPkg (s.g gc) = s.pkg →
      body s = .fall (s.laterG gd (BitVec.ofNat 64 (s.cell (ctDie (s.g gc)) (ctIndex (s.g gc))).toNat))) ∧
    (ctrOk s s.cx.prot (s.g gc) = true → ctPkg (s.g gc) ≠ s.pkg →
      body s = Try.done (s.question (ctPkg (s.g gc)) (ctDie (s.g gc)) (.ctrd (s.g gc)) (.value gd) >>= State.thenFall)) := by
  refine ⟨_, rfl, fun hc => ?_, fun hc hpkg => ?_, fun hc hpkg => ?_⟩
  · simp only [ctrNeed_fails hc, Try.error_bind]
    rfl
  · have hvalue : (s.cell (ctDie (s.g gc)) (ctIndex (s.g gc))).setWidth 64 = BitVec.ofNat 64 (s.cell (ctDie (s.g gc)) (ctIndex (s.g gc))).toNat := by
      apply BitVec.eq_of_toNat_eq
      simp
    simp only [ctrNeed_passes hc, Try.ok_bind, hpkg, if_true, hvalue]
    rfl
  · simp only [ctrNeed_passes hc, Try.ok_bind, hpkg, if_false]
    rfl

theorem ctwait_body (s : State) (m : Mods) (qd : QReg) (gc gt : GReg) (tmo : CtTime) : ∃ body,
    exec (.ctwait m qd gc gt tmo) s = issue m (CtTime_len tmo) .wait s body ∧
    (ctrOk s s.cx.prot (s.g gc) = false → body s = .raise ⟨8, 3, 0, false, false, s.cx.priv, s.cx.pc⟩ s) ∧
    (ctrOk s s.cx.prot (s.g gc) = true → body s =
      if ctPkg (s.g gc) = s.pkg ∧ (s.cell (ctDie (s.g gc)) (ctIndex (s.g gc)) - (s.g gt).setWidth 48).toNat < 2 ^ 47 then .fall (s.laterQ qd true)
      else .hold (s.waitOn m (.counter qd (s.g gc) ((s.g gt).setWidth 48)) (s.deadlineIn (s.ctTime tmo)) (CtTime_len tmo))) := by
  refine ⟨_, rfl, fun hc => ?_, fun hc => ?_⟩
  · simp only [ctrNeed_fails hc, Try.error_bind]
    rfl
  · simp only [ctrNeed_passes hc, Try.ok_bind, raiseAmount_eq, reached]
    by_cases hthere : ctPkg (s.g gc) = s.pkg ∧ (s.cell (ctDie (s.g gc)) (ctIndex (s.g gc)) - (s.g gt).setWidth 48).toNat < 2 ^ 47
    · obtain ⟨hpkg, hlt⟩ := id hthere
      rw [if_pos hthere, if_pos (Bool.and_eq_true_iff.mpr ⟨decide_eq_true hpkg, decide_eq_true hlt⟩)]
      rfl
    · rw [if_neg hthere, if_neg fun hb => hthere ((Bool.and_eq_true_iff.mp hb).imp of_decide_eq_true of_decide_eq_true)]
      rfl

/-- R171, R218, R219: CTRD. -/
theorem ctrd_spec {s : State} {m : Mods} {gd gc : GReg} (h : s.Executes m .plain) :
    let c := s.g gc
    (ctrOk s s.cx.prot c = false → Raises (.ctrd m gd gc) s ⟨8, 3, 0, false, false, s.cx.priv, s.cx.pc⟩) ∧
    (ctrOk s s.cx.prot c = true → ctPkg c = s.pkg → Falls (.ctrd m gd gc) s 8 m.sw
      (s.Owes (gRes gd (BitVec.ofNat 64 (s.cell (ctDie c) (ctIndex c)).toNat)))) ∧
    (ctrOk s s.cx.prot c = true → ctPkg c ≠ s.pkg →
      (s.mustWait (ctPkg c) (ctDie c) = false → Falls (.ctrd m gd gc) s 8 m.sw (s.Asks (ctPkg c) (ctDie c) (.ctrd c) (.value gd))) ∧
      (s.mustWait (ctPkg c) (ctDie c) = true → Stalls (.ctrd m gd gc) s s)) := by
  intro c
  obtain ⟨body, hexec, hbad, hlocal, haway⟩ := ctrd_body s m gd gc
  refine ⟨fun hc => raises_of hexec h (hbad hc), fun hc hpkg => falls_plain hexec h (hlocal hc hpkg) (laterG_owes ..),
    fun hc hpkg => ⟨fun hwait => ?_, fun hwait => ?_⟩⟩
  · obtain ⟨u, hu, hasks⟩ := question_asks (q := .ctrd c) (kind := .value gd) hpkg hwait
    exact falls_plain hexec h ((haway hc hpkg).trans (by rw [hu]; rfl)) hasks
  · exact stalls_of hexec h ((haway hc hpkg).trans (by rw [question_holds hwait]; rfl))

/-- An instruction that parks its context. -/
theorem parks_of {i : Instr} {s : State} {m : Mods} {k : Kind} {len n : Nat} {body : State → Done} {w : Wait} {d : Option Word}
    (hi : exec i s = issue m len k s body) (h : s.Executes m k) (hb : body s = .hold (s.waitOn m w d n)) : Parks i s s w d m.sw n := by
  rw [issue_executes h, hb] at hi
  exact ⟨(s.waitOn m w d n).counted.block, hi, rfl⟩

/-- R171, R219, R310: CTWAIT. -/
theorem ctwait_spec {s : State} {m : Mods} {qd : QReg} {gc gt : GReg} {tmo : CtTime} (h : s.Executes m .wait) :
    let i := Instr.ctwait m qd gc gt tmo
    let c := s.g gc
    let thr : BitVec 48 := (s.g gt).setWidth 48
    let there := (s.cell (ctDie c) (ctIndex c) - thr).toNat < 2 ^ 47
    (ctrOk s s.cx.prot c = false → Raises i s ⟨8, 3, 0, false, false, s.cx.priv, s.cx.pc⟩) ∧
    (ctrOk s s.cx.prot c = true → ctPkg c = s.pkg → there → Falls i s (CtTime_len tmo) m.sw (s.Owes (qRes qd true))) ∧
    (ctrOk s s.cx.prot c = true → (ctPkg c ≠ s.pkg ∨ ¬ there) →
      Parks i s s (.counter qd c thr) (s.deadlineIn (s.ctTime tmo)) m.sw (CtTime_len tmo)) := by
  obtain ⟨body, hexec, hbad, hok⟩ := ctwait_body s m qd gc gt tmo
  exact ⟨fun hc => raises_of hexec h (hbad hc),
    fun hc hpkg hthere => falls_wait hexec h ((hok hc).trans (if_pos ⟨hpkg, hthere⟩)) (laterQ_owes ..),
    fun hc hno => parks_of hexec h ((hok hc).trans (if_neg (not_and_or.mpr hno)))⟩

/-- R124, R217, R271: what a raise waits for. -/
def State.RaiseCovers (s : State) (c : Word) (scope : BitVec 2) : Prop := (∃ r ∈ s.cx.rem, RemAcc.before c (scope = 2) r = true) ∨ s.reading = true

/-- R124, R217, R271, R309, R310, R313, R314: CTADD. -/
theorem ctadd_spec {s : State} {m : Mods} {gc : GReg} {v : Src} {scope : BitVec 2} (h : s.Executes m .plain) :
    let i := Instr.ctadd m gc v scope
    let c := s.g gc
    let amt := s.ctAmount v
    let room := s.mustWait (ctPkg c) (ctDie c) = false
    (ctrOk s s.cx.prot c = false → Raises i s ⟨8, 3, 0, false, false, s.cx.priv, s.cx.pc⟩) ∧
    (ctrOk s s.cx.prot c = true → ¬ room → Stalls i s s) ∧
    (ctrOk s s.cx.prot c = true → room → s.RaiseCovers c scope → Falls i s v.len m.sw (s.RaiseWaits c amt scope)) ∧
    (ctrOk s s.cx.prot c = true → ¬ s.RaiseCovers c scope → ctPkg c = s.pkg → (∀ h ∈ (s.die (ctDie c)).held, h.con.idx ≠ ctIndex c) →
      (s.RaiseAccepted c → Falls i s v.len m.sw ((s.fenceWrite scope).Raised (ctDie c) (ctIndex c) amt)) ∧
      (¬ s.RaiseAccepted c → Falls i s v.len m.sw (s.RaiseHeld c amt scope))) ∧
    (ctrOk s s.cx.prot c = true → room → ¬ s.RaiseCovers c scope → ctPkg c ≠ s.pkg → Falls i s v.len m.sw (s.RaiseSent c amt scope)) := by
  obtain ⟨body, hexec, hbad, hok⟩ := ctaddBody_eq (s := s) (m := m) (gc := gc) (v := v) (scope := scope)
  have hgo : ∀ hc : ctrOk s s.cx.prot (s.g gc) = true, s.mustWait (ctPkg (s.g gc)) (ctDie (s.g gc)) = false →
      body s = .fall (s.ctAdd (s.g gc) (s.ctAmount v) scope) := fun hc hwait => (hok hc).trans (if_neg (by simp [hwait]))
  have hnow : ¬ s.RaiseCovers (s.g gc) scope → s.raiseNow (s.g gc) scope = true :=
    fun hw => Bool.not_eq_false _ ▸ fun he => hw ((raiseNow_iff ..).mp he)
  refine ⟨fun hc => raises_of hexec h (hbad hc), fun hc hwait => stalls_of hexec h ((hok hc).trans (if_pos (by simpa using hwait))),
    fun hc hwait hw => falls_plain hexec h (hgo hc hwait) (ctAdd_waits ((raiseNow_iff ..).mpr hw)), fun hc hw hpkg hheld => ?_,
    fun hc hwait hw hpkg => falls_plain hexec h (hgo hc hwait) (ctAdd_away (hnow hw) hpkg hwait)⟩
  have hwait : s.mustWait (ctPkg (s.g gc)) (ctDie (s.g gc)) = false := by simp [State.mustWait, State.seriesFull, hpkg]
  obtain ⟨hacc, href⟩ := ctAdd_local (s.ctAmount v) (hnow hw) hpkg hheld
  exact ⟨fun ha => falls_plain hexec h (hgo hc hwait) (hacc ha), fun ha => falls_plain hexec h (hgo hc hwait) (href ha)⟩

/-- Settles O44: each instruction by the validity of its id, by where the counter is and by what it waits for. -/
theorem counterInstructions : Obligations.CounterInstructions := by
  refine ⟨fun s m gc v scope h => ctadd_spec h, fun s m gd gc h => ctrd_spec h, fun s m qd gc gt tmo h => ctwait_spec h⟩

end Sys2Proof.Machine
end
